-- ==== Sys2Proof/Word.lean ====
section
/-! DEFINITION. The word types of the UZ960 model and their plainest arithmetic (R4, R5): words are bit vectors,
byte sequences are little-endian unless a rule says otherwise. -/

namespace Sys2Proof

abbrev Byte := BitVec 8
abbrev W16 := BitVec 16
abbrev W32 := BitVec 32
abbrev W48 := BitVec 48
abbrev W64 := BitVec 64

/-- Field [lo + w - 1 : lo] of a number (R5). -/
def fld (x lo w : Nat) : Nat := (x >>> lo) % 2 ^ w

/-- Bit n of a number as a Bool (R5). -/
def bitAt (x n : Nat) : Bool := (x >>> n) % 2 == 1

/-- The number that little-endian bytes form (R4). -/
def leNat : List Byte → Nat
  | [] => 0
  | b :: bs => b.toNat + 256 * leNat bs

/-- The low `n` bytes of a number, little-endian (R4). -/
def leBytes : Nat → Nat → List Byte
  | 0, _ => []
  | n + 1, x => BitVec.ofNat 8 x :: leBytes n (x / 256)

/-- The number that bytes form, most significant byte first (R249). -/
def beNat (bs : List Byte) : Nat := bs.foldl (fun a b => 256 * a + b.toNat) 0

/-- The low `n` bytes of a number, most significant byte first (R249). -/
def beBytes (n x : Nat) : List Byte := (leBytes n x).reverse

/-- The 32-bit words of a little-endian byte sequence (R4). -/
def leWords : Nat → List Byte → List Nat
  | 0, _ => []
  | n + 1, bs => leNat (bs.take 4) :: leWords n (bs.drop 4)

/-- A number read as a signed value of `w` bits in two's complement (R29). -/
def signedOf (w x : Nat) : Int := if 2 * (x % 2 ^ w) < 2 ^ w then (x % 2 ^ w : Nat) else (x % 2 ^ w : Nat) - (2 ^ w : Nat)

/-- The `w`-bit code of an integer, taken modulo 2^w (R29). -/
def codeOf (w : Nat) (x : Int) : Nat := (x % ((2 ^ w : Nat) : Int)).toNat

/-- ceil(a / b), 0 when b is 0. -/
def ceilDiv (a b : Nat) : Nat := if b = 0 then 0 else (a + b - 1) / b

/-- Addition that stops at a largest value (the saturating counters of R6 and R384). -/
def satAdd (top a b : Nat) : Nat := min top (a + b)

end Sys2Proof
end

