-- ==== Sys2Proof/Syntax.lean ====
section
/-! DEFINITION. The commands of the UZ960 model: one constructor per row of spec/opcode_table.json, with the row's
operands. A media-core instruction carries the slot that issues it and the fields of its format (Table 06-2); an event
row carries what the outside world or the chosen unit fixes. -/

namespace Sys2Proof

/-- A program slot of a media core (R134): where a media-core instruction issues, or where a slot event happens. -/
structure Site where
  core : Fin 32
  slot : Fin 2
  deriving DecidableEq, Repr

/-- Bits [55] gn and [54:52] pg of an instruction (R141). -/
structure Guard where
  gn : BitVec 1
  pg : BitVec 3
  deriving DecidableEq, Repr

/-- Format R (Table 06-2). -/
structure FmtR where
  g : Guard
  rd : BitVec 5
  rs1 : BitVec 5
  rs2 : BitVec 5
  rsvd : BitVec 37
  deriving DecidableEq, Repr

/-- Format I. -/
structure FmtI where
  g : Guard
  rd : BitVec 5
  rs1 : BitVec 5
  rsvd : BitVec 10
  imm : BitVec 32
  deriving DecidableEq, Repr

/-- Format M; `r` is rd of a load and rs of a store. -/
structure FmtM where
  g : Guard
  r : BitVec 5
  ra : BitVec 4
  size : BitVec 3
  rsvd : BitVec 8
  imm : BitVec 32
  deriving DecidableEq, Repr

/-- Format B; `r` is rd of BAL and rs of BR. -/
structure FmtB where
  g : Guard
  r : BitVec 5
  rsvd : BitVec 15
  imm : BitVec 32
  deriving DecidableEq, Repr

/-- Format C; `r` is rd of CTL.RD and rs of CTL.WR. -/
structure FmtC where
  g : Guard
  r : BitVec 5
  rsvd : BitVec 35
  idx : BitVec 12
  deriving DecidableEq, Repr

/-- A CTL.WR of a monitor register of the row's kind (MON_CFG or MON_CTL of monitor `mon`), the rows of R99 and R103. -/
structure FmtCMon where
  g : Guard
  r : BitVec 5
  rsvd : BitVec 35
  mon : Fin 8
  deriving DecidableEq, Repr

/-- Format U. -/
structure FmtU where
  g : Guard
  ra : BitVec 4
  sel : BitVec 8
  q : BitVec 6
  qEn : BitVec 1
  rsvd : BitVec 9
  off : BitVec 24
  deriving DecidableEq, Repr

/-- Format U of a VEC row: its sel is the row's function code (Table 06-9). -/
structure FmtV where
  g : Guard
  ra : BitVec 4
  q : BitVec 6
  qEn : BitVec 1
  rsvd : BitVec 9
  off : BitVec 24
  deriving DecidableEq, Repr

/-- Format S. -/
structure FmtS where
  g : Guard
  q : BitVec 6
  count : BitVec 12
  rsvd : BitVec 34
  deriving DecidableEq, Repr

/-- Format T. -/
structure FmtT where
  g : Guard
  rs : BitVec 5
  pd : BitVec 3
  rsvd : BitVec 44
  deriving DecidableEq, Repr

/-- Format L. -/
structure FmtL where
  g : Guard
  rf : BitVec 5
  rl : BitVec 5
  pd : BitVec 3
  lp : BitVec 5
  rsvd : BitVec 34
  deriving DecidableEq, Repr

/-- Format F. -/
structure FmtF where
  g : Guard
  rsvd : BitVec 36
  mask : BitVec 16
  deriving DecidableEq, Repr

/-- Format N. -/
structure FmtN where
  g : Guard
  rsvd : BitVec 52
  deriving DecidableEq, Repr

/-- How a request to a target outside the device's own memory ended: the bytes a read returned (empty for a write), or
a status code of Table 14-8 with the failing address. -/
inductive ReqEnd where
  | ok (bytes : List Byte)
  | failed (status addr : Nat)
  deriving DecidableEq, Repr

/-- The work that meets an absent host page (R186, R191, R361, R465). -/
inductive PageUser where
  | stream (core engine slot : Nat)
  | quire (core id : Nat)
  | ring (fn ring : Nat)
  | desc (uid : Nat)
  deriving DecidableEq, Repr

/-- Bytes of host memory that the device reads inside a step: runs of bytes by start address. A byte no run holds is a
free value. -/
abbrev HostImg := List (Nat × List Byte)

/-- A program launch by the scheduler firmware (R165): the image, the window base, the launch record's arguments, what the launch
serves, and the BF16 static scales of the bundle that its loader reads (R90). -/
structure LaunchReq where
  image : List Byte
  csBase : BitVec 24
  sArgs : List W32
  aArgs : List W48
  live : Bool
  ident : BitVec 17
  ports : List (Fin 24)
  fn : Fin 4
  scales : List (BitVec 16)
  deriving DecidableEq, Repr

/-- What patrol scrub finds on a line (R398, R399, R401). -/
inductive LineRead where
  | good
  | corrected
  | uncorrectable
  deriving DecidableEq, Repr

/-- Samples of one line segment of an ST 2110-20 packet: the line, the first pixel, the number of pixels, and the samples of
planes 0, 1 and 2 that they hold. -/
structure SrdSeg where
  line : Nat
  x0 : Nat
  n : Nat
  planes : List (List Nat)
  deriving DecidableEq, Repr

/-- An ST 2110 packet as received on an Ethernet-mode port (Table 08-3): its addresses, RTP payload type, timestamp and
marker, and its content: video segments, or interleaved audio samples. -/
structure St2110Pkt where
  cb : Fin 8
  dstIp : List Byte
  srcIp : List Byte
  udpPort : Nat
  pt : Nat
  ts : W32
  marker : Bool
  video : List SrdSeg
  audio : List Nat
  deriving DecidableEq, Repr

/-- The operands of FRAME_SUBMIT (Table 11-5). -/
structure SubmitOps where
  addr : W64
  len : Nat
  picAddr : W64
  reportAddr : W64
  qIndex : BitVec 8
  deadline : W64
  deriving DecidableEq, Repr

/-- What the scheduler firmware chooses when it binds a port: the Vat area, the place of the bundle's Vat copy, the ST 2110
input ring with its pitches, and the luma buffers in the live region. -/
structure BindPlan where
  area : Nat
  vatCopy : Nat
  inRing : Nat
  ringLine : Nat
  ringPlane : Nat
  ringFrame : Nat
  luma : Nat
  deriving DecidableEq, Repr

/-- Work that the scheduler firmware dispatches (R288): the next frame of a session, or a PF2 job by its number. -/
inductive WorkId where
  | frame (sess : BitVec 16)
  | job (uid : Nat)
  deriving DecidableEq, Repr


/-- What an Ethernet frame carries (R325): a PTP message of a profile, a UDP datagram of an ST 2110 flow's addresses, port and
payload type, a UDP/IPv6 datagram by its local address and port, or something else. -/
inductive EthContent where
  | ptp (profile : Nat)
  | st2110 (dstIp srcIp : List Byte) (udpPort pt : Nat)
  | ipv6 (dstIp : List Byte) (udpPort : Nat)
  | other
  deriving DecidableEq, Repr

/-- An Ethernet frame: its bytes, whether its frame check sequence is good, the VIDs of its 802.1Q tags, and its content. -/
structure EthFrame where
  len : Nat
  fcsOk : Bool
  tags : List Nat
  content : EthContent
  deriving DecidableEq, Repr


/-- Who accesses a register: the root core, a management core, or the host (R489, R490). -/
inductive Initiator where
  | root
  | mgmt
  | host
  deriving DecidableEq, Repr

/-- A message to the MCTP endpoint (R483): a control message, a vendor-defined one with its PCI vendor ID, or another type. -/
inductive MctpMsg where
  | control (request : List Byte)
  | vendor (vid : Nat)
  | other
  deriving DecidableEq, Repr

/-- A bridge transfer with an error (R24): corrected, or uncorrectable, with the job (by its number) or the session that issued the
request or was to receive the data, if either did. -/
inductive BridgeErr where
  | corrected
  | lost
  | lostJob (uid : Nat)
  | lostSession (sess : BitVec 16)
  deriving DecidableEq, Repr

/-- An engine that the scheduler firmware resets (R459). -/
inductive EngineId where
  | ee (e : Fin 16)
  | mse (e : Fin 4)
  | dck (e : Fin 4)
  | prs (e : Fin 4)
  deriving DecidableEq, Repr

/-- A JTAG access (R438): the identity code, or a media-core slot or a management core halted, resumed or inspected. -/
inductive DebugOp where
  | idcode
  | haltSlot (x : Site)
  | resumeSlot (x : Site)
  | inspectSlot (x : Site)
  | haltMgmt (core : Fin 4)
  | resumeMgmt (core : Fin 4)
  deriving DecidableEq, Repr

/-- The DDR4 modules that training finds (R388 to R391): their count per channel less one, capacity 2^log2 GiB, type (0 RDIMM, 1 LRDIMM,
2 3DS), whether built from x4 devices, the highest rate of their SPD data, the SPD serial numbers of all slots, whether every slot in use
holds the same part; and the channels that fail the fast path and the full training. -/
structure Modules where
  dpc2 : Bool
  log2 : Nat
  type_ : Nat
  x4 : Bool
  rate : Nat
  serials : List Byte
  uniform : Bool
  fastFails : List (Fin 16)
  fails : List (Fin 16)
  deriving DecidableEq, Repr

/-- Which flash copies cannot be read (reason 0x07 of Table 17-5). -/
structure FlashErr where
  a : Bool
  b : Bool
  deriving DecidableEq, Repr

/-- One command per row of the table. -/
inductive Instr where
  /-- ADD (R143). -/
  | add (x : Site) (f : FmtR)
  /-- SUB (R143). -/
  | sub (x : Site) (f : FmtR)
  /-- MUL (R143). -/
  | mul (x : Site) (f : FmtR)
  /-- MULHS (R143). -/
  | mulhs (x : Site) (f : FmtR)
  /-- AND (R143). -/
  | and (x : Site) (f : FmtR)
  /-- OR (R143). -/
  | or (x : Site) (f : FmtR)
  /-- XOR (R143). -/
  | xor (x : Site) (f : FmtR)
  /-- SHL (R143). -/
  | shl (x : Site) (f : FmtR)
  /-- SHR (R143). -/
  | shr (x : Site) (f : FmtR)
  /-- SRA (R143). -/
  | sra (x : Site) (f : FmtR)
  /-- MIN (R143). -/
  | min (x : Site) (f : FmtR)
  /-- MAX (R143). -/
  | max (x : Site) (f : FmtR)
  /-- ADDI (R143). -/
  | addi (x : Site) (f : FmtI)
  /-- ANDI (R143). -/
  | andi (x : Site) (f : FmtI)
  /-- ORI (R143). -/
  | ori (x : Site) (f : FmtI)
  /-- XORI (R143). -/
  | xori (x : Site) (f : FmtI)
  /-- SHLI (R143). -/
  | shli (x : Site) (f : FmtI)
  /-- SHRI (R143). -/
  | shri (x : Site) (f : FmtI)
  /-- SRAI (R143). -/
  | srai (x : Site) (f : FmtI)
  /-- MOVI (R143). -/
  | movi (x : Site) (f : FmtI)
  /-- CMP_EQ (R143). -/
  | cmpEq (x : Site) (f : FmtR)
  /-- CMP_NE (R143). -/
  | cmpNe (x : Site) (f : FmtR)
  /-- CMP_LT (R143). -/
  | cmpLt (x : Site) (f : FmtR)
  /-- CMP_LTU (R143). -/
  | cmpLtu (x : Site) (f : FmtR)
  /-- CMP_LE (R143). -/
  | cmpLe (x : Site) (f : FmtR)
  /-- CMP_LEU (R143). -/
  | cmpLeu (x : Site) (f : FmtR)
  /-- PAND (R143). -/
  | pand (x : Site) (f : FmtR)
  /-- POR (R143). -/
  | por (x : Site) (f : FmtR)
  /-- PNOT (R143). -/
  | pnot (x : Site) (f : FmtR)
  /-- AADDI (R143). -/
  | aaddi (x : Site) (f : FmtI)
  /-- AADDS (R143). -/
  | aadds (x : Site) (f : FmtR)
  /-- AMOVI (R143). -/
  | amovi (x : Site) (f : FmtI)
  /-- AHI (R143). -/
  | ahi (x : Site) (f : FmtI)
  /-- AMOVS (R143). -/
  | amovs (x : Site) (f : FmtR)
  /-- LD (R143). -/
  | ld (x : Site) (f : FmtM)
  /-- ST (R143). -/
  | st (x : Site) (f : FmtM)
  /-- LDA (R143). -/
  | lda (x : Site) (f : FmtM)
  /-- STA (R143). -/
  | sta (x : Site) (f : FmtM)
  /-- B (R143). -/
  | b (x : Site) (f : FmtB)
  /-- BAL (R143). -/
  | bal (x : Site) (f : FmtB)
  /-- BR (R143). -/
  | br (x : Site) (f : FmtB)
  /-- CTL_RD (R158). -/
  | ctlRd (x : Site) (f : FmtC)
  /-- CTL_WR (R158). -/
  | ctlWr (x : Site) (f : FmtC)
  /-- MON_CFG_WRITE (R99). -/
  | monCfgWrite (x : Site) (f : FmtCMon)
  /-- MON_CLOSE (R99). -/
  | monClose (x : Site) (f : FmtCMon)
  /-- MON_CLEAR (R103). -/
  | monClear (x : Site) (f : FmtCMon)
  /-- WARP_LOAD (R64). -/
  | warpLoad (x : Site) (f : FmtU)
  /-- WEFT_PASS (R65). -/
  | weftPass (x : Site) (f : FmtU)
  /-- SIZE_SET (R104). -/
  | sizeSet (x : Site) (f : FmtU)
  /-- SIZE_QUANT (R104). -/
  | sizeQuant (x : Site) (f : FmtU)
  /-- CAL_ROT (R104). -/
  | calRot (x : Site) (f : FmtU)
  /-- WIN_SET (R113). -/
  | winSet (x : Site) (f : FmtU)
  /-- VEC_ADD (R148). -/
  | vecAdd (x : Site) (f : FmtV)
  /-- VEC_SUB (R148). -/
  | vecSub (x : Site) (f : FmtV)
  /-- VEC_MUL (R148). -/
  | vecMul (x : Site) (f : FmtV)
  /-- VEC_FMA (R148). -/
  | vecFma (x : Site) (f : FmtV)
  /-- VEC_NEG (R44). -/
  | vecNeg (x : Site) (f : FmtV)
  /-- VEC_ABS (R44). -/
  | vecAbs (x : Site) (f : FmtV)
  /-- VEC_MIN (R45). -/
  | vecMin (x : Site) (f : FmtV)
  /-- VEC_MAX (R45). -/
  | vecMax (x : Site) (f : FmtV)
  /-- VEC_CEQ (R148). -/
  | vecCeq (x : Site) (f : FmtV)
  /-- VEC_CNE (R148). -/
  | vecCne (x : Site) (f : FmtV)
  /-- VEC_CLT (R148). -/
  | vecClt (x : Site) (f : FmtV)
  /-- VEC_CLE (R148). -/
  | vecCle (x : Site) (f : FmtV)
  /-- VEC_SEL (R148). -/
  | vecSel (x : Site) (f : FmtV)
  /-- VEC_CVT (R148). -/
  | vecCvt (x : Site) (f : FmtV)
  /-- VEC_RCP (R48). -/
  | vecRcp (x : Site) (f : FmtV)
  /-- VEC_RSQ (R48). -/
  | vecRsq (x : Site) (f : FmtV)
  /-- VEC_EXP2 (R48). -/
  | vecExp2 (x : Site) (f : FmtV)
  /-- VEC_LOG2 (R48). -/
  | vecLog2 (x : Site) (f : FmtV)
  /-- VEC_TANH (R48). -/
  | vecTanh (x : Site) (f : FmtV)
  /-- VEC_ERF (R48). -/
  | vecErf (x : Site) (f : FmtV)
  /-- VEC_GDN (R50). -/
  | vecGdn (x : Site) (f : FmtV)
  /-- VEC_IGDN (R50). -/
  | vecIgdn (x : Site) (f : FmtV)
  /-- VEC_POOL (R130). -/
  | vecPool (x : Site) (f : FmtU)
  /-- STRM_GO (R169). -/
  | strmGo (x : Site) (f : FmtU)
  /-- STRM_REARM (R180). -/
  | strmRearm (x : Site) (f : FmtU)
  /-- QUIRE_COPY (R186). -/
  | quireCopy (x : Site) (f : FmtU)
  /-- QUIRE_SIGNAL (R186). -/
  | quireSignal (x : Site) (f : FmtU)
  /-- STRM_WAIT (R188). -/
  | strmWait (x : Site) (f : FmtU)
  /-- STRM_CANCEL (R189). -/
  | strmCancel (x : Site) (f : FmtU)
  /-- SEM_POST (R153). -/
  | semPost (x : Site) (f : FmtS)
  /-- SEM_WAIT (R153). -/
  | semWait (x : Site) (f : FmtS)
  /-- TIME_WAIT (R156). -/
  | timeWait (x : Site) (f : FmtT)
  /-- LINE_WAIT (R157). -/
  | lineWait (x : Site) (f : FmtL)
  /-- FENCE (R151). -/
  | fence (x : Site) (f : FmtF)
  /-- NOP (R143). -/
  | nop (x : Site) (f : FmtN)
  /-- HALT (R162). -/
  | halt (x : Site) (f : FmtN)
  /-- SEM_WAIT_GRANT (R154). -/
  | semWaitGrant (x : Site)
  /-- TIME_WAIT_END (R156). -/
  | timeWaitEnd (x : Site)
  /-- LINE_WAIT_END (R157). -/
  | lineWaitEnd (x : Site)
  /-- FENCE_RELEASE (R151). -/
  | fenceRelease (x : Site)
  /-- STRM_WAIT_RELEASE (R188). -/
  | strmWaitRelease (x : Site)
  /-- HALT_COMPLETE (R162). -/
  | haltComplete (x : Site)
  /-- WATCHDOG_EXPIRY (R160). -/
  | watchdogExpiry (x : Site)
  /-- PROGRAM_LAUNCH (R165). -/
  | programLaunch (x : Site) (r : LaunchReq)
  /-- SLOT_RETURN_IDLE (R134). -/
  | slotReturnIdle (x : Site)
  /-- UNIT_OPERATION_COMPLETE (R145). -/
  | unitOperationComplete (core : Fin 32) (vector : Bool)
  /-- LOOM_PASS_START (R80). -/
  | loomPassStart (core : Fin 32) (loom : Fin 2)
  /-- WARP_FILL_START (R72). -/
  | warpFillStart (core : Fin 32) (loom : Fin 2) (slot : Fin 2)
  /-- WARP_LOAD_COMPLETE (R145). -/
  | warpLoadComplete (core : Fin 32) (loom : Fin 2)
  /-- WARP_RELOAD (R82). -/
  | warpReload (core : Fin 32) (loom : Fin 2) (slot : Fin 2)
  /-- PASS_COMPLETE (R69). -/
  | passComplete (core : Fin 32) (loom : Fin 2) (empty : Bool)
  /-- TRUNCATION_TOKEN_RECEIVED (R71). -/
  | truncationTokenReceived (core : Fin 32) (loom : Fin 2)
  /-- MONITOR_WINDOW_CLOSE (R99). -/
  | monitorWindowClose (x : Site) (mon : Fin 8)
  /-- STREAM_START (R174). -/
  | streamStart (x : Site) (engine : Fin 5)
  /-- TILE_CREDIT_TAKEN (R176). -/
  | tileCreditTaken (x : Site) (engine : Fin 4) (pattern : Bool)
  /-- STREAM_REQUEST_ISSUE (R175). -/
  | streamRequestIssue (core : Fin 32) (engine : Fin 4)
  /-- STREAM_REQUEST_COMPLETE (R175). -/
  | streamRequestComplete (x : Site) (engine : Fin 4) (id : Nat) (r : ReqEnd)
  /-- STREAM_COMPLETE (R181). -/
  | streamComplete (x : Site) (engine : Fin 5)
  /-- CANCEL_ABANDON (R189). -/
  | cancelAbandon (x : Site) (engine : Fin 5)
  /-- HOST_PAGE_ABSENT (R191). -/
  | hostPageAbsent (u : PageUser) (page : BitVec 64)
  /-- PAGE_REQUEST_SUCCESS (R192). -/
  | pageRequestSuccess (fn : Fin 4) (page : BitVec 64)
  /-- PAGE_REQUEST_FAILURE (R193). -/
  | pageRequestFailure (fn : Fin 4) (page : BitVec 64)
  /-- PAGE_RESPONSE_FAILURE (R362). -/
  | pageResponseFailure (fn : Fin 4) (page : BitVec 64)
  /-- QUIRE_WAIT_GRANT (R186). -/
  | quireWaitGrant (core : Fin 32) (id : Nat)
  /-- QUIRE_COMPLETE (R187). -/
  | quireComplete (core : Fin 32) (id : Nat) (r : ReqEnd)
  /-- ST2110_PACKET (R204). -/
  | st2110Packet (p : St2110Pkt)
  /-- LIVE_PORT_DOORBELL (R201). -/
  | livePortDoorbell (off : Nat) (value : W64)
  /-- DECKLE_ROW (R207). -/
  | deckleRow (port : Fin 24) (img : HostImg)
  /-- AUDIO_BLOCK_WRITE (R199). -/
  | audioBlockWrite (port : Fin 24) (img : HostImg)
  /-- MSE_BAND (R216). -/
  | mseBand (port : Fin 24)
  /-- LEASE_GRANT (R235). -/
  | leaseGrant
  /-- FAMILY_COPY (R225). -/
  | familyCopy (engine : Fin 16) (fs : Fin 2) (r : ReqEnd)
  /-- STEP (R237). -/
  | step (engine : Fin 16) (window : Fin 5)
  /-- LOAD (R237). -/
  | load (engine : Fin 16) (window : Fin 5)
  /-- CLOSE (R232). -/
  | close (engine : Fin 16) (window : Fin 5)
  /-- RELEASE (R239). -/
  | release (engine : Fin 16) (window : Fin 5)
  /-- LEASE_FORCE_RELEASE (R247). -/
  | leaseForceRelease (engine : Fin 16) (window : Fin 5)
  /-- SEQUENCE_HEADER (R262). -/
  | sequenceHeader (sess : BitVec 16)
  /-- FRAME_HEADER (R263). -/
  | frameHeader (sess : BitVec 16)
  /-- SLICE (R265). -/
  | slice (sess : BitVec 16) (lease : Option (Fin 16 × Fin 5))
  /-- AUDIO_FRAME (R267). -/
  | audioFrame (sess : BitVec 16) (lease : Option (Fin 16 × Fin 5))
  /-- TIME_ANCHOR (R263). -/
  | timeAnchor (sess : BitVec 16)
  /-- PADDING (R263). -/
  | padding (sess : BitVec 16)
  /-- END_OF_SEQUENCE (R263). -/
  | endOfSequence (sess : BitVec 16)
  /-- USER_DATA (R263). -/
  | userData (sess : BitVec 16)
  /-- DISCARDED_UNIT (R252). -/
  | discardedUnit (sess : BitVec 16)
  /-- BUNDLE_LOAD (R277). -/
  | bundleLoad (uid region : Nat)
  /-- BUNDLE_COPY_COMPLETE (R277). -/
  | bundleCopyComplete (handle : Fin 256) (r : ReqEnd)
  /-- BUNDLE_UNLOAD (R279). -/
  | bundleUnload (uid : Nat)
  /-- SESS_OPEN (R281). -/
  | sessOpen (uid ctx : Nat)
  /-- PORT_BIND (R289). -/
  | portBind (uid port : Nat) (r : ReqEnd) (plan : BindPlan)
  /-- PORT_UNBIND (R218). -/
  | portUnbind (uid : Nat)
  /-- SESS_START (R282). -/
  | sessStart (uid : Nat)
  /-- FRAME_SUBMIT (R282). -/
  | frameSubmit (uid : Nat) (ops : SubmitOps)
  /-- OUTBUF_POST (R282). -/
  | outbufPost (uid addr len tag : Nat)
  /-- INTRA_REFRESH (R272). -/
  | intraRefresh (uid : Nat)
  /-- SESS_ADAPT (R296). -/
  | sessAdapt (uid steps : Nat) (reset : Bool)
  /-- SESS_CHECKPOINT (R422). -/
  | sessCheckpoint (uid addr len : Nat)
  /-- SESS_RESTORE (R422). -/
  | sessRestore (uid bundle ctx : Nat) (r : ReqEnd)
  /-- SESS_RESET (R284). -/
  | sessReset (uid : Nat)
  /-- SESS_CLOSE (R285). -/
  | sessClose (uid : Nat)
  /-- SESS_QUERY (R282). -/
  | sessQuery (uid : Nat)
  /-- FRAME_DISPATCH (R288). -/
  | frameDispatch (w : WorkId) (intra : Bool) (img : HostImg)
  /-- FRAME_BOUNDARY (R287). -/
  | frameBoundary (sess : BitVec 16)
  /-- SESSION_DRAIN_END (R285). -/
  | sessionDrainEnd (sess : BitVec 16)
  /-- SHED_STANDARD_PAUSE (R295). -/
  | shedStandardPause
  /-- SHED_LEVEL_STEP (R295). -/
  | shedLevelStep
  /-- SHED_UNDO_STEP (R295). -/
  | shedUndoStep
  /-- TIME_SAMPLE (R299). -/
  | timeSample (off : Int) (within_ : Bool)
  /-- TIME_SAMPLE_TIMEOUT (R299). -/
  | timeSampleTimeout
  /-- CALENDAR_WRITE (R302). -/
  | calendarWrite
  /-- PPS_IN_EDGE (R308). -/
  | ppsInEdge (within_ : Bool)
  /-- PPS_IN_LOSS (R476). -/
  | ppsInLoss
  /-- FREQ_IN_WINDOW (R476). -/
  | freqInWindow (hz : Nat)
  /-- TIM_SET_SEC_ARM (R308). -/
  | timSetSecArm (v : W32)
  /-- PTP_MESSAGE (R309). -/
  | ptpMessage (dom : BitVec 8) (profile : Fin 4) (locked : Bool)
  /-- PPS_OUT_EDGE (R312). -/
  | ppsOutEdge
  /-- LAUNCH_FIRE (R314). -/
  | launchFire (uid : Nat)
  /-- SNAPSHOT_CAPTURE (R319). -/
  | snapshotCapture (t uid : Nat) (ranges : List (Nat × Nat)) (region len : Nat)
  /-- SNAPSHOT_COPY_DONE (R319). -/
  | snapshotCopyDone
  /-- PORT_ENABLE (R324). -/
  | portEnable (port : Fin 8) (v : W32)
  /-- PORT_LINK_UP (R350). -/
  | portLinkUp (port : Fin 8)
  /-- LANE_LOCK_LOSS (R323). -/
  | laneLockLoss (port : Fin 8)
  /-- PORT_RETRAIN (R350). -/
  | portRetrain (port : Fin 8)
  /-- FLIT_RECEIVE (R327). -/
  | flitReceive (port : Fin 8) (f : List Byte)
  /-- FLIT_TRANSMIT (R327). -/
  | flitTransmit (link : Fin 24)
  /-- REPLAY_TIMEOUT (R327). -/
  | replayTimeout (link : Fin 24)
  /-- CRED_INIT (R328). -/
  | credInit (port : Fin 8) (f : List Byte)
  /-- CRED_INIT_RESEND (R328). -/
  | credInitResend (link : Fin 24)
  /-- CRED_SYNC (R328). -/
  | credSync (port : Fin 8) (f : List Byte)
  /-- REPLAY_REQ (R327). -/
  | replayReq (port : Fin 8) (f : List Byte)
  /-- CTRL_RESEND_TIMEOUT (R328). -/
  | ctrlResendTimeout (link : Fin 24)
  /-- TIME_PROBE_SEND (R310). -/
  | timeProbeSend (port : Fin 8)
  /-- TIME_PROBE (R310). -/
  | timeProbe (port : Fin 8) (f : List Byte)
  /-- TIME_PROBE_RSP (R310). -/
  | timeProbeRsp (port : Fin 8) (f : List Byte)
  /-- DOWN_NOTICE (R350). -/
  | downNotice (port : Fin 8) (f : List Byte)
  /-- TIME_MESSAGE_SEND (R347). -/
  | timeMessageSend (port : Fin 8)
  /-- TIME (R347). -/
  | time (port : Fin 8) (within_ : Bool)
  /-- PUT (R334). -/
  | put (link : Fin 25)
  /-- GET (R334). -/
  | get (link : Fin 25)
  /-- SIGNAL (R334). -/
  | signal (link : Fin 25)
  /-- ACK (R338). -/
  | ack (link : Fin 25)
  /-- NAK (R338). -/
  | nak (link : Fin 25)
  /-- GET_RSP (R338). -/
  | getRsp (link : Fin 25)
  /-- MCAST (R339). -/
  | mcast (link : Fin 25)
  /-- XPORT_TIMEOUT (R338). -/
  | xportTimeout (dst tag : Nat)
  /-- RECV_WINDOW_OPEN (R337). -/
  | recvWindowOpen (core : Fin 32) (id : Nat) (r : ReqEnd)
  /-- RECV_WINDOW_CLOSE (R337). -/
  | recvWindowClose (core : Fin 32) (id : Nat) (r : ReqEnd)
  /-- BARRIER (R343). -/
  | barrier (core : Fin 32) (id : Nat) (r : ReqEnd)
  /-- TBARRIER (R318). -/
  | tbarrier (core : Fin 32) (id : Nat) (r : ReqEnd)
  /-- REDUCE (R342). -/
  | reduce (core : Fin 32) (id : Nat) (r : ReqEnd)
  /-- ALLREDUCE (R343). -/
  | allreduce (core : Fin 32) (id : Nat) (r : ReqEnd)
  /-- REDUCESCATTER (R343). -/
  | reducescatter (core : Fin 32) (id : Nat) (r : ReqEnd)
  /-- ALLGATHER (R343). -/
  | allgather (core : Fin 32) (id : Nat) (r : ReqEnd)
  /-- BROADCAST (R344). -/
  | broadcast (core : Fin 32) (id : Nat) (r : ReqEnd)
  /-- COLL_UP (R342). -/
  | collUp (link : Fin 25)
  /-- COLL_DOWN (R343). -/
  | collDown (link : Fin 25)
  /-- COLL_ABORT (R345). -/
  | collAbort (link : Fin 25)
  /-- COLLECTIVE_TIMEOUT (R345). -/
  | collectiveTimeout (uid : Nat)
  /-- RESET (R348). -/
  | reset (link : Fin 25)
  /-- HOTSPOT_WINDOW (R351). -/
  | hotspotWindow (port : Fin 8)
  /-- ETH_FRAME_RECEIVE (R325). -/
  | ethFrameReceive (port : Fin 8) (f : EthFrame)
  /-- TUNNEL_DATAGRAM (R352). -/
  | tunnelDatagram (tunnel : Fin 16) (good : Bool) (b : List Byte)
  /-- TUNNEL_TIMEOUT (R352). -/
  | tunnelTimeout (tunnel : Fin 16)
  /-- RING_ENABLE (R365). -/
  | ringEnable (fn : Fin 4) (ring : Nat) (v : W32)
  /-- RING_DISABLE (R365). -/
  | ringDisable (fn : Fin 4) (ring : Nat) (v : W32)
  /-- SQ_TAIL_DOORBELL (R372). -/
  | sqTailDoorbell (fn : Fin 4) (off size : Nat) (value : W64)
  /-- CQ_HEAD_DOORBELL (R372). -/
  | cqHeadDoorbell (fn : Fin 4) (off size : Nat) (value : W64)
  /-- SQ_ENTRY_TAKE (R369). -/
  | sqEntryTake (fn : Fin 4) (ring : Nat) (r : ReqEnd)
  /-- DESCRIPTOR_ELIGIBLE (R368). -/
  | descriptorEligible (uid : Nat)
  /-- MSIX_MODERATION_TIMEOUT (R381). -/
  | msixModerationTimeout (fn : Fin 4) (ring : Nat)
  /-- MSIX_UNMASK (R381). -/
  | msixUnmask (fn : Fin 4) (vector : Nat)
  /-- JOB_RUN (R371). -/
  | jobRun (uid : Nat) (r : ReqEnd)
  /-- JOB_ABORT (R371). -/
  | jobAbort (uid : Nat)
  /-- CANCEL (R371). -/
  | cancel (uid : Nat)
  /-- NOP_CMD (R370). -/
  | nopCmd (uid : Nat)
  /-- DEVICE_RESET (R455). -/
  | deviceReset (uid : Nat)
  /-- FABRIC_RESET (R456). -/
  | fabricReset (uid : Nat)
  /-- FABRIC_RESET_ACT (R457). -/
  | fabricResetAct (rid : Nat)
  /-- ATS_INVALIDATE (R361). -/
  | atsInvalidate (fn : Fin 4) (page : BitVec 64)
  /-- PRI_ENABLE (R362). -/
  | priEnable (fn : Fin 4) (alloc : Nat)
  /-- DOE_DISCOVERY (R363). -/
  | doeDiscovery (index : BitVec 8)
  /-- DOE_EVIDENCE_REQUEST (R442). -/
  | doeEvidenceRequest (body : List Byte)
  /-- FLR (R385). -/
  | flr (fn : Fin 4)
  /-- PCIE_HOT_RESET (R453). -/
  | pcieHotReset
  /-- DDR_RECALIBRATE (R391). -/
  | ddrRecalibrate (ch : Fin 16)
  /-- SKEW_WINDOW (R397). -/
  | skewWindow (sums : List Nat)
  /-- SCRUB_READ (R401). -/
  | scrubRead (off : BitVec 42) (r : LineRead)
  /-- SCRUB_REPORT (R401). -/
  | scrubReport (ch : Fin 16)
  /-- DIMM_THERMAL_READ (R403). -/
  | dimmThermalRead (ch : Fin 16) (hottest : Int)
  /-- PRESS_DEFLATE (R411). -/
  | pressDeflate (uid : Nat)
  /-- PRESS_INFLATE (R417). -/
  | pressInflate (uid : Nat)
  /-- PRESS_FLUSH (R415). -/
  | pressFlush (uid : Nat)
  /-- PRESS_DISPATCH (R421). -/
  | pressDispatch
  /-- PRESS_COMMAND_COMPLETE (R410). -/
  | pressCommandComplete (engine : Fin 4) (r : ReqEnd)
  /-- ENGINE_RESET (R459). -/
  | engineReset (x : EngineId)
  /-- MEDIA_CORE_RESET (R458). -/
  | mediaCoreReset (core : Fin 32)
  /-- COLD_RESET (R451). -/
  | coldReset (mode : Fin 4)
  /-- RST_N_ASSERT (R478). -/
  | rstNAssert
  /-- WARM_DEVICE_RESET (R453). -/
  | warmDeviceReset
  /-- ROM_BOOT (R435). -/
  | romBoot (err : FlashErr)
  /-- ROOT_STAGE1 (R438). -/
  | rootStage1 (mfg plat : FlashErr)
  /-- DDR_TRAINING (R391). -/
  | ddrTraining (m : Modules)
  /-- SCHEDULER_START (R435). -/
  | schedulerStart (err : FlashErr) (region area areaLen : Nat)
  /-- SCHEDULER_READY (R435). -/
  | schedulerReady
  /-- SCHEDULER_LIVENESS (R447). -/
  | schedulerLiveness
  /-- SCHEDULER_LIVENESS_TIMEOUT (R447). -/
  | schedulerLivenessTimeout
  /-- PROTECTION_VIOLATION (R427). -/
  | protectionViolation
  /-- ROOT_WATCHDOG_EXPIRY (R463). -/
  | rootWatchdogExpiry
  /-- MBOX_BEGIN (R444). -/
  | mboxBegin
  /-- MBOX_DATA (R444). -/
  | mboxData (v : W32)
  /-- MBOX_END (R444). -/
  | mboxEnd
  /-- MBOX_WRITE_DONE (R444). -/
  | mboxWriteDone
  /-- MBOX_ABORT (R446). -/
  | mboxAbort
  /-- MBOX_WARM_RESET (R446). -/
  | mboxWarmReset
  /-- POWER_LEVEL_REQUEST (R460). -/
  | powerLevelRequest (v : W32)
  /-- CORE_GATE (R461). -/
  | coreGate (core : Fin 32)
  /-- CORE_POWER_UP (R461). -/
  | corePowerUp (core : Fin 32)
  /-- TEMPERATURE_SAMPLE (R462). -/
  | temperatureSample (cd0 cd1 iod : BitVec 16)
  /-- POWER_WINDOW (R462). -/
  | powerWindow (w : BitVec 16)
  /-- VID_STEP (R472). -/
  | vidStep (up : Bool)
  /-- MGMT_STATUS_READ (R483). -/
  | mgmtStatusRead
  /-- MCTP_MESSAGE (R483). -/
  | mctpMessage (m : MctpMsg)
  /-- TIM_NOW_LO_READ (R298). -/
  | timNowLoRead (ini : Initiator) (size : Nat)
  /-- LIV_PORT_FRAME_OUT_READ (R219). -/
  | livPortFrameOutRead (ini : Initiator) (port : Fin 24)
  /-- PRS_ENG_BYTES_LO_READ (R489). -/
  | prsEngBytesLoRead (ini : Initiator) (engine : Fin 4)
  /-- REGISTER_WRITE (R492). -/
  | registerWrite (ini : Initiator) (fn : Fin 4) (off size : Nat) (value : W64)
  /-- BRIDGE_TRANSFER_ERROR (R24). -/
  | bridgeTransferError (bridge : Fin 3) (e : BridgeErr)
  /-- RC_REGISTER_READ (R384). -/
  | rcRegisterRead (ini : Initiator) (fn : Fin 4) (off size : Nat) (pins : BitVec 16)
  /-- BAR4_WINDOW_ACCESS (R360). -/
  | bar4WindowAccess (off len : Nat) (data : Option (List Byte))
  /-- DOE_UNKNOWN_TYPE (R363). -/
  | doeUnknownType
  /-- ROOT_WATCHDOG_REPORT (R463). -/
  | rootWatchdogReport
  /-- VDD_AUX_IN_RANGE (R472). -/
  | vddAuxInRange
  /-- VDD_AUX_REMOVED (R480). -/
  | vddAuxRemoved
  /-- VBAT_RTC_LOW (R304). -/
  | vbatRtcLow
  /-- PCIE_LINK_TRAINING (R356). -/
  | pcieLinkTraining (speed width : Nat) (flit : Bool)
  /-- JTAG_DEBUG_ACCESS (R438). -/
  | jtagDebugAccess (op : DebugOp)
  deriving DecidableEq, Repr

end Sys2Proof
end

