-- ==== Sys2Proof/Decode.lean ====
section
/-! DEFINITION. The decoder over the opcode table's words. No row of spec/opcode_table.json gives bits: the UZ960's rows
are events and commands, so no word spells one. -/

namespace Sys2Proof

/-- The command a table word spells: none, for no row gives bits. -/
def decodeTableWord (_nbits _w : Nat) : Option Instr := none

end Sys2Proof
end

