-- ==== Sys2Proof/Config.lean ====
section
/-! DEFINITION. What the specification leaves open: free values, which nothing in the model can evaluate, and the
algorithms whose definition lies in outside standards or in the networks of a bundle. -/

namespace Sys2Proof.Config

/-- A byte whose value the specification does not define (a read of truncation-marked core store, R193): `n` is the
count of free values drawn, `a` the address. Log entry 5. -/
opaque freeByte : Nat → Nat → Byte

/-- A byte of host memory that the command does not supply. Log entry 6. -/
opaque hostByte : Nat → Nat → Byte

/-- A number whose value the specification does not define: `n` counts the free values drawn, `k` tells draws of one
step apart. Log entry 5. -/
opaque freeNat : Nat → Nat → Nat

/-- Whether the Deckle's fixed-point arithmetic rounds the inexact value num / den upward (R207 names 16 fractional bits
and no rounding). Log entry 7. -/
opaque fixUp : Int → Nat → Bool

/-- The device's default scaler coefficient of a phase and one of its first seven taps, where the bundle holds none
(R208). Log entry 7. -/
opaque deckleCoef : Nat → Nat → Int

/-- Ed25519 verification (RFC 8032): public key, message, signature. Log entry 34. -/
opaque edVerify : List Byte → List Byte → List Byte → Bool

/-- ML-DSA-65 verification (FIPS 204, empty context): public key, message, signature. Log entry 34. -/
opaque mlVerify : List Byte → List Byte → List Byte → Bool

/-- The Ed25519 public key of a seed, and the signature of a message under a seed. Log entry 34. -/
opaque edPublic : List Byte → List Byte
opaque edSign : List Byte → List Byte → List Byte

/-- The ML-DSA-65 public key of a seed, and the signature of a message under a seed. Log entry 34. -/
opaque mlPublic : List Byte → List Byte
opaque mlSign : List Byte → List Byte → List Byte

/-- The vendor key hashes V0 and V1 that the ROM holds (Table 17-4). Log entry 34. -/
opaque vendorKey : Bool → List Byte

/-- The secret K that the device's PUF yields with helper data, where the reconstruction succeeds (R440). Log entry 34. -/
opaque pufSecret : List Byte → Option (List Byte)

/-- Field k of the session context in its DDR4 bytes, whose layout is the firmware's (R422). Log entry 9. -/
opaque ctxField : List Byte → Nat → Nat

/-- Byte i of a capture region (R319): the specification names what a snapshot copies and the log it keeps, and gives the region no
layout. Log entry 5. -/
opaque captureByte : List Byte → List (List Byte) → Nat → Byte

/-- Where in VAT0 the mailbox stages an object (R444 names VAT0 and no place in it). Log entry 32. -/
opaque stageBase : Nat

/-- The answer to an MCTP control message, which DMTF DSP0236 defines (R483). Log entry 33. -/
opaque mctpControl : List Byte → List Byte

end Sys2Proof.Config
end

