-- ==== Sys2Proof/Machine/Numeric.lean ====
section
/-! DEFINITION. The bit-exact numeric contract (R29 to R57): exact values, the rounding helpers of R33, the formats of
Table 02-2 and the sticky flags a helper raises (R51). -/

namespace Sys2Proof.Machine

/-- The two rounding modes (R34). -/
inductive Mode where
  | rne
  | rna
  deriving DecidableEq, Repr

/-- The four sticky flags (R34, R51). -/
structure Flags where
  invalid : Bool
  inexact : Bool
  underflow : Bool
  overflow : Bool
  deriving DecidableEq, Repr

/-- No flag raised. -/
def Flags.none : Flags := { invalid := false, inexact := false, underflow := false, overflow := false }

/-- The union of two flag sets: flags are sticky (R51). -/
def Flags.or (a b : Flags) : Flags :=
  { invalid := a.invalid || b.invalid, inexact := a.inexact || b.inexact,
    underflow := a.underflow || b.underflow, overflow := a.overflow || b.overflow }

/-- The flags as the bits flag_overflow (0), flag_underflow, flag_inexact, flag_invalid (3), the order of NUMCTL [11:8]. -/
def Flags.toNat (f : Flags) : Nat :=
  f.overflow.toNat + 2 * f.underflow.toNat + 4 * f.inexact.toNat + 8 * f.invalid.toNat

/-- An exact real extended by nan and the infinities (R32). `fin neg num den` is (-1)^neg * num / den with den > 0;
a zero keeps its sign. -/
inductive XR where
  | nan
  | inf (neg : Bool)
  | fin (neg : Bool) (num den : Nat)
  deriving DecidableEq, Repr

/-- A computation that may raise flags. -/
abbrev NumM (α : Type) := StateM Flags α

/-- raise_flag of R33. -/
def raise (f : Flags) : NumM Unit := fun s => ((), s.or f)

def flagInvalid : Flags := { Flags.none with invalid := true }
def flagInexact : Flags := { Flags.none with inexact := true }
def flagUnderflow : Flags := { Flags.none with underflow := true }
def flagOverflow : Flags := { Flags.none with overflow := true }

/-- An integer as an exact value; 0 is +0. -/
def xrInt (x : Int) : XR := .fin (decide (x < 0)) x.natAbs 1

/-- The fraction n / d. -/
def xrFrac (n : Int) (d : Nat) : XR := .fin (decide (n < 0)) n.natAbs d

/-- 2^k as a fraction. -/
def pow2 (k : Int) : XR := if 0 ≤ k then .fin false (2 ^ k.toNat) 1 else .fin false 1 (2 ^ (-k).toNat)

def xrNeg : XR → XR
  | .nan => .nan
  | .inf s => .inf (!s)
  | .fin s n d => .fin (!s) n d

def xrAbs : XR → XR
  | .nan => .nan
  | .inf _ => .inf false
  | .fin _ n d => .fin false n d

def xrIsNan : XR → Bool
  | .nan => true
  | _ => false

def xrIsInf : XR → Bool
  | .inf _ => true
  | _ => false

def xrIsFin : XR → Bool
  | .fin _ _ _ => true
  | _ => false

def xrIsZero : XR → Bool
  | .fin _ n _ => n == 0
  | _ => false

/-- The sign bit of a value; false for nan. -/
def xrSign : XR → Bool
  | .nan => false
  | .inf s => s
  | .fin s _ _ => s

/-- Exact product (R32); the sign of a zero product follows IEEE 754 (R44). -/
def xrMul : XR → XR → XR
  | .nan, _ => .nan
  | _, .nan => .nan
  | .inf s, .inf t => .inf (s != t)
  | .inf s, .fin t n _ => if n == 0 then .nan else .inf (s != t)
  | .fin s n _, .inf t => if n == 0 then .nan else .inf (s != t)
  | .fin s n d, .fin t m e => .fin (s != t) (n * m) (d * e)

/-- Exact sum (R32); an exact zero sum of opposite-signed operands is +0 (R44). -/
def xrAdd : XR → XR → XR
  | .nan, _ => .nan
  | _, .nan => .nan
  | .inf s, .inf t => if s == t then .inf s else .nan
  | .inf s, .fin _ _ _ => .inf s
  | .fin _ _ _, .inf t => .inf t
  | .fin s n d, .fin t m e =>
    let a := n * e
    let b := m * d
    if s == t then .fin s (a + b) (d * e)
    else if a == b then .fin false 0 1
    else if b < a then .fin s (a - b) (d * e) else .fin t (b - a) (d * e)

def xrSub (x y : XR) : XR := xrAdd x (xrNeg y)

/-- Exact quotient of finite values by a nonzero finite value; nan otherwise. -/
def xrDiv : XR → XR → XR
  | .fin s n d, .fin t m e => if m == 0 then .nan else .fin (s != t) (n * e) (d * m)
  | _, _ => .nan

/-- Ordered comparison of exact values, where zeros of either sign are equal and nan is not below anything (R45). -/
def xrLt : XR → XR → Bool
  | .nan, _ => false
  | _, .nan => false
  | .inf s, .inf t => s && !t
  | .inf s, .fin _ _ _ => s
  | .fin _ _ _, .inf t => !t
  | .fin s n d, .fin t m e =>
    let a : Int := if s then -((n * e : Nat) : Int) else (n * e : Nat)
    let b : Int := if t then -((m * d : Nat) : Int) else (m * d : Nat)
    decide (a < b)

/-- Equality of values; nan is not equal to anything (R45). -/
def xrEq (x y : XR) : Bool :=
  match x, y with
  | .nan, _ => false
  | _, .nan => false
  | _, _ => !xrLt x y && !xrLt y x

def xrLe (x y : XR) : Bool := xrLt x y || xrEq x y

/-- floor of a finite value; 0 for the others, which no caller passes. -/
def xrFloor : XR → Int
  | .fin false n d => ((n / d : Nat) : Int)
  | .fin true n d => -(((n + d - 1) / d : Nat) : Int)
  | _ => 0

/-- floor(log2(n / d)) for n, d > 0. -/
def floorLog2 (n d : Nat) : Int :=
  let g : Int := (Nat.log2 n : Int) - (Nat.log2 d : Int)
  let holds : Bool := if 0 ≤ g then decide (d * 2 ^ g.toNat ≤ n) else decide (d ≤ n * 2 ^ (-g).toNat)
  if holds then g else g - 1

/-- n / d rounded to an integer under a mode: the k of rint and rnd (R33). -/
def rndNat (md : Mode) (n d : Nat) : Nat :=
  let k := n / d
  let r := n % d
  if d < 2 * r || (2 * r == d && (md == .rna || k % 2 == 1)) then k + 1 else k

/-- n / d counted in units of 2^k and rounded (the helper rnd of R33). -/
def rndUnits (md : Mode) (n d : Nat) (k : Int) : Nat :=
  if 0 ≤ k then rndNat md n (d * 2 ^ k.toNat) else rndNat md (n * 2 ^ (-k).toNat) d

/-- c units of 2^k as an exact value. -/
def unitsVal (neg : Bool) (c : Nat) (k : Int) : XR :=
  if 0 ≤ k then .fin neg (c * 2 ^ k.toNat) 1 else .fin neg c (2 ^ (-k).toNat)

/-- A floating-point format: significand bits, exponent range, field widths (Table 02-2). -/
structure Fmt where
  p : Nat
  emin : Int
  emax : Int
  ebits : Nat
  nanBits : Nat
  deriving DecidableEq, Repr

def fmt32 : Fmt := { p := 24, emin := -126, emax := 127, ebits := 8, nanBits := 0x7FC00000 }
def fmt16 : Fmt := { p := 11, emin := -14, emax := 15, ebits := 5, nanBits := 0x7E00 }
def fmtBf16 : Fmt := { p := 8, emin := -126, emax := 127, ebits := 8, nanBits := 0x7FC0 }

/-- round_fmt of R33: one rounding to a format, with tininess detected after rounding. -/
def roundFmt (f : Fmt) (md : Mode) : XR → NumM XR
  | .nan => do raise flagInvalid; pure .nan
  | .inf s => pure (.inf s)
  | .fin s n d =>
    if n == 0 then pure (.fin s 0 1)
    else
      let e := floorLog2 n d
      let q := e - f.p + 1
      let q2 := max e f.emin - f.p + 1
      let u := rndUnits md n d q
      let tiny : Bool := decide (q < f.emin) && decide (u < 2 ^ (f.emin - q).toNat)
      let k := rndUnits md n d q2
      let ovf : Bool := if q2 ≤ f.emax + 1 then decide (2 ^ (f.emax + 1 - q2).toNat ≤ k) else true
      if ovf then do raise (flagOverflow.or flagInexact); pure (.inf s)
      else
        let r := unitsVal s k q2
        if xrEq r (.fin s n d) then pure r
        else do
          raise flagInexact
          if tiny then raise flagUnderflow
          pure r

def round32 (md : Mode) (v : XR) : NumM XR := roundFmt fmt32 md v
def round16 (md : Mode) (v : XR) : NumM XR := roundFmt fmt16 md v
def roundBf16 (md : Mode) (v : XR) : NumM XR := roundFmt fmtBf16 md v

/-- fma32 of R33: one rounding. -/
def fma32 (md : Mode) (x y z : XR) : NumM XR := round32 md (xrAdd (xrMul x y) z)

/-- rint of R33 on a finite value. -/
def rint (md : Mode) : XR → XR
  | .fin s n d => .fin s (rndNat md n d) 1
  | v => v

/-- The integer of a finite integral value. -/
def xrToInt : XR → Int
  | .fin false n d => ((n / d : Nat) : Int)
  | .fin true n d => -((n / d : Nat) : Int)
  | _ => 0

/-- cvt_int of R33. -/
def cvtInt (md : Mode) (v : XR) (lo hi : Int) : NumM Int :=
  match v with
  | .nan => do raise flagInvalid; pure 0
  | .inf s => do raise flagOverflow; pure (if s then lo else hi)
  | .fin s n d =>
    let k := xrToInt (rint md (.fin s n d))
    if hi < k then do raise flagOverflow; pure hi
    else if k < lo then do raise flagOverflow; pure lo
    else if xrEq (xrInt k) (.fin s n d) then pure k
    else do raise flagInexact; pure k

/-- sat32 of R33. -/
def sat32 (v : Int) : NumM Int :=
  if 2147483647 < v then do raise flagOverflow; pure 2147483647
  else if v < -2147483648 then do raise flagOverflow; pure (-2147483648)
  else pure v

/-- The exact value a code of a floating-point format encodes (R29, R30, R32). -/
def fmtVal (f : Fmt) (c : Nat) : XR :=
  let fb := f.p - 1
  let frac := c % 2 ^ fb
  let ex := (c / 2 ^ fb) % 2 ^ f.ebits
  let s := bitAt c (fb + f.ebits)
  if ex == 2 ^ f.ebits - 1 then (if frac == 0 then .inf s else .nan)
  else if ex == 0 then unitsVal s frac (f.emin - fb)
  else unitsVal s (2 ^ fb + frac) (f.emin - fb + ex - 1)

/-- The code of a representable value; every nan gives the canonical NaN (R36). -/
def fmtCode (f : Fmt) (v : XR) : Nat :=
  let fb := f.p - 1
  let sgn (s : Bool) : Nat := if s then 2 ^ (fb + f.ebits) else 0
  match v with
  | .nan => f.nanBits
  | .inf s => sgn s + (2 ^ f.ebits - 1) * 2 ^ fb
  | .fin s n d =>
    if n == 0 then sgn s
    else
      let e := floorLog2 n d
      if e < f.emin then sgn s + rndUnits .rne n d (f.emin - fb)
      else sgn s + rndUnits .rne n d (e - fb) + (e - f.emin).toNat * 2 ^ fb

def val32 (c : Nat) : XR := fmtVal fmt32 c
def val16 (c : Nat) : XR := fmtVal fmt16 c
def valBf16 (c : Nat) : XR := fmtVal fmtBf16 c
def code32 (v : XR) : Nat := fmtCode fmt32 v
def code16 (v : XR) : Nat := fmtCode fmt16 v
def codeBf16 (v : XR) : Nat := fmtCode fmtBf16 v

/-- A NaN result is canonical and raises INVALID (R36); other values pass. -/
def passNan (v : XR) : NumM XR :=
  match v with
  | .nan => do raise flagInvalid; pure .nan
  | w => pure w

/-- The station of R38: one rounding, and a zero result is +0 (R39). -/
def station (md : Mode) (acc : XR) (p : Int) (s : XR) : NumM XR :=
  if p == 0 && xrIsFin s then pure acc
  else do
    let v ← round32 md (xrAdd acc (xrMul (xrInt p) s))
    pure (if xrIsZero v then .fin false 0 1 else v)

/-- Minimum and maximum order -0 below +0 and give NaN with INVALID for a NaN operand (R45). -/
def numMin (x y : XR) : NumM XR :=
  if xrIsNan x || xrIsNan y then do raise flagInvalid; pure .nan
  else pure (if xrLt x y then x else if xrLt y x then y else if xrSign x then x else y)

def numMax (x y : XR) : NumM XR :=
  if xrIsNan x || xrIsNan y then do raise flagInvalid; pure .nan
  else pure (if xrLt x y then y else if xrLt y x then x else if xrSign x then y else x)

/-- Run a computation from no flag: its result and the flags it raised. -/
def runNum {α : Type} (m : NumM α) : α × Flags := m Flags.none

end Sys2Proof.Machine
end

