-- ==== Sys2Proof/Machine/ElemTables.lean ====
section
/-! DEFINITION. The tables and constants of the elementary functions (R47, Table 02-6), as binary32 codes where the
entry is the nearest binary32 to a transcendental real, and by their formulas where the entry is rational. -/

namespace Sys2Proof.Machine

/-- Floor square root by base-4 digits; `fuel` bounds the digits. -/
def isqrt : Nat → Nat → Nat
  | 0, _ => 0
  | fuel + 1, n =>
    if n == 0 then 0
    else
      let r := 2 * isqrt fuel (n / 4)
      if (r + 1) * (r + 1) ≤ n then r + 1 else r

/-- t_rcp[i] (R47). -/
def tRcp (i : Nat) : Nat := (2 ^ 25 + (257 + 2 * i)) / (2 * (257 + 2 * i))

/-- t_rsq0[j] (R47). -/
def tRsq0 (j : Nat) : Nat := isqrt 64 (2 ^ 39 / (129 + 2 * j))

/-- t_rsq1[j] (R47). -/
def tRsq1 (j : Nat) : Nat := isqrt 64 (2 ^ 38 / (129 + 2 * j))

/-- The nearest binary32, ties to even, to a fraction, whatever the program's mode (R47). -/
def near32 (n : Int) (d : Nat) : XR := (runNum (round32 .rne (xrFrac n d))).1

/-- t_exp2 of Table 02-6: entry i is the nearest binary32 to 2^((i - 32)/64). -/
def tExp2Codes : List Nat :=
  [0x3F3504F3, 0x3F36FD92, 0x3F38FBAF, 0x3F3AFF5B, 0x3F3D08A4, 0x3F3F179A, 0x3F412C4D, 0x3F4346CD,
   0x3F45672A, 0x3F478D75, 0x3F49B9BE, 0x3F4BEC15, 0x3F4E248C, 0x3F506334, 0x3F52A81E, 0x3F54F35B,
   0x3F5744FD, 0x3F599D16, 0x3F5BFBB8, 0x3F5E60F5, 0x3F60CCDF, 0x3F633F89, 0x3F65B907, 0x3F68396A,
   0x3F6AC0C7, 0x3F6D4F30, 0x3F6FE4BA, 0x3F728177, 0x3F75257D, 0x3F77D0DF, 0x3F7A83B3, 0x3F7D3E0C,
   0x3F800000] ++
  [0x3F8164D2, 0x3F82CD87, 0x3F843A29, 0x3F85AAC3, 0x3F871F62, 0x3F88980F, 0x3F8A14D5, 0x3F8B95C2,
   0x3F8D1ADF, 0x3F8EA43A, 0x3F9031DC, 0x3F91C3D3, 0x3F935A2B, 0x3F94F4F0, 0x3F96942D, 0x3F9837F0,
   0x3F99E046, 0x3F9B8D3A, 0x3F9D3EDA, 0x3F9EF532, 0x3FA0B051, 0x3FA27043, 0x3FA43516, 0x3FA5FED7,
   0x3FA7CD94, 0x3FA9A15B, 0x3FAB7A3A, 0x3FAD583F, 0x3FAF3B79, 0x3FB123F6, 0x3FB311C4, 0x3FB504F3]

/-- logt of Table 02-6: entry i is the nearest binary32 to -log2 of the binary32 value invt[i - 16]. -/
def logtCodes : List Nat :=
  [0xBED47FCD, 0xBEC544BF, 0xBEB6587A, 0xBEA7B7DF, 0xBE995FF9, 0xBE8B4E03, 0xBE7AFEC6, 0xBE5FE33A,
   0xBE4544C5, 0xBE2B1EE2, 0xBE116D6E, 0xBDF058D8, 0xBDBEB02F, 0xBD8DD98A, 0xBD3B9C9B, 0xBCBA1FA1,
   0x00000000, 0x3CB73CB3, 0x3D35D690, 0x3D8759C9, 0x3DB31FB7, 0x3DDE420E, 0x3E0462C4, 0x3E195751,
   0x3E2E00D1] ++
  [0x3E42615F, 0x3E567AEF, 0x3E6A4F70, 0x3E7DE0B5, 0x3E88983F, 0x3E92203D, 0x3E9B8925, 0x3EA4D3C2,
   0x3EAE00D1, 0x3EB71110, 0x3EC0052D, 0x3EC8DDD3, 0x3ED19BAF, 0x3EDA3F60, 0x3EE2C97E, 0x3EEB3A9E,
   0x3EF39355, 0x3EFBD42A, 0x3F01FED4, 0x3F060828, 0x3F0A0650, 0x3F0DF98A, 0x3F11E20E, 0x3F15C01A]

/-- erf0 of Table 02-6: entry j is the nearest binary32 to erf(j/16). -/
def erf0Codes : List Nat :=
  [0x00000000, 0x3D903EA4, 0x3E0FAF0D, 0x3E5622F2, 0x3E8D7AA7, 0x3EAED4FA, 0x3ECEE869, 0x3EED840E,
   0x3F053F7B, 0x3F12DC54, 0x3F1F8CB7, 0x3F2B4922, 0x3F360E4C, 0x3F3FDCE0, 0x3F48B925, 0x3F50AA8D,
   0x3F57BB3D, 0x3F5DF788, 0x3F636D69, 0x3F682C06, 0x3F6C432F, 0x3F6FC2F5, 0x3F72BB46, 0x3F753B98,
   0x3F7752AB, 0x3F790E50, 0x3F7A7B4A, 0x3F7BA537, 0x3F7C9684, 0x3F7D586F, 0x3F7DF30F, 0x3F7E6D66] ++
  [0x3F7ECD71, 0x3F7F1840, 0x3F7F5211, 0x3F7F7E67, 0x3F7FA024, 0x3F7FB99C, 0x3F7FCCB0, 0x3F7FDADF,
   0x3F7FE554, 0x3F7FECFC, 0x3F7FF28A, 0x3F7FF68B, 0x3F7FF968, 0x3F7FFB6F, 0x3F7FFCDD, 0x3F7FFDDC,
   0x3F7FFE8D, 0x3F7FFF07, 0x3F7FFF5A, 0x3F7FFF92, 0x3F7FFFB8, 0x3F7FFFD1, 0x3F7FFFE2, 0x3F7FFFEC,
   0x3F7FFFF4, 0x3F7FFFF8, 0x3F7FFFFB, 0x3F7FFFFD, 0x3F7FFFFE, 0x3F7FFFFF, 0x3F7FFFFF, 0x3F800000]

/-- derf of Table 02-6: entry j is the nearest binary32 to (2/sqrt(pi)) exp(-(j/16)^2). -/
def derfCodes : List Nat :=
  [0x3F906EBB, 0x3F8FDE94, 0x3F8E317D, 0x3F8B716C, 0x3F87AE8B, 0x3F82FE9F, 0x3F7AF867, 0x3F6E8B3E,
   0x3F60F7E5, 0x3F5283A7, 0x3F4374B5, 0x3F340FF9, 0x3F249721, 0x3F1546E7, 0x3F0655B1, 0x3EEFE513,
   0x3ED488F8, 0x3EBAD48D, 0x3EA2F4CE, 0x3E8D06E3, 0x3E723298, 0x3E4E5ADF, 0x3E2E72CB, 0x3E1253DC,
   0x3DF391B9, 0x3DC92385, 0x3DA4CEA4, 0x3D85FCBF, 0x3D582A98, 0x3D2D0474, 0x3D09675A, 0x3CD88B05] ++
  [0x3CA94DCF, 0x3C83570A, 0x3C4A3127, 0x3C1A6BEE, 0x3BEA0A1D, 0x3BAFF93B, 0x3B8348C6, 0x3B425D18,
   0x3B0EC18C, 0x3AD0121B, 0x3A96744C, 0x3A57E42F, 0x3A19B066, 0x39D91D2D, 0x399829C8, 0x3953A034,
   0x39120475, 0x38C7EE0E, 0x3887CF0E, 0x383711B4, 0x37F4DAF4, 0x37A2790F, 0x3755F04F, 0x370BC1E7,
   0x36B52CB9, 0x366909CC, 0x3614B538, 0x35BC4FDC, 0x356C9B8F, 0x35137CF0, 0x34B670D5, 0x345FEBAB]

/-- t_exp2[j] for j in -32 .. 32. -/
def tExp2 (j : Int) : XR := val32 (tExp2Codes.getD (j + 32).toNat 0)

/-- invt[j] for j in -16 .. 32 (R47). -/
def invt (j : Int) : XR := near32 64 (64 + j).toNat

/-- logt[j] for j in -16 .. 32. -/
def logt (j : Int) : XR := val32 (logtCodes.getD (j + 16).toNat 0)

def erf0 (j : Nat) : XR := val32 (erf0Codes.getD j 0)
def derf (j : Nat) : XR := val32 (derfCodes.getD j 0)

/-- a2[j] = -x_j with x_j = j/16; a2[0] is +0. -/
def erfA2 (j : Nat) : XR := near32 (-(j : Int)) 16

/-- a3[j] = (2 x_j^2 - 1)/3. -/
def erfA3 (j : Nat) : XR := near32 (2 * (j : Int) ^ 2 - 256) 768

/-- a4[j] = (3 x_j - 2 x_j^3)/6. -/
def erfA4 (j : Nat) : XR := near32 (3 * (j : Int) * 256 - 2 * (j : Int) ^ 3) 24576

/-- a5[j] = (4 x_j^4 - 12 x_j^2 + 3)/30. -/
def erfA5 (j : Nat) : XR := near32 (4 * (j : Int) ^ 4 - 12 * (j : Int) ^ 2 * 256 + 3 * 65536) 1966080

/-- Nearest binary32 to ln 2 (R47). -/
def numC1 : XR := val32 0x3F317218
/-- Nearest binary32 to (ln 2)^2/2 (R47). -/
def numC2 : XR := val32 0x3E75FDF0
/-- Nearest binary32 to (ln 2)^3/6 (R47). -/
def numC3 : XR := val32 0x3D635847
/-- Nearest binary32 to 1/ln 2 (R47). -/
def numK1 : XR := val32 0x3FB8AA3B
/-- Nearest binary32 to -1/(2 ln 2) (R47). -/
def numK2 : XR := val32 0xBF38AA3B
/-- Nearest binary32 to 1/(3 ln 2) (R47). -/
def numK3 : XR := val32 0x3EF6384F
/-- Nearest binary32 to -1/(4 ln 2) (R47). -/
def numK4 : XR := val32 0xBEB8AA3B
/-- Nearest binary32 to 2 log2(e) (R47). -/
def numL2E2 : XR := val32 0x4038AA3B

/-- h1 to h4 of R47. -/
def numH1 : XR := near32 (-1) 3
def numH2 : XR := near32 2 15
def numH3 : XR := near32 (-17) 315
def numH4 : XR := near32 62 2835

end Sys2Proof.Machine
end

