-- ==== Sys2Proof/Machine/Elem.lean ====
section
/-! DEFINITION. The elementary functions and divisive normalisation of the vector unit (R48, R49, R50): a fixed sequence
of helper calls, with the special cases of Table 02-7 first. -/

namespace Sys2Proof.Machine

/-- v times 2^k, exactly. -/
def xrScale (v : XR) (k : Int) : XR := xrMul v (pow2 k)

/-- decompose of R48 for a nonzero finite value: m in [1, 2) and e with |x| = m 2^e. -/
def decompose : XR → XR × Int
  | .fin _ n d =>
    let e := floorLog2 n d
    (xrScale (.fin false n d) (-e), e)
  | _ => (.nan, 0)

def xrOne : XR := .fin false 1 1
def xrZero (s : Bool) : XR := .fin s 0 1

/-- Give a magnitude the sign of x, where sign(-0) is -1 (R48). -/
def withSign (x y : XR) : XR := if xrSign x then xrNeg y else y

/-- The result NaN with INVALID (Table 02-7). -/
def nanInvalid : NumM XR := do raise flagInvalid; pure .nan

/-- floor(v + 1/2). -/
def floorHalf (v : XR) : Int := xrFloor (xrAdd v (xrFrac 1 2))

/-- One step of the reciprocal iteration (R48). -/
def recipStep (md : Mode) (m y : XR) : NumM XR := do
  let r ← fma32 md (xrNeg m) y xrOne
  fma32 md y r y

/-- recip (R48, R49). -/
def elemRecip (md : Mode) (x : XR) : NumM XR :=
  match x with
  | .nan => nanInvalid
  | .inf s => pure (xrZero s)
  | .fin s n d =>
    if n == 0 then pure (.inf s)
    else do
      let me := decompose (.fin s n d)
      let m := me.1
      let i := (xrFloor (xrScale (xrSub m xrOne) 7)).toNat
      let y ← recipStep md m (xrScale (xrInt (tRcp i)) (-16))
      let y ← recipStep md m y
      round32 md (withSign x (xrScale y (-me.2)))

/-- One step of the reciprocal square root iteration (R48). -/
def rsqrtStep (md : Mode) (m y : XR) : NumM XR := do
  let h ← round32 md (xrMul m y)
  let r ← fma32 md (xrNeg h) y xrOne
  fma32 md (xrMul (xrFrac 1 2) y) r y

/-- rsqrt (R48, R49). -/
def elemRsqrt (md : Mode) (x : XR) : NumM XR :=
  match x with
  | .nan => nanInvalid
  | .inf s => if s then nanInvalid else pure (xrZero false)
  | .fin s n d =>
    if n == 0 then pure (.inf s)
    else if s then nanInvalid
    else do
      let me := decompose (.fin s n d)
      let j := (xrFloor (xrScale (xrSub me.1 xrOne) 6)).toNat
      let even : Bool := me.2 % 2 == 0
      let m := if even then me.1 else xrScale me.1 1
      let e := if even then me.2 else me.2 - 1
      let y0 := xrScale (xrInt (if even then tRsq0 j else tRsq1 j)) (-16)
      let y ← rsqrtStep md m y0
      let y ← rsqrtStep md m y
      round32 md (xrScale y (-e / 2))

/-- exp2 (R48, R49). -/
def elemExp2 (md : Mode) (x : XR) : NumM XR :=
  match x with
  | .nan => nanInvalid
  | .inf s => pure (if s then xrZero false else .inf false)
  | .fin s n d =>
    if n == 0 then pure xrOne
    else if xrLe (xrInt 128) (.fin s n d) then do raise (flagOverflow.or flagInexact); pure (.inf false)
    else if xrLt (.fin s n d) (xrInt (-160)) then do raise (flagUnderflow.or flagInexact); pure (xrZero false)
    else do
      let k := floorHalf x
      let f := xrSub x (xrInt k)
      let j := floorHalf (xrScale f 6)
      let r := xrSub f (xrFrac j 64)
      let p ← fma32 md numC3 r numC2
      let p ← fma32 md p r numC1
      let p ← round32 md (xrMul p r)
      let y ← fma32 md (tExp2 j) p (tExp2 j)
      round32 md (xrScale y k)

/-- log2 (R48, R49). -/
def elemLog2 (md : Mode) (x : XR) : NumM XR :=
  match x with
  | .nan => nanInvalid
  | .inf s => if s then nanInvalid else pure (.inf false)
  | .fin s n d =>
    if n == 0 then pure (.inf true)
    else if s then nanInvalid
    else do
      let me := decompose (.fin s n d)
      let big : Bool := xrLe (xrFrac 3 2) me.1
      let m := if big then xrScale me.1 (-1) else me.1
      let e := if big then me.2 + 1 else me.2
      let j := floorHalf (xrScale (xrSub m xrOne) 6)
      let u ← fma32 md m (invt j) (xrInt (-1))
      let q ← fma32 md numK4 u numK3
      let q ← fma32 md q u numK2
      let q ← fma32 md q u numK1
      let p ← round32 md (xrMul q u)
      let t ← round32 md (xrAdd (xrInt e) (logt j))
      round32 md (xrAdd t p)

/-- The small-argument polynomial of tanh (R48). -/
def tanhPoly (md : Mode) (x : XR) : NumM XR := do
  let w ← round32 md (xrMul x x)
  let q ← fma32 md numH4 w numH3
  let q ← fma32 md q w numH2
  let q ← fma32 md q w numH1
  let q ← round32 md (xrMul q w)
  fma32 md x q x

/-- tanh (R48, R49). -/
def elemTanh (md : Mode) (x : XR) : NumM XR :=
  match x with
  | .nan => nanInvalid
  | .inf s => pure (withSign (.inf s) xrOne)
  | .fin s n d =>
    let x : XR := .fin s n d
    let a := xrAbs x
    if xrLt a (pow2 (-12)) then pure x
    else if xrLe (xrFrac 73 8) a then do raise flagInexact; pure (withSign x xrOne)
    else if xrLt a (xrFrac 1 4) then tanhPoly md x
    else do
      let w ← round32 md (xrMul a numL2E2)
      let z ← elemExp2 md (xrNeg w)
      let up ← round32 md (xrSub xrOne z)
      let dn ← round32 md (xrAdd xrOne z)
      let rc ← elemRecip md dn
      let y ← round32 md (xrMul up rc)
      pure (withSign x y)

/-- erf (R48, R49). -/
def elemErf (md : Mode) (x : XR) : NumM XR :=
  match x with
  | .nan => nanInvalid
  | .inf s => pure (withSign (.inf s) xrOne)
  | .fin s n d =>
    let x : XR := .fin s n d
    let a := xrAbs x
    if n == 0 then pure x
    else if xrLe (xrFrac 127 32) a then do raise flagInexact; pure (withSign x xrOne)
    else do
      let j := (floorHalf (xrScale a 4)).toNat
      let r := xrSub a (xrFrac j 16)
      let q ← fma32 md (erfA5 j) r (erfA4 j)
      let q ← fma32 md q r (erfA3 j)
      let q ← fma32 md q r (erfA2 j)
      let q ← fma32 md q r xrOne
      let u ← round32 md (xrMul r q)
      let y ← fma32 md (derf j) u (erf0 j)
      pure (withSign x y)

/-- The energy sum of GDN over the channels, in increasing j (R50). -/
def gdnSum (md : Mode) : XR → List XR → List XR → NumM XR
  | s, g :: gs, x :: xs => do
    let q ← round32 md (xrMul x x)
    let s' ← fma32 md g q s
    gdnSum md s' gs xs
  | s, _, _ => pure s

/-- One channel of gdn (R50): s from beta and gamma's row, then the factor. -/
def gdnOne (md : Mode) (inverse : Bool) (xi beta : XR) (gamma xs : List XR) : NumM XR := do
  let s ← gdnSum md beta gamma xs
  let r ← elemRsqrt md s
  let r ← if inverse then round32 md (xrMul s r) else pure r
  round32 md (xrMul xi r)

/-- gdn over the channels of one position (R50); `gammas` is gamma row by row. -/
def gdnAll (md : Mode) (inverse : Bool) (xs : List XR) : List XR → List XR → List (List XR) → NumM (List XR)
  | x :: rest, b :: bs, g :: gs => do
    let y ← gdnOne md inverse x b g xs
    let ys ← gdnAll md inverse xs rest bs gs
    pure (y :: ys)
  | _, _, _ => pure []

end Sys2Proof.Machine
end

