-- ==== Sys2Proof/Machine/Tbl.lean ====
section
/-! DEFINITION. The one container of the model: a sparse table from numbers to values, as a list of pairs in one
canonical form (keys strictly rising, no entry equal to the default), so that equal tables are equal data. The state's
registers, semaphores, slots and its byte-addressed memory are such tables. -/

namespace Sys2Proof.Machine

/-- A sparse table: (key, value) pairs in canonical form. -/
abbrev Tbl (α : Type) := List (Nat × α)

/-- The value at a key; a key that is not listed has the default. -/
def tget {α : Type} (d : α) : Tbl α → Nat → α
  | [], _ => d
  | (j, v) :: t, k => if j = k then v else tget d t k

/-- Every listed key lies above `lo` and the keys rise. -/
def tsorted {α : Type} : Nat → Tbl α → Bool
  | _, [] => true
  | lo, (j, _) :: t => decide (lo ≤ j) && tsorted (j + 1) t

/-- The canonical form: rising keys, no entry equal to the default. -/
def twf {α : Type} [DecidableEq α] (d : α) (t : Tbl α) : Bool :=
  tsorted 0 t && t.all (fun p => decide (p.2 ≠ d))

/-- Insert or replace without a look at the default. -/
def tput {α : Type} : Tbl α → Nat → α → Tbl α
  | [], k, v => [(k, v)]
  | (j, w) :: t, k, v =>
    if k < j then (k, v) :: (j, w) :: t else if j = k then (k, v) :: t else (j, w) :: tput t k v

/-- Remove a key. -/
def tdel {α : Type} (t : Tbl α) (k : Nat) : Tbl α := t.filter (fun e => e.1 != k)

/-- Write a key; writing the default removes the entry, so the canonical form stays. -/
def tset {α : Type} [DecidableEq α] (d : α) (t : Tbl α) (k : Nat) (v : α) : Tbl α :=
  if v = d then tdel t k else tput t k v

/-- Apply a function to the value at a key. -/
def tmod {α : Type} [DecidableEq α] (d : α) (t : Tbl α) (k : Nat) (f : α → α) : Tbl α :=
  tset d t k (f (tget d t k))

/-- Forget every entry whose key satisfies `p` (these keys read as the default again). -/
def tclear {α : Type} (t : Tbl α) (p : Nat → Bool) : Tbl α := t.filter (fun e => !p e.1)

/-- The numbers lo, lo + 1, …, lo + n - 1. -/
def upFrom : Nat → Nat → List Nat
  | _, 0 => []
  | lo, n + 1 => lo :: upFrom (lo + 1) n

/-- Write the values of a list at consecutive keys. -/
def tsetRun {α : Type} [DecidableEq α] (d : α) : Tbl α → Nat → List α → Tbl α
  | t, _, [] => t
  | t, k, v :: vs => tsetRun d (tset d t k v) (k + 1) vs

/-- The values at n consecutive keys. -/
def tgetRun {α : Type} (d : α) (t : Tbl α) (k n : Nat) : List α := (upFrom k n).map (tget d t)

end Sys2Proof.Machine
end

