-- ==== Sys2Proof/Machine/CoreTypes.lean ====
section
/-! DEFINITION. The state of the media cores: slots (R134, R139), parameter blocks as decoded at issue (R146), window
sets (R114), monitors (R99), looms (R72, R80, R82) and the Sizing and vector units (R149, R152). -/

namespace Sys2Proof.Machine

/-- The four slot states (R134). -/
inductive SlotPhase where
  | idle
  | running
  | halted
  | stopped
  deriving DecidableEq, Repr

/-- What holds a slot's issue (R149, R151, R153, R156, R157, R162, R188). -/
inductive Hold where
  | none
  | fullQueue
  | semWait (q count : Nat)
  | timeWait (t : Nat)
  | lineWait (lp frame line pd : Nat)
  | fence (mask : BitVec 16)
  | strmWait (engine : Nat)
  | halt
  deriving DecidableEq, Repr

/-- WARP.LOAD block (Table 06-5) with the instruction's loom. -/
structure WarpBlk where
  zw : Nat
  src : Nat
  fmtW : Nat
  g : Nat
  scaleSrc : Nat
  pitch : Nat
  kLen : Nat
  n : Nat
  deriving DecidableEq, Repr

/-- WEFT.PASS block (Table 06-6). -/
structure WeftBlk where
  fmtA : Nat
  fmtKind : Bool
  saMode : Nat
  e : Nat
  partialOut : Bool
  accCore : Bool
  integer : Bool
  ws : Nat
  selvedge : Bool
  m : Nat
  src : Nat
  za : Nat
  pitch : Nat
  accSrc : Nat
  partDst : Nat
  accPitch : Nat
  sa : Nat
  deriving DecidableEq, Repr

/-- SIZE.SET and SIZE.QUANT block (Table 06-7). -/
structure SizeBlk where
  oscKind : Bool
  biasEn : Bool
  regroup : Nat
  monEn : Bool
  mon : Nat
  gq : Nat
  calH : Nat
  act : Nat
  zo : Nat
  qcode : Nat
  bias : Nat
  oscale : Nat
  slope : Nat
  scaleDst : Nat
  cntEn : Bool
  cntDst : Nat
  dst : Nat
  pitch : Nat
  rgLayout : Nat
  qSrc : Nat
  qPitch : Nat
  qLen : Nat
  qRows : Nat
  deriving DecidableEq, Repr

/-- Depth-to-space record (Table 05-3). -/
structure RegroupRec where
  cBase : Nat
  block : Bool
  outY0 : Nat
  outX0 : Nat
  yPitch : Nat
  planePitch : Nat
  deriving DecidableEq, Repr

/-- CAL.ROT block (Table 06-8). -/
structure RotBlk where
  src : Nat
  dst : Nat
  pitch : Nat
  calH : Nat
  len : Nat
  rows : Nat
  deriving DecidableEq, Repr

/-- VEC.* block (R147). -/
structure VecBlk where
  dst : Nat
  srcA : Nat
  srcB : Nat
  srcC : Nat
  count : Nat
  repC : Nat
  repB : Nat
  cImm : Bool
  bImm : Bool
  typeD : Nat
  typeC : Nat
  typeB : Nat
  typeA : Nat
  immB : Nat
  immC : Nat
  deriving DecidableEq, Repr

/-- VEC.POOL block (Table 06-10). -/
structure PoolBlk where
  oFirst : Nat
  m : Nat
  dst : Nat
  pitch : Nat
  deriving DecidableEq, Repr

/-- Window descriptor (Table 05-1). -/
structure WinDesc where
  src : Nat
  mode : Nat
  skipEn : Bool
  padIncl : Bool
  padMode : Nat
  regroup : Nat
  block : Bool
  fmt : Nat
  cIn : Nat
  zp : Nat
  padValue : Nat
  inH : Nat
  inW : Nat
  ty0 : Nat
  tx0 : Nat
  th : Nat
  tw : Nat
  yPitch : Nat
  planePitch : Nat
  kh : Nat
  kw : Nat
  sh : Nat
  sw : Nat
  dh : Nat
  dw : Nat
  siy : Nat
  six : Nat
  pt : Nat
  pb : Nat
  pl : Nat
  pr : Nat
  kBase : Nat
  kLen : Nat
  deriving DecidableEq, Repr

/-- The function codes of Table 06-9. -/
inductive VecFn where
  | add | sub | mul | fma | neg | abs | min | max | ceq | cne | clt | cle | sel | cvt
  | rcp | rsq | exp2 | log2 | tanh | erf | gdn | igdn
  deriving DecidableEq, Repr

/-- Elements waiting in a monitor behind a window that is full and not yet closed: a run of `n` elements whose
clipped and vanished elements stand at the listed positions. -/
structure MonRun where
  n : Nat
  clipped : List Nat
  vanished : List Nat
  deriving DecidableEq, Repr

/-- A monitor (R99 to R103, Tables 04-4 to 04-9). -/
structure Mon where
  vanEvtEn : Bool := false
  satEvtEn : Bool := false
  enable : Bool := false
  winExp : Nat := 16
  satThr : Nat := 0xFFFF
  vanThr : Nat := 0xFFFF
  elem : Nat := 0
  sat : Nat := 0
  van : Nat := 0
  totSat : Nat := 0
  totVan : Nat := 0
  waiting : List MonRun := []
  overSat : Nat := 0
  overVan : Nat := 0
  lastSatEvt : Option Nat := .none
  lastVanEvt : Option Nat := .none
  deriving DecidableEq, Repr

/-- A queue entry of the Sizing or the vector unit. -/
inductive UnitWork where
  | quant (b : SizeBlk)
  | rot (b : RotBlk)
  | vec (f : VecFn) (b : VecBlk)
  | pool (b : PoolBlk) (w : WinDesc) (ws : Nat)
  deriving DecidableEq, Repr

/-- An operation of a unit queue: its slot, the semaphore it posts, the device-map base of its window, its work. -/
structure UnitOp where
  slot : Nat
  q : Option Nat
  base : Nat
  mode : Mode
  work : UnitWork
  deriving DecidableEq, Repr

/-- The Sizing or the vector unit of a core: one queue per slot, the operations begun (innermost first, a suspended
operation below the Live one that preempted it, R152) and the slot served last. -/
structure UnitSt where
  queue0 : List UnitOp := []
  queue1 : List UnitOp := []
  begun : List UnitOp := []
  last : Nat := 1
  deriving DecidableEq, Repr

/-- A pass as queued: block and everything captured at issue (R78, R104, R113, R146). -/
structure PassOp where
  slot : Nat
  q : Option Nat
  base : Nat
  mode : Mode
  blk : WeftBlk
  store : Option SizeBlk
  rg : Option RegroupRec
  win : Option WinDesc
  deriving DecidableEq, Repr

/-- A WARP.LOAD as queued. -/
structure LoadOp where
  slot : Nat
  q : Option Nat
  base : Nat
  blk : WarpBlk
  deriving DecidableEq, Repr

/-- An entry of a loom queue (R80, R149). -/
inductive LoomOp where
  | load (o : LoadOp)
  | pass (o : PassOp)
  deriving DecidableEq, Repr

/-- A complete warp in the standby or active registers: tile rows and BF16 scale rows (R64, R72). -/
structure Warp where
  slot : Nat
  blk : WarpBlk
  rows : List (List Nat)
  scales : List (List Nat)
  allFinite : Bool
  deriving DecidableEq, Repr

/-- A pass that has started: its captured operation, the warp it uses, and the rows it enters after a truncation token
(R71). -/
structure Flight where
  op : PassOp
  warp : Warp
  rows : Nat
  deriving DecidableEq, Repr

/-- A loom (R72, R73, R80, R82). `fill` is the load being filled and whether it repeats an overwritten one. -/
structure LoomSt where
  queue0 : List LoomOp := []
  queue1 : List LoomOp := []
  fill : Option (LoadOp × Bool) := none
  standby : Option Warp := none
  active : Option Warp := none
  lost0 : Bool := false
  lost1 : Bool := false
  lastLoad0 : Option LoadOp := none
  lastLoad1 : Option LoadOp := none
  flights : List Flight := []
  served : Nat := 1
  deriving DecidableEq, Repr

/-- A program slot (R134, R139, R158). Registers not listed are 0. -/
structure SlotSt where
  phase : SlotPhase := .idle
  s : Tbl W32 := []
  a : Tbl W48 := []
  p : Tbl Bool := []
  pc : BitVec 24 := 0
  rnd : BitVec 2 := 0
  flags : Flags := Flags.none
  hold : Hold := .none
  headInsn : W64 := 0
  wdCount : Nat := 0
  wdExp : Nat := 0
  csBase : Nat := 0
  winSize : Nat := 0
  codeSize : Nat := 0
  semMask : W64 := 0
  live : Bool := false
  ident : BitVec 17 := 0
  ports : List Nat := []
  launchAclk : Nat := 0
  fn : Nat := 0
  cyclesHi : W32 := 0
  ftHi : W32 := 0
  ftFrac : W16 := 0
  winStat : Nat := 0
  emptyEvent : Bool := false
  winSkip : W32 := 0
  win0 : Option WinDesc := none
  win1 : Option WinDesc := none
  win2 : Option WinDesc := none
  win3 : Option WinDesc := none
  store : Option SizeBlk := none
  mons : Tbl Mon := []
  loadA : Option WarpBlk := none
  loadB : Option WarpBlk := none
  report : Option (List W32) := none
  deriving DecidableEq, Repr

end Sys2Proof.Machine
end

