-- ==== Sys2Proof/Machine/StreamTypes.lean ====
section
/-! DEFINITION. The state of the stream engines and the Quire path (R167 to R194). -/

namespace Sys2Proof.Machine

/-- What waits for the answer of a request to another device: a stream request, a Quire transfer, or nothing: a post of a
stream engine (4 = the Quire path), or a request of the scheduler firmware; or a collective's message. -/
inductive XUser where
  | stream (core engine slot id : Nat)
  | quire (core id : Nat)
  | post (engine : Nat)
  | firmware
  | coll (uid : Nat)
  deriving DecidableEq, Repr

/-- A request to another device's map (R334): read, write, or post a semaphore. -/
inductive XOp where
  | get (addr len : Nat)
  | put (addr : Nat) (bytes : List Byte)
  | signal (core q count : Nat)
  deriving DecidableEq, Repr

/-- One credit link of a descriptor (R176): word 6 or word 7 of Table 07-1. -/
structure Link where
  postQ : Nat
  postCore : Nat
  postEn : Bool
  waitQ : Nat
  waitEn : Bool
  cap : Nat
  deriving DecidableEq, Repr

/-- The stream descriptor (Table 07-1), with esize in bytes. -/
structure StrmBlk where
  patBase : Nat
  patSpace : Nat
  pkBase : Nat
  slotPitch : Nat
  cmpl : Nat
  dirOut : Bool
  persist : Bool
  rearm : Bool
  transpose : Bool
  mcast : Bool
  cmplEn : Bool
  esize : Nat
  conv : Nat
  tileDims : Nat
  ndims : Nat
  pk : Link
  pt : Link
  mask : Nat
  patDev : Nat
  c0 : Nat
  c1 : Nat
  c2 : Nat
  c3 : Nat
  c4 : Nat
  s0 : Int
  s1 : Int
  s2 : Int
  s3 : Int
  s4 : Int
  deriving DecidableEq, Repr

/-- An outstanding request: `count` elements from element `first` in element order (R175); `ended` holds the answer of
the Crebor transport once it has come. -/
structure StrmReq where
  id : Nat
  first : Nat
  count : Nat
  ended : Option ReqEnd
  deriving DecidableEq, Repr

/-- A descriptor in an engine's queue: the block, and how far it has come. -/
structure StrmRun where
  slot : Nat
  q : Option Nat
  blk : StrmBlk
  base : Nat
  winSize : Nat
  ident : BitVec 17
  tileBase : Nat := 0
  started : Bool := false
  next : Nat := 0
  pkTaken : Nat := 0
  ptTaken : Nat := 0
  reqs : List StrmReq := []
  arrived : List (Nat × Nat) := []
  delivered : Nat := 0
  pkPosted : Nat := 0
  ptPosted : Nat := 0
  suspended : Option Nat := none
  resolved : Bool := false
  term : Option (Nat × Nat) := none
  truncated : Bool := false
  flags : Flags := Flags.none
  cancelled : Bool := false
  cancelAt : Nat := 0
  settled : Bool := false
  deriving DecidableEq, Repr

/-- A queue entry: a descriptor or a STRM.CANCEL with the semaphore it posts (Table 06-11, R189). -/
inductive StrmEntry where
  | desc (r : StrmRun)
  | cancel (q : Option Nat)
  deriving DecidableEq, Repr

/-- The armed persistent descriptor of a slot (R180): the block kept and the tiles run so far, its ring position. -/
structure Armed where
  blk : StrmBlk
  tiles : Nat
  deriving DecidableEq, Repr

/-- A stream engine of a core. -/
structure StrmSt where
  queue0 : List StrmEntry := []
  queue1 : List StrmEntry := []
  armed0 : Option Armed := none
  armed1 : Option Armed := none
  served : Nat := 1
  deriving DecidableEq, Repr

/-- The Quire block (Table 07-4). -/
structure QuireBlk where
  src : Nat
  dst : Nat
  srcSpace : Nat
  dstSpace : Nat
  signal : Bool
  waitEn : Bool
  waitQ : Nat
  waitCount : Nat
  size : Nat
  srcDev : Nat
  dstDev : Nat
  postQ : Nat
  postCore : Nat
  postEn : Bool
  count : Nat
  deriving DecidableEq, Repr

/-- A Quire transfer from issue to completion. `started` says its wait decrement has been taken (or it has none), and
`page` names an absent host page it waits for (R186); `ended` holds a Crebor answer and `data`
the bytes already read for a write to another device. -/
structure QuireOp where
  id : Nat
  slot : Nat
  q : Option Nat
  blk : QuireBlk
  base : Nat
  winSize : Nat
  ident : BitVec 17
  started : Bool
  cancelled : Bool := false
  page : Option Nat := none
  ended : Option ReqEnd := none
  data : Option (List Byte) := none
  deriving DecidableEq, Repr

/-- The Quire path of a core: its transfers in issue order, and the STRM.CANCELs on engine 4 (slot, number of the first later transfer, semaphore). -/
structure QuireSt where
  ops : List QuireOp := []
  cancels : List (Nat × Nat × Option Nat) := []
  deriving DecidableEq, Repr

/-- A truncation mark on core-store bytes lo to hi (device-map addresses), made by a descriptor of a slot on an engine
(R193). -/
structure TruncMark where
  lo : Nat
  hi : Nat
  slotKey : Nat
  engine : Nat
  deriving DecidableEq, Repr

/-- A page request group: the function, the page, the work it suspends; `sent` is false while it waits for its turn
(R362) and `dead` true once its work was cancelled (R190). -/
structure PageReq where
  fn : Nat
  page : Nat
  user : PageUser
  sent : Bool
  dead : Bool
  deriving DecidableEq, Repr

end Sys2Proof.Machine
end

