-- ==== Sys2Proof/Machine/CrbTypes.lean ====
section
/-! DEFINITION. The state of the Crebor fabric (R322 to R354): links, transport, receive windows, collectives, snapshots. -/

namespace Sys2Proof.Machine

/-- A DATA flit that waits to be sent or, with its number, to be acknowledged (R327). -/
structure TxFlit where
  vl : Nat
  sop : Bool
  eop : Bool
  payload : List Byte
  seq : Nat := 0
  sentAt : Nat := 0
  deriving DecidableEq, Repr

/-- A packet that has arrived whole on a link, with its virtual lane (R329). -/
structure RxPkt where
  vl : Nat
  flits : Nat
  bytes : List Byte
  deriving DecidableEq, Repr

/-- A link: ports 0 to 7, tunnels 8 to 23. `tx` waits to be sent, `replay` was sent and is not acknowledged, `resend` of its
newest flits are to be sent again, `seq` and `expect` are the next numbers sent and expected, `credits` what the link may
send by virtual lane, `partner` what its partner may send, `owed` the buffer freed and not yet returned, `part` the packet being
assembled by lane, `rx` the packets assembled, `ctrl` the control flits to send. `gap` and `sync` are the unanswered REPLAY_REQ
and CRED_SYNC and when they were sent, `initAt` the last CRED_INIT while link-up is unacknowledged, `viol` the instants of
counted violations, `since` those since the last event, `ready`, `stalls` and `stallVl` the flit slots of the running window. -/
structure LinkSt where
  mode : Nat := 0
  media : Nat := 0
  tx : List TxFlit := []
  replay : List TxFlit := []
  resend : Nat := 0
  seq : Nat := 0
  expect : Nat := 0
  sizes : Bool := false
  credits : Tbl Nat := []
  partner : Tbl Nat := []
  owed : Tbl Nat := []
  part : Tbl (List (List Byte)) := []
  rx : List RxPkt := []
  ctrl : List (List Byte) := []
  gap : Option (Nat × Nat) := none
  sync : Option Nat := none
  initAt : Option Nat := none
  viol : List Nat := []
  since : Nat := 0
  lastEvt : Option Nat := none
  downAt : Nat := 0
  probeAt : Option Nat := none
  timeAt : Option Nat := none
  slots : Nat := 0
  stalls : Tbl Nat := []
  stalled : Nat := 0
  winAt : Nat := 0
  heard : Nat := 0
  deriving DecidableEq, Repr

/-- An outstanding transport request of this device (R334, R338): the packet as sent, what it serves, and its resends. -/
structure XReq where
  tag : Nat
  dst : Nat
  job : Nat
  user : XUser
  addr : Nat
  packet : List Byte
  sentAt : Nat
  resent : Nat
  deriving DecidableEq, Repr

/-- A request already applied here, with its answer (R338). -/
structure Seen where
  src : Nat
  tag : Nat
  at_ : Nat
  answer : List Byte
  deriving DecidableEq, Repr

/-- A receive window (R337): slot and number are its key. -/
structure RecvWin where
  lo : Nat
  len : Nat
  readable : Bool
  writable : Bool
  deriving DecidableEq, Repr

/-- A collective at this device (R341 to R346): its request's fields, its rank and the group's members. `heard` holds what
children sent up (rank, first element, bytes, flags) and `dsts` the destinations they named (R344), `sentUp` says its subtotal
went to its parent, `down` what the parent sent (first element, bytes) with its flags, `got` the broadcast elements written by
MCAST, `failed` the status of a message that failed. -/
structure Coll where
  uid : Nat
  slotKey : Nat
  job : Nat
  fabric : Nat
  op : Nat
  fmt : Nat
  group : Nat
  rnd : Nat
  replyQ : Option Nat
  seq : Nat
  src : Nat
  dst : Nat
  count : Nat
  cmpl : Nat
  t : Nat
  guard_ : Nat
  rank : Nat
  members : List Nat
  timeoutUs : Nat
  mcast : Option Nat
  startedAt : Nat
  running : Bool := false
  heard : List (Nat × Nat × List Byte) := []
  dsts : List (Nat × Nat) := []
  flags : Flags := Flags.none
  sentUp : Bool := false
  down : List (Nat × List Byte) := []
  downEnd : Bool := false
  got : List (Nat × Nat) := []
  failed : Option Nat := none
  deriving DecidableEq, Repr

/-- A running snapshot (R319): its instant, its job with the fabric job ID, its DDR4 ranges and capture region, and the messages
logged so far. -/
structure Snap where
  t : Nat
  job : Nat
  tag : Nat
  fabric : Nat
  ranges : List (Nat × Nat)
  region : Nat
  regionLen : Nat
  log : List (List Byte)
  deriving DecidableEq, Repr

end Sys2Proof.Machine
end

