-- ==== Sys2Proof/Machine/HostTypes.lean ====
section
/-! DEFINITION. The host side of the state: what the device emits, ring control state and completions (R364 to R381). -/

namespace Sys2Proof.Machine

/-- What leaves the device: the record of everything it writes, sends or drives, oldest first. -/
inductive Out where
  | hostWrite (fn addr : Nat) (bytes : List Byte)
  | msix (fn vector : Nat)
  | pageRequest (fn page : Nat)
  | doeResponse (bytes : List Byte)
  | doeError
  | mctpResponse (bytes : List Byte)
  | mgmtRead (bytes : List Byte)
  | regRead (initiator fn offset value : Nat)
  | barRead (bytes : List Byte)
  | completerAbort
  | flit (port : Nat) (bytes : List Byte)
  | datagram (tunnel : Nat) (bytes : List Byte)
  | trainPort (port : Nat)
  | ethernet (port : Nat) (bytes : List Byte)
  | excReport (words : List W32)
  | invalidateDone (fn page : Nat)
  | pin (name level : Nat)
  | flashWrite (slot : Nat) (bytes : List Byte)
  | debug (words : List Nat)
  deriving DecidableEq, Repr

/-- A completion entry before sq_head and phase are filled in (Table 14-6); `irq` is the descriptor's irq bit. -/
structure Cpl where
  tag : Nat
  status : Nat
  flags : Nat := 0
  kind : Nat := 0
  sqId : Nat := 0xFFFF
  ident : Nat := 0
  w3 : Nat := 0
  w4 : Nat := 0
  w5 : Nat := 0
  w6 : Nat := 0
  w7 : Nat := 0
  irq : Bool := false
  deriving DecidableEq, Repr

/-- Ring control state beyond the ring's registers: doorbell indices, held completions (R379), unsignalled completions
(R381), an outstanding page request of the ring (R465), and whether it is held at an AT_TIME entry by a full gate (R316). -/
structure RingSt where
  sqTail : Nat := 0
  cqHead : Nat := 0
  held : List Cpl := []
  unsignalled : Nat := 0
  oldest : Nat := 0
  pageWait : Bool := false
  gateHeld : Bool := false
  deriving DecidableEq, Repr

/-- How far a taken descriptor has come (R368, R313): it waits for its condition or in the launch gate, it is eligible (the
number gives the order), or its command runs. -/
inductive DescPhase where
  | waiting
  | armed
  | eligible (n : Nat)
  | begun
  deriving DecidableEq, Repr

/-- A descriptor that has been taken and has not completed: its 16 words, and for AFTER_TAG the earlier descriptors it
waits for (R368). -/
structure Desc where
  uid : Nat
  fn : Nat
  ring : Nat
  words : List Nat
  phase : DescPhase
  after : List Nat
  deriving DecidableEq, Repr

end Sys2Proof.Machine
end

