-- ==== Sys2Proof/Machine/LiveTypes.lean ====
section
/-! DEFINITION. The state of the live ports (R195 to R218). -/

namespace Sys2Proof.Machine

/-- The live port record (Table 08-1). -/
structure LiveRec where
  audio : Bool
  st2110 : Bool
  cb : Nat
  inFmt : Nat
  inW : Nat
  inH : Nat
  rateNum : Nat
  rateDen : Nat
  bt2020 : Bool
  full : Bool
  csc : Nat
  orient : Nat
  cropX : Nat
  cropY : Nat
  cropW : Nat
  cropH : Nat
  outW : Nat
  outH : Nat
  regroup : Nat
  bf16 : Bool
  mseEn : Bool
  inFrames : Nat
  ringRows : Nat
  mseSem : Nat
  ringBase : Nat
  yPitch : Nat
  planePitch : Nat
  relAddr : Nat
  recAddr : Nat
  fieldBase : Nat
  fieldPitch : Nat
  cplRing : Nat
  vatArea : Nat
  inBase : Nat
  inLinePitch : Nat
  inPlanePitch : Nat
  inFramePitch : Nat
  pt : Nat
  udpPort : Nat
  dstIp : List Byte
  srcIp : List Byte
  deriving DecidableEq, Repr

/-- An input frame that has arrived or is arriving (R197 to R205): its number, capture time, RTP timestamp, the lines or
blocks counted, the lost ones, whether its input has ended, the samples received of lines not yet counted, and whether all its output rows
or blocks are written. -/
structure FrameIn where
  no : Nat
  capture : Nat
  ts : Nat
  lines : Nat
  lost : List Nat
  ended : Bool
  got : List (Nat × Nat × Nat)
  done : Bool := false
  deriving DecidableEq, Repr

/-- A conditioned picture that the motion search works on (R216): its frame, the bands finished, and whether it has a
reference; `cur` is the luma buffer that holds it. -/
structure MseJob where
  frame : Nat
  bands : Nat
  hasRef : Bool
  cur : Nat
  deriving DecidableEq, Repr

/-- A bound live port. `areaBase` is the device-map base of the session's Vat area, `inRing` the DDR4 ring of ST 2110
input frames with its pitches, `luma` the base of its four luma buffers (log entry 8), the last used of them `lumaIdx`; `rows` counts regrouped rows or blocks written
since binding, `hist` holds when frame_in and lines_in took each value (frame, lines, ns) for the latency of R294. -/
structure LivePort where
  cfg : LiveRec
  session : Nat
  die : Nat
  deckle : Nat
  mse : Nat
  areaBase : Nat
  coefs : List Int
  inRing : Nat
  ringLine : Nat
  ringPlane : Nat
  ringFrame : Nat
  luma : Nat
  lumaIdx : Nat := 0
  frameIn : Nat := 0xFFFFFFFF
  linesIn : Nat := 0
  frameOut : Nat := 0xFFFFFFFF
  linesOut : Nat := 0
  frames : List FrameIn := []
  running : Bool := false
  rows : Nat := 0
  blockBase : Nat := 0
  lastSample : Option Nat := none
  lastTs : Nat := 0
  picLost : Nat := 0
  prevDone : Option Nat := none
  mseJobs : List MseJob := []
  hist : List (Nat × Nat × Nat) := []
  deriving DecidableEq, Repr

end Sys2Proof.Machine
end

