-- ==== Sys2Proof/Machine/PressTypes.lean ====
section
/-! DEFINITION. The state of the Press engines (R405 to R424). -/

namespace Sys2Proof.Machine

/-- A stream context that is not IDLE (R406). `data` holds every input byte since begin (uncompressed for DEFLATE, the
compressed bytes consumed for INFLATE), `flushes` the input lengths at its flushes, `done` the output bytes written: these fix the
history, the hash table, the pending input, the unfinished byte and the check value (log entry 22). -/
structure PressCtx where
  inflate : Bool
  framing : Nat
  data : List Byte := []
  flushes : List Nat := []
  done : Nat := 0
  deriving DecidableEq, Repr

/-- A Press command that has been accepted (Table 16-2). -/
structure PressCmd where
  uid : Nat
  op : Nat
  stream : Nat
  framing : Nat
  starts : Bool
  ends : Bool
  src : Nat
  srcLen : Nat
  dst : Nat
  dstLen : Nat
  srcDdr : Bool
  dstDdr : Bool
  bg : Bool
  deriving DecidableEq, Repr

end Sys2Proof.Machine
end

