-- ==== Sys2Proof/Machine/SessTypes.lean ====
section
/-! DEFINITION. The state of bundles, jobs and sessions (R274 to R296), of the decoder (R262 to R269) and of the entropy
engines (R221 to R248). -/

namespace Sys2Proof.Machine

/-- A bundle by handle: its DDR4 region, the BUNDLE_LOAD descriptor while it loads (R277), its fingerprint once
published. -/
structure Bundle where
  lo : Nat
  len : Nat
  loading : Option Nat
  fp : List Byte
  deriving DecidableEq, Repr

/-- The session states but FREE (R282); a session that is not listed is FREE. -/
inductive SessPhase where
  | opened
  | active
  | parked
  | faulted
  | draining
  deriving DecidableEq, Repr

/-- A posted output buffer (R286). -/
structure OutBuf where
  tag : Nat
  addr : Nat
  len : Nat
  used : Nat
  deriving DecidableEq, Repr

/-- A queued frame (R282): its submission tag, its place in arrival order, and the operands of FRAME_SUBMIT. -/
structure FrameReq where
  tag : Nat
  serial : Nat
  deadline : Nat
  addr : Nat
  len : Nat
  picAddr : Nat
  reportAddr : Nat
  qIndex : Nat
  deriving DecidableEq, Repr

/-- The dispatched frame of a session (R287): what its completion will report, the next slice index, the latents of its
slices (log entry 9), and for a decode the stored units not yet handled and the reports written. -/
structure Frame where
  req : FrameReq
  num : Nat
  intra : Bool
  reports : Nat := 0
  written : Nat := 0
  dropped : Nat := 0
  status : Nat := 0
  info : List Nat := []
  flags : Flags := Flags.none
  next : Nat := 0
  lat : Tbl Nat := []
  units : List (List Byte) := []
  deriving DecidableEq, Repr

/-- The decoder states (R262). -/
inductive DecPhase where
  | noSeq
  | seq
  | frame
  | refused
  deriving DecidableEq, Repr

/-- A time anchor (Table 10-5). -/
structure Anchor where
  num : Nat
  capture : Nat
  locked : Bool
  deriving DecidableEq, Repr

/-- An open frame of the decoder (R264): the next slice index, what its report will say, the latents of its slices. -/
structure DecFrame where
  num : Nat
  intra : Bool
  q : Nat
  next : Nat := 0
  concealed : Nat := 0
  gap : Nat := 0
  noRef : Bool := false
  anchor : Option Anchor := none
  flags : Flags := Flags.none
  lat : Tbl Nat := []
  deriving DecidableEq, Repr

/-- The decoder of a session (R262 to R269). `body` is the current sequence header's body; `ref` holds the reference
latents by slice when `refOk`. -/
structure Dec where
  phase : DecPhase := .noSeq
  body : List Byte := []
  last : Option Nat := none
  open_ : Option DecFrame := none
  anchor : Option Anchor := none
  discarded : Nat := 0
  missing : Nat := 0
  drift : Bool := false
  refOk : Bool := false
  ref : Tbl Nat := []
  stillDone : Bool := false
  deriving DecidableEq, Repr

/-- A session (R280 to R287). `ctx` is its context's DDR4 region, `area` its Vat area (address, bytes), `start` says the
encoder has still to write its sequence header, `adaptT` the step count t of its adaptation (R107), `closing` the close
descriptor, `checkpoints` the waiting SESS_CHECKPOINT commands (descriptor, buffer address and length). -/
structure Sess where
  phase : SessPhase := .opened
  cls : Nat
  decode : Bool
  media : Nat
  bundle : Nat
  repeatSeq : Bool
  adaptSteps : Nat
  cplRing : Nat
  qIndex : Nat
  seqId : Nat
  picW : Nat
  picH : Nat
  rateNum : Nat
  rateDen : Nat
  colour : Nat
  ctx : Nat
  ctxLen : Nat
  port : Option Nat := none
  cores : List Nat := []
  queue : List FrameReq := []
  frame : Option Frame := none
  bufs : List OutBuf := []
  intraReq : Bool := false
  adaptNext : Option Nat := none
  adaptReset : Bool := false
  adaptT : Nat := 0
  start : Bool := true
  lastNum : Option Nat := none
  refOk : Bool := false
  ref : Tbl Nat := []
  dec : Dec := {}
  closing : Option Nat := none
  closeStatus : Nat := 0
  checkpoints : List (Nat × Nat × Nat) := []
  deriving DecidableEq, Repr

/-- A PF2 job (R371): its descriptor, fabric job ID, bundle, exports and group records; `running` once dispatched. -/
structure Job where
  uid : Nat
  tag : Nat
  ring : Nat
  fabric : Nat
  bundle : Nat
  bg : Bool
  running : Bool := false
  exports : List (List Byte) := []
  groups : List (List Byte) := []
  args : List Byte := []
  status : Nat := 0
  info : List Nat := []
  flags : Flags := Flags.none
  deriving DecidableEq, Repr

/-- An open request that waits in the dispatcher (Table 09-4). -/
structure OpenReq where
  slotKey : Nat
  session : Nat
  live : Bool
  bundle : Nat
  unitType : Nat
  dir : Bool
  family : Nat
  symTotal : Nat
  replyQ : Nat
  doneQ : Nat
  deriving DecidableEq, Repr

/-- The states of a lease (Table 09-6). -/
inductive LeasePhase where
  | opened
  | loaded
  | closed
  | failed
  deriving DecidableEq, Repr

/-- A command queued at a window's command port (Table 09-5); `ok` is false where a reserved field is not 0 or a field is out
of its range. -/
inductive EntCmd where
  | step (ok : Bool) (step : Nat) (last : Bool) (param count symBase : Nat)
  | load (ok : Bool) (nSteps payOff unitLen : Nat)
  | close (ok : Bool) (hdrLen : Nat)
  | release (ok : Bool)
  deriving DecidableEq, Repr

/-- A lease of window w of engine e. `items` are the (CDF, symbol) pairs of the open step on encode; `xs` and `pos` the rANS
states and word pointer of the open step on decode; `subs` the substreams built or located; `raw` the raw bits written or
to read, `rawPos` the next to read; `out` says it has left the queue depth, `dropped` that the scheduler firmware releases it
(R247), `used` that a unit of the decoder has taken its result. -/
structure Lease where
  slotKey : Nat
  session : Nat
  live : Bool
  bundle : Nat
  unitType : Nat
  dir : Bool
  family : Nat
  famSlot : Nat
  symTotal : Nat
  symDone : Nat := 0
  doneQ : Nat
  tag : Nat
  phase : LeasePhase := .opened
  status : Nat := 0
  flags : Flags := Flags.none
  stepsDone : Nat := 0
  cmdStatus : Nat := 0
  cmdCount : Nat := 0
  unitLen : Nat := 0
  errWhere : Nat := 0
  errSym : Nat := 0
  errOffset : Nat := 0
  cmds : List EntCmd := []
  openStep : Bool := false
  nextSym : Nat := 0
  items : List (Nat × Nat) := []
  xs : List Nat := []
  pos : Nat := 0
  subs : List (List Byte) := []
  raw : List Bool := []
  rawPos : Nat := 0
  nSteps : Nat := 0
  out : Bool := false
  dropped : Bool := false
  used : Bool := false
  deriving DecidableEq, Repr

/-- A family slot of an engine: the bundle and family it holds or is being loaded with (R225). -/
structure FamSlot where
  bundle : Nat
  family : Nat
  nCdf : Nat
  ready : Bool
  deriving DecidableEq, Repr

/-- An entropy engine: its two family slots and the window served last (R243). -/
structure EngSt where
  fam0 : Option FamSlot := none
  fam1 : Option FamSlot := none
  served : Nat := 4
  servedLive : Nat := 4
  deriving DecidableEq, Repr

end Sys2Proof.Machine
end

