-- ==== Sys2Proof/Machine/State.lean ====
section
/-! DEFINITION. The state of the UZ960 (every piece INVENTORY.md lists), the reasons a step can stop, and the state
right after cold reset. -/

namespace Sys2Proof.Machine

/-- No command of the UZ960 stops the machine: the spec gives every error a status, an exception or an event. -/
inductive Fault where
  deriving DecidableEq, Repr

/-- Why a command has no step. -/
inductive Refusal where
  /-- An arm of Dispatch.lean that has no meaning yet raises it. Safe: the machine stops where the device goes on. -/
  | notModelled (mnemonic : String)
  /-- Raised by every meaning whose command names an event that cannot happen in the present state (a completion of an
  operation that is not outstanding, an instruction of a slot that is not issuing). The spec gives such an event no
  step. Safe: it allows nothing the device does not do. -/
  | notEnabled (why : String)
  deriving DecidableEq, Repr

/-- The media cores: slots by 2 × core + slot, looms by 2 × core + loom, units by 2 × core + (0 Sizing, 1 vector),
semaphores by 64 × core + q, SEMOVF by core, powered-off cores. -/
structure CoreGrp where
  slots : Tbl SlotSt := []
  looms : Tbl LoomSt := []
  units : Tbl UnitSt := []
  sems : Tbl Nat := []
  semovf : Tbl W64 := []
  deriving DecidableEq, Repr

/-- Stream engines by 8 × core + engine, Quire paths by core, truncation marks, page requests and the functions whose
page requests have failed for good (R362). -/
structure StrmGrp where
  engines : Tbl StrmSt := []
  quires : Tbl QuireSt := []
  marks : List TruncMark := []
  pages : List PageReq := []
  priFailed : Tbl Bool := []
  priAlloc : Tbl Nat := []
  kept : Tbl (List Nat) := []
  deriving DecidableEq, Repr

/-- A buffer in the live region and the session that owns it (R394, R395). -/
structure LiveBuf where
  lo : Nat
  len : Nat
  ident : Nat
  deriving DecidableEq, Repr

/-- DDR4 beyond its bytes (R388 to R403): interleave seed, whether it counts as trained, the retired-page list in flash,
the marked lines by line number, live-region buffers, scrub corrections since the last report and its time by channel. -/
structure DdrGrp where
  seed : W64 := 0
  trained : Bool := false
  retired : List Nat := []
  poison : Tbl Bool := []
  bufs : List LiveBuf := []
  scrubCorr : Tbl Nat := []
  scrubTime : Tbl (Option Nat) := []
  deriving DecidableEq, Repr

/-- Live ports by number (R195); a port that is not listed is unbound. -/
structure LiveGrp where
  ports : Tbl (Option LivePort) := []
  deriving DecidableEq, Repr

/-- What a neighbour's last TIME message said (Table 13-12), and when it came. -/
structure Advert where
  gmId : Nat
  cls : Nat
  prio : Nat
  hops : Nat
  maxHops : Nat
  gmEn : Bool
  at_ : Nat
  deriving DecidableEq, Repr

/-- Time (R297 to R312, R476). `ft` is Fabric Time in units of 2^-16 ns, `freq` the frequency correction per ACLK and `slew` the
offset still to be removed, in the same unit; `cal` the calendar clock in 1/32,768 s with its fraction, `calSec` the second last
written to it; `valid` the ACLK of the last valid sample, `run` the valid samples in a row within their bound, `bad` the samples in a
row invalid for their offset; `adverts` the neighbours by port and `parent` the one followed; the armed second of TIM_SET_SEC and its
low word; the PPS_IN edges seen in order, the last, and whether PPS_IN and FREQ_IN are present; the PTP slave's lock; the second at
which PPS_OUT rose last and whether it is high; whether VBAT_RTC fell too low while the device was unpowered. -/
structure TimeGrp where
  ft : Nat := 0
  freq : Int := 0
  slew : Int := 0
  cal : Nat := 0
  calFrac : Nat := 0
  calSec : Nat := 0
  valid : Nat := 0
  run : Nat := 0
  bad : Nat := 0
  adverts : Tbl (Option Advert) := []
  parent : Option Nat := none
  setLo : Nat := 0
  armed : Option Nat := none
  ppsRun : Nat := 0
  ppsAt : Option Nat := none
  ppsOk : Bool := false
  freqOk : Bool := false
  ptpLocked : Bool := false
  ppsSec : Nat := 0
  ppsHigh : Bool := false
  calBad : Bool := false
  deriving DecidableEq, Repr

/-- The host interface: rings by 2048 × function + ring, MSI-X vectors not masked and pending bits by 4096 × function +
vector, the descriptors taken and not completed in the order taken, the function and the ring of each function served last
(R375), the running and queued PF2 jobs (R371). -/
structure HostGrp where
  rings : Tbl RingSt := []
  msixOpen : Tbl Bool := []
  msixPend : Tbl Bool := []
  descs : List Desc := []
  lastFn : Nat := 3
  lastRing : Tbl Nat := []
  jobs : List Job := []
  deriving DecidableEq, Repr

/-- Bundles by handle, sessions by ID (a session that is not listed is FREE), the DDR4 regions the firmware has
allocated (start, bytes), and the Vat copies of bundles (handle, die, start, bytes; R275). -/
structure SessGrp where
  bundles : Tbl (Option Bundle) := []
  sess : Tbl (Option Sess) := []
  allocs : List (Nat × Nat) := []
  vats : List (Nat × Nat × Nat × Nat) := []
  deriving DecidableEq, Repr

/-- The Felt (R221 to R248): leases by 8 × engine + window, engines, waiting open requests in order, grants by slot. -/
structure FeltGrp where
  leases : Tbl (Option Lease) := []
  engs : Tbl EngSt := []
  opens : List OpenReq := []
  grants : Tbl Nat := []
  deriving DecidableEq, Repr

/-- Crebor: links (0 to 7 ports, 8 to 23 tunnels, 24 packets of this device to itself), outstanding and waiting transport
requests, the next tag, answered requests, receive windows by 4 × slot + number, collectives in the order taken, collective
messages that came before this device's request, the next
sequence number of a group and the status of an abort that came early by (65536 × job + group), reset IDs seen with their time,
resets originated, timed resets waiting, the snapshot, and messages it holds. -/
structure CrbGrp where
  links : Tbl LinkSt := []
  outstanding : List XReq := []
  waiting : List XReq := []
  nextTag : Nat := 0
  seen : List Seen := []
  wins : Tbl (Option RecvWin) := []
  colls : List Coll := []
  early : List RxPkt := []
  seqs : Tbl Nat := []
  aborted : List (Nat × Nat × Nat × Nat) := []
  resets : List (Nat × Nat) := []
  resetCount : Nat := 0
  timed : List (Nat × Nat × Option Nat) := []
  snap : Option Snap := none
  heldPkts : List RxPkt := []
  deriving DecidableEq, Repr

/-- The mailbox object being written (R444): its kind, the flash copy (0 = A, 1 = B) and its bytes. -/
structure MboxObj where
  kind : Nat
  copy : Nat
  bytes : List Byte
  deriving DecidableEq, Repr

/-- Boot and the management firmware (R425 to R449). `hold` says the device is held in reset, `wait` is the waiting state of Table 17-8
(0 none; 10 a PUF that cannot be reconstructed), `restarting` that the scheduler firmware is being restarted; the flash (erased bytes are
0xFF), its counters C0 to C3, the DDR4 regions locked beside those of bundles, the objects in use by kind (1 to 4), the secret K while the
root firmware holds it, the tag of the training store (record digest, module serials), the last liveness report, the restarts by time, the
cores to be reset after one, the last watchdog report, a warm reset that is due (cause, instant), the mailbox's object, and what a
debugger has halted: slots by 2 × core + slot, management cores from 64. -/
structure BootGrp where
  hold : Bool := false
  wait : Nat := 0
  restarting : Bool := false
  flash : Tbl Byte := []
  rpmc : Tbl Nat := []
  locked : List (Nat × Nat) := []
  objs : Tbl (List Byte) := []
  secret : List Byte := []
  tag : List Byte := []
  live : Nat := 0
  restarts : List Nat := []
  cores : List Nat := []
  rootAt : Nat := 0
  warm : Option (Nat × Nat) := none
  mbox : Option MboxObj := none
  halted : List Nat := []
  deriving DecidableEq, Repr

/-- Power (R295, R460 to R462, R472): the cores powered off and those chosen to be, what dispatch is stopped, the level of shedding, the
conditions of R295 (Tj at its limit, power above its limit, Tj and power low enough to undo), when the present shedding step or calm began
and since when Tj is at or below 95 °C, the last readings and VID step, and whether VDD_AUX is out of range or THERMTRIP_N asserted. -/
structure PwrGrp where
  gated : List Nat := []
  chosen : List Nat := []
  bgStop : Bool := false
  stdStop : Bool := false
  allStop : Bool := false
  shed : Nat := 0
  hotT : Bool := false
  hotP : Bool := false
  coolT : Bool := false
  coolP : Bool := false
  stepAt : Nat := 0
  calmAt : Option Nat := none
  cool95 : Option Nat := none
  tempAt : Option Nat := none
  powAt : Option Nat := none
  vidAt : Option Nat := none
  auxOff : Bool := false
  tripped : Bool := false
  deriving DecidableEq, Repr

/-- The Press: the contexts of PF3 that are not IDLE, the commands that wait for their stream or an engine in the order accepted,
and the commands given to each engine, the first of which runs. -/
structure PressGrp where
  ctxs : Tbl (Option PressCtx) := []
  waiting : List PressCmd := []
  engs : Tbl (List PressCmd) := []
  deriving DecidableEq, Repr

/-- Everything but the command queue. `regs` holds the BAR registers that differ from their reset values, by
2^20 × function + BAR0 offset; `latch` the latched registers by initiator (R489); `mem` the device map (Table 15-2);
`out` what the device has emitted; `free` counts the free values drawn. -/
structure Dev where
  aclk : Nat := 0
  free : Nat := 0
  nextId : Nat := 0
  out : List Out := []
  mem : Tbl Byte := []
  regs : Tbl (Option W32) := []
  latch : Tbl W32 := []
  core : CoreGrp := {}
  strm : StrmGrp := {}
  ddr : DdrGrp := {}
  live : LiveGrp := {}
  time : TimeGrp := {}
  host : HostGrp := {}
  sess : SessGrp := {}
  felt : FeltGrp := {}
  crb : CrbGrp := {}
  boot : BootGrp := {}
  pwr : PwrGrp := {}
  press : PressGrp := {}
  deriving DecidableEq, Repr

/-- The machine: the block and the commands that wait, oldest first. -/
structure State where
  dev : Dev
  pending : List Instr
  deriving DecidableEq, Repr

/-- The block right after cold reset: every field at the default its declaration gives. -/
def Dev.reset : Dev := {}

/-- The machine right after cold reset, with no command waiting. -/
def State.reset : State := { dev := Dev.reset, pending := [] }

end Sys2Proof.Machine
end

