-- ==== Sys2Proof/Machine/Regs.lean ====
section
/-! DEFINITION. The BAR registers (R6 to R9, R386, R487 to R492): where each lies, its reset value and its fields with
their access codes and value sets, and the operations that read, write and update them. -/

namespace Sys2Proof.Machine

/-- Access codes (Table 00-4) used by BAR registers; reserved fields are `ro` with value 0. -/
inductive Acc where
  | ro
  | rw
  | w1c
  | rc
  | wo
  deriving DecidableEq, Repr

/-- A field: its lowest bit, width, access code, and the values its description admits (none listed: every value). -/
structure Fld where
  lo : Nat
  w : Nat
  acc : Acc
  legal : List (Nat × Nat) := []
  deriving DecidableEq, Repr

/-- A register: its whole value after cold reset and its fields other than reserved ones. -/
structure RegSpec where
  reset : Nat
  fields : List Fld
  deriving DecidableEq, Repr

/-- The key of a register of function `fn` at BAR0 offset `off`. -/
def regKey (fn off : Nat) : Nat := fn * 0x100000 + off

/-- The base of the ring table of a function (R386). -/
def ringBase (fn : Nat) : Nat := if fn == 0 then 0x21000 else regKey fn 0x1000

/-- The key of ring register `o` of ring r of a function. -/
def kRing (fn r o : Nat) : Nat := ringBase fn + 0x40 * r + o

/-- The number of ring pairs of a function, the event ring counted (Table 14-2, R386). -/
def ringCount (fn : Nat) : Nat := if fn == 0 then 9 else if fn == 3 then 64 else 1024

/-- The MSI-X vectors of a function (Table 14-2). -/
def msixCount (fn : Nat) : Nat := if fn == 0 then 64 else if fn == 3 then 256 else 2048

def kResetCause : Nat := 0x20
def kBridgeErr : Nat := 0x40
def kGpioDir : Nat := 0x60
def kGpioOut : Nat := 0x64
def kGpioIn : Nat := 0x68
def kLoomWidth (i : Nat) : Nat := 0x100 + 4 * i
def kTimNowLo : Nat := 0x10000
def kTimNowHi : Nat := 0x10004
def kTimNowFrac : Nat := 0x10008
def kTimStatus : Nat := 0x10010
def kTimGm : Nat := 0x10014
def kTimSrcCfg : Nat := 0x10020
def kTimSetLo : Nat := 0x10024
def kTimSetHi : Nat := 0x10028
def kTimOffset : Nat := 0x10030
def kTimAnomaly : Nat := 0x10034
def kTimHop (n : Nat) : Nat := 0x10100 + 4 * n
def kLinkStat : Nat := 0x20010
def kEvtLost : Nat := 0x20014
def kMboxCtl : Nat := 0x30000
def kMboxLen : Nat := 0x30004
def kMboxData : Nat := 0x30008
def kMboxStat : Nat := 0x3000C
def kMboxCount : Nat := 0x30010
def kBootStat : Nat := 0x30020
def kProtViol : Nat := 0x30030
def kSvn (n : Nat) : Nat := 0x30040 + 4 * n
def kMemCfg : Nat := 0x40000
def kMemLive : Nat := 0x40004
def kMemErr : Nat := 0x40008
def kMemErrCnt : Nat := 0x4000C
def kMemSkew : Nat := 0x40010
def kRetIdx : Nat := 0x40020
def kRetLo : Nat := 0x40024
def kRetHi : Nat := 0x40028
def kChStat (c : Nat) : Nat := 0x40100 + 4 * c
def kCrbDevId : Nat := 0x50000
def kCrbRoute : Nat := 0x50004
def kCrbXport : Nat := 0x50008
def kCrbHot : Nat := 0x5000C
def kCrbRouteErr : Nat := 0x50010
def kCrbPort (n o : Nat) : Nat := 0x50100 + 0x20 * n + o
def kCrbGroupRt (g : Nat) : Nat := 0x51000 + 4 * g
def kCrbMemberRt (m : Nat) : Nat := 0x51400 + 4 * m
def kCrbMcast (i : Nat) : Nat := 0x51800 + 4 * i
def kCrbTunnel (t : Nat) : Nat := 0x52000 + 0x10 * t
def kLiv (n o : Nat) : Nat := 0x61000 + 0x40 * n + o
def kEvtMask : Nat := 0x70000
def kEvtPending : Nat := 0x70004
def kEvtCount (c : Nat) : Nat := 0x70100 + 4 * c
def kPwrCtl : Nat := 0x80000
def kPwrStat : Nat := 0x80004
def kPwrTemp : Nat := 0x80008
def kPwrVdd : Nat := 0x8000C
def kEntDisp : Nat := 0x90000
def kEnt (e o : Nat) : Nat := 0x91000 + 0x40 * e + o
def kMse (e : Nat) : Nat := 0xA0100 + 4 * e
def kPrs (e o : Nat) : Nat := 0xB0100 + 0x20 * e + o

/-- The key of a latched register of an initiator class (R489): 0 root core, 1 management cores, 2 host. -/
def latchKey (ini key : Nat) : Nat := ini * 0x400000 + key

def ro32 (r : Nat) : RegSpec := { reset := r, fields := [⟨0, 32, .ro, []⟩] }

/-- The index of `off` in a run of `n` registers from `base` with a stride. -/
def strideIdx (off base stride n : Nat) : Option Nat :=
  if base ≤ off && off < base + stride * n && (off - base) % stride == 0 then some ((off - base) / stride) else none

/-- The ring registers at offset o from a ring's base (Tables 14-11 to 14-16); ring 8 of PF0 has no submission ring. -/
def ringSpec (event : Bool) (o : Nat) : Option RegSpec :=
  match o with
  | 0x00 | 0x04 => if event then none else some { reset := 0, fields := [⟨0, 32, .rw, []⟩] }
  | 0x08 | 0x0C => some { reset := 0, fields := [⟨0, 32, .rw, []⟩] }
  | 0x10 => some { reset := if event then 0x400 else 0x404,
                   fields := [⟨31, 1, .rw, []⟩, ⟨16, 11, .rw, []⟩, ⟨15, 1, .rw, []⟩, ⟨8, 5, .rw, [(4, 16)]⟩] ++
                     (if event then [] else [⟨0, 5, .rw, [(4, 16)]⟩]) }
  | 0x14 => some { reset := 1, fields := [⟨16, 16, .rw, []⟩, ⟨0, 8, .rw, [(1, 255)]⟩] }
  | 0x18 => some (ro32 0)
  | 0x1C => some { reset := 0x20000000,
                   fields := [⟨29, 3, .ro, []⟩, ⟨3, 1, .w1c, []⟩, ⟨2, 1, .w1c, []⟩, ⟨1, 1, .w1c, []⟩, ⟨0, 1, .w1c, []⟩] }
  | 0x20 => some { reset := 0, fields := [⟨24, 8, .rc, []⟩, ⟨16, 8, .rc, []⟩, ⟨8, 8, .rc, []⟩, ⟨0, 8, .rc, []⟩] }
  | _ => none

/-- The TOP block (Table 20-4). -/
def topSpec (off : Nat) : Option RegSpec :=
  match off with
  | 0x20 => some (ro32 1)
  | 0x40 => some { reset := 0xC0000000, fields := [⟨30, 2, .ro, []⟩, ⟨16, 8, .rc, []⟩, ⟨0, 16, .rc, []⟩] }
  | 0x60 | 0x64 => some { reset := 0, fields := [⟨0, 16, .rw, []⟩] }
  | 0x68 => some (ro32 0)
  | _ => if (strideIdx off 0x100 4 64).isSome then some (ro32 0x100) else none

/-- The TIM block (Table 20-5). -/
def timSpec (off : Nat) : Option RegSpec :=
  match off with
  | 0x0 | 0x4 | 0x8 => some (ro32 0)
  | 0x10 => some { reset := 0, fields := [⟨31, 1, .ro, []⟩, ⟨30, 1, .w1c, []⟩, ⟨16, 8, .ro, []⟩, ⟨8, 4, .ro, []⟩, ⟨0, 3, .ro, []⟩] }
  | 0x14 => some (ro32 2)
  | 0x20 => some { reset := 0, fields := [⟨24, 8, .rw, []⟩, ⟨16, 8, .rw, []⟩, ⟨13, 3, .rw, []⟩, ⟨11, 2, .rw, []⟩,
                                          ⟨2, 1, .rw, []⟩, ⟨1, 1, .rw, []⟩, ⟨0, 1, .rw, []⟩] }
  | 0x24 | 0x28 => some { reset := 0, fields := [⟨0, 32, .wo, []⟩] }
  | 0x30 => some (ro32 0)
  | 0x34 => some { reset := 0, fields := [⟨16, 16, .rc, []⟩, ⟨0, 16, .rc, []⟩] }
  | _ => if (strideIdx off 0x100 4 8).isSome then some (ro32 0) else none

/-- The HIF block of PF0 (Table 20-6). -/
def hifSpec (off : Nat) : Option RegSpec :=
  match off with
  | 0x0 => some (ro32 0x00090960)
  | 0x10 => some (ro32 0)
  | 0x14 => some { reset := 0, fields := [⟨0, 32, .rc, []⟩] }
  | _ => if 0x1000 ≤ off && off < 0x1000 + 0x40 * 9 then ringSpec ((off - 0x1000) / 0x40 == 8) ((off - 0x1000) % 0x40) else none

/-- The SEC block (Table 20-8). -/
def secSpec (off : Nat) : Option RegSpec :=
  match off with
  | 0x0 | 0x8 => some { reset := 0, fields := [⟨0, 32, .wo, []⟩] }
  | 0x4 => some { reset := 0, fields := [⟨0, 32, .rw, [(64, 0x1000000)]⟩] }
  | 0xC | 0x10 | 0x20 => some (ro32 0)
  | 0x30 => some { reset := 0, fields := [⟨0, 32, .rc, []⟩] }
  | _ => if (strideIdx off 0x40 4 4).isSome then some (ro32 0) else none

/-- The MEM block (Table 20-9). -/
def memSpec (off : Nat) : Option RegSpec :=
  match off with
  | 0x0 | 0x4 | 0x10 | 0x24 | 0x28 => some (ro32 0)
  | 0x8 => some { reset := 0, fields := [⟨3, 1, .w1c, []⟩, ⟨2, 1, .w1c, []⟩, ⟨1, 1, .w1c, []⟩, ⟨0, 1, .ro, []⟩] }
  | 0xC => some { reset := 0, fields := [⟨16, 16, .rc, []⟩, ⟨8, 8, .rc, []⟩] }
  | 0x20 => some { reset := 0, fields := [⟨16, 13, .rw, [(0, 4095)]⟩, ⟨0, 13, .ro, []⟩] }
  | _ => if (strideIdx off 0x100 4 16).isSome then
      some { reset := 0, fields := [⟨30, 2, .ro, []⟩, ⟨29, 1, .ro, []⟩, ⟨0, 16, .rc, []⟩] } else none

/-- The registers of one Crebor port (Tables 13-21 to 13-25). -/
def crbPortSpec (o : Nat) : Option RegSpec :=
  match o with
  | 0x00 => some { reset := 0, fields := [⟨31, 1, .rw, []⟩, ⟨30, 1, .rw, []⟩, ⟨28, 2, .rw, [(0, 2)]⟩, ⟨27, 1, .rw, []⟩, ⟨0, 12, .rw, []⟩] }
  | 0x04 => some { reset := 0, fields := [⟨29, 3, .ro, []⟩, ⟨28, 1, .w1c, []⟩, ⟨0, 8, .rc, []⟩] }
  | 0x08 => some { reset := 0, fields := [⟨16, 16, .rc, []⟩, ⟨8, 8, .rc, []⟩, ⟨0, 8, .rc, []⟩] }
  | 0x0C => some { reset := 0, fields := [⟨24, 8, .ro, []⟩, ⟨0, 16, .rc, []⟩] }
  | 0x10 => some { reset := 0, fields := [⟨16, 16, .ro, []⟩, ⟨8, 3, .ro, []⟩, ⟨0, 8, .rc, []⟩] }
  | _ => none

/-- A route table entry (Table 13-14). -/
def routeSpec : RegSpec :=
  { reset := 0, fields := [⟨31, 1, .rw, []⟩, ⟨24, 4, .rw, []⟩, ⟨15, 5, .rw, [(0, 23)]⟩, ⟨10, 5, .rw, [(0, 23)]⟩,
                           ⟨5, 5, .rw, [(0, 23)]⟩, ⟨0, 5, .rw, [(0, 23)]⟩] }

/-- The CRB block (Table 20-10). -/
def crbSpec (off : Nat) : Option RegSpec :=
  match off with
  | 0x0 => some { reset := 0, fields := [⟨0, 16, .rw, []⟩] }
  | 0x4 => some { reset := 0x40, fields := [⟨16, 16, .rw, []⟩, ⟨0, 8, .rw, [(1, 255)]⟩] }
  | 0x8 => some { reset := 0x30000007, fields := [⟨28, 3, .rw, []⟩, ⟨0, 5, .rw, [(4, 20)]⟩] }
  | 0xC => some { reset := 0x80008000, fields := [⟨31, 1, .rw, []⟩, ⟨0, 16, .rw, []⟩] }
  | 0x10 => some { reset := 0, fields := [⟨16, 16, .rc, []⟩, ⟨0, 16, .rc, []⟩] }
  | _ =>
    if 0x100 ≤ off && off < 0x200 then crbPortSpec ((off - 0x100) % 0x20)
    else if (strideIdx off 0x1000 4 512).isSome then some routeSpec
    else if (strideIdx off 0x1800 4 256).isSome then some { reset := 0, fields := [⟨8, 8, .rw, []⟩, ⟨0, 1, .rw, []⟩] }
    else if (strideIdx off 0x2000 0x10 16).isSome then
      some { reset := 0, fields := [⟨31, 1, .ro, []⟩, ⟨30, 1, .ro, []⟩, ⟨0, 16, .rc, []⟩] }
    else none

/-- The LIV block (Table 20-11). -/
def livSpec (off : Nat) : Option RegSpec :=
  if 0x1000 ≤ off && off < 0x1600 then
    match (off - 0x1000) % 0x40 with
    | 0x00 | 0x08 => some (ro32 0)
    | 0x04 | 0x0C => some (ro32 0xFFFFFFFF)
    | 0x10 => some { reset := 0, fields := [⟨16, 16, .rc, []⟩, ⟨8, 8, .rc, []⟩, ⟨0, 8, .rc, []⟩] }
    | 0x14 => some { reset := 0, fields := [⟨16, 16, .rc, []⟩, ⟨0, 16, .rc, []⟩] }
    | 0x18 => some { reset := 0, fields := [⟨0, 32, .rc, []⟩] }
    | _ => none
  else none

/-- The EVT block (Table 20-12). -/
def evtSpec (off : Nat) : Option RegSpec :=
  match off with
  | 0x0 => some { reset := 0x1FFFE, fields := [⟨1, 16, .rw, []⟩] }
  | 0x4 => some { reset := 0, fields := [⟨1, 16, .w1c, []⟩] }
  | _ => if (strideIdx off 0x104 4 16).isSome then some { reset := 0, fields := [⟨0, 16, .rc, []⟩] } else none

/-- The PWR block (Table 20-13). -/
def pwrSpec (off : Nat) : Option RegSpec :=
  match off with
  | 0x0 => some { reset := 0, fields := [⟨16, 16, .ro, []⟩, ⟨0, 2, .rw, []⟩] }
  | 0x4 | 0x8 => some (ro32 0)
  | 0xC => some (ro32 0xA)
  | _ => none

/-- The ENT block (Table 20-14). -/
def entSpec (off : Nat) : Option RegSpec :=
  if off == 0 then some (ro32 0)
  else if 0x1000 ≤ off && off < 0x1400 then
    match (off - 0x1000) % 0x40 with
    | 0x00 | 0x04 | 0x10 => some (ro32 0)
    | 0x08 => some { reset := 0, fields := [⟨3, 1, .w1c, []⟩, ⟨1, 2, .ro, []⟩, ⟨0, 1, .w1c, []⟩] }
    | 0x0C => some { reset := 0, fields := [⟨16, 16, .rc, []⟩, ⟨8, 8, .rc, []⟩, ⟨0, 8, .rc, []⟩] }
    | _ => none
  else none

/-- The PRS block (Table 20-14). -/
def prsSpec (off : Nat) : Option RegSpec :=
  if 0x100 ≤ off && off < 0x180 then
    match (off - 0x100) % 0x20 with
    | 0x00 | 0x04 | 0x08 => some (ro32 0)
    | 0x0C => some { reset := 0, fields := [⟨16, 16, .rc, []⟩, ⟨8, 8, .rc, []⟩, ⟨0, 8, .rc, []⟩] }
    | _ => none
  else none

/-- HIF_FN_ID by function (Table 20-7). -/
def fnId (fn : Nat) : Nat := if fn == 1 then 0x0C000961 else if fn == 2 then 0x14000962 else 0x18400963

/-- The register of function `fn` at BAR0 offset `off`; none where no register lies (R9). -/
def regSpecAt (fn off : Nat) : Option RegSpec :=
  if fn == 0 then
    let o := off % 0x10000
    match off / 0x10000 with
    | 0 => topSpec o
    | 1 => timSpec o
    | 2 => hifSpec o
    | 3 => secSpec o
    | 4 => memSpec o
    | 5 => crbSpec o
    | 6 => livSpec o
    | 7 => evtSpec o
    | 8 => pwrSpec o
    | 9 => entSpec o
    | 10 => if (strideIdx o 0x100 4 4).isSome then some (ro32 0) else none
    | 11 => prsSpec o
    | _ => none
  else if off == 0 then some (ro32 (fnId fn))
  else if 0x1000 ≤ off && off < 0x1000 + 0x40 * ringCount fn then ringSpec false ((off - 0x1000) % 0x40)
  else none

def regSpec (key : Nat) : Option RegSpec := regSpecAt (key / 0x100000) (key % 0x100000)

/-- The value a register holds after cold reset; 0 where there is none. -/
def regReset (key : Nat) : Nat := ((regSpec key).map (·.reset)).getD 0

/-- A register's present value. -/
def regVal (d : Dev) (key : Nat) : Nat :=
  match tget none d.regs key with
  | some v => v.toNat
  | none => regReset key

/-- Set a register's whole value, which the device itself does. -/
def regPut (key v : Nat) (d : Dev) : Dev :=
  { d with regs := tset none d.regs key (if v % 2 ^ 32 = regReset key then none else some (BitVec.ofNat 32 v)) }

/-- A field of a register. -/
def getF (d : Dev) (key lo w : Nat) : Nat := fld (regVal d key) lo w

/-- A number with field [lo + w - 1 : lo] replaced. -/
def putFld (x lo w v : Nat) : Nat := x - fld x lo w * 2 ^ lo + (v % 2 ^ w) * 2 ^ lo

/-- Set a field of a register, which the device itself does. -/
def setF (key lo w v : Nat) (d : Dev) : Dev := regPut key (putFld (regVal d key) lo w v) d

/-- Add to a counter field that saturates at its largest value (R384). -/
def bumpF (key lo w n : Nat) (d : Dev) : Dev := setF key lo w (satAdd (2 ^ w - 1) (getF d key lo w) n) d

/-- Return registers whose key satisfies `p` to their cold reset values (R491). -/
def regResetIf (p : Nat → Bool) (d : Dev) : Dev := { d with regs := tclear d.regs p }

/-- A value is one the field's description admits (R492). -/
def Fld.ok (f : Fld) (v : Nat) : Bool := f.legal.isEmpty || f.legal.any (fun r => decide (r.1 ≤ v) && decide (v ≤ r.2))

/-- A write of `w` to a register holding `x`, field by field under the access codes (R6, R492). -/
def writeFields : List Fld → Nat → Nat → Nat
  | [], x, _ => x
  | f :: fs, x, w =>
    let v := fld w f.lo f.w
    let x' := match f.acc with
      | .rw => if f.ok v then putFld x f.lo f.w v else x
      | .w1c => putFld x f.lo f.w (fld x f.lo f.w &&& (2 ^ f.w - 1 - v))
      | _ => x
    writeFields fs x' w

/-- What a read returns: WO fields read 0 (R6). -/
def readFields : List Fld → Nat → Nat
  | [], x => x
  | f :: fs, x => readFields fs (match f.acc with | .wo => putFld x f.lo f.w 0 | _ => x)

/-- What a read leaves: RC fields clear (R6). -/
def clearRc : List Fld → Nat → Nat
  | [], x => x
  | f :: fs, x => clearRc fs (match f.acc with | .rc => putFld x f.lo f.w 0 | _ => x)

end Sys2Proof.Machine
end

