-- ==== Sys2Proof/Machine/Ops.lean ====
section
/-! DEFINITION. The operations every family shares: enabling, memory, time, semaphores, rings, completions, interrupts,
events, and the issue and the stopping of a slot. -/

namespace Sys2Proof.Machine

/-- An event: where `ok` holds the block moves to `d`; elsewhere the event cannot happen. -/
def whenDev (ok : Bool) (why : String) (d : Dev) (s : State) : Host.Outcome State Fault Refusal :=
  if ok then .next { s with dev := d } else .refused (.notEnabled why)

def emit (o : Out) (d : Dev) : Dev := { d with out := d.out ++ [o] }

/-- Apply an operation for every element of a list, in order. -/
def forEach {α : Type} (l : List α) (f : α → Dev → Dev) (d : Dev) : Dev := l.foldl (fun d a => f a d) d

/-- Whole nanoseconds of Fabric Time (R297). -/
def nowNs (d : Dev) : Nat := d.time.ft / 65536

/-! Status codes (Table 14-8). -/

def stSuccess : Nat := 0x00
def stFlags : Nat := 0x01
def stInvalid : Nat := 0x10
def stUnsupported : Nat := 0x11
def stBadAddr : Nat := 0x12
def stConflict : Nat := 0x20
def stUnknown : Nat := 0x21
def stMismatch : Nat := 0x22
def stRefused : Nat := 0x23
def stCancelled : Nat := 0x30
def stMissed : Nat := 0x31
def stPageFault : Nat := 0x40
def stMemUnc : Nat := 0x41
def stNoSpace : Nat := 0x42
def stMalformed : Nat := 0x50
def stConcealed : Nat := 0x51
def stUnreach : Nat := 0x60
def stTimeout : Nat := 0x61
def stEngine : Nat := 0x70
def stInternal : Nat := 0x7F

/-! The device map (Table 15-2). -/

def ddrBase : Nat := 0x10000000000
def vatBase (die : Nat) : Nat := 0x20000000 + 0x4000000 * die
def feltBase (e : Nat) : Nat := 0x28000000 + 0x400000 * e
def dispatchPort : Nat := 0x2C000000
def dispatchReply : Nat := 0x2C001000
def recvPort (core : Nat) : Nat := 0x2C002000 + 0x40 * core
def collPort : Nat := 0x2C003000

/-- The populated DDR4 capacity: 16 × DIMMs per channel × module capacity (R388, Table 15-3). -/
def ddrSize (d : Dev) : Nat :=
  if getF d kMemCfg 24 4 == 0 then 0 else 16 * (1 + getF d kMemCfg 23 1) * 2 ^ (getF d kMemCfg 24 4) * 2 ^ 30

/-- n bytes of the device map from an address, as stored. -/
def rdMem (d : Dev) (a n : Nat) : List Byte := tgetRun 0 d.mem a n

/-- Store bytes in the device map. -/
def wrMem (a : Nat) (bs : List Byte) (d : Dev) : Dev := { d with mem := tsetRun 0 d.mem a bs }

/-- Make n bytes read 0. -/
def zeroMem (a n : Nat) (d : Dev) : Dev :=
  { d with mem := tclear d.mem (fun k => decide (a ≤ k) && decide (k < a + n)) }

/-- Some byte of a range carries a truncation mark (R193). -/
def markedRange (d : Dev) (a n : Nat) : Bool :=
  d.strm.marks.any (fun m => decide (m.lo < a + n) && decide (a ≤ m.hi))

/-- A byte lies in the core store of a core that is powered off: its contents are lost (R460). -/
def gatedByte (d : Dev) (a : Nat) : Bool := decide (a < 0x20000000) && d.pwr.gated.contains (a / 0x1000000)

/-- A byte as a unit or scalar load reads it: a marked byte's value is not defined (R193), nor is a lost one. -/
def unitByte (d : Dev) (a : Nat) : Byte :=
  if markedRange d a 1 || gatedByte d a then Config.freeByte d.free a else tget 0 d.mem a

def unitBytes (d : Dev) (a n : Nat) : List Byte := (upFrom a n).map (unitByte d)

/-- A little-endian number of n bytes as a unit reads it. -/
def unitNat (d : Dev) (a n : Nat) : Nat := leNat (unitBytes d a n)

/-- Count a use of free values, when the step may have read one. -/
def drawFree (d : Dev) : Dev := if d.strm.marks.isEmpty && d.pwr.gated.isEmpty then d else { d with free := d.free + 1 }

/-! Semaphores (R153, R154). -/

def semKey (core q : Nat) : Nat := 64 * core + q

def semGet (d : Dev) (core q : Nat) : Nat := tget 0 d.core.sems (semKey core q)

/-- Set a semaphore, which holds 16 bits (Table 06-1): a value past 65,535 is 65,535 (R154). -/
def semSet (core q v : Nat) (d : Dev) : Dev := { d with core.sems := tset 0 d.core.sems (semKey core q) (min 65535 v) }

/-- A positive post: saturates at 65,535 and then sets the overflow bit (R154). -/
def semPost (core q n : Nat) (d : Dev) : Dev :=
  let v := semGet d core q + n
  if 65535 < v then
    let d := semSet core q 65535 d
    { d with core.semovf := tmod 0 d.core.semovf core (fun b => b ||| (1#64 <<< q)) }
  else semSet core q v d

/-- A decrement that has been checked to be satisfiable. -/
def semTake (core q n : Nat) (d : Dev) : Dev := semSet core q (semGet d core q - n) d

/-- The post of an instruction's q, when q_en is 1 (R145). -/
def postOpt (core : Nat) (q : Option Nat) (d : Dev) : Dev :=
  match q with
  | some q => semPost core q 1 d
  | none => d

/-! Slots. -/

def slotKey (core slot : Nat) : Nat := 2 * core + slot

def siteKey (x : Site) : Nat := slotKey x.core.val x.slot.val

def slotAt (d : Dev) (k : Nat) : SlotSt := tget {} d.core.slots k

def updSlot (k : Nat) (f : SlotSt → SlotSt) (d : Dev) : Dev :=
  { d with core.slots := tmod {} d.core.slots k f }

/-- The device-map address of byte 0 of a slot's window (R392). -/
def winBase (d : Dev) (k : Nat) : Nat := 0x1000000 * (k / 2) + (slotAt d k).csBase

/-- A slot in which a program runs. -/
def isRunning (d : Dev) (k : Nat) : Bool := (slotAt d k).phase == .running

/-- A slot runs a Live program. -/
def liveSlot (d : Dev) (core slot : Nat) : Bool :=
  (slotAt d (slotKey core slot)).live && isRunning d (slotKey core slot)

def getS (sl : SlotSt) (n : BitVec 5) : W32 := tget 0 sl.s n.toNat
def setS (n : BitVec 5) (v : W32) (sl : SlotSt) : SlotSt := { sl with s := tset 0 sl.s n.toNat v }
def getA (sl : SlotSt) (n : Nat) : W48 := tget 0 sl.a n
def setA (n : Nat) (v : W48) (sl : SlotSt) : SlotSt := { sl with a := tset 0 sl.a n v }

/-- A predicate; p0 always reads 1 (R139). -/
def getP (sl : SlotSt) (n : Nat) : Bool := if n == 0 then true else tget false sl.p n

/-- Write a predicate; writes to p0 are ignored (R139). -/
def setP (n : Nat) (v : Bool) (sl : SlotSt) : SlotSt :=
  if n == 0 then sl else { sl with p := tset false sl.p n v }

/-- The rounding mode of a slot's program (R34). -/
def slotMode (sl : SlotSt) : Mode := if sl.rnd == 1 then .rna else .rne

/-- Add raised flags to a slot's sticky flags (R51). -/
def raiseSlot (k : Nat) (f : Flags) (d : Dev) : Dev := updSlot k (fun sl => { sl with flags := sl.flags.or f }) d

/-! Rings, completions and interrupts (R365 to R381). -/

def ringKey (fn r : Nat) : Nat := 2048 * fn + r

def ringAt (d : Dev) (fn r : Nat) : RingSt := tget {} d.host.rings (ringKey fn r)

def updRing (fn r : Nat) (f : RingSt → RingSt) (d : Dev) : Dev :=
  { d with host.rings := tmod {} d.host.rings (ringKey fn r) f }

/-- HIF_RING_ERR.state is running (Table 14-15). -/
def ringRunning (d : Dev) (fn r : Nat) : Bool := decide (r < ringCount fn) && getF d (kRing fn r 0x1C) 30 2 == 1

def sqDepth (d : Dev) (fn r : Nat) : Nat := 2 ^ getF d (kRing fn r 0x10) 0 5
def cqDepth (d : Dev) (fn r : Nat) : Nat := 2 ^ getF d (kRing fn r 0x10) 8 5
def cqTail (d : Dev) (fn r : Nat) : Nat := getF d (kRing fn r 0x18) 0 16
def sqHead (d : Dev) (fn r : Nat) : Nat := getF d (kRing fn r 0x18) 16 16
def cqBase (d : Dev) (fn r : Nat) : Nat := regVal d (kRing fn r 0x0C) * 2 ^ 32 + regVal d (kRing fn r 0x08)

/-- The completion ring has no free entry (R379). -/
def cqFull (d : Dev) (fn r : Nat) : Bool := (cqTail d fn r + 1) % cqDepth d fn r == (ringAt d fn r).cqHead

/-- Every ring of a function that signals a vector. -/
def ringsOnVector (d : Dev) (fn v : Nat) : List Nat :=
  (d.host.rings.filter (fun e => e.1 / 2048 == fn && getF d (kRing fn (e.1 % 2048) 0x10) 16 11 == v)).map (fun e => e.1 % 2048)

/-- Send a ring's MSI-X message, or set its Pending Bit when the vector is masked (R381). The completions of every ring
on the vector are then signalled. -/
def sendMsix (fn r : Nat) (d : Dev) : Dev :=
  let v := getF d (kRing fn r 0x10) 16 11
  let vk := 4096 * fn + v
  if !tget false d.host.msixOpen vk then { d with host.msixPend := tset false d.host.msixPend vk true }
  else
    let d := emit (.msix fn v) d
    forEach (ringsOnVector d fn v) (fun r => updRing fn r (fun rs => { rs with unsignalled := 0, oldest := 0 })) d

/-- Interrupt moderation after an entry is written (R381). -/
def signalEntry (fn r : Nat) (irq : Bool) (d : Dev) : Dev :=
  let now := nowNs d
  let d := updRing fn r (fun rs =>
    { rs with
      unsignalled := rs.unsignalled + 1
      oldest := if rs.unsignalled == 0 then now else rs.oldest }) d
  if getF d (kRing fn r 0x10) 15 1 == 1 &&
     (irq || decide (getF d (kRing fn r 0x14) 0 8 ≤ (ringAt d fn r).unsignalled)) then sendMsix fn r d else d

/-- Write a 32-byte entry at cq_tail: words 1 to 7, then word 0 with the phase (R377), and advance. -/
def writeEntry (fn r w0 : Nat) (rest : List Nat) (irq : Bool) (d : Dev) : Dev :=
  let t := cqTail d fn r
  let a := cqBase d fn r + 32 * t
  let ph := getF d (kRing fn r 0x1C) 29 1
  let d := emit (.hostWrite fn (a + 4) (rest.flatMap (leBytes 4))) d
  let d := emit (.hostWrite fn a (leBytes 4 (putFld w0 0 1 ph))) d
  let t' := (t + 1) % cqDepth d fn r
  let d := setF (kRing fn r 0x18) 0 16 t' d
  let d := if t' == 0 then setF (kRing fn r 0x1C) 29 1 (1 - ph) d else d
  signalEntry fn r irq d

/-- The words of a completion entry (Table 14-6). -/
def cplWord0 (c : Cpl) : Nat := (c.tag % 65536) * 65536 + c.status * 256 + c.flags * 16 + c.kind * 2

def writeCpl (fn r : Nat) (c : Cpl) (d : Dev) : Dev :=
  writeEntry fn r (cplWord0 c) [sqHead d fn r * 65536 + c.sqId % 65536, c.ident % 65536, c.w3, c.w4, c.w5, c.w6, c.w7] c.irq d

/-- Note a completion that waits for space (R379). -/
def noteCqWait (fn r : Nat) (d : Dev) : Dev :=
  bumpF (kRing fn r 0x20) 16 8 1 (setF (kRing fn r 0x1C) 2 1 1 d)

/-- Deliver a completion: discarded on a ring that is not running (R366), held behind others or for want of space
(R379), written otherwise. -/
def postCpl (fn r : Nat) (c : Cpl) (d : Dev) : Dev :=
  if !ringRunning d fn r then d
  else
    let rs := ringAt d fn r
    if rs.pageWait || !rs.held.isEmpty || cqFull d fn r then
      let d := if cqFull d fn r then noteCqWait fn r d else d
      updRing fn r (fun rs => { rs with held := rs.held ++ [c] }) d
    else writeCpl fn r c d

/-- Write held completions in order as far as there is room (R379). -/
def flushHeld (fn r : Nat) : List Cpl → Dev → Dev
  | [], d => updRing fn r (fun rs => { rs with held := [] }) d
  | c :: cs, d =>
    if cqFull d fn r || (ringAt d fn r).pageWait then updRing fn r (fun rs => { rs with held := c :: cs }) d
    else flushHeld fn r cs (writeCpl fn r c d)

/-! Events (R464 to R466). -/

/-- Raise an event: pending bit, count, and an entry or a lost count (R465). `payload` is words 3 to 7. -/
def raiseEvent (code kind index : Nat) (payload : List Nat) (d : Dev) : Dev :=
  let d := setF kEvtPending code 1 1 d
  let d := bumpF (kEvtCount code) 0 16 1 d
  if getF d kEvtMask code 1 == 0 then d
  else if !ringRunning d 0 8 || cqFull d 0 8 || (ringAt d 0 8).pageWait then bumpF kEvtLost 0 32 1 d
  else
    let t := nowNs d
    writeEntry 0 8 (code * 2 ^ 24 + kind * 2 ^ 20 + index * 256)
      ([t % 2 ^ 32, t / 2 ^ 32 % 2 ^ 32] ++ (payload ++ [0, 0, 0, 0, 0]).take 5) false d

end Sys2Proof.Machine
end

