-- ==== Sys2Proof/Machine/Queues.lean ====
section
/-! DEFINITION. The queues of a slot and the cancellation of its streams (R189), which an exception, a HALT of the work and
a reset share. -/

namespace Sys2Proof.Machine

/-! The queues of a slot. -/

def loomAt (d : Dev) (k : Nat) : LoomSt := tget {} d.core.looms k
def updLoom (k : Nat) (f : LoomSt → LoomSt) (d : Dev) : Dev := { d with core.looms := tmod {} d.core.looms k f }
def unitAt (d : Dev) (k : Nat) : UnitSt := tget {} d.core.units k
def updUnit (k : Nat) (f : UnitSt → UnitSt) (d : Dev) : Dev := { d with core.units := tmod {} d.core.units k f }
def engKey (core e : Nat) : Nat := 8 * core + e
def engAt (d : Dev) (k : Nat) : StrmSt := tget {} d.strm.engines k
def updEng (k : Nat) (f : StrmSt → StrmSt) (d : Dev) : Dev := { d with strm.engines := tmod {} d.strm.engines k f }
def quireAt (d : Dev) (core : Nat) : QuireSt := tget {} d.strm.quires core
def updQuire (core : Nat) (f : QuireSt → QuireSt) (d : Dev) : Dev := { d with strm.quires := tmod {} d.strm.quires core f }

def LoomSt.queue (l : LoomSt) (slot : Nat) : List LoomOp := if slot == 0 then l.queue0 else l.queue1
def LoomSt.setQueue (l : LoomSt) (slot : Nat) (q : List LoomOp) : LoomSt :=
  if slot == 0 then { l with queue0 := q } else { l with queue1 := q }
def UnitSt.queue (u : UnitSt) (slot : Nat) : List UnitOp := if slot == 0 then u.queue0 else u.queue1
def UnitSt.setQueue (u : UnitSt) (slot : Nat) (q : List UnitOp) : UnitSt :=
  if slot == 0 then { u with queue0 := q } else { u with queue1 := q }
def StrmSt.queue (e : StrmSt) (slot : Nat) : List StrmEntry := if slot == 0 then e.queue0 else e.queue1
def StrmSt.setQueue (e : StrmSt) (slot : Nat) (q : List StrmEntry) : StrmSt :=
  if slot == 0 then { e with queue0 := q } else { e with queue1 := q }
def StrmSt.armed (e : StrmSt) (slot : Nat) : Option Armed := if slot == 0 then e.armed0 else e.armed1
def StrmSt.setArmed (e : StrmSt) (slot : Nat) (a : Option Armed) : StrmSt :=
  if slot == 0 then { e with armed0 := a } else { e with armed1 := a }

/-! Cancellation (R189, R190). -/

/-- Number of cores of a multicast mask. -/
def popcount (m : Nat) : Nat := ((upFrom 0 32).filter (bitAt m)).length

/-- The fill and free semaphores of an enabled link are set as R189 step 3 says. The semaphore a link waits on lies on
the issuing core; the one it posts lies on `postCore`, or on every core of a multicast mask, and a semaphore of another
device is out of reach of the set. -/
def resetLink (core : Nat) (lk : Link) (isSource mcast remote : Bool) (mask : Nat) (d : Dev) : Dev :=
  if !lk.waitEn && !lk.postEn then d
  else
    let free := if mcast then lk.cap * popcount mask else lk.cap
    let d := if lk.waitEn then semSet core lk.waitQ (if isSource then 0 else free) d else d
    if lk.postEn && !remote then
      if mcast then forEach ((upFrom 0 32).filter (bitAt mask)) (fun c => semSet c lk.postQ 0) d
      else semSet lk.postCore lk.postQ (if isSource then free else 0) d
    else d

/-- Both links of a descriptor that had begun. -/
def resetLinks (core : Nat) (b : StrmBlk) (d : Dev) : Dev :=
  let d := resetLink core b.pk b.dirOut b.mcast false b.mask d
  if b.mcast then d else resetLink core b.pt (!b.dirOut) false (b.patSpace == 3) 0 d

def cancelEntry (now : Nat) : StrmEntry → StrmEntry
  | .desc r => .desc { r with
      cancelled := true
      cancelAt := if r.cancelled then r.cancelAt else now
      suspended := none }
  | e => e

/-- Cancel every descriptor of a slot on one engine, the armed one included (R180, R189). -/
def cancelEngine (core e slot : Nat) (d : Dev) : Dev :=
  let now := d.aclk
  let st := engAt d (engKey core e)
  let d := match st.armed slot with
    | some a => resetLinks core a.blk d
    | none => d
  let d := updEng (engKey core e) (fun st => (st.setQueue slot ((st.queue slot).map (cancelEntry now))).setArmed slot none) d
  { d with
    strm.marks := d.strm.marks.filter (fun m => !(m.slotKey == slotKey core slot && m.engine == e))
    strm.pages := d.strm.pages.map (fun p => if p.user == .stream core e slot then { p with dead := true } else p) }

/-- Discard a slot's Quire transfers that have not started, and those that wait for a page; issued ones complete. -/
def cancelQuire (core slot : Nat) (d : Dev) : Dev :=
  let gone (o : QuireOp) : Bool := o.slot == slot && (!o.started || o.page.isSome)
  let ids := ((quireAt d core).ops.filter gone).map (·.id)
  let d := updQuire core (fun q => { q with ops := q.ops.filter (fun o => !gone o) }) d
  { d with strm.pages := d.strm.pages.map (fun p =>
      match p.user with
      | .quire c i => if c == core && ids.contains i then { p with dead := true } else p
      | _ => p) }

/-- The scheduler firmware cancels all streams of a slot (R161, R189). -/
def cancelStreams (core slot : Nat) (d : Dev) : Dev :=
  cancelQuire core slot (forEach [0, 1, 2, 3] (fun e => cancelEngine core e slot) d)

/-- Discard a slot's loom, Sizing and vector operations that have not begun (R84, R161). -/
def discardQueues (core slot : Nat) (d : Dev) : Dev :=
  let d := forEach [0, 1] (fun l => updLoom (2 * core + l) (fun st => st.setQueue slot [])) d
  forEach [0, 1] (fun u => updUnit (2 * core + u) (fun st => st.setQueue slot [])) d

/-- Keep the first error status of a slot since launch (R183), with the delivered count and the resume index. -/
def keepStatus (k st : Nat) (info : List Nat) (d : Dev) : Dev :=
  if st == stSuccess || st == stFlags || st == stCancelled || !(tget [] d.strm.kept k).isEmpty then d
  else { d with strm.kept := tset [] d.strm.kept k (st :: info) }

end Sys2Proof.Machine
end

