-- ==== Sys2Proof/Machine/Rings.lean ====
section
/-! DEFINITION. Rings and submission entries (R364 to R382): enabling, doorbells, taking and checking an entry, the launch
conditions, cancellation, completion and the stop of a ring. -/

namespace Sys2Proof.Machine

/-! The words of a descriptor (Table 14-3). -/

def Desc.w (x : Desc) (i : Nat) : Nat := x.words.getD i 0
def Desc.tag (x : Desc) : Nat := fld (x.w 0) 16 16
def Desc.irq (x : Desc) : Bool := bitAt (x.w 0) 10
def Desc.bg (x : Desc) : Bool := bitAt (x.w 0) 8
def Desc.op (x : Desc) : Nat := fld (x.w 0) 0 8
def Desc.ident (x : Desc) : Nat := fld (x.w 1) 16 16
def Desc.strict (x : Desc) : Bool := bitAt (x.w 1) 3
def Desc.launch (x : Desc) : Nat := fld (x.w 1) 0 3
/-- The instant, host address or length in two words, low word first. -/
def Desc.w64 (x : Desc) (i : Nat) : Nat := x.w i + x.w (i + 1) * 2 ^ 32

/-- Boot has reached stage 6: host functions are in use (R435, R452). A waiting state of the same number is another (log entry 12). -/
def bootDone (d : Dev) : Bool := getF d kBootStat 16 4 == 6 && d.boot.wait == 0

/-! The descriptors taken. -/

def findDesc (d : Dev) (uid : Nat) : Option Desc := d.host.descs.find? (fun x => x.uid == uid)

def mapDesc (uid : Nat) (f : Desc → Desc) (d : Dev) : Dev :=
  { d with host.descs := d.host.descs.map (fun x => if x.uid == uid then f x else x) }

/-- Descriptors in the launch gate. -/
def armedCount (d : Dev) : Nat := (d.host.descs.filter (fun x => x.phase == .armed)).length

/-- A gate place that frees lets held rings go on (R316). -/
def freeGate (d : Dev) : Dev :=
  if armedCount d < 4096 then
    forEach (d.host.rings.filter (fun e => e.2.gateHeld)) (fun e => updRing (e.1 / 2048) (e.1 % 2048) (fun r => { r with gateHeld := false })) d
  else d

/-- Forget descriptors without a completion. -/
def dropDescs (p : Desc → Bool) (d : Dev) : Dev :=
  freeGate { d with host.descs := d.host.descs.filter (fun x => !p x) }

/-- The ident of a descriptor's completion: 0 on PF0 (Table 14-6). -/
def Desc.cplIdent (x : Desc) : Nat := if x.fn == 0 then 0 else x.ident

/-- Complete a descriptor: it is no longer outstanding and its completion goes to the ring that carried it (R376). -/
def finishDesc (x : Desc) (st : Nat) (res : List Nat) (d : Dev) : Dev :=
  postCpl x.fn x.ring
    { tag := x.tag, status := st, sqId := x.ring, ident := x.cplIdent, w3 := res.getD 0 0, w4 := res.getD 1 0, w5 := res.getD 2 0,
      w6 := res.getD 3 0, w7 := res.getD 4 0, irq := x.irq }
    (dropDescs (fun y => y.uid == x.uid) d)

/-- Complete a descriptor with the sticky flags that made its status SUCCESS_FLAGS (R376). -/
def finishFlags (x : Desc) (st : Nat) (f : Flags) (res : List Nat) (d : Dev) : Dev :=
  postCpl x.fn x.ring
    { tag := x.tag, status := st, flags := f.toNat, sqId := x.ring, ident := x.cplIdent, w3 := res.getD 0 0, w4 := res.getD 1 0,
      w5 := res.getD 2 0, w6 := res.getD 3 0, w7 := res.getD 4 0, irq := x.irq }
    (dropDescs (fun y => y.uid == x.uid) d)

/-- Complete every descriptor not yet eligible that satisfies `p` with CANCELLED (R316, R368, R371). -/
def cancelWaiting (p : Desc → Bool) (d : Dev) : Dev :=
  forEach (d.host.descs.filter (fun x => (x.phase == .waiting || x.phase == .armed) && p x)) (fun x d => finishDesc x stCancelled [] d) d

/-- A descriptor becomes eligible; the number gives the order (R375). -/
def makeEligible (uid : Nat) (d : Dev) : Dev :=
  let n := d.nextId
  mapDesc uid (fun x => { x with phase := .eligible n }) { d with nextId := n + 1 }

/-- A descriptor waits for a host page (R362). -/
def descPaged (d : Dev) (uid : Nat) : Bool := d.strm.pages.any (fun p => p.user == .desc uid)

/-- The eligible descriptor `uid`, if it is a command `op` of function `fn` that may act now: it waits for no host page, and commands
of one session act in the order in which they became eligible (R375). -/
def cmdDesc (d : Dev) (uid fn op : Nat) : Option Desc :=
  match findDesc d uid with
  | some x =>
    match x.phase with
    | .eligible n =>
      let behind (y : Desc) : Bool := y.fn == 1 && y.ident == x.ident && (match y.phase with | .eligible m => decide (m < n) | _ => false)
      if x.fn == fn && x.op == op && !descPaged d uid && !(fn == 1 && d.host.descs.any behind) then some x else none
    | _ => none
  | none => none

/-- Run a command on its eligible descriptor. -/
def onDesc (uid fn op : Nat) (f : Desc → Dev → Dev) (s : State) : Host.Outcome State Fault Refusal :=
  match cmdDesc s.dev uid fn op with
  | some x => whenDev true "" (f x s.dev) s
  | none => whenDev false "no such descriptor is eligible" s.dev s

/-- The command of a descriptor has begun and completes later. -/
def beginDesc (uid : Nat) (d : Dev) : Dev := mapDesc uid (fun x => { x with phase := .begun }) d

/-! Launch conditions (R368). -/

/-- The slots that run the session or job that a function's ident names. -/
def runsIdent (d : Dev) (fn ident k : Nat) : Bool :=
  let sl := slotAt d k
  isRunning d k && sl.fn == fn && sl.ident.toNat == (if fn == 1 then 65536 + ident else ident)

/-- The semaphore of an AFTER_SEM descriptor lies in the mask of a slot of that core that runs the ident. -/
def afterSemOk (d : Dev) (x : Desc) : Bool :=
  let core := fld (x.w 2) 8 5
  let q := fld (x.w 2) 0 6
  [2 * core, 2 * core + 1].any (fun k => runsIdent d x.fn x.ident k && (slotAt d k).semMask.getLsbD q)

/-- The live port of an AT_LINE descriptor is bound to the session in ident. -/
def atLinePort (d : Dev) (x : Desc) : Option LivePort :=
  match tget none d.live.ports (fld (x.w 3) 16 5) with
  | some p => if x.fn == 1 && p.session == x.ident then some p else none
  | none => none

/-- line_reached of R157. -/
def lineReached (p : LivePort) (f l : Nat) : Bool :=
  let gap := (p.frameOut + 2 ^ 32 - f) % 2 ^ 32
  if gap == 0 then decide (l < p.linesOut) else decide (gap < 2 ^ 31)

/-- Waiting AFTER_SEM descriptors whose slot has ended complete with CANCELLED. -/
def sweepSems (d : Dev) : Dev := cancelWaiting (fun x => x.launch == 4 && !afterSemOk d x) d

/-- Waiting AT_LINE descriptors of a port that is unbound complete with CANCELLED. -/
def sweepLines (port : Nat) (d : Dev) : Dev := cancelWaiting (fun x => x.launch == 2 && fld (x.w 3) 16 5 == port) d

/-- The condition of a waiting descriptor holds. -/
def conditionHolds (d : Dev) (x : Desc) : Bool :=
  match x.launch with
  | 2 =>
    match atLinePort d x with
    | some p => lineReached p (x.w 2) (fld (x.w 3) 0 16)
    | none => false
  | 3 => x.after.all (fun u => d.host.descs.all (fun y => y.uid != u))
  | 4 => decide (fld (x.w 3) 0 12 ≤ semGet d (fld (x.w 2) 8 5) (fld (x.w 2) 0 6))
  | _ => false

/-- DESCRIPTOR_ELIGIBLE: an AT_LINE, AFTER_TAG or AFTER_SEM condition holds. -/
def execDescriptorEligible (uid : Nat) (s : State) : Host.Outcome State Fault Refusal :=
  let d := s.dev
  match findDesc d uid with
  | some x => whenDev (x.phase == .waiting && conditionHolds d x) "the condition does not hold" (makeEligible uid d) s
  | none => whenDev false "no such descriptor" d s

/-- The order of descriptors that fire together: by function, ring, then as taken (R315). -/
def firesBefore (y x : Desc) : Bool :=
  decide (y.fn < x.fn) || (y.fn == x.fn && (decide (y.ring < x.ring) || (y.ring == x.ring && decide (y.uid < x.uid))))

/-- An armed descriptor's instant has come (R314). -/
def firesNow (d : Dev) (x : Desc) : Bool := x.phase == .armed && decide (x.w64 2 ≤ nowNs d)

/-- An armed descriptor fires before the others whose instants have come: it becomes eligible, or misses under the strict policy. -/
def fireDesc (x : Desc) (d : Dev) : Dev :=
  if x.strict && decide (x.w64 2 + 10 ≤ nowNs d) then finishDesc x stMissed [] d else freeGate (makeEligible x.uid d)

def firesFirst (d : Dev) (x : Desc) : Bool := firesNow d x && d.host.descs.all (fun y => !(firesNow d y && firesBefore y x))

/-! Stopping a ring (R366). -/

def stopRing (fn r : Nat) (d : Dev) : Dev :=
  let d := setF (kRing fn r 0x1C) 3 1 1 (bumpF (kRing fn r 0x20) 24 8 1 d)
  let d := setF (kRing fn r 0x1C) 30 2 2 d
  updRing fn r (fun rs => { rs with held := [], unsignalled := 0, oldest := 0, pageWait := false, gateHeld := false }) d

/-! Enabling (R365, R452). -/

/-- A base of a ring has nonzero bits [11:0]; only the completion base counts for the event ring. -/
def basesAligned (d : Dev) (fn r : Nat) : Bool :=
  ((fn == 0 && r == 8) || regVal d (kRing fn r 0x00) % 4096 == 0) && regVal d (kRing fn r 0x08) % 4096 == 0

/-- A session, a live port or a waiting descriptor names PF1 ring r as its completion ring. -/
def namedAsCplRing (d : Dev) (fn r : Nat) : Bool :=
  fn == 1 &&
  (d.sess.sess.any (fun e => match e.2 with | some x => x.cplRing == r | none => false) ||
   d.live.ports.any (fun e => match e.2 with | some p => !p.cfg.st2110 && p.cfg.cplRing == r | none => false))

/-- A write to HIF_RING_CFG. -/
def ringCfgWrite (fn r v : Nat) (d : Dev) : Dev :=
  let k := kRing fn r 0x10
  let irq := setF k 15 1 (fld v 15 1) d
  if getF d k 31 1 == 1 then
    if bitAt v 31 then irq
    else if d.host.descs.any (fun x => x.fn == fn && x.ring == r) || namedAsCplRing d fn r then
      setF (kRing fn r 0x1C) 1 1 1 (bumpF (kRing fn r 0x20) 8 8 1 irq)
    else
      updRing fn r (fun _ => {}) (setF (kRing fn r 0x1C) 30 2 0 (setF k 31 1 0 irq))
  else
    let new := match regSpec k with
      | some sp => writeFields sp.fields (regVal d k) v
      | none => regVal d k
    if !bitAt v 31 then regPut k new d
    else if !bootDone d || !basesAligned d fn r || decide (msixCount fn ≤ fld v 16 11) then d
    else
      let d := regPut k new d
      let d := setF (kRing fn r 0x1C) 29 1 1 (setF (kRing fn r 0x1C) 30 2 1 (regPut (kRing fn r 0x18) 0 d))
      updRing fn r (fun _ => {}) d

/-- RING_ENABLE: a write with enable = 1 to a disabled ring. -/
def execRingEnable (fn : Fin 4) (ring : Nat) (v : W32) (s : State) : Host.Outcome State Fault Refusal :=
  let d := s.dev
  whenDev (decide (ring < ringCount fn.val) && bitAt v.toNat 31 && getF d (kRing fn.val ring 0x10) 31 1 == 0) "no enable of a disabled ring"
    (ringCfgWrite fn.val ring v.toNat d) s

/-- RING_DISABLE: a write with enable = 0 to an enabled ring. -/
def execRingDisable (fn : Fin 4) (ring : Nat) (v : W32) (s : State) : Host.Outcome State Fault Refusal :=
  let d := s.dev
  whenDev (decide (ring < ringCount fn.val) && !bitAt v.toNat 31 && getF d (kRing fn.val ring 0x10) 31 1 == 1) "no disable of an enabled ring"
    (ringCfgWrite fn.val ring v.toNat d) s

/-! Doorbells (R372, R373). -/

/-- Raise DOORBELL_RANGE and set the bit of the ring, where there is one. -/
def badDoorbell (fn r off value : Nat) (d : Dev) : Dev :=
  let d := if r < ringCount fn then setF (kRing fn r 0x1C) 0 1 1 (bumpF (kRing fn r 0x20) 0 8 1 d) else d
  raiseEvent 0x0D 4 fn [r % 65536, off, value % 2 ^ 32] d

/-- A doorbell write lies in the ring doorbells of BAR2. -/
def ringDoorbell (fn off : Nat) : Bool := decide (off < 0x40000) && !(fn == 1 && decide (0x30000 ≤ off))

/-- SQ_TAIL_DOORBELL: a write of `size` bytes at a BAR2 offset of a tail doorbell. -/
def execSqTailDoorbell (fn : Fin 4) (off size : Nat) (value : W64) (s : State) : Host.Outcome State Fault Refusal :=
  let d := s.dev
  let f := fn.val
  let r := off / 16
  let v := value.toNat
  let event : Bool := f == 0 && r == 8
  whenDev (ringDoorbell f off && decide (off % 16 < 8)) "no tail doorbell lies there"
    (if size != 8 || off % 8 != 0 || !ringRunning d f r || event || decide (sqDepth d f r ≤ v) then badDoorbell f r off v d
     else updRing f r (fun rs => { rs with sqTail := v }) d) s

/-- CQ_HEAD_DOORBELL: a write at a head doorbell frees entries, and held completions are written. -/
def execCqHeadDoorbell (fn : Fin 4) (off size : Nat) (value : W64) (s : State) : Host.Outcome State Fault Refusal :=
  let d := s.dev
  let f := fn.val
  let r := off / 16
  let v := value.toNat
  let n := cqDepth d f r
  let h := (ringAt d f r).cqHead
  let beyond : Bool := decide ((cqTail d f r + n - h) % n < (v + n - h) % n)
  whenDev (ringDoorbell f off && decide (8 ≤ off % 16)) "no head doorbell lies there"
    (if size != 8 || off % 8 != 0 || !ringRunning d f r || decide (n ≤ v) || beyond then badDoorbell f r off v d
     else
       let d := updRing f r (fun rs => { rs with cqHead := v }) d
       flushHeld f r (ringAt d f r).held d) s

/-! Taking (R369 to R375). -/

/-- A function's opcodes (Table 14-5). -/
def opDefined (fn op : Nat) : Bool :=
  op == 0x7E || op == 0x7F ||
  (match fn with
   | 0 => op == 0x01 || op == 0x02 || op == 0x08 || op == 0x09
   | 1 => decide (0x10 ≤ op) && decide (op ≤ 0x1C)
   | 2 => op == 0x20 || op == 0x21
   | _ => decide (0x30 ≤ op) && decide (op ≤ 0x32))

/-- The rules of Table 14-3 and Table 14-4 on the common header. -/
def headerOk (d : Dev) (x : Desc) : Bool :=
  fld (x.w 0) 11 5 == 0 && fld (x.w 0) 9 1 == 0 && (!x.bg || decide (2 ≤ x.fn)) && (x.fn != 0 || x.ident == 0) &&
  fld (x.w 1) 4 12 == 0 && decide (x.launch ≤ 4) && (!x.strict || x.launch == 1) &&
  (match x.launch with
   | 0 => x.w 2 == 0 && x.w 3 == 0
   | 1 => decide (x.w64 2 ≤ nowNs d + 2 ^ 40)
   | 2 => fld (x.w 3) 21 11 == 0 && (atLinePort d x).isSome
   | 3 => fld (x.w 2) 16 16 == 0 && fld (x.w 3) 16 16 == 0 && decide (fld (x.w 3) 0 16 < ringCount x.fn)
   | _ => fld (x.w 2) 13 19 == 0 && fld (x.w 2) 6 2 == 0 && fld (x.w 3) 12 20 == 0 && fld (x.w 3) 0 12 != 0 && afterSemOk d x)

/-- Words i to 15 are 0. -/
def zeroFrom (x : Desc) (i : Nat) : Bool := (upFrom i (16 - i)).all (fun j => x.w j == 0)

/-- The ranges and reserved bits of the operands whose layout the spec gives. -/
def operandsOk (d : Dev) (x : Desc) : Bool :=
  match x.op with
  | 0x01 =>
    let n := x.w64 6
    zeroFrom x 8 && n % 64 == 0 && decide (5504 ≤ n) && decide (n ≤ 2 ^ 32)
  | 0x02 => fld (x.w 4) 8 24 == 0 && zeroFrom x 5
  | 0x08 => zeroFrom x 4
  | 0x09 =>
    fld (x.w 4) 1 31 == 0 && zeroFrom x 7 &&
    (if bitAt (x.w 4) 0 then decide (x.w64 5 ≤ nowNs d + 2 ^ 40) else x.w 5 == 0 && x.w 6 == 0)
  | 0x10 =>
    let live : Bool := fld (x.w 4) 22 2 == 0
    let enc : Bool := !live && !bitAt (x.w 4) 21
    fld (x.w 4) 22 2 != 3 && fld (x.w 4) 19 2 != 3 && decide (fld (x.w 4) 13 5 ≤ 16) && fld (x.w 4) 0 13 == 0 &&
    fld (x.w 5) 16 16 == 0 && decide (fld (x.w 5) 0 16 < 1024) && fld (x.w 6) 16 8 == 0 && (live || fld (x.w 6) 24 8 == 0) &&
    (enc || x.w 7 == 0) &&
    (if enc && fld (x.w 4) 19 2 == 0 then decide (1 ≤ x.w 8) && decide (1 ≤ x.w 9) && decide (x.w 9 ≤ 1001) && fld (x.w 10) 0 5 == 0 && fld (x.w 10) 8 24 == 0
     else x.w 8 == 0 && x.w 9 == 0 && x.w 10 == 0) && zeroFrom x 11
  | 0x12 | 0x13 | 0x16 | 0x1A | 0x1B | 0x1C | 0x7F => zeroFrom x 4
  | 0x20 =>
    fld (x.w 4) 8 8 == 0 && fld (x.w 5) 13 19 == 0 && fld (x.w 5) 5 3 == 0 && decide (fld (x.w 5) 8 5 ≤ 16) &&
    decide (fld (x.w 5) 0 5 ≤ 16) && (fld (x.w 4) 16 16 != 0 || (fld (x.w 5) 8 5 == 0 && fld (x.w 5) 0 5 == 0)) && zeroFrom x 9
  | 0x21 => fld (x.w 4) 16 16 == 0 && zeroFrom x 5
  | 0x30 | 0x31 =>
    fld (x.w 4) 16 16 == 0 && fld (x.w 4) 6 2 == 0 && fld (x.w 4) 2 2 == 0 && fld (x.w 4) 4 2 != 3 && fld (x.w 11) 2 30 == 0 && zeroFrom x 12
  | 0x32 =>
    fld (x.w 4) 16 16 == 0 && fld (x.w 4) 0 8 == 0 && x.w 5 == 0 && x.w 6 == 0 && x.w 7 == 0 && fld (x.w 11) 2 30 == 0 &&
    fld (x.w 11) 0 1 == 0 && zeroFrom x 12
  | 0x7E => fld (x.w 4) 16 16 == 0 && fld (x.w 5) 16 16 == 0 && decide (fld (x.w 5) 0 16 < ringCount x.fn) && zeroFrom x 6
  | _ => true

/-- The alignment of host address operands (R369). -/
def operandAligned (x : Desc) : Bool :=
  match x.op with
  | 0x01 => x.w64 4 % 64 == 0
  | 0x20 => x.w64 6 % 64 == 0
  | _ => true

/-- The status that the checks at taking give, 0 for none (R369). -/
def takeCheck (d : Dev) (x : Desc) : Nat :=
  if !opDefined x.fn x.op then stUnsupported
  else if !headerOk d x || !operandsOk d x then stInvalid
  else if !operandAligned x then stBadAddr
  else 0

/-- A ring has entries to take and may take one (R366, R372, R379, R316). -/
def ringPending (d : Dev) (fn r : Nat) : Bool :=
  let rs := ringAt d fn r
  ringRunning d fn r && rs.sqTail != sqHead d fn r && decide (rs.held.length < 64) && !rs.pageWait && !rs.gateHeld

/-- The rings of a function with entries to take. -/
def pendingRings (d : Dev) (fn : Nat) : List Nat :=
  ((d.host.rings.filter (fun e => e.1 / 2048 == fn)).map (fun e => e.1 % 2048)).filter (ringPending d fn)

/-- The first number of a list after `last` in cyclic order. -/
def roundRobin (last : Nat) (l : List Nat) : Option Nat :=
  match l.find? (fun r => decide (last < r)) with
  | some r => some r
  | none => l.head?

/-- The function and ring served next (R375). -/
def nextRing (d : Dev) : Option (Nat × Nat) :=
  match roundRobin d.host.lastFn ((upFrom 0 4).filter (fun f => !(pendingRings d f).isEmpty)) with
  | some f => (roundRobin (tget 2047 d.host.lastRing f) (pendingRings d f)).map (fun r => (f, r))
  | none => none

/-- Handle an entry that has been copied. -/
def takeEntry (fn r : Nat) (words : List Nat) (d : Dev) : Dev :=
  let x : Desc := { uid := d.nextId, fn := fn, ring := r, words := words, phase := .waiting, after := [] }
  if x.launch == 1 && takeCheck d x == 0 && decide (4096 ≤ armedCount d) then updRing fn r (fun rs => { rs with gateHeld := true }) d
  else
    let d := setF (kRing fn r 0x18) 16 16 ((sqHead d fn r + 1) % sqDepth d fn r) d
    let d := { d with
      nextId := d.nextId + 1
      host.lastFn := fn
      host.lastRing := tset 2047 d.host.lastRing fn r }
    let st := takeCheck d x
    let tagged (y : Desc) : Bool := y.fn == fn && y.ring == fld (x.w 3) 0 16 && y.tag == fld (x.w 2) 0 16
    let after := if x.launch == 3 then (d.host.descs.filter tagged).map (·.uid) else []
    let d := { d with host.descs := d.host.descs ++ [{ x with after := after, phase := if x.launch == 1 then .armed else .waiting }] }
    if st != 0 then finishDesc x st [] d
    else if x.launch == 0 || (x.launch == 3 && after.isEmpty) then makeEligible x.uid d
    else d

/-- The scheduler firmware is in service: it takes ring entries (R447, R449), and no debugger has halted a management core (R438). -/
def schedulerUp (d : Dev) : Bool := bootDone d && !d.boot.restarting && !d.boot.halted.any (fun k => decide (64 ≤ k))

/-- SQ_ENTRY_TAKE: the next submission entry of the ring served next, as read from host memory, or a failed read, which stops
the ring (R366). -/
def execSqEntryTake (fn : Fin 4) (ring : Nat) (r : ReqEnd) (s : State) : Host.Outcome State Fault Refusal :=
  let d := s.dev
  let turn : Bool := schedulerUp d && nextRing d == some (fn.val, ring)
  match r with
  | .ok bs => whenDev (turn && bs.length == 64) "the ring takes no entry" (takeEntry fn.val ring (leWords 16 bs) d) s
  | .failed _ _ => whenDev turn "the ring takes no entry" (stopRing fn.val ring d) s

/-! Interrupts (R381). -/

/-- MSIX_MODERATION_TIMEOUT: time_us has passed since the oldest unsignalled completion. -/
def execMsixModerationTimeout (fn : Fin 4) (ring : Nat) (s : State) : Host.Outcome State Fault Refusal :=
  let d := s.dev
  let f := fn.val
  let rs := ringAt d f ring
  let us := getF d (kRing f ring 0x14) 16 16
  whenDev (ringRunning d f ring && getF d (kRing f ring 0x10) 15 1 == 1 && us != 0 && rs.unsignalled != 0 &&
      decide (rs.oldest + 1000 * us ≤ nowNs d)) "no moderation time has passed"
    (sendMsix f ring d) s

/-- MSIX_UNMASK: the host unmasks a vector; a message that is pending is sent. -/
def execMsixUnmask (fn : Fin 4) (vector : Nat) (s : State) : Host.Outcome State Fault Refusal :=
  let d := s.dev
  let f := fn.val
  let vk := 4096 * f + vector
  whenDev (decide (vector < msixCount f)) "no such vector"
    (let d := { d with host.msixOpen := tset false d.host.msixOpen vk true }
     if tget false d.host.msixPend vk then
       let d := emit (.msix f vector) { d with host.msixPend := tset false d.host.msixPend vk false }
       forEach (ringsOnVector d f vector) (fun r => updRing f r (fun rs => { rs with unsignalled := 0, oldest := 0 })) d
     else d) s

end Sys2Proof.Machine
end

