-- ==== Sys2Proof/Machine/Bundle.lean ====
section
/-! DEFINITION. The parts of a bundle in its DDR4 region (R274 to R276, R223): header fields, sections, profile limits,
manifest and table families. -/

namespace Sys2Proof.Machine

/-- A number of n bytes at an offset of a region. -/
def regionNat (d : Dev) (lo off n : Nat) : Nat := leNat (rdMem d (lo + off) n)

/-- A section table entry (R275). -/
structure Sect where
  type : Nat
  flags : Nat
  index : Nat
  off : Nat
  size : Nat
  rsvd : Nat
  deriving DecidableEq, Repr

/-- Entry i of the section table of the bundle at `lo`. -/
def sectAt (d : Dev) (lo i : Nat) : Sect :=
  let a := regionNat d lo 0x20 4 + 32 * i
  { type := regionNat d lo a 2
    flags := regionNat d lo (a + 2) 2
    index := regionNat d lo (a + 4) 4
    off := regionNat d lo (a + 8) 8
    size := regionNat d lo (a + 16) 8
    rsvd := regionNat d lo (a + 24) 8 }

def sects (d : Dev) (lo : Nat) : List Sect := (upFrom 0 (regionNat d lo 0x24 2)).map (sectAt d lo)

/-- A section of a type and index. -/
def sectFind (d : Dev) (lo type index : Nat) : Option Sect := (sects d lo).find? (fun s => s.type == type && s.index == index)

/-- The first section of a type. -/
def sectOf (d : Dev) (lo type : Nat) : Option Sect := (sects d lo).find? (fun s => s.type == type)

def bundleAt (d : Dev) (h : Nat) : Option Bundle := tget none d.sess.bundles h

/-- A published bundle. -/
def loadedBundle (d : Dev) (h : Nat) : Option Bundle :=
  match bundleAt d h with
  | some b => if b.loading.isNone then some b else none
  | none => none

/-- 0 = codec profile, 1 = tensor model. -/
def bundleKind (d : Dev) (b : Bundle) : Nat := regionNat d b.lo 6 1

/-- A field of the profile limits (Table 11-3); 0 for a bundle without them. -/
def limit (d : Dev) (b : Bundle) (off n : Nat) : Nat :=
  match sectOf d b.lo 1 with
  | some s => regionNat d b.lo (s.off + off) n
  | none => 0

/-- A family of a bundle: the offset of its image (R223). -/
def familyAt (d : Dev) (b : Bundle) (f : Nat) : Option Nat := (sectFind d b.lo 5 f).map (·.off)

/-! Sessions. -/

def sessAt (d : Dev) (i : Nat) : Option Sess := tget none d.sess.sess i

def setSess (i : Nat) (x : Sess) (d : Dev) : Dev := { d with sess.sess := tset none d.sess.sess i (some x) }

def updSess (i : Nat) (f : Sess → Sess) (d : Dev) : Dev :=
  match sessAt d i with
  | some x => setSess i (f x) d
  | none => d

/-- The session a slot serves, if it runs for one. -/
def slotSession (d : Dev) (k : Nat) : Option Nat :=
  let i := (slotAt d k).ident.toNat
  if 65536 ≤ i then some (i - 65536) else none

end Sys2Proof.Machine
end

