-- ==== Sys2Proof/Machine/Felt.lean ====
section
/-! DEFINITION. The Felt and the entropy dispatcher (R221, R222, R233 to R237): who reaches a window, open requests, the
queueing of commands, the choice of an engine, and the release of a slot's leases (R247). -/

namespace Sys2Proof.Machine

def leaseKey (e w : Nat) : Nat := 8 * e + w

def leaseAt (d : Dev) (k : Nat) : Option Lease := tget none d.felt.leases k

def engStAt (d : Dev) (e : Nat) : EngSt := tget {} d.felt.engs e

def updEngSt (e : Nat) (f : EngSt → EngSt) (d : Dev) : Dev := { d with felt.engs := tmod {} d.felt.engs e f }

def EngSt.fam (x : EngSt) (s : Nat) : Option FamSlot := if s == 0 then x.fam0 else x.fam1

def EngSt.setFam (x : EngSt) (s : Nat) (f : Option FamSlot) : EngSt := if s == 0 then { x with fam0 := f } else { x with fam1 := f }

/-- The device-map address of a lease window (R221). -/
def feltWindow (e w : Nat) : Nat := feltBase e + 0x80000 * w

/-- The address of a family slot (Table 09-1). -/
def famBase (e s : Nat) : Nat := feltBase e + 0x280000 + 0x81000 * s

/-- The leases of an engine, with their windows. -/
def engLeases (d : Dev) (e : Nat) : List (Nat × Lease) :=
  (upFrom 0 5).filterMap (fun w => (leaseAt d (leaseKey e w)).map (fun l => (w, l)))

/-- The queue depth of an engine (R235). -/
def engDepth (d : Dev) (e : Nat) : Nat :=
  ((engLeases d e).map (fun p => if p.2.out || p.2.dropped then 0 else p.2.symTotal - p.2.symDone)).foldl (· + ·) 0

/-- Show an engine's windows, families and depth, and the dispatcher's queue, in their registers (Tables 09-8 to 09-10). -/
def showEng (e : Nat) (d : Dev) : Dev :=
  let wins := ((engLeases d e).map (fun p => 2 ^ p.1)).foldl (· + ·) 0
  let valid (s : Nat) : Nat := match (engStAt d e).fam s with | some f => f.ready.toNat | none => 0
  let d := regPut (kEnt e 0x00) (wins * 256 + valid 1 * 2 + valid 0) d
  let d := regPut (kEnt e 0x04) (engDepth d e) d
  setF kEntDisp 0 7 d.felt.opens.length d

def setLease (e w : Nat) (l : Lease) (d : Dev) : Dev :=
  showEng e { d with felt.leases := tset none d.felt.leases (leaseKey e w) (some l) }

/-- Free a window. -/
def freeWindow (e w : Nat) (d : Dev) : Dev := showEng e { d with felt.leases := tset none d.felt.leases (leaseKey e w) none }

/-! Access (R222). -/

/-- The engine and window that a range lies in, where slot k holds the window under a lease. -/
def heldWindow (d : Dev) (k a n : Nat) : Option (Nat × Nat) :=
  let e := (a - feltBase 0) / 0x400000
  let w := (a - feltBase e) / 0x80000
  match leaseAt d (leaseKey e w) with
  | some l =>
    if decide (feltBase 0 ≤ a) && decide (e < 16) && decide (w < 5) && l.slotKey == k && !l.dropped &&
       decide (a + n ≤ feltWindow e w + 0x80000) then some (e, w) else none
  | none => none

/-- The access of Table 09-2 on a Felt range, command port apart. -/
def feltReach (d : Dev) (k a n : Nat) (write : Bool) : Bool :=
  match heldWindow d k a n with
  | some (e, w) =>
    let o := a - feltWindow e w
    let within_ (lo len : Nat) : Bool := decide (lo ≤ o) && decide (o + n ≤ lo + len)
    if write then within_ 0x100 0x100 || within_ 0x200 0x1FE00 || within_ 0x60000 0x20000
    else within_ 0 0x20 || within_ 0x20000 0x20000 || within_ 0x60000 0x20000
  | none => false

/-- The window whose command port a COPY of n bytes addresses. -/
def commandPort (d : Dev) (k a n : Nat) : Option (Nat × Nat) :=
  match heldWindow d k a n with
  | some (e, w) => if a == feltWindow e w + 0x40 && n == 32 then some (e, w) else none
  | none => none

/-! Open requests (R233, R234). -/

/-- A reply record (R234). -/
def replyRecord (k st engine window tag base replyQ : Nat) (d : Dev) : Dev :=
  let w0 := st + engine * 256 + window * 4096 + tag * 65536
  semPost (k / 2) replyQ 1 (wrMem (dispatchReply + 32 * k) (leBytes 4 w0 ++ leBytes 4 0 ++ leBytes 8 base ++ leBytes 16 0) d)

/-- The semaphores of an open request lie in the slot's mask; elsewhere the COPY completes with BAD_ADDRESS (R233). -/
def openSemsOk (d : Dev) (k : Nat) (bs : List Byte) : Bool :=
  let w3 := (leWords 8 bs).getD 3 0
  (slotAt d k).semMask.getLsbD (fld w3 26 6) && (slotAt d k).semMask.getLsbD (fld w3 20 6)

/-- The fields of Table 09-4 are in range. -/
def openFieldsOk (ws : List Nat) : Bool :=
  let w (i : Nat) : Nat := ws.getD i 0
  fld (w 0) 24 8 == 1 && (fld (w 0) 16 8 == 3 || fld (w 0) 16 8 == 4) && fld (w 0) 0 15 == 0 && fld (w 1) 0 16 == 0 &&
  decide (w 2 ≤ 262144) && fld (w 3) 0 20 == 0 && w 4 == 0 && w 5 == 0 && w 6 == 0 && w 7 == 0

/-- Leases a slot holds. -/
def slotLeases (d : Dev) (k : Nat) : List Nat :=
  (d.felt.leases.filter (fun e => match e.2 with | some l => l.slotKey == k && !l.dropped | none => false)).map (·.1)

/-- DISPATCH_OPEN_REQUEST: a request is refused, or waits for a grant (R233, R234). -/
def dispatchOpen (k : Nat) (bs : List Byte) (d : Dev) : Dev :=
  let ws := leWords 8 bs
  let w (i : Nat) : Nat := ws.getD i 0
  let replyQ := fld (w 3) 26 6
  let refuse (st : Nat) : Dev := replyRecord k st 0 0 0 0 replyQ d
  match slotSession d k with
  | none => refuse stUnknown
  | some i =>
    match sessAt d i with
    | none => refuse stUnknown
    | some x =>
      let fam := match bundleAt d x.bundle with
        | some b => (familyAt d b (fld (w 1) 16 16)).isSome
        | none => false
      if !openFieldsOk ws || !fam then refuse stInvalid
      else if d.felt.opens.any (fun o => o.slotKey == k) || decide (8 ≤ (slotLeases d k).length) then refuse stConflict
      else
        let o : OpenReq :=
          { slotKey := k, session := i, live := (slotAt d k).live, bundle := x.bundle, unitType := fld (w 0) 16 8,
            dir := bitAt (w 0) 15, family := fld (w 1) 16 16, symTotal := w 2, replyQ := replyQ, doneQ := fld (w 3) 20 6 }
        showEng 0 { d with felt.opens := d.felt.opens ++ [o] }

/-! Command queueing (R237). -/

/-- The command a record names; none for a reserved op. -/
def entCmd (bs : List Byte) : Option EntCmd :=
  let ws := leWords 8 bs
  let w (i : Nat) : Nat := ws.getD i 0
  let tail : Bool := w 4 == 0 && w 5 == 0 && w 6 == 0 && w 7 == 0
  match fld (w 0) 24 8 with
  | 0x10 =>
    let param := fld (w 1) 0 24
    let count := fld (w 2) 16 16
    let base := fld (w 2) 0 16
    some (.step (tail && fld (w 0) 0 20 == 0 && fld (w 1) 24 8 == 0 && w 3 == 0 && param % 16 == 0 && decide (1 ≤ count) &&
      decide (count ≤ 32768) && decide (base ≤ 32767)) (fld (w 0) 21 3) (bitAt (w 0) 20) param count base)
  | 0x20 =>
    let n := fld (w 0) 0 4
    let len := fld (w 2) 0 18
    some (.load (tail && fld (w 0) 4 20 == 0 && fld (w 1) 18 14 == 0 && fld (w 2) 18 14 == 0 && w 3 == 0 && decide (n ≤ 8) &&
      decide (5 ≤ len) && decide (len ≤ 131072)) n (fld (w 1) 0 18) len)
  | 0x30 => some (.close (tail && fld (w 0) 0 24 == 0 && fld (w 1) 9 23 == 0 && w 2 == 0 && w 3 == 0 && decide (fld (w 1) 0 9 ≤ 256)) (fld (w 1) 0 9))
  | 0x3F => some (.release (tail && fld (w 0) 0 24 == 0 && w 1 == 0 && w 2 == 0 && w 3 == 0))
  | _ => none

def leasePhaseCode : LeasePhase → Nat
  | .opened => 0
  | .loaded => 1
  | .closed => 2
  | .failed => 3

/-- The lease_status of Table 09-6. -/
def leaseStatus (l : Lease) : Nat := if l.status != 0 then l.status else if l.flags == Flags.none then stSuccess else stFlags

/-- The status block (Table 09-6). -/
def statusBlock (l : Lease) : List Byte :=
  let w0 := l.cmdStatus * 2 ^ 24 + leaseStatus l * 2 ^ 16 + l.flags.toNat * 2 ^ 12 + l.stepsDone * 16 + leasePhaseCode l.phase
  [w0, l.cmdCount % 2 ^ 32, l.unitLen, l.errWhere * 2 ^ 28 + l.errSym % 65536, l.errOffset % 2 ^ 17, 0, 0, 0].flatMap (leBytes 4)

/-- A command of a lease completes with a status: the status block is written, then done_q posted (R238, R239). A lease that
is being released posts nothing more (R247). -/
def completeCmd (e w st : Nat) (l : Lease) (d : Dev) : Dev :=
  let l := { l with cmdStatus := st, cmdCount := (l.cmdCount + 1) % 2 ^ 32 }
  let d := wrMem (feltWindow e w) (statusBlock l) (setLease e w l d)
  if l.dropped then d else semPost (l.slotKey / 2) l.doneQ 1 d

/-- ENTROPY_COMMAND_QUEUE: a command is queued; a reserved op or a seventeenth command completes with INVALID_DESCRIPTOR
(R237). -/
def queueCommand (e w : Nat) (bs : List Byte) (d : Dev) : Dev :=
  match leaseAt d (leaseKey e w) with
  | some l =>
    match entCmd bs with
    | some c => if 16 ≤ l.cmds.length then completeCmd e w stInvalid l d else setLease e w { l with cmds := l.cmds ++ [c] } d
    | none => completeCmd e w stInvalid l d
  | none => d

/-! The choice of an engine (R235, R236). -/

/-- Windows a request may take. -/
def freeWindows (d : Dev) (e : Nat) (r : OpenReq) : List Nat :=
  (if r.live then upFrom 0 5 else upFrom 2 3).filter (fun w => (leaseAt d (leaseKey e w)).isNone)

/-- Family slot s of an engine holds (or is being loaded with) the request's family. -/
def slotHolds (d : Dev) (e s : Nat) (r : OpenReq) : Bool :=
  match (engStAt d e).fam s with
  | some f => f.bundle == r.bundle && f.family == r.family
  | none => false

/-- No open lease of the engine uses family slot s. -/
def slotFree (d : Dev) (e s : Nat) : Bool := (engLeases d e).all (fun p => p.2.famSlot != s)

/-- The family slot a request would use on an engine and whether it must be loaded. -/
def familySlot (d : Dev) (e : Nat) (r : OpenReq) : Option (Nat × Bool) :=
  let may := if r.live then [0, 1] else [1]
  if slotHolds d e 0 r then some (0, false)
  else if slotHolds d e 1 r then some (1, false)
  else
    match may.find? (fun s => slotFree d e s && ((engStAt d e).fam s).isNone) with
    | some s => some (s, true)
    | none => (may.find? (fun s => slotFree d e s)).map (fun s => (s, true))

/-- The engine, window and family slot for a request, if any is eligible. -/
def chooseEngine (d : Dev) (r : OpenReq) : Option (Nat × Nat × Nat × Bool) :=
  let cand := (upFrom 0 16).filter (fun e => !(freeWindows d e r).isEmpty && (familySlot d e r).isSome)
  let best := (cand.map (engDepth d)).foldl min (2 ^ 32)
  let ties := cand.filter (fun e => engDepth d e == best)
  let held := ties.filter (fun e => slotHolds d e 0 r || slotHolds d e 1 r)
  let pool := if held.isEmpty then ties else held
  let rr := getF d kEntDisp 28 4
  match (upFrom 0 16).find? (fun i => pool.contains ((rr + i) % 16)) with
  | some i =>
    let e := (rr + i) % 16
    match (freeWindows d e r).head?, familySlot d e r with
    | some w, some s => some (e, w, s.1, s.2)
    | _, _ => none
  | none => none

/-- The request examined first that can be granted: Live ones, then arrival order. -/
def nextGrant (d : Dev) : Option (OpenReq × Nat × Nat × Nat × Bool) :=
  (d.felt.opens.filter (·.live) ++ d.felt.opens.filter (fun o => !o.live)).findSome? (fun o =>
    (chooseEngine d o).map (fun c => (o, c.1, c.2.1, c.2.2.1, c.2.2.2)))

/-! Release by the firmware (R247). -/

/-- The leases that satisfy `p` are to be released: their queued commands go, they leave the depth, nothing more is posted. -/
def dropLeases (p : Lease → Bool) (d : Dev) : Dev :=
  forEach (d.felt.leases.filter (fun e => match e.2 with | some l => p l | none => false)) (fun e d =>
    match e.2 with
    | some l => setLease (e.1 / 8) (e.1 % 8) { l with dropped := true, cmds := [] } d
    | none => d) d

/-- A slot's leases and its waiting request. -/
def dropSlotLeases (k : Nat) (d : Dev) : Dev :=
  showEng 0 (let d := dropLeases (fun l => l.slotKey == k) d
             { d with felt.opens := d.felt.opens.filter (fun o => o.slotKey != k) })

/-- A session's leases and waiting requests. -/
def dropSessLeases (i : Nat) (d : Dev) : Dev :=
  showEng 0 (let d := dropLeases (fun l => l.session == i) d
             { d with felt.opens := d.felt.opens.filter (fun o => o.session != i) })

/-- LEASE_FORCE_RELEASE: the firmware frees the window of a lease it releases. -/
def execLeaseForceRelease (engine : Fin 16) (window : Fin 5) (s : State) : Host.Outcome State Fault Refusal :=
  let d := s.dev
  match leaseAt d (leaseKey engine.val window.val) with
  | some l => whenDev l.dropped "the lease is not to be released" (freeWindow engine.val window.val d) s
  | none => whenDev false "the window is not leased" d s

end Sys2Proof.Machine
end

