-- ==== Sys2Proof/Machine/Link.lean ====
section
/-! DEFINITION. The Crebor wire formats and the sending side (R326 to R332): CRCs, flits, packet headers, routing, and the
queueing of packets on links. -/

namespace Sys2Proof.Machine

/-! CRCs (R249, R326). -/

/-- One bit of a reflected CRC with polynomial `p`. -/
def crcBit (p c : Nat) : Nat := if c % 2 == 1 then (c / 2) ^^^ p else c / 2

def crcByte (p c : Nat) (b : Byte) : Nat :=
  crcBit p (crcBit p (crcBit p (crcBit p (crcBit p (crcBit p (crcBit p (crcBit p (c ^^^ b.toNat))))))))

def crcOf (p : Nat) (bs : List Byte) : Nat := (bs.foldl (crcByte p) 0xFFFFFFFF) ^^^ 0xFFFFFFFF

/-- The CRC-32 of IEEE 802.3 (polynomial 0x04C11DB7, reflected). -/
def crc32 (bs : List Byte) : Nat := crcOf 0xEDB88320 bs

/-- CRC-32C (polynomial 0x1EDC6F41, reflected). -/
def crc32c (bs : List Byte) : Nat := crcOf 0x82F63B78 bs

/-! Packets (Table 13-6). -/

/-- A packet header with its data. -/
structure Pkt where
  dst : Nat
  src : Nat
  type : Nat
  hop : Nat
  flow : Nat
  tag : Nat
  len : Nat
  job : Nat
  post : Nat
  addr : Nat
  status : Nat
  rsvd : Nat
  time : Nat
  data : List Byte
  deriving DecidableEq, Repr

/-- A field of n bytes at an offset. -/
def bytesNat (bs : List Byte) (off n : Nat) : Nat := leNat ((bs.drop off).take n)

def pktBytes (p : Pkt) : List Byte :=
  leBytes 2 p.dst ++ leBytes 2 p.src ++ leBytes 1 p.type ++ leBytes 1 p.hop ++ leBytes 2 p.flow ++ leBytes 2 p.tag ++ leBytes 2 p.len ++
  leBytes 2 p.job ++ leBytes 2 p.post ++ leBytes 6 p.addr ++ leBytes 1 p.status ++ leBytes 1 p.rsvd ++ leBytes 8 p.time ++ p.data

/-- Data bytes that follow the header of a type (Table 13-7). -/
def dataLen (type len : Nat) : Nat :=
  match type with
  | 0x02 | 0x03 | 0x08 | 0x09 => 0
  | _ => len

def pktOf (bs : List Byte) : Pkt :=
  let t := bytesNat bs 4 1
  let n := bytesNat bs 0x0A 2
  { dst := bytesNat bs 0 2, src := bytesNat bs 2 2, type := t, hop := bytesNat bs 5 1, flow := bytesNat bs 6 2, tag := bytesNat bs 8 2,
    len := n, job := bytesNat bs 0x0C 2, post := bytesNat bs 0x0E 2, addr := bytesNat bs 0x10 6, status := bytesNat bs 0x16 1,
    rsvd := bytesNat bs 0x17 1, time := bytesNat bs 0x18 8, data := (bs.drop 32).take (dataLen t n) }

/-- The first virtual lane of a type (Table 13-4), none for an unknown type. -/
def typeVl (t : Nat) : Option Nat :=
  match t with
  | 0x01 | 0x02 | 0x03 => some 0
  | 0x08 | 0x09 | 0x0A => some 2
  | 0x10 | 0x18 | 0x19 | 0x1A => some 4
  | 0x20 => some 6
  | 0x28 => some 7
  | _ => none

def isRequest (t : Nat) : Bool := t == 1 || t == 2 || t == 3
def isResponse (t : Nat) : Bool := t == 8 || t == 9 || t == 10
def isColl (t : Nat) : Bool := t == 0x18 || t == 0x19 || t == 0x1A

/-! Links. -/

def linkAt (d : Dev) (l : Nat) : LinkSt := tget {} d.crb.links l

def updLink (l : Nat) (f : LinkSt → LinkSt) (d : Dev) : Dev := { d with crb.links := tmod {} d.crb.links l f }

/-- The port or tunnel is up. -/
def linkUp (d : Dev) (l : Nat) : Bool :=
  if l < 8 then getF d (kCrbPort l 4) 29 3 == 2
  else getF d (kCrbTunnel (l - 8)) 30 1 == 1

/-- A Crebor-mode port that is up. -/
def nativeUp (d : Dev) (l : Nat) : Bool := decide (l < 8) && linkUp d l && (linkAt d l).mode == 0

/-- A link that carries packets: a Crebor-mode port or a tunnel that is up. -/
def linkLive (d : Dev) (l : Nat) : Bool := if l < 8 then nativeUp d l else linkUp d l

/-- The flits of a packet (R329): the header and data in runs of 244 bytes, the last filled with 0. -/
def packFlits (vl : Nat) : Nat → Bool → List Byte → List TxFlit
  | 0, _, _ => []
  | n + 1, first, bs =>
    { vl := vl, sop := first, eop := n == 0, payload := (bs.take 244) ++ List.replicate (244 - (bs.take 244).length) 0 } ::
      packFlits vl n false (bs.drop 244)

/-- Queue a packet on a link in a class (0 = A, 1 = B); leaving through a dateline port it moves to class B (R328). -/
def queuePkt (l cls : Nat) (p : Pkt) (d : Dev) : Dev :=
  let base := (typeVl p.type).getD 0
  let cls := if l < 8 && getF d (kCrbPort l 0) 27 1 == 1 then 1 else cls
  let vl := if base < 6 then base + cls else base
  let bs := pktBytes p
  updLink l (fun s => { s with tx := s.tx ++ packFlits vl (ceilDiv bs.length 244) true bs }) d

/-! Routing (R330 to R332). -/

def ownId (d : Dev) : Nat := getF d kCrbDevId 0 16

/-- The route entry of a destination. -/
def routeKey (d : Dev) (dst : Nat) : Nat :=
  if dst / 256 != ownId d / 256 then kCrbGroupRt (dst / 256) else kCrbMemberRt (dst % 256)

/-- The live candidates of an entry, in index order. -/
def candidates (d : Dev) (key : Nat) : List Nat :=
  if getF d key 31 1 == 0 then []
  else
    ((upFrom 0 4).filter (fun i => getF d key (24 + i) 1 == 1)).filterMap (fun i =>
      let l := getF d key (5 * i) 5
      if linkLive d l then some l else none)

def flowHash (src dst flow seed : Nat) : Nat := crc32c (leBytes 2 src ++ leBytes 2 dst ++ leBytes 2 flow ++ leBytes 2 seed) / 65536

/-- The output link of a packet; none when it is misrouted. -/
def outLink (d : Dev) (p : Pkt) : Option Nat :=
  let live := candidates d (routeKey d p.dst)
  if live.isEmpty then none
  else if isColl p.type then live.head?
  else live[flowHash p.src p.dst p.flow (getF d kCrbRoute 16 16) % live.length]?

/-- A packet of this device for itself waits on link 24. -/
def selfPkt (p : Pkt) (d : Dev) : Dev :=
  updLink 24 (fun s => { s with rx := s.rx ++ [{ vl := (typeVl p.type).getD 0, flits := ceilDiv (pktBytes p).length 244, bytes := pktBytes p }] }) d

/-- The NAK of a packet (Table 13-8). -/
def nakOf (d : Dev) (code : Nat) (p : Pkt) : Pkt :=
  { dst := p.src, src := ownId d, type := 9, hop := getF d kCrbRoute 0 8, flow := p.flow, tag := p.tag, len := 0, job := p.job, post := 0,
    addr := 0, status := code, rsvd := 0, time := p.time, data := [] }

/-- Send a packet that starts here. A NAK that finds no route is dropped. -/
def sendPlain (p : Pkt) (d : Dev) : Dev :=
  if p.dst == ownId d then selfPkt p d
  else
    match outLink d p with
    | some l => queuePkt l 0 p d
    | none => bumpF kCrbRouteErr 16 16 1 d

/-- Send or forward a packet in a class; a misrouted request or collective message is answered with NAK 0x03 (R332). -/
def sendPkt (cls : Nat) (p : Pkt) (d : Dev) : Dev :=
  if p.dst == ownId d then selfPkt p d
  else
    match outLink d p with
    | some l => queuePkt l cls p d
    | none =>
      let d := bumpF kCrbRouteErr 16 16 1 d
      if isResponse p.type then d else sendPlain (nakOf d 0x03 p) d

/-- Forward a packet: the hop limit falls by one (R332). -/
def forwardPkt (cls : Nat) (p : Pkt) (d : Dev) : Dev :=
  if p.hop == 0 then
    let d := bumpF kCrbRouteErr 16 16 1 d
    if isResponse p.type then d else sendPlain (nakOf d 0x03 p) d
  else sendPkt cls { p with hop := p.hop - 1 } d

/-! Outstanding requests (R334). -/

/-- The job that a fabric job ID names, while it runs here. -/
def fabricJob (d : Dev) (id : Nat) : Option Job := if id == 0 then none else d.host.jobs.find? (fun j => j.running && j.fabric == id)

/-- The running job that a slot serves. -/
def slotJob (d : Dev) (k : Nat) : Option Job :=
  let sl := slotAt d k
  if sl.fn == 2 && decide (sl.ident.toNat < 65536) then d.host.jobs.find? (fun j => j.running && j.tag == sl.ident.toNat) else none

/-- Tell what waits for a request how it ended. -/
def answerUser (u : XUser) (e : ReqEnd) (d : Dev) : Dev :=
  match u with
  | .stream core engine slot id =>
    let key := engKey core engine
    let onReq (r : StrmReq) : StrmReq := if r.id == id then { r with ended := some e } else r
    let onEntry (x : StrmEntry) : StrmEntry := match x with
      | .desc r => .desc { r with reqs := r.reqs.map onReq }
      | .cancel q => .cancel q
    updEng key (fun st => st.setQueue slot ((st.queue slot).map onEntry)) d
  | .quire core id => updQuire core (fun q => { q with ops := q.ops.map (fun o => if o.id == id then { o with ended := some e } else o) }) d
  | .coll uid =>
    match e with
    | .failed st _ => { d with crb.colls := d.crb.colls.map (fun c => if c.uid == uid then { c with failed := some st } else c) }
    | .ok _ => d
  | .post _ => d
  | .firmware => d

/-- Hand a request to the transport: it is sent, or waits while 4,096 are outstanding. -/
def startReq (r : XReq) (d : Dev) : Dev :=
  if 4096 ≤ d.crb.outstanding.length then { d with crb.waiting := d.crb.waiting ++ [r] }
  else sendPkt 0 (pktOf r.packet) { d with crb.outstanding := d.crb.outstanding ++ [{ r with sentAt := nowNs d }] }

/-- Waiting requests start as outstanding ones end. -/
def startWaiting (d : Dev) : Dev :=
  match d.crb.waiting with
  | r :: rs => if 4096 ≤ d.crb.outstanding.length then d else startReq r { d with crb.waiting := rs }
  | [] => d

/-- End outstanding and waiting requests. -/
def endReqs (p : XReq → Bool) (e : XReq → ReqEnd) (d : Dev) : Dev :=
  let gone := d.crb.outstanding.filter p ++ d.crb.waiting.filter p
  let d := { d with
    crb.outstanding := d.crb.outstanding.filter (fun r => !p r)
    crb.waiting := d.crb.waiting.filter (fun r => !p r) }
  startWaiting (forEach gone (fun r d => answerUser r.user (e r) d) d)

/-- A tag that no outstanding request uses, to this target or another (log entry 81). -/
def freeTag (d : Dev) (_dst : Nat) : Nat :=
  let used (t : Nat) : Bool := (d.crb.outstanding ++ d.crb.waiting).any (fun r => r.tag == t)
  match (upFrom 0 4097).find? (fun i => !used ((d.crb.nextTag + i) % 65536)) with
  | some i => (d.crb.nextTag + i) % 65536
  | none => d.crb.nextTag

/-- The flow label of a user on slot k (Table 13-6). -/
def userFlow (k : Nat) : XUser → Nat
  | .stream _ e _ _ => (k / 2) * 16 + (k % 2) * 8 + e
  | .quire _ _ => (k / 2) * 16 + (k % 2) * 8 + 4
  | .post e => (k / 2) * 16 + (k % 2) * 8 + e
  | .firmware => 0
  | .coll _ => 0

/-- The packet of a request. -/
def opPkt (d : Dev) (dst job flow tag : Nat) (op : XOp) : Pkt :=
  let p : Pkt :=
    { dst := dst, src := ownId d, type := 1, hop := getF d kCrbRoute 0 8, flow := flow, tag := tag, len := 0, job := job, post := 0,
      addr := 0, status := 0, rsvd := 0, time := nowNs d, data := [] }
  match op with
  | .get a n => { p with type := 2, addr := a, len := n }
  | .put a bs => { p with type := 1, addr := a, len := bs.length, data := bs }
  | .signal core q n => { p with type := 3, addr := n, post := 32768 + core * 256 + q }

/-- Send a request of slot k to a device; a slot whose work has no fabric job ID cannot (R335). -/
def sendRemote (k dev : Nat) (op : XOp) (user : XUser) (d : Dev) : Dev :=
  match slotJob d k with
  | some j =>
    if j.fabric == 0 then answerUser user (.failed stBadAddr 0) d
    else
      let tag := freeTag d dev
      let p := opPkt d dev j.fabric (userFlow k user) tag op
      let addr := match op with | .get a _ => a | .put a _ => a | .signal _ q _ => q
      startReq { tag := tag, dst := dev, job := j.fabric, user := user, addr := addr, packet := pktBytes p, sentAt := 0, resent := 0 }
        { d with crb.nextTag := (tag + 1) % 65536 }
  | none => answerUser user (.failed stBadAddr 0) d

end Sys2Proof.Machine
end

