-- ==== Sys2Proof/Machine/Bits.lean ====
section
/-! DEFINITION. The framing of the Uzouri bitstream (R249 to R260): emulation prevention, header fields, the unit headers
an encoder writes and a decoder reads, and the split of stored units. -/

namespace Sys2Proof.Machine

/-! Emulation prevention (R253, R254). -/

/-- The encoder's protection; `z` counts the zeros before. -/
def protectFrom : Nat → List Byte → List Byte
  | _, [] => []
  | z, b :: bs =>
    let ins : Bool := decide (2 ≤ z) && decide (b.toNat ≤ 3)
    let z := if ins then 0 else z
    (if ins then [3] else []) ++ b :: protectFrom (if b == 0 then z + 1 else 0) bs

def protect (body : List Byte) : List Byte := protectFrom 0 body

/-- The decoder's removal: the body, or the index of the stored byte at which it fails. `i` is the index of the next stored
byte and `ep` says the byte before was removed. -/
def unprotectFrom : Nat → Nat → Bool → List Byte → Except Nat (List Byte)
  | i, _, ep, [] => if ep then .error (i - 1) else .ok []
  | i, z, ep, b :: bs =>
    if ep && decide (3 < b.toNat) then .error i
    else if 2 ≤ z then
      if b.toNat == 3 then unprotectFrom (i + 1) 0 true bs else if b.toNat < 3 then .error i else
        match unprotectFrom (i + 1) 0 false bs with
        | .ok r => .ok (b :: r)
        | .error e => .error e
    else
      match unprotectFrom (i + 1) (if b == 0 then z + 1 else 0) false bs with
      | .ok r => .ok (b :: r)
      | .error e => .error e

def unprotect (stored : List Byte) : Except Nat (List Byte) := unprotectFrom 0 0 false stored

/-- A stored unit of a type and body (R250). -/
def storedUnit (type : Nat) (body : List Byte) : List Byte := [0, 0, 1, BitVec.ofNat 8 type] ++ protect body

/-! Fields (R249). -/

/-- The big-endian number of n bytes at an offset of a body. -/
def beAt (bs : List Byte) (off n : Nat) : Nat := beNat ((bs.drop off).take n)

/-- A body with its crc field. -/
def withCrc (bs : List Byte) : List Byte := bs ++ beBytes 4 (crc32 bs)

/-- The last four bytes of a body are its CRC. -/
def crcOk (bs : List Byte) : Bool := beAt bs (bs.length - 4) 4 == crc32 (bs.take (bs.length - 4))

/-! Units of stored data (R252). -/

/-- Split stored data at its start codes: what follows each `00 00 01`, to the next one or the end. `cur` is the unit being
gathered, in reverse; none before the first start code. `fuel` bounds the length. -/
def splitFrom : Nat → Option (List Byte) → List Byte → List (List Byte)
  | 0, _, _ => []
  | _ + 1, cur, [] => match cur with | some c => [c.reverse] | none => []
  | fuel + 1, cur, b :: bs =>
    if b == 0 && bs.getD 0 1 == 0 && bs.getD 1 0 == 1 then
      (match cur with | some c => [c.reverse] | none => []) ++ splitFrom fuel (some []) (bs.drop 2)
    else splitFrom fuel (cur.map (fun c => b :: c)) bs

/-- The units of stored data: each its type byte and stored body, empty for a start code without a type byte. -/
def splitUnits (bs : List Byte) : List (List Byte) := splitFrom (bs.length + 1) none bs

/-! Headers (Tables 10-2, 10-3, 10-5). -/

/-- The sequence header body of an encoder. `video` holds pic_w, pic_h, rate_num, rate_den and colour; `audio` channels and
frame_blocks. -/
def seqBody (version : Nat) (fp : List Byte) (seqId media ds steps : Nat) (audio : Bool) (v : Nat × Nat × Nat × Nat × Nat) (ch blocks : Nat) : List Byte :=
  withCrc (beBytes 1 version ++ fp ++ beBytes 2 seqId ++ beBytes 2 (media * 2 ^ 14 + (if audio then 0 else ds) * 2 ^ 11 + steps * 2 ^ 7) ++
    (if audio then beBytes 1 ch ++ beBytes 2 blocks ++ List.replicate 10 0
     else beBytes 2 v.1 ++ beBytes 2 v.2.1 ++ beBytes 4 v.2.2.1 ++ beBytes 4 v.2.2.2.1 ++ beBytes 1 v.2.2.2.2))

/-- The frame header body. -/
def frameBody (seqId num : Nat) (intra : Bool) (q : Nat) : List Byte :=
  withCrc (beBytes 2 seqId ++ beBytes 4 num ++ beBytes 2 ((!intra).toNat * 2 ^ 14 + q * 2 ^ 6))

/-- The time anchor body. -/
def anchorBody (num capture : Nat) (locked : Bool) : List Byte :=
  withCrc (beBytes 4 num ++ beBytes 8 capture ++ beBytes 1 (locked.toNat * 128))

end Sys2Proof.Machine
end

