-- ==== Sys2Proof/Machine/Deflate.lean ====
section
/-! DEFINITION. The formats of the Press (R405, R411 to R419): the compressor, which depends on a stream's input and flush
points alone, and the decompressor. -/

namespace Sys2Proof.Machine

/-! Tables of RFC 1951. -/

/-- Bases and extra bits of the length codes 257 to 285. -/
def lenCodes : List (Nat × Nat) :=
  [(3, 0), (4, 0), (5, 0), (6, 0), (7, 0), (8, 0), (9, 0), (10, 0), (11, 1), (13, 1), (15, 1), (17, 1), (19, 2), (23, 2), (27, 2), (31, 2)] ++
  [(35, 3), (43, 3), (51, 3), (59, 3), (67, 4), (83, 4), (99, 4), (115, 4), (131, 5), (163, 5), (195, 5), (227, 5), (258, 0)]

/-- Bases and extra bits of the distance codes 0 to 29. -/
def distCodes : List (Nat × Nat) :=
  [(1, 0), (2, 0), (3, 0), (4, 0), (5, 1), (7, 1), (9, 2), (13, 2), (17, 3), (25, 3), (33, 4), (49, 4), (65, 5), (97, 5), (129, 6)] ++
  [(193, 6), (257, 7), (385, 7), (513, 8), (769, 8), (1025, 9), (1537, 9), (2049, 10), (3073, 10), (4097, 11), (6145, 11), (8193, 12)] ++
  [(12289, 12), (16385, 13), (24577, 13)]

/-- The order in which code-length code lengths are sent. -/
def clOrder : List Nat := [16, 17, 18, 0, 8, 7, 9, 6, 10, 5, 11, 4, 12, 3, 13, 2, 14, 1, 15]

/-- The last code whose base is at or below a value, its extra bits and the offset. -/
def codeFor (t : List (Nat × Nat)) (v : Nat) : Nat × Nat × Nat :=
  let i := (t.filter (fun e => decide (e.1 ≤ v))).length - 1
  let e := t.getD i (0, 0)
  (i, e.2, v - e.1)

/-- n bits of a value, least significant first. -/
def lsbBits : Nat → Nat → List Bool
  | 0, _ => []
  | n + 1, v => (v % 2 == 1) :: lsbBits n (v / 2)

/-! Check values. -/

/-- Adler-32 (RFC 1950). -/
def adler32 (bs : List Byte) : Nat :=
  let r := bs.foldl (fun (s : Nat × Nat) b => let a := (s.1 + b.toNat) % 65521; (a, (s.2 + a) % 65521)) (1, 0)
  r.2 * 65536 + r.1

/-! Code lengths (R413). -/

/-- A node of the length construction: weight, id, leaves. -/
abbrev HuffNode := Nat × Nat × List Nat

/-- The node of least (weight, id). -/
def minNode : List HuffNode → Option HuffNode
  | [] => none
  | x :: xs =>
    match minNode xs with
    | some y => if y.1 < x.1 || (y.1 == x.1 && decide (y.2.1 < x.2.1)) then some y else some x
    | none => some x

/-- Join nodes until one is left; each join adds 1 to the length of its leaves. -/
def joinNodes : Nat → Nat → List HuffNode → List Nat → List Nat
  | 0, _, _, ln => ln
  | fuel + 1, k, heap, ln =>
    match minNode heap with
    | none => ln
    | some a =>
      let heap := heap.filter (fun x => x.2.1 != a.2.1)
      match minNode heap with
      | none => ln
      | some b =>
        let leaves := a.2.2 ++ b.2.2
        let ln := (ln.zip (upFrom 0 ln.length)).map (fun p => if leaves.contains p.2 then p.1 + 1 else p.1)
        joinNodes fuel (k + 1) (heap.filter (fun x => x.2.1 != b.2.1) ++ [(a.1 + b.1, 1000 + k, leaves)]) ln

/-- The sum of 2^(limit - length) over used symbols. -/
def kraft (limit : Nat) (ln : List Nat) : Nat := (ln.map (fun l => if l == 0 then 0 else 2 ^ (limit - l))).foldl (· + ·) 0

/-- The symbol of greatest (length, index) that satisfies a test on its length. -/
def maxLen (ok : Nat → Bool) (ln : List Nat) : Option Nat :=
  ((ln.zip (upFrom 0 ln.length)).foldl (fun (best : Option (Nat × Nat)) p =>
    if p.1 != 0 && ok p.1 then
      match best with
      | some b => if b.1 ≤ p.1 then some p else best
      | none => some p
    else best) none).map (·.2)

def lengthen (limit : Nat) : Nat → List Nat → List Nat
  | 0, ln => ln
  | fuel + 1, ln =>
    if 2 ^ limit < kraft limit ln then
      match maxLen (fun l => decide (l < limit)) ln with
      | some s => lengthen limit fuel (ln.set s (ln.getD s 0 + 1))
      | none => ln
    else ln

def shorten (limit : Nat) : Nat → List Nat → List Nat
  | 0, ln => ln
  | fuel + 1, ln =>
    let gap := 2 ^ limit - kraft limit ln
    if gap == 0 then ln
    else
      match maxLen (fun l => decide (2 ^ (limit - l) ≤ gap) && decide (1 < l)) ln with
      | some s => shorten limit fuel (ln.set s (ln.getD s 0 - 1))
      | none => ln

/-- The code lengths of a frequency table. -/
def codeLengths (freq : List Nat) (limit : Nat) : List Nat :=
  let nodes := ((freq.zip (upFrom 0 freq.length)).filter (fun p => p.1 != 0)).map (fun p => ((p.1, p.2, [p.2]) : HuffNode))
  let ln := joinNodes nodes.length 0 nodes (List.replicate freq.length 0)
  shorten limit (16 * freq.length) (lengthen limit (16 * freq.length) (ln.map (fun l => min l limit)))

/-- Canonical codes of a set of lengths (RFC 1951 section 3.2.2): the code of each symbol. -/
def canonical (ln : List Nat) : List Nat :=
  let count (b : Nat) : Nat := if b == 0 then 0 else (ln.filter (· == b)).length
  let first := (upFrom 1 15).foldl (fun (acc : List Nat) b => acc ++ [2 * (acc.getLastD 0 + count (b - 1))]) [0]
  ((ln.zip (upFrom 0 ln.length)).map (fun p =>
    if p.1 == 0 then 0 else first.getD p.1 0 + ((ln.take p.2).filter (· == p.1)).length))

/-- The bits of a symbol's code, most significant first. -/
def codeBits (ln codes : List Nat) (s : Nat) : List Bool := (lsbBits (ln.getD s 0) (codes.getD s 0)).reverse

/-! The compressor (R411 to R416). -/

inductive Token where
  | lit (b : Nat)
  | copy (len dist : Nat)
  | stop
  deriving DecidableEq, Repr

/-- The length of the match of two suffixes, at most `n`. -/
def matchLen : Nat → List Byte → List Byte → Nat
  | n + 1, a :: as, b :: bs => if a == b then matchLen n as bs + 1 else 0
  | _, _, _ => 0

/-- The hash of the three bytes at a position. -/
def lzHash (data : List Byte) (p : Nat) : Nat :=
  let v (i : Nat) : Nat := (data.getD (p + i) 0).toNat
  ((v 0 * 1024) ^^^ (v 1 * 32) ^^^ v 2) % 32768

/-- Insert positions p to p + n - 1 that are followed by two more before `stop`. -/
def lzInsert (data : List Byte) (stop : Nat) : Nat → Nat → Tbl (List Nat) → Tbl (List Nat)
  | 0, _, t => t
  | n + 1, p, t => lzInsert data stop n (p + 1) (if p + 2 < stop then tmod [] t (lzHash data p) (fun l => (p :: l).take 8) else t)

/-- The longest match at p, the nearest of equal ones. -/
def bestMatch (data : List Byte) (stop p : Nat) (t : Tbl (List Nat)) : Nat × Nat :=
  if p + 2 < stop then
    (tget [] t (lzHash data p)).foldl (fun (best : Nat × Nat) q =>
      if 32768 < p - q then best
      else
        let l := matchLen (min 258 (stop - p)) (data.drop q) (data.drop p)
        if best.1 < l then (l, q) else best) (0, 0)
  else (0, 0)

/-- Tokenise up to `stop`. -/
def tokenise (data : List Byte) (stop : Nat) : Nat → Nat → Tbl (List Nat) → List Token × Tbl (List Nat)
  | 0, _, t => ([.stop], t)
  | fuel + 1, p, t =>
    if stop ≤ p then ([.stop], t)
    else
      let m := bestMatch data stop p t
      if 3 ≤ m.1 then
        let r := tokenise data stop fuel (p + m.1) (lzInsert data stop m.1 p t)
        (.copy m.1 (p - m.2) :: r.1, r.2)
      else
        let r := tokenise data stop fuel (p + 1) (lzInsert data stop 1 p t)
        (.lit (data.getD p 0).toNat :: r.1, r.2)

/-- The literal/length code of a token and the distance code, where it has one. -/
def tokenCodes : Token → Nat × Option Nat
  | .lit b => (b, none)
  | .copy l q => (257 + (codeFor lenCodes l).1, some (codeFor distCodes q).1)
  | .stop => (256, none)

def countCodes (n : Nat) (cs : List Nat) : List Nat := (upFrom 0 n).map (fun s => (cs.filter (· == s)).length)

/-- Two distance codes are in use (R413). -/
def fillDist (f : List Nat) : Nat → List Nat
  | 0 => f
  | fuel + 1 =>
    if 2 ≤ (f.filter (· != 0)).length then f
    else if f.getD 0 0 == 0 then fillDist (f.set 0 1) fuel else fillDist (f.set 1 1) fuel

/-- Runs of equal values. -/
def runsOf : List Nat → List (Nat × Nat)
  | [] => []
  | v :: vs =>
    match runsOf vs with
    | (w, n) :: rs => if v == w then (w, n + 1) :: rs else (v, 1) :: (w, n) :: rs
    | [] => [(v, 1)]

/-- The code-length symbols of a run: (symbol, extra bits, extra value). -/
def zeroRun : Nat → Nat → List (Nat × Nat × Nat)
  | 0, _ => []
  | fuel + 1, n =>
    if 11 ≤ n then (18, 7, min n 138 - 11) :: zeroRun fuel (n - min n 138)
    else if 3 ≤ n then [(17, 3, n - 3)] else List.replicate n (0, 0, 0)

def sameRun (v : Nat) : Nat → Nat → List (Nat × Nat × Nat)
  | 0, _ => []
  | fuel + 1, n => if 3 ≤ n then (16, 2, min n 6 - 3) :: sameRun v fuel (n - min n 6) else List.replicate n (v, 0, 0)

def rleRun (r : Nat × Nat) : List (Nat × Nat × Nat) :=
  if r.1 == 0 then zeroRun (r.2 + 1) r.2 else (r.1, 0, 0) :: sameRun r.1 r.2 (r.2 - 1)

/-- The length of a list up to its last entry that is not 0. -/
def usedLen (l : List Nat) : Nat := ((l.zip (upFrom 1 l.length)).filter (fun p => p.1 != 0)).foldl (fun m p => max m p.2) 0

/-- The bits of one token. -/
def tokenBits (ll lc dl dc : List Nat) (t : Token) : List Bool :=
  match t with
  | .copy l q =>
    let a := codeFor lenCodes l
    let b := codeFor distCodes q
    codeBits ll lc (257 + a.1) ++ lsbBits a.2.1 a.2.2 ++ codeBits dl dc b.1 ++ lsbBits b.2.1 b.2.2
  | .lit b => codeBits ll lc b
  | .stop => codeBits ll lc 256

/-- A dynamic Huffman block (R413). -/
def dynBlock (fin : Bool) (ts : List Token) : List Bool :=
  let ll := codeLengths (countCodes 286 (ts.map (fun t => (tokenCodes t).1))) 15
  let dl := codeLengths (fillDist (countCodes 30 (ts.filterMap (fun t => (tokenCodes t).2))) 2) 15
  let hlit := max 257 (usedLen ll)
  let hdist := max 1 (usedLen dl)
  let rle := (runsOf (ll.take hlit ++ dl.take hdist)).flatMap rleRun
  let cl := codeLengths (countCodes 19 (rle.map (·.1))) 7
  let sent := clOrder.map (fun i => cl.getD i 0)
  let hclen := max 4 (usedLen sent)
  let cc := canonical cl
  let lc := canonical ll
  let dc := canonical dl
  [fin, false, true] ++ lsbBits 5 (hlit - 257) ++ lsbBits 5 (hdist - 1) ++ lsbBits 4 (hclen - 4) ++ (sent.take hclen).flatMap (lsbBits 3) ++
    rle.flatMap (fun r => codeBits cl cc r.1 ++ lsbBits r.2.1 r.2.2) ++ ts.flatMap (tokenBits ll lc dl dc)

/-- Zero bits up to a byte boundary after n bits. -/
def padBits (n : Nat) : List Bool := List.replicate ((8 - n % 8) % 8) false

/-- A stored block after n bits of output (R414). -/
def storedBlock (fin : Bool) (n : Nat) (bs : List Byte) : List Bool :=
  [fin, false, false] ++ padBits (n + 3) ++ lsbBits 16 bs.length ++ lsbBits 16 (65535 - bs.length) ++ bs.flatMap (fun b => lsbBits 8 b.toNat)

/-- Close a block of positions b to stop - 1 after n bits of output: its bits, and the hash table after it. -/
def closeBlock (fin : Bool) (data : List Byte) (b stop n : Nat) (t : Tbl (List Nat)) : List Bool × Tbl (List Nat) :=
  let (ts, t) := tokenise data stop (stop - b + 1) b t
  let dyn := dynBlock fin ts
  (if dyn.length < 8 * (stop - b) then dyn else storedBlock fin n ((data.drop b).take (stop - b)), t)

/-- The blocks of a stream from position b: blocks close at 65,535 bytes, at a flush (with its empty stored block), and at the
end. `flushes` are the flush positions in order, `ended` says end has come; pending input writes nothing. -/
def blocksFrom (data : List Byte) (ended : Bool) : Nat → List Nat → Nat → List Bool → Tbl (List Nat) → List Bool
  | 0, _, _, out, _ => out
  | fuel + 1, flushes, b, out, t =>
    let stop := match flushes with | f :: _ => f | [] => data.length
    if 65535 ≤ stop - b then
      let r := closeBlock false data b (b + 65535) out.length t
      blocksFrom data ended fuel flushes (b + 65535) (out ++ r.1) r.2
    else
      match flushes with
      | f :: fs =>
        let r := if b < f then closeBlock false data b f out.length t else ([], t)
        let out := out ++ r.1
        blocksFrom data ended fuel fs f (out ++ storedBlock false out.length []) r.2
      | [] =>
        if !ended then out
        else if b < data.length then out ++ (closeBlock true data b data.length out.length t).1
        else out ++ storedBlock true out.length []

/-- Bytes of bits, least significant first; an unfinished byte is left out. -/
def lsbBytes : Nat → List Bool → List Byte
  | 0, _ => []
  | fuel + 1, bs =>
    if bs.length < 8 then [] else BitVec.ofNat 8 ((bs.take 8).foldr (fun b a => b.toNat + 2 * a) 0) :: lsbBytes fuel (bs.drop 8)

/-- The header and the trailer of a framing (Table 16-1, R416). -/
def pressHeader (framing : Nat) : List Byte :=
  match framing with
  | 1 => [0x78, 0x01]
  | 2 => [0x1F, 0x8B, 8, 0, 0, 0, 0, 0, 0, 0xFF]
  | _ => []

def pressTrailer (framing : Nat) (data : List Byte) : List Byte :=
  match framing with
  | 1 => beBytes 4 (adler32 data)
  | 2 => leBytes 4 (crc32 data) ++ leBytes 4 data.length
  | _ => []

/-- The whole bytes of compressed output that a stream has after its input so far (R411, R415, R416). -/
def deflateOut (framing : Nat) (data : List Byte) (flushes : List Nat) (ended : Bool) : List Byte :=
  let bits := blocksFrom data ended (data.length + flushes.length + 2) flushes 0 [] []
  let bits := if ended then bits ++ padBits bits.length else bits
  pressHeader framing ++ lsbBytes (bits.length + 1) bits ++ (if ended then pressTrailer framing data else [])

/-! The decompressor (R417, R418). -/

/-- Why decoding stops: the input ends, or the byte offset of the first offending bit. -/
inductive InfStop where
  | more
  | bad (at_ : Nat)
  deriving DecidableEq, Repr

/-- n bits at a bit position, least significant first. -/
def takeBits (inp : List Byte) (pos n : Nat) : Except InfStop Nat :=
  if 8 * inp.length < pos + n then .error .more
  else .ok ((upFrom 0 n).foldl (fun a i => a + (if bitAt (inp.getD ((pos + i) / 8) 0).toNat ((pos + i) % 8) then 2 ^ i else 0)) 0)

/-- Decode one symbol bit by bit; `at_` is where its code began. -/
def huffSym (inp : List Byte) (ln codes : List Nat) (at_ : Nat) : Nat → Nat → Nat → Nat → Except InfStop (Nat × Nat)
  | 0, _, _, _ => .error (.bad (at_ / 8))
  | fuel + 1, len, code, pos => do
    let b ← takeBits inp pos 1
    let code := 2 * code + b
    match ((ln.zip codes).zip (upFrom 0 ln.length)).find? (fun p => p.1.1 == len && p.1.2 == code) with
    | some p => .ok (p.2, pos + 1)
    | none => huffSym inp ln codes at_ fuel (len + 1) code (pos + 1)

def readSym (inp : List Byte) (ln codes : List Nat) (pos : Nat) : Except InfStop (Nat × Nat) := huffSym inp ln codes pos 15 1 0 pos

/-- A code-length set is complete; `single` admits one code of length 1 and the empty set. -/
def setOk (single : Bool) (ln : List Nat) : Bool :=
  kraft 15 ln == 2 ^ 15 || (single && ((ln.filter (· != 0)) == [1] || (ln.filter (· != 0)).isEmpty))

/-- The lengths of a dynamic block, until n are read. -/
def readLens (inp : List Byte) (cl cc : List Nat) (n : Nat) : Nat → List Nat → Nat → Except InfStop (List Nat × Nat)
  | 0, acc, pos => .ok (acc, pos)
  | fuel + 1, acc, pos =>
    if n ≤ acc.length then .ok (acc, pos)
    else do
      let (s, p) ← readSym inp cl cc pos
      if s < 16 then readLens inp cl cc n fuel (acc ++ [s]) p
      else
        let w := if s == 16 then 2 else if s == 17 then 3 else 7
        let x ← takeBits inp p w
        let k := x + (if s == 18 then 11 else 3)
        if (s == 16 && acc.isEmpty) || decide (n < acc.length + k) then .error (.bad (pos / 8))
        else readLens inp cl cc n fuel (acc ++ List.replicate k (if s == 16 then acc.getLastD 0 else 0)) (p + w)

/-- The tables of a dynamic block. -/
def readTables (inp : List Byte) (pos : Nat) : Except InfStop (List Nat × List Nat × Nat) := do
  let hlit ← takeBits inp pos 5
  let hdist ← takeBits inp (pos + 5) 5
  let hclen ← takeBits inp (pos + 10) 4
  let sent ← (upFrom 0 (hclen + 4)).mapM (fun i => takeBits inp (pos + 14 + 3 * i) 3)
  let pos := pos + 14 + 3 * (hclen + 4)
  let cl := (upFrom 0 19).map (fun s => match (clOrder.zip sent).find? (fun p => p.1 == s) with | some p => p.2 | none => 0)
  if !setOk false cl then .error (.bad ((pos - 1) / 8))
  else
    let n := hlit + 257 + hdist + 1
    let (ls, p) ← readLens inp cl (canonical cl) n (n + 1) [] pos
    let ll := ls.take (hlit + 257)
    let dl := ls.drop (hlit + 257)
    if ll.getD 256 0 == 0 || !setOk false ll || !setOk true dl then .error (.bad ((p - 1) / 8))
    else .ok (ll, dl, p)

/-- The fixed tables of RFC 1951. -/
def fixedLens : List Nat := List.replicate 144 8 ++ List.replicate 112 9 ++ List.replicate 24 7 ++ List.replicate 8 8
def fixedDist : List Nat := List.replicate 32 5

/-- Output in reverse order with the reason decoding went no further, or the position after the block. -/
abbrev InfRun := List Byte × Except InfStop Nat

/-- n copies from a distance back. -/
def copyBack (dist : Nat) : Nat → List Byte → List Byte
  | 0, out => out
  | n + 1, out => copyBack dist n (out.getD (dist - 1) 0 :: out)

/-- The match that a length code begins: length, distance, position after it. -/
def readMatch (inp : List Byte) (dl dc : List Nat) (at_ s pos have_ : Nat) : Except InfStop (Nat × Nat × Nat) :=
  if 286 ≤ s then .error (.bad (at_ / 8))
  else do
    let e := lenCodes.getD (s - 257) (0, 0)
    let x ← takeBits inp pos e.2
    let q ← readSym inp dl dc (pos + e.2)
    if 30 ≤ q.1 then .error (.bad ((pos + e.2) / 8))
    else
      let g := distCodes.getD q.1 (0, 0)
      let y ← takeBits inp q.2 g.2
      if have_ < g.1 + y then .error (.bad ((pos + e.2) / 8)) else .ok (e.1 + x, g.1 + y, q.2 + g.2)

/-- The symbols of a Huffman block. -/
def infSyms (inp : List Byte) (ll lc dl dc : List Nat) : Nat → List Byte → Nat → InfRun
  | 0, out, _ => (out, .error .more)
  | fuel + 1, out, pos =>
    match readSym inp ll lc pos with
    | .error e => (out, .error e)
    | .ok (s, p) =>
      if s < 256 then infSyms inp ll lc dl dc fuel (BitVec.ofNat 8 s :: out) p
      else if s == 256 then (out, .ok p)
      else
        match readMatch inp dl dc pos s p out.length with
        | .error e => (out, .error e)
        | .ok m => infSyms inp ll lc dl dc fuel (copyBack m.2.1 m.1 out) m.2.2

/-- The bytes of a stored block, as far as the input holds them. -/
def infStored (inp : List Byte) (pos : Nat) (out : List Byte) : InfRun :=
  let p := (pos + 7) / 8
  match takeBits inp (8 * p) 16, takeBits inp (8 * p + 16) 16 with
  | .ok n, .ok c =>
    if n + c != 65535 then (out, .error (.bad (p + 2)))
    else
      let bs := (inp.drop (p + 4)).take n
      (bs.reverse ++ out, if bs.length < n then .error .more else .ok (8 * (p + 4 + n)))
  | _, _ => (out, .error .more)

/-- The blocks of a stream, to the end of its final one. -/
def infBlocks (inp : List Byte) : Nat → List Byte → Nat → InfRun
  | 0, out, _ => (out, .error .more)
  | fuel + 1, out, pos =>
    match takeBits inp pos 3 with
    | .error e => (out, .error e)
    | .ok h =>
      let r : InfRun := match h / 2 with
        | 0 => infStored inp (pos + 3) out
        | 1 => infSyms inp fixedLens (canonical fixedLens) fixedDist (canonical fixedDist) (8 * inp.length + 1) out (pos + 3)
        | 2 =>
          match readTables inp (pos + 3) with
          | .error e => (out, .error e)
          | .ok t => infSyms inp t.1 (canonical t.1) t.2.1 (canonical t.2.1) (8 * inp.length + 1) out t.2.2
        | _ => (out, .error (.bad ((pos + 1) / 8)))
      match r.2 with
      | .error e => (r.1, .error e)
      | .ok p => if h % 2 == 1 then (r.1, .ok p) else infBlocks inp fuel r.1 p

/-- A byte of the input, or the wait for more. -/
def inpByte (inp : List Byte) (i : Nat) : Except InfStop Nat := if i < inp.length then .ok (inp.getD i 0).toNat else .error .more

/-- The offset after the zero byte that ends a field. -/
def skipZero (inp : List Byte) : Nat → Nat → Except InfStop Nat
  | 0, _ => .error .more
  | fuel + 1, i => do
    let b ← inpByte inp i
    if b == 0 then .ok (i + 1) else skipZero inp fuel (i + 1)

/-- The zlib header (Table 16-1): the offset after it. -/
def zlibHead (inp : List Byte) : Except InfStop Nat := do
  let a ← inpByte inp 0
  if a % 16 != 8 || decide (7 < a / 16) then .error (.bad 0)
  else
    let b ← inpByte inp 1
    if (256 * a + b) % 31 != 0 || bitAt b 5 then .error (.bad 1) else .ok 2

/-- The gzip header. -/
def gzipHead (inp : List Byte) : Except InfStop Nat := do
  let a ← inpByte inp 0
  if a != 0x1F then .error (.bad 0)
  else
    let b ← inpByte inp 1
    if b != 0x8B then .error (.bad 1)
    else
      let c ← inpByte inp 2
      if c != 8 then .error (.bad 2)
      else
        let f ← inpByte inp 3
        if 32 ≤ f then .error (.bad 3)
        else
          let _ ← inpByte inp 9
          let p ← if bitAt f 2 then (do
              let lo ← inpByte inp 10
              let hi ← inpByte inp 11
              pure (12 + lo + 256 * hi)) else pure 10
          let p ← if bitAt f 3 then skipZero inp (inp.length + 1) p else pure p
          let p ← if bitAt f 4 then skipZero inp (inp.length + 1) p else pure p
          if bitAt f 1 then
            let _ ← inpByte inp (p + 1)
            if leNat ((inp.drop p).take 2) == crc32 (inp.take p) % 65536 then .ok (p + 2) else .error (.bad p)
          else .ok p

/-- Check a trailer at an offset: the offset after it. -/
def trailerCheck (inp : List Byte) (p : Nat) (want : List Byte) : Except InfStop Nat :=
  match (upFrom 0 want.length).find? (fun i => decide (p + i < inp.length) && inp.getD (p + i) 0 != want.getD i 0) with
  | some i => .error (.bad (p + i))
  | none => if p + want.length ≤ inp.length then .ok (p + want.length) else .error .more

/-- Decode a stream's input so far: its output, and its length where it is complete (R417, R418). -/
def inflate (framing : Nat) (inp : List Byte) : List Byte × Except InfStop Nat :=
  match (match framing with | 1 => zlibHead inp | 2 => gzipHead inp | _ => .ok 0) with
  | .error e => ([], .error e)
  | .ok p =>
    let r := infBlocks inp (8 * inp.length + 1) [] (8 * p)
    let out := r.1.reverse
    match r.2 with
    | .error e => (out, .error e)
    | .ok q => (out, trailerCheck inp ((q + 7) / 8) (pressTrailer framing out))

end Sys2Proof.Machine
end

