-- ==== Sys2Proof/Machine/Coll.lean ====
section
/-! DEFINITION. Collectives (R340 to R346): the collective header, the combining tree, the passes up and down it, completion
and abort. -/

namespace Sys2Proof.Machine

def updColl (uid : Nat) (f : Coll → Coll) (d : Dev) : Dev :=
  { d with crb.colls := d.crb.colls.map (fun c => if c.uid == uid then f c else c) }

def collAt (d : Dev) (uid : Nat) : Option Coll := d.crb.colls.find? (fun c => c.uid == uid)

/-! The tree (R342). -/

def collParent (r : Nat) : Nat := (r - 1) / 8
def collChildren (c : Coll) : List Nat := (upFrom (8 * c.rank + 1) 8).filter (fun r => decide (r < c.members.length))

/-- The ranks of a subtree; `fuel` bounds its height. -/
def collSubtree : Nat → Nat → Nat → List Nat
  | 0, _, _ => []
  | fuel + 1, n, r =>
    if r < n then r :: (upFrom (8 * r + 1) 8).flatMap (collSubtree fuel n) else []

def isSum (c : Coll) : Bool := c.op == 3 || c.op == 4 || c.op == 5
def hasDown (c : Coll) : Bool := c.op == 4 || c.op == 5 || c.op == 6 || (c.op == 7 && c.mcast.isNone)

/-- Bytes of an element in memory, on the way up, and in the result. -/
def memBytes (c : Coll) : Nat := if c.fmt == 2 then 2 else 4
def upBytes (c : Coll) : Nat := if isSum c then 4 else memBytes c

/-- Elements that a rank sends up: the indices run over the whole result (R343). -/
def upElems (c : Coll) (r : Nat) : List Nat :=
  match c.op with
  | 3 | 4 => upFrom 0 c.count
  | 5 => upFrom 0 (c.members.length * c.count)
  | 6 => (collSubtree 7 c.members.length r).flatMap (fun m => upFrom (m * c.count) c.count)
  | _ => []

/-- Elements of the whole result. -/
def resultElems (c : Coll) : Nat :=
  match c.op with
  | 5 | 6 => c.members.length * c.count
  | _ => c.count

/-- Element i of a list of (first element, bytes) runs with w bytes an element. -/
def runElem (w : Nat) (runs : List (Nat × List Byte)) (i : Nat) : Option (List Byte) :=
  (runs.find? (fun r => decide (r.1 ≤ i) && decide ((i - r.1) * w + w ≤ r.2.length))).map (fun r => (r.2.drop ((i - r.1) * w)).take w)

/-- This device's contribution to element i, as sent up: BF16 widens to binary32 (R55). -/
def ownElem (d : Dev) (c : Coll) (i : Nat) : Nat :=
  let a := match c.op with
    | 6 => c.src + (i - c.rank * c.count) * memBytes c
    | _ => c.src + i * memBytes c
  let v := leNat (rdMem d a (memBytes c))
  if isSum c && c.fmt == 2 then v * 65536 else v

/-- The rounding mode of a collective. -/
def collMode (c : Coll) : Mode := if c.rnd == 1 then .rna else .rne

/-- The combining step of R55 on codes. -/
def combine (c : Coll) (a b : Nat) : NumM Nat := do
  if c.fmt == 0 then
    let v ← sat32 (signedOf 32 a + signedOf 32 b)
    pure (codeOf 32 v)
  else
    let v ← round32 (collMode c) (xrAdd (val32 a) (val32 b))
    pure (code32 v)

def childRuns (c : Coll) (r : Nat) : List (Nat × List Byte) := (c.heard.filter (fun h => h.1 == r)).map (fun h => (h.2.1, h.2.2))

/-- What a child sent up is whole. -/
def childWhole (c : Coll) (r : Nat) : Bool :=
  c.heard.any (fun h => h.1 == r) && (upElems c r).all (fun i => (runElem (upBytes c) (childRuns c r) i).isSome)

/-- The subtotal of element i: own contribution, then children in increasing rank (R342). -/
def subtotal (d : Dev) (c : Coll) (i : Nat) : NumM Nat :=
  (collChildren c).foldlM (fun acc r => combine c acc (leNat ((runElem 4 (childRuns c r) i).getD []))) (ownElem d c i)

/-- The elements this rank sends up, or rank 0's whole result before rounding, as codes with the flags raised. -/
def upValues (d : Dev) (c : Coll) : List (Nat × Nat) × Flags :=
  if isSum c then runNum ((upElems c c.rank).mapM (fun i => do
    let v ← subtotal d c i
    pure (i, v)))
  else
    ((upElems c c.rank).map (fun i =>
      let owner := i / max c.count 1
      if owner == c.rank then (i, ownElem d c i)
      else
        match (collChildren c).findSome? (fun r => runElem (upBytes c) (childRuns c r) i) with
        | some bs => (i, leNat bs)
        | none => (i, 0)), Flags.none)

/-! Messages. -/

def memberCrc (c : Coll) : Nat := crc32c (c.members.flatMap (leBytes 2))

/-- The collective header; its status byte carries the status of an abort, else the flags so far (log entry 10). -/
def collHeader (c : Coll) (first status : Nat) : List Byte :=
  leBytes 2 c.group ++ leBytes 4 c.seq ++ leBytes 1 c.op ++ leBytes 1 c.fmt ++ leBytes 1 c.rnd ++ leBytes 4 (memberCrc c) ++
  leBytes 4 c.count ++ leBytes 4 first ++ leBytes 1 status ++ leBytes 10 0

/-- Send a collective message to a rank; it is answered, and sent again when it is not (R338). -/
def sendColl (c : Coll) (type rank first status : Nat) (data : List Byte) (d : Dev) : Dev :=
  let dst := c.members.getD rank 0
  let tag := freeTag d dst
  let body := collHeader c first status ++ data
  let p : Pkt :=
    { dst := dst, src := ownId d, type := type, hop := getF d kCrbRoute 0 8, flow := 0, tag := tag, len := body.length, job := c.fabric,
      post := 0, addr := 0, status := 0, rsvd := 0, time := nowNs d, data := body }
  startReq { tag := tag, dst := dst, job := c.fabric, user := .coll c.uid, addr := 0, packet := pktBytes p, sentAt := 0, resent := 0 }
    { d with crb.nextTag := (tag + 1) % 65536 }

/-- Cut (element, code) pairs, in index order, into messages of at most 4,064 bytes of consecutive elements. -/
def cutRuns (w : Nat) : List (Nat × Nat) → List (Nat × List Byte)
  | [] => []
  | (i, v) :: xs =>
    match cutRuns w xs with
    | (f, bs) :: rs => if f == i + 1 && decide (bs.length + w ≤ 4064) then (i, leBytes w v ++ bs) :: rs else (i, leBytes w v) :: (f, bs) :: rs
    | [] => [(i, leBytes w v)]

/-- Send elements to a rank, or one message without elements where there are none. -/
def sendRuns (c : Coll) (type rank : Nat) (flags : Flags) (w : Nat) (vs : List (Nat × Nat)) (d : Dev) : Dev :=
  match cutRuns w vs with
  | [] => sendColl c type rank 0 flags.toNat [] d
  | rs => forEach rs (fun r d => sendColl c type rank r.1 flags.toNat r.2 d) d

/-! Completion and abort (R345, R346). -/

/-- Complete a collective here: the record, the flags, the post, the kept status (R346). -/
def finishColl (c : Coll) (st failing : Nat) (flags : Flags) (d : Dev) : Dev :=
  let st := if st == stSuccess && flags != Flags.none then stFlags else st
  let d := wrMem c.cmpl ([st + flags.toNat * 256, c.seq, c.rank, failing, 0, 0, 0, 0].flatMap (leBytes 4)) d
  let d := raiseSlot c.slotKey flags d
  let d := keepStatus c.slotKey st [c.cmpl] d
  let d := postOpt (c.slotKey / 2) c.replyQ d
  { d with crb.colls := d.crb.colls.filter (fun x => x.uid != c.uid) }

/-- Abort a collective at this rank: it completes with a status and the ranks around it are told another (R345). -/
def abortColl (c : Coll) (st told failing : Nat) (d : Dev) : Dev :=
  let near := (if c.rank == 0 then [] else [collParent c.rank]) ++ collChildren c
  let d := forEach near (fun r d => sendColl c 0x1A r failing told [] d) d
  let d := { d with crb.aborted := d.crb.aborted ++ [(c.job, c.group, c.seq, told)] }
  finishColl c st failing c.flags d

/-- Abort collectives one of whose messages has failed. -/
def sweepColls (d : Dev) : Dev :=
  forEach (d.crb.colls.filter (fun c => c.failed.isSome)) (fun c d =>
    let st := c.failed.getD 0
    abortColl c (if st == stTimeout then stTimeout else stUnreach) (if st == stTimeout then stTimeout else stUnreach) c.rank d) d

/-- The collectives of a job that is cancelled or reset: they complete with CANCELLED and the others are told
FABRIC_UNREACHABLE; a fabric reset tells nobody (R345, R457). -/
def endJobColls (job : Nat) (tell : Bool) (d : Dev) : Dev :=
  let d := forEach (d.crb.colls.filter (fun c => c.job == job)) (fun c d =>
    if tell then abortColl c stCancelled stUnreach c.rank d else finishColl c stCancelled c.rank c.flags d) d
  { d with
    crb.seqs := tclear d.crb.seqs (fun k => k / 16 == job)
    crb.aborted := d.crb.aborted.filter (fun a => a.1 != job) }

/-! The passes. -/

/-- Where this rank's part of the result lies in the whole: (first element, elements), and whether it writes any (R343). -/
def ownPart (c : Coll) : Option (Nat × Nat) :=
  match c.op with
  | 3 => if c.rank == 0 then some (0, c.count) else none
  | 4 => some (0, c.count)
  | 5 => some (c.rank * c.count, c.count)
  | 6 => some (0, c.members.length * c.count)
  | 7 => if c.mcast.isSome && c.rank != 0 then none else some (0, c.count)
  | _ => none

/-- Write this rank's part of the result. -/
def writePart (c : Coll) (runs : List (Nat × List Byte)) (d : Dev) : Dev :=
  match ownPart c with
  | some (f, n) => wrMem c.dst ((upFrom f n).flatMap (fun i => (runElem (memBytes c) runs i).getD [])) d
  | none => d

/-- Send the result on to the children and complete. -/
def passDown (c : Coll) (runs : List (Nat × List Byte)) (flags : Flags) (d : Dev) : Dev :=
  let d := writePart c runs d
  let d := forEach (collChildren c) (fun r d =>
    if hasDown c then forEach runs (fun x d => sendColl c 0x19 r x.1 flags.toNat x.2 d) d
    else sendColl c 0x19 r 0 flags.toNat (if c.op == 7 then leBytes 8 (c.count * memBytes c) else []) d) d
  finishColl c stSuccess 0xFFFFFFFF flags d

/-- Rank 0's result: sums of BF16 are rounded once (R55); a broadcast is rank 0's own data. -/
def rootResult (d : Dev) (c : Coll) : List (Nat × List Byte) × Flags :=
  if c.op == 7 then (cutRuns (memBytes c) ((upFrom 0 c.count).map (fun i => (i, leNat (rdMem d (c.src + i * memBytes c) (memBytes c))))), Flags.none)
  else
    let (vs, f) := upValues d c
    if isSum c && c.fmt == 2 then
      let (rs, g) := runNum (vs.mapM (fun p => do
        let v ← roundBf16 (collMode c) (val32 p.2)
        pure (p.1, codeBf16 v)))
      (cutRuns 2 rs, f.or g)
    else (cutRuns (memBytes c) vs, f)

/-- Send a broadcast as MCAST packets of the group (R343, R344). -/
def sendMcast (c : Coll) (g : Nat) (runs : List (Nat × List Byte)) (d : Dev) : Dev :=
  forEach runs (fun r d =>
    let p : Pkt :=
      { dst := g, src := ownId d, type := 0x10, hop := getF d kCrbRoute 0 8, flow := 0, tag := 0, len := r.2.length, job := c.fabric,
        post := 0, addr := c.dst + r.1 * memBytes c, status := 0, rsvd := 0, time := nowNs d, data := r.2 }
    forEach ((upFrom 0 8).filter (fun l => getF d (kCrbMcast g) (8 + l) 1 == 1)) (fun l d =>
      if nativeUp d l then queuePkt l 0 p d else bumpF kCrbRouteErr 0 16 1 d) d) d

/-- Go on with a running collective as far as what has arrived allows. -/
def kickColl (uid : Nat) (d : Dev) : Dev :=
  match collAt d uid with
  | some c =>
    if !c.running || c.sentUp || c.op == 2 || !(collChildren c).all (childWhole c) then d
    else if c.op == 7 && c.mcast.isSome && c.dsts.any (fun x => x.2 != c.dst) then abortColl c stInvalid stInvalid c.rank d
    else if c.rank == 0 then
      let (runs, f) := rootResult d c
      let flags := c.flags.or f
      let d := match c.mcast with
        | some g => if c.op == 7 then sendMcast c g runs d else d
        | none => d
      passDown c runs flags d
    else
      let (vs, f) := upValues d c
      let flags := c.flags.or f
      let d := updColl uid (fun x => { x with sentUp := true, flags := flags }) d
      let c := { c with sentUp := true, flags := flags }
      if c.op == 7 && c.mcast.isSome then sendColl c 0x18 (collParent c.rank) 0 flags.toNat (leBytes 8 c.dst) d
      else sendRuns c 0x18 (collParent c.rank) flags (upBytes c) vs d
  | none => d

/-- Up to 16 collectives run, in each group in order of their numbers (R345). -/
def startColls : Nat → Dev → Dev
  | 0, d => d
  | fuel + 1, d =>
    let run := d.crb.colls.filter (·.running)
    if 16 ≤ run.length then d
    else
      match d.crb.colls.find? (fun c => !c.running && !d.crb.colls.any (fun x => x.job == c.job && x.group == c.group && decide (x.seq < c.seq))) with
      | some c => startColls fuel (kickColl c.uid (updColl c.uid (fun x => { x with running := true }) d))
      | none => d

end Sys2Proof.Machine
end

