-- ==== Sys2Proof/Machine/SessCore.lean ====
section
/-! DEFINITION. The work of slots (R161, R162, R183, R283): the end of a slot's work, frame completions, the fault of a
session, and the completion of a PF2 job. -/

namespace Sys2Proof.Machine

/-! Slots. -/

/-- The end of a slot's program: its leases go (R247), its receive windows close (R337), and waiting AFTER_SEM descriptors of
its semaphores are cancelled (R368). -/
def endSlot (k : Nat) (d : Dev) : Dev :=
  let d := dropSlotLeases k d
  sweepSems { d with crb.wins := tclear d.crb.wins (fun w => w / 4 == k) }

/-- The scheduler firmware stops a slot without an exception: its queues are discarded and its streams cancelled (R189). -/
def stopQuiet (k : Nat) (d : Dev) : Dev :=
  let d := updSlot k (fun sl => { sl with phase := .stopped, hold := .none }) d
  endSlot k (cancelStreams (k / 2) (k % 2) (discardQueues (k / 2) (k % 2) d))

/-- The running slots that satisfy `p`. -/
def slotsWhere (d : Dev) (p : SlotSt → Bool) : List Nat :=
  (d.core.slots.filter (fun e => e.2.phase == .running && p e.2)).map (·.1)

/-- The running slots of a session, and of a job. -/
def sessSlots (d : Dev) (i : Nat) : List Nat := slotsWhere d (fun sl => sl.ident.toNat == 65536 + i)
def jobSlots (d : Dev) (tag : Nat) : List Nat := slotsWhere d (fun sl => sl.fn == 2 && sl.ident.toNat == tag)

/-- The result words of a kept stream status (Table 14-7): delivered count and resume index. -/
def keptWords (info : List Nat) : List Nat :=
  if info.length != 6 then []
  else
    let w (i : Nat) : Nat := info.getD i 0
    [w 0 % 2 ^ 32, w 1 * 65536 + w 0 / 2 ^ 32, w 3 * 65536 + w 2, w 5 * 65536 + w 4]

/-! Frames. -/

/-- The status of a frame or job without a fault: a kept error, the flags, or SUCCESS. -/
def endStatus (st : Nat) (f : Flags) : Nat := if st != 0 then st else if f == Flags.none then stSuccess else stFlags

/-- Write a frame completion (Table 14-7, kind 3). -/
def frameCpl (i : Nat) (x : Sess) (tag st : Nat) (flags : Flags) (ws : List Nat) (d : Dev) : Dev :=
  postCpl 1 x.cplRing
    { tag := tag, status := st, flags := flags.toNat, kind := 3, ident := i, w3 := ws.getD 0 0, w4 := ws.getD 1 0, w5 := ws.getD 2 0, w6 := ws.getD 3 0 } d

/-- Complete a dispatched frame; an error status wins over the frame's own. -/
def cplFrame (i : Nat) (x : Sess) (f : Frame) (err : Nat) (d : Dev) : Dev :=
  let st := endStatus (if err != 0 then err else f.status) f.flags
  let kept := keptWords f.info
  frameCpl i x f.req.tag st f.flags (if err == 0 && !kept.isEmpty then kept else [f.num, f.written, f.dropped]) d

/-- Complete queued frames with CANCELLED. -/
def cancelQueue (i : Nat) (x : Sess) (d : Dev) : Dev :=
  forEach x.queue (fun r d => frameCpl i x r.tag stCancelled Flags.none [] d) d

/-- Complete a session's waiting SESS_CHECKPOINT commands with a status. -/
def endCheckpoints (x : Sess) (st : Nat) (d : Dev) : Dev :=
  forEach x.checkpoints (fun u d => match findDesc d u.1 with | some c => finishDesc c st [] d | none => d) d

/-- End the work a session has in progress: its slots stop, its leases go, the dispatched frame completes with a status and the
queued ones with CANCELLED. -/
def endWork (i st : Nat) (d : Dev) : Dev :=
  let d := forEach (sessSlots d i) stopQuiet d
  let d := dropSessLeases i d
  match sessAt d i with
  | some x =>
    let d := match x.frame with | some f => cplFrame i x f st d | none => d
    updSess i (fun y => { y with frame := none, queue := [] }) (cancelQueue i x d)
  | none => d

/-- SESSION_FAULTED: a fault in the work of a session (R283). During a drain it becomes the status of the close (R285). -/
def faultSession (i st : Nat) (d : Dev) : Dev :=
  match sessAt d i with
  | some x =>
    match x.phase with
    | .draining => updSess i (fun y => { y with closeStatus := st }) (endWork i st d)
    | .active | .parked =>
      let d := endCheckpoints x stCancelled (endWork i st d)
      updSess i (fun y => { y with phase := .faulted, checkpoints := [] }) d
    | _ => d
  | none => d

/-- Add a program's flags and its kept status to the frame of its session. -/
def noteFrame (i : Nat) (st : Nat) (info : List Nat) (fl : Flags) (d : Dev) : Dev :=
  updSess i (fun x => { x with
    frame := x.frame.map (fun f => { f with
      flags := f.flags.or fl
      status := if f.status == 0 then st else f.status
      info := if f.status == 0 then info else f.info })
    dec := { x.dec with open_ := x.dec.open_.map (fun f => { f with flags := f.flags.or fl }) } }) d

/-! PF2 jobs. -/

def jobAt (d : Dev) (uid : Nat) : Option Job := d.host.jobs.find? (fun j => j.uid == uid)

def updJob (uid : Nat) (f : Job → Job) (d : Dev) : Dev :=
  { d with host.jobs := d.host.jobs.map (fun j => if j.uid == uid then f j else j) }

/-- Complete a job: its collectives end (R345), its descriptor completes, its slots that still run are stopped. -/
def completeJob (uid err : Nat) (d : Dev) : Dev :=
  match jobAt d uid with
  | some j =>
    let d := forEach (if j.running then jobSlots d j.tag else []) stopQuiet d
    let d := startColls 81 (endJobColls uid true d)
    let d := { d with
      host.jobs := d.host.jobs.filter (fun y => y.uid != uid)
      crb.early := d.crb.early.filter (fun r => (pktOf r.bytes).job != j.fabric) }
    match findDesc d uid with
    | some x =>
      if err != 0 then finishDesc x err [] d
      else finishFlags x (endStatus j.status j.flags) j.flags (keptWords j.info) d
    | none => d
  | none => d

/-- The job a slot serves: the running one with the slot's tag. -/
def noteJob (uid st : Nat) (info : List Nat) (fl : Flags) (d : Dev) : Dev :=
  updJob uid (fun j => { j with
    flags := j.flags.or fl
    status := if j.status == 0 then st else j.status
    info := if j.status == 0 then info else j.info }) d

end Sys2Proof.Machine
end

