-- ==== Sys2Proof/Machine/Work.lean ====
section
/-! DEFINITION. What the scheduler firmware does when a slot's program ends or cannot be launched (R161, R162, R166, R183). -/

namespace Sys2Proof.Machine

/-- A slot has stopped: its work completes with a status (R161, R283). -/
def faultWork (k status : Nat) (d : Dev) : Dev :=
  let fl := (slotAt d k).flags
  match slotSession d k with
  | some i => faultSession i status (noteFrame i 0 [] fl (endSlot k d))
  | none =>
    match slotJob d k with
    | some j => completeJob j.uid status (endSlot k d)
    | none => endSlot k d

/-- A slot's program has ended by HALT: its flags and kept status go to its frame; a job completes with its last slot
(R53, R162, R183). -/
def haltWork (k : Nat) (d : Dev) : Dev :=
  let fl := (slotAt d k).flags
  let kept := tget [] d.strm.kept k
  let st := kept.headD 0
  let d := endSlot k d
  match slotSession d k with
  | some i => noteFrame i st kept.tail fl d
  | none =>
    match slotJob d k with
    | some j =>
      let d := noteJob j.uid st kept.tail fl d
      if (jobSlots d j.tag).isEmpty then completeJob j.uid 0 d else d
    | none => d

/-- A launch completes with INVALID_DESCRIPTOR, and so does the job or the frame it was for (R35, R166). -/
def launchRefused (fn : Nat) (ident : BitVec 17) (d : Dev) : Dev :=
  let i := ident.toNat
  if 65536 ≤ i then noteFrame (i - 65536) stInvalid [] Flags.none d
  else if fn == 2 then
    match d.host.jobs.find? (fun j => j.running && j.tag == i) with
    | some j => completeJob j.uid stInvalid d
    | none => d
  else d

end Sys2Proof.Machine
end

