-- ==== Sys2Proof/Machine/Issue.lean ====
section
/-! DEFINITION. The issue of a media-core instruction and the exceptions (R139 to R146, R159 to R161). -/

namespace Sys2Proof.Machine

/-! Exceptions. -/

/-- An instruction that runs: its new state, and the branch target if it is a taken branch; or an exception with its
cause and address; or a hold of issue; or a full queue. -/
inductive Issued where
  | done (d : Dev)
  | jump (d : Dev) (target : BitVec 24)
  | exc (cause addr : Nat)
  | wait (h : Hold) (d : Dev)
  | full
  deriving DecidableEq, Repr

/-- The exception report (Table 06-14). -/
def excReport (k cause : Nat) (sl : SlotSt) (insn : W64) (addr : Nat) : List W32 :=
  [BitVec.ofNat 32 (cause * 2 ^ 24 + (k % 2) * 256 + k / 2), BitVec.ofNat 32 sl.pc.toNat,
   BitVec.ofNat 32 insn.toNat, BitVec.ofNat 32 (insn.toNat / 2 ^ 32),
   BitVec.ofNat 32 addr, BitVec.ofNat 32 (addr / 2 ^ 32 % 2 ^ 16),
   BitVec.ofNat 32 sl.ident.toNat, BitVec.ofNat 32 (sl.flags.toNat * 256)]

/-- The instruction at the head of a slot's issue: the one it holds, or the word at its pc. -/
def headWord (d : Dev) (k : Nat) : W64 :=
  if (slotAt d k).hold == .none then BitVec.ofNat 64 (leNat (rdMem d (winBase d k + (slotAt d k).pc.toNat) 8)) else (slotAt d k).headInsn

/-- Stop a slot (R161): STOPPED, queued work that has not begun discarded, streams cancelled, the report delivered, the
job or frame completed with ENGINE_FAULT. -/
def stopSlot (k cause : Nat) (insn : W64) (addr : Nat) (d : Dev) : Dev :=
  let rep := excReport k cause (slotAt d k) insn addr
  let d := updSlot k (fun sl => { sl with phase := .stopped, hold := .none, report := some rep }) d
  let d := cancelStreams (k / 2) (k % 2) (discardQueues (k / 2) (k % 2) d)
  faultWork k stEngine (emit (.excReport rep) d)

/-! Issue. -/

/-- A snapshot holds issue in every slot of its job (R319). -/
def snapHolds (d : Dev) (k : Nat) : Bool :=
  match d.crb.snap with
  | some p => (slotAt d k).fn == 2 && (slotAt d k).ident.toNat == p.tag
  | none => false

/-- The slot takes instructions: it runs, issue is not held but by a full queue, no snapshot holds it (R319), and no debugger has
halted it (R438). -/
def canIssue (d : Dev) (k : Nat) : Bool :=
  isRunning d k && !snapHolds d k && !d.boot.halted.contains k && ((slotAt d k).hold == .none || (slotAt d k).hold == .fullQueue)

/-- The instruction retires and the slot goes on at `pc` (R139, R160). -/
def retireAt (k : Nat) (pc : BitVec 24) (d : Dev) : Dev :=
  updSlot k (fun sl => { sl with pc := pc, hold := .none, wdCount := 0 }) d

/-- The offset of the next instruction (R139). -/
def nextPc (d : Dev) (k : Nat) : BitVec 24 := (slotAt d k).pc + 8

/-- The guard of R141: p[pg] XOR gn. -/
def guardHolds (sl : SlotSt) (g : Guard) : Bool := getP sl g.pg.toNat != (g.gn == 1)

/-- What an instruction does once its slot takes it: nothing for a false guard (R141), an exception for fetch outside
the code region (R138) or an encoding that breaks a constraint (R142), its body otherwise. -/
def issueDev (k : Nat) (g : Guard) (insn : W64) (enc : Bool) (body : Dev → Issued) (d : Dev) : Dev :=
  let sl := slotAt d k
  if sl.codeSize ≤ sl.pc.toNat then stopSlot k 2 insn sl.pc.toNat d
  else if !guardHolds sl g then retireAt k (nextPc d k) d
  else if !enc then stopSlot k 1 insn 0 d
  else
    match body d with
    | .done d' => retireAt k (nextPc d k) d'
    | .jump d' t => retireAt k t d'
    | .exc c a => stopSlot k c insn a d
    | .wait h d' => updSlot k (fun sl => { sl with hold := h, headInsn := insn }) d'
    | .full => updSlot k (fun sl => { sl with hold := .fullQueue, headInsn := insn }) d

/-- Issue an instruction from a slot. -/
def issue (x : Site) (g : Guard) (insn : W64) (enc : Bool) (body : Dev → Issued) (s : State) :
    Host.Outcome State Fault Refusal :=
  whenDev (canIssue s.dev (siteKey x)) "the slot takes no instruction" (issueDev (siteKey x) g insn enc body s.dev) s

/-! Instruction words (Table 06-2), for the exception report. -/

def headBits (op : BitVec 8) (g : Guard) : BitVec 12 := op ++ g.gn ++ g.pg

def wordR (op : BitVec 8) (f : FmtR) : W64 := headBits op f.g ++ f.rd ++ f.rs1 ++ f.rs2 ++ f.rsvd
def wordI (op : BitVec 8) (f : FmtI) : W64 := headBits op f.g ++ f.rd ++ f.rs1 ++ f.rsvd ++ f.imm
def wordM (op : BitVec 8) (f : FmtM) : W64 := headBits op f.g ++ f.r ++ f.ra ++ f.size ++ f.rsvd ++ f.imm
def wordB (op : BitVec 8) (f : FmtB) : W64 := headBits op f.g ++ f.r ++ f.rsvd ++ f.imm
def wordC (op : BitVec 8) (f : FmtC) : W64 := headBits op f.g ++ f.r ++ f.rsvd ++ f.idx
def wordU (op : BitVec 8) (f : FmtU) : W64 := headBits op f.g ++ f.ra ++ f.sel ++ f.q ++ f.qEn ++ f.rsvd ++ f.off
def wordS (op : BitVec 8) (f : FmtS) : W64 := headBits op f.g ++ f.q ++ f.count ++ f.rsvd
def wordT (op : BitVec 8) (f : FmtT) : W64 := headBits op f.g ++ f.rs ++ f.pd ++ f.rsvd
def wordL (op : BitVec 8) (f : FmtL) : W64 := headBits op f.g ++ f.rf ++ f.rl ++ f.pd ++ f.lp ++ f.rsvd
def wordF (op : BitVec 8) (f : FmtF) : W64 := headBits op f.g ++ f.rsvd ++ f.mask
def wordN (op : BitVec 8) (f : FmtN) : W64 := headBits op f.g ++ f.rsvd

/-- The U-format fields of a VEC row with its function code (Table 06-9). -/
def vecToU (f : FmtV) (sel : BitVec 8) : FmtU :=
  { g := f.g, ra := f.ra, sel := sel, q := f.q, qEn := f.qEn, rsvd := f.rsvd, off := f.off }

/-- The C-format fields of a monitor row: control register +o of its monitor (Table 04-4). -/
def monToC (f : FmtCMon) (o : Nat) : FmtC :=
  { g := f.g, r := f.r, rsvd := f.rsvd, idx := BitVec.ofNat 12 (0x100 + 8 * f.mon.val + o) }

end Sys2Proof.Machine
end

