-- ==== Sys2Proof/Machine/Monitors.lean ====
section
/-! DEFINITION. The saturation and underflow monitors (R97 to R103): counting in element order, the close of a window,
its evaluation and its events. -/

namespace Sys2Proof.Machine

def monAt (d : Dev) (k m : Nat) : Mon := tget {} (slotAt d k).mons m

def updMon (k m : Nat) (f : Mon → Mon) (d : Dev) : Dev := updSlot k (fun sl => { sl with mons := tmod {} sl.mons m f }) d

/-- The current window holds at least 2^w elements (R99). -/
def monDue (mn : Mon) : Bool := decide (2 ^ mn.winExp ≤ mn.elem)

/-- How many numbers of an increasing list lie below n. -/
def countBelow (n : Nat) (l : List Nat) : Nat := (l.filter (fun i => decide (i < n))).length

/-- The rest of a run after its first n elements. -/
def MonRun.dropFirst (r : MonRun) (n : Nat) : MonRun :=
  { n := r.n - n, clipped := (r.clipped.filter (fun i => decide (n ≤ i))).map (· - n),
    vanished := (r.vanished.filter (fun i => decide (n ≤ i))).map (· - n) }

/-- Count waiting elements into the current window, up to exactly 2^w (R99). -/
def monFeed : Nat → Mon → Mon
  | 0, mn => mn
  | fuel + 1, mn =>
    match mn.waiting with
    | [] => mn
    | r :: rs =>
      let room := 2 ^ mn.winExp - mn.elem
      if room == 0 then mn
      else if r.n ≤ room then
        monFeed fuel { mn with
          waiting := rs
          elem := mn.elem + r.n
          sat := mn.sat + r.clipped.length
          van := mn.van + r.vanished.length }
      else
        { mn with
          waiting := r.dropFirst room :: rs
          elem := mn.elem + room
          sat := mn.sat + countBelow room r.clipped
          van := mn.van + countBelow room r.vanished }

def feedAll (mn : Mon) : Mon := monFeed (mn.waiting.length + 1) mn

/-- An event of a monitor may be raised: none within the last 200,000 ACLK (R100). -/
def monEvtFree (now : Nat) (last : Option Nat) : Bool :=
  match last with
  | none => true
  | some t => decide (t + 200000 ≤ now)

/-- The payload of SATURATION and UNDERFLOW_GROUP (Table 18-5). -/
def monPayload (sl : SlotSt) (m : Nat) (mn : Mon) (count nOver : Nat) : List Nat :=
  [sl.ident.toNat + m * 2 ^ 24, mn.winExp, count, nOver]

/-- Evaluate and reset the current window (R99, R100). -/
def monEvaluate (k m : Nat) (d : Dev) : Dev :=
  let sl := slotAt d k
  let mn := monAt d k m
  let satOver : Bool := decide (mn.satThr * mn.elem < mn.sat * 65536)
  let vanOver : Bool := decide (mn.vanThr * mn.elem < mn.van * 65536)
  let os := if satOver then mn.overSat + 1 else mn.overSat
  let ov := if vanOver then mn.overVan + 1 else mn.overVan
  let satEvt := satOver && mn.satEvtEn && monEvtFree d.aclk mn.lastSatEvt
  let vanEvt := vanOver && mn.vanEvtEn && monEvtFree d.aclk mn.lastVanEvt
  let d := if satEvt then raiseEvent 0x01 1 k (monPayload sl m mn mn.sat os) d else d
  let d := if vanEvt then raiseEvent 0x02 1 k (monPayload sl m mn mn.van ov) d else d
  let now := d.aclk
  updMon k m (fun mn =>
    { mn with
      elem := 0
      sat := 0
      van := 0
      overSat := if satEvt then 0 else os
      overVan := if vanEvt then 0 else ov
      lastSatEvt := if satEvt then some now else mn.lastSatEvt
      lastVanEvt := if vanEvt then some now else mn.lastVanEvt }) d

/-- Close a window that is full, then count on. -/
def monClose (k m : Nat) (d : Dev) : Dev := updMon k m feedAll (monEvaluate k m d)

/-- Close every window that is full, so that an access of the monitor sees the counts in element order. Each close takes
at least 2^10 elements, so the fuel bounds the closes. -/
def monSettle (k m : Nat) : Nat → Dev → Dev
  | 0, d => d
  | fuel + 1, d => if monDue (monAt d k m) then monSettle k m fuel (monClose k m d) else d

def waitingTotal (mn : Mon) : Nat := (mn.waiting.map (·.n)).foldl (· + ·) 0

def monSettled (k m : Nat) (d : Dev) : Dev := monSettle k m (waitingTotal (monAt d k m) / 1024 + 2) d

/-- The counters of a quantising operation: elements in order, as a run. -/
def monCount (k m : Nat) (r : MonRun) (d : Dev) : Dev :=
  if !(monAt d k m).enable || r.n == 0 then d
  else
    updMon k m (fun mn =>
      feedAll { mn with
        waiting := mn.waiting ++ [r]
        totSat := satAdd 0xFFFFFFFF mn.totSat r.clipped.length
        totVan := satAdd 0xFFFFFFFF mn.totVan r.vanished.length }) (monSettled k m d)

/-- MONITOR_WINDOW_CLOSE: the window that holds 2^w elements is evaluated and reset, and the next element counted opens a
new one (R99). -/
def execMonitorWindowClose (x : Site) (mon : Fin 8) (s : State) : Host.Outcome State Fault Refusal :=
  whenDev (monDue (monAt s.dev (siteKey x) mon.val)) "the window is not full" (monClose (siteKey x) mon.val s.dev) s

/-! Control-register access of a monitor (Table 04-4). -/

/-- Register +o of monitor m as read. -/
def monRead (mn : Mon) (o : Nat) : Nat :=
  match o with
  | 0 => mn.vanEvtEn.toNat * 128 + mn.satEvtEn.toNat * 64 + mn.enable.toNat * 32 + mn.winExp
  | 1 => mn.satThr * 65536 + mn.vanThr
  | 3 => mn.elem
  | 4 => mn.sat
  | 5 => mn.van
  | 6 => mn.totSat
  | 7 => mn.totVan
  | _ => 0

/-- A write of MON_CFG: the fields take their values, and a window that already holds 2^w elements of the new w closes
(R99). -/
def monCfgWrite (k m v : Nat) (d : Dev) : Dev :=
  let d := updMon k m (fun mn =>
    { mn with vanEvtEn := bitAt v 7, satEvtEn := bitAt v 6, enable := bitAt v 5, winExp := fld v 0 5 }) (monSettled k m d)
  if monDue (monAt d k m) then monEvaluate k m d else d

/-- A write of MON_CTL: close acts, and clear only without it (R99, R103). -/
def monCtlWrite (k m v : Nat) (d : Dev) : Dev :=
  let d := monSettled k m d
  if bitAt v 1 then monEvaluate k m d
  else if bitAt v 0 then updMon k m (fun mn => { mn with elem := 0, sat := 0, van := 0 }) d else d

end Sys2Proof.Machine
end

