-- ==== Sys2Proof/Machine/Window.lean ====
section
/-! DEFINITION. The Selvedge (R111 to R133): what a window set delivers for a tap, its size and extent, and the checks
that its descriptor passes. -/

namespace Sys2Proof.Machine

/-! Geometry (R111, R117, R121). -/

def winB (w : WinDesc) : Nat := if w.block then 32 else 16
def winR (w : WinDesc) : Nat := 2 ^ w.regroup
def winCc (w : WinDesc) : Nat := w.cIn * winR w * winR w
def winH (w : WinDesc) : Nat := ceilDiv w.inH (winR w)
def winW (w : WinDesc) : Nat := ceilDiv w.inW (winR w)
def winHv (w : WinDesc) : Nat := (winH w - 1) * w.siy + 1
def winWv (w : WinDesc) : Nat := (winW w - 1) * w.six + 1

/-- The output size of one dimension (R121); it may be zero or negative. -/
def outSize (inV k dil stride lo hi : Nat) : Int :=
  ((inV : Int) + lo + hi - (dil : Int) * ((k : Int) - 1) - 1).fdiv stride + 1

def winOutH (w : WinDesc) : Int := outSize (winHv w) w.kh w.dh w.sh w.pt w.pb
def winOutW (w : WinDesc) : Int := outSize (winWv w) w.kw w.dw w.sw w.pl w.pr

/-- An empty window set (R121). -/
def winEmpty (w : WinDesc) : Bool := decide (winOutH w ≤ 0) || decide (winOutW w ≤ 0)

/-- Output positions of a window set that is not empty. -/
def winPositions (w : WinDesc) : Nat := (winOutH w).toNat * (winOutW w).toNat

def winIsCode (w : WinDesc) : Bool := decide (w.fmt < 4)
def winIsNib (w : WinDesc) : Bool := w.fmt == 2 || w.fmt == 3

/-- Bytes of an element; 0 for the 4-bit codes, which take half a byte. -/
def winEsize (w : WinDesc) : Nat := if w.fmt < 2 then 1 else if w.fmt < 4 then 0 else if w.fmt < 6 then 2 else 4

/-- Bytes of one pixel of a plane (R111). -/
def winPix (w : WinDesc) : Nat := if winIsNib w then winB w / 2 else winB w * winEsize w

/-- The window offset just past the tile extent (R115). -/
def winEnd (w : WinDesc) : Nat :=
  w.src + (ceilDiv w.cIn (winB w) - 1) * w.planePitch + (w.th - 1) * w.yPitch + w.tw * winPix w

/-! Values. -/

/-- The value of a code of an operand format 0 to 3 (Table 06-4). -/
def codeVal (fmt c : Nat) : Int :=
  match fmt with
  | 0 => signedOf 8 c
  | 1 => (c % 256 : Nat)
  | 2 => signedOf 4 c
  | _ => (c % 16 : Nat)

/-- A stored element's value in a window format (Table 05-1). -/
def winVal (fmt c : Nat) : XR :=
  if fmt < 4 then xrInt (codeVal fmt c) else if fmt == 4 then valBf16 c else if fmt == 5 then val16 c else val32 c

/-- The fill value (R112). -/
def winFill (w : WinDesc) : XR := if winIsCode w then xrInt (codeVal w.fmt w.zp) else .fin false 0 1

/-- The constant padding value (R123): a code of fmt, or a binary32 value. -/
def winPad (w : WinDesc) : XR := if winIsCode w then xrInt (codeVal w.fmt w.padValue) else val32 w.padValue

/-- Where a tap falls: zero or constant padding, a place that returns fill, or a stored element. -/
inductive Tap where
  | pad
  | fill
  | elem (c y x : Nat)
  deriving DecidableEq, Repr

/-- fix of R123 for replicate (1) and reflect (2) padding. -/
def padFix (mode : Nat) (v : Int) (n : Nat) : Nat :=
  if mode == 1 then (min (max v 0) ((n : Int) - 1)).toNat
  else if n == 1 then 0
  else
    let p := 2 * (n - 1)
    let r := (v % (p : Int)).toNat
    if r < n then r else p - r

/-- sample of R117, up to the load. -/
def winTap (w : WinDesc) (c : Nat) (vy vx : Int) : Tap :=
  let hv := winHv w
  let wv := winWv w
  let out : Bool := decide (vy < 0) || decide ((hv : Int) ≤ vy) || decide (vx < 0) || decide ((wv : Int) ≤ vx)
  if out && (w.padMode == 0 || w.padMode == 3) then .pad
  else
    let y0 := if out then padFix w.padMode vy hv else vy.toNat
    let x0 := if out then padFix w.padMode vx wv else vx.toNat
    if winCc w ≤ c then .fill
    else if y0 % w.siy != 0 || x0 % w.six != 0 then .fill
    else
      let r := winR w
      let dd := c % (r * r)
      let y := y0 / w.siy * r + dd / r
      let x := x0 / w.six * r + dd % r
      if w.inH ≤ y || w.inW ≤ x then .fill else .elem (c / (r * r)) y x

/-- The byte offset of an element from the tile base (R111); negative or past the tile for elements outside it. -/
def layoutOff (b : Nat) (nib : Bool) (esize yPitch planePitch c : Nat) (dy dx : Int) : Int :=
  (c / b * planePitch : Nat) + dy * yPitch + dx * (if nib then b / 2 else b * esize : Nat) +
    (if nib then c % b / 2 else c % b * esize : Nat)

def winOff (w : WinDesc) (c y x : Nat) : Int :=
  w.src + layoutOff (winB w) (winIsNib w) (winEsize w) w.yPitch w.planePitch c ((y : Int) - w.ty0) ((x : Int) - w.tx0)

/-- An image element lies in the tile. -/
def winInTile (w : WinDesc) (y x : Nat) : Bool :=
  decide (w.ty0 ≤ y) && decide (y < w.ty0 + w.th) && decide (w.tx0 ≤ x) && decide (x < w.tx0 + w.tw)

/-- The bytes an element occupies, from its window offset. -/
def winElemBytes (w : WinDesc) : Nat := if winIsNib w then 1 else winEsize w

/-- load: a stored element's value; `base` is the device-map address of the slot's window. -/
def winLoad (d : Dev) (base : Nat) (w : WinDesc) (c y x : Nat) : XR :=
  let v := unitNat d (base + (winOff w c y x).toNat) (winElemBytes w)
  winVal w.fmt (if winIsNib w then (if c % 2 == 0 then v % 16 else v / 16) else v)

def tapVal (d : Dev) (base : Nat) (w : WinDesc) : Tap → XR
  | .pad => if w.padMode == 3 then winPad w else winFill w
  | .fill => winFill w
  | .elem c y x => winLoad d base w c y x

/-- The tap of element j of the weft row of position o (R116, R117). -/
def weftTap (w : WinDesc) (o j : Nat) : Tap :=
  let b := winB w
  let ow := (winOutW w).toNat
  let k := w.kBase + j
  let t := k / b % (w.kh * w.kw)
  let c := k / (b * w.kh * w.kw) * b + k % b
  if winCc w ≤ c then .fill
  else winTap w c ((o / ow * w.sh : Nat) - (w.pt : Int) + (t / w.kw * w.dh : Nat))
    ((o % ow * w.sw : Nat) - (w.pl : Int) + (t % w.kw * w.dw : Nat))

def weftTaps (w : WinDesc) (o : Nat) : List Tap := (upFrom 0 w.kLen).map (weftTap w o)

/-- Every element of the row is fill, under zero padding (R124). -/
def rowAllFill (w : WinDesc) (o : Nat) : Bool :=
  (weftTaps w o).all (fun t => match t with | .elem _ _ _ => false | _ => true)

/-- The taps of a pooled channel that take part (R130); those of a channel without data are fill, whatever the padding (R112). -/
def poolTaps (w : WinDesc) (o c : Nat) : List Tap :=
  let ow := (winOutW w).toNat
  (((upFrom 0 (w.kh * w.kw)).map (fun t =>
    winTap w c ((o / ow * w.sh : Nat) - (w.pt : Int) + (t / w.kw * w.dh : Nat))
      ((o % ow * w.sw : Nat) - (w.pl : Int) + (t % w.kw * w.dw : Nat)))).filter
    (fun t => match t with | .pad => w.padIncl | _ => true)).map (fun t => if winCc w ≤ c then .fill else t)

/-- The window offset of the first tap that lies in the image but outside the tile, if any. -/
def firstOutside (w : WinDesc) : List Tap → Option Int
  | [] => none
  | .elem c y x :: ts => if winInTile w y x then firstOutside w ts else some (winOff w c y x)
  | _ :: ts => firstOutside w ts

/-- The taps that m rows from o draw on: weft rows, or pooled channels. -/
def drawTaps (w : WinDesc) (o m : Nat) : List Tap :=
  (upFrom o m).flatMap (fun p =>
    if w.mode == 0 then weftTaps w p else (upFrom w.kBase w.kLen).flatMap (poolTaps w p))

/-- Some element of the weft row of position o carries a truncation mark (R71, R193). -/
def rowMarked (d : Dev) (base : Nat) (w : WinDesc) (o : Nat) : Bool :=
  (weftTaps w o).any (fun t =>
    match t with
    | .elem c y x => markedRange d (base + (winOff w c y x).toNat) (winElemBytes w)
    | _ => false)

/-! The descriptor (Table 05-1, R115). -/

def winParse (ws : List Nat) : WinDesc :=
  let w (i : Nat) : Nat := ws.getD i 0
  { src := fld (w 0) 0 24
    mode := fld (w 1) 30 2
    skipEn := bitAt (w 1) 29
    padIncl := bitAt (w 1) 28
    padMode := fld (w 1) 26 2
    regroup := fld (w 1) 24 2
    block := bitAt (w 1) 23
    fmt := fld (w 1) 20 3
    cIn := fld (w 2) 16 16
    zp := fld (w 2) 8 8
    padValue := fld (w 3) 0 32
    inH := fld (w 4) 16 16
    inW := fld (w 4) 0 16
    ty0 := fld (w 5) 16 16
    tx0 := fld (w 5) 0 16
    th := fld (w 6) 16 16
    tw := fld (w 6) 0 16
    yPitch := fld (w 7) 0 24
    planePitch := fld (w 8) 0 24
    kh := fld (w 9) 24 5
    kw := fld (w 9) 16 5
    sh := fld (w 9) 8 7
    sw := fld (w 9) 0 7
    dh := fld (w 10) 24 8
    dw := fld (w 10) 16 8
    siy := fld (w 10) 8 7
    six := fld (w 10) 0 7
    pt := fld (w 11) 24 8
    pb := fld (w 11) 16 8
    pl := fld (w 11) 8 8
    pr := fld (w 11) 0 8
    kBase := fld (w 12) 0 32
    kLen := fld (w 13) 0 10 }

/-- Every reserved field is 0. -/
def winRsvdOk (ws : List Nat) : Bool :=
  let w (i : Nat) : Nat := ws.getD i 0
  fld (w 0) 24 8 == 0 && fld (w 1) 0 20 == 0 && fld (w 2) 0 8 == 0 && fld (w 7) 24 8 == 0 && fld (w 8) 24 8 == 0 &&
  fld (w 9) 29 3 == 0 && fld (w 9) 21 3 == 0 && fld (w 9) 15 1 == 0 && fld (w 9) 7 1 == 0 &&
  fld (w 10) 15 1 == 0 && fld (w 10) 7 1 == 0 && fld (w 13) 10 22 == 0 && w 14 == 0 && w 15 == 0

def within (lo hi x : Nat) : Bool := decide (lo ≤ x) && decide (x ≤ hi)

/-- The ranges of Table 05-1 and the cases of R115. -/
def winOk (w : WinDesc) : Bool :=
  decide (w.mode ≤ 2) && decide (w.fmt ≤ 6) && w.src % 8 == 0 && w.yPitch % 8 == 0 && w.planePitch % 8 == 0 &&
  within 1 65535 w.cIn && within 1 65535 w.inH && within 1 65535 w.inW && decide (w.ty0 < w.inH) && decide (w.tx0 < w.inW) &&
  within 1 (w.inH - w.ty0) w.th && within 1 (w.inW - w.tx0) w.tw && within 1 31 w.kh && within 1 31 w.kw &&
  within 1 64 w.sh && within 1 64 w.sw && within 1 255 w.dh && within 1 255 w.dw && within 1 64 w.siy && within 1 64 w.six &&
  within 1 512 w.kLen &&
  (w.regroup == 0 || (w.siy == 1 && w.six == 1)) &&
  (w.mode == 0 || (w.regroup == 0 && w.siy == 1 && w.six == 1 && decide (w.kLen ≤ 256))) &&
  (if winIsNib w then decide (w.zp < 16) && decide (w.padValue < 16)
   else if winIsCode w then decide (w.padValue < 256) else w.zp == 0)

/-- Window set n of a slot; none when it is invalid. -/
def getWin (sl : SlotSt) (n : Nat) : Option WinDesc :=
  match n with
  | 0 => sl.win0
  | 1 => sl.win1
  | 2 => sl.win2
  | _ => sl.win3

def setWin (n : Nat) (w : WinDesc) (sl : SlotSt) : SlotSt :=
  match n with
  | 0 => { sl with win0 := some w }
  | 1 => { sl with win1 := some w }
  | 2 => { sl with win2 := some w }
  | _ => { sl with win3 := some w }

/-- A draw on an empty window set (R122, R132): WIN_STAT, and the event the first time since launch. -/
def drawEmpty (k ws : Nat) (d : Dev) : Dev :=
  let sl := slotAt d k
  let d := if sl.emptyEvent then d else raiseEvent 0x10 1 k [sl.ident.toNat, ws] d
  updSlot k (fun sl => { sl with winStat := putFld (putFld sl.winStat 4 2 ws) 0 1 1, emptyEvent := true }) d

/-! Unit-instruction operands (R137, R138, R145, R146). -/

/-- The window offset a[ra] + off of a parameter block. -/
def blockOff (d : Dev) (x : Site) (f : FmtU) : Nat :=
  (getA (slotAt d (siteKey x)) f.ra.toNat + f.off.zeroExtend 48).toNat

/-- A range of window offsets that an instruction reads or writes. -/
structure Rng where
  at_ : Nat
  len : Nat
  store : Bool
  deriving DecidableEq, Repr

def rd (a n : Nat) : Rng := { at_ := a, len := n, store := false }
def wr (a n : Nat) : Rng := { at_ := a, len := n, store := true }

/-- m rows of n bytes. -/
def rowsOf (store : Bool) (a pitch n m : Nat) : List Rng :=
  (upFrom 0 m).map (fun i => { at_ := a + i * pitch, len := n, store := store })

/-- A range lies inside the window and, for a write, outside the code region (R137, R138). -/
def rngOk (sl : SlotSt) (r : Rng) : Bool :=
  r.len == 0 || (decide (r.at_ + r.len ≤ sl.winSize) && (!r.store || decide (sl.codeSize ≤ r.at_)))

/-- The checks of a unit instruction in the priority of R159: a broken rule, the first range outside, the first address
that is misaligned; `body` where all hold. -/
def vet (sl : SlotSt) (legal : Bool) (ranges : List Rng) (aligned : List (Nat × Nat)) (body : Issued) : Issued :=
  if !legal then .exc 1 0
  else
    match ranges.find? (fun r => !rngOk sl r) with
    | some r => .exc 2 (r.at_ % 2 ^ 48)
    | none =>
      match aligned.find? (fun p => p.1 % p.2 != 0) with
      | some p => .exc 3 p.1
      | none => body

/-- Read a parameter block of n 32-bit words: outside the window the bound exception, then the misaligned access. -/
def withBlock (x : Site) (f : FmtU) (n : Nat) (body : List Nat → Dev → Issued) (d : Dev) : Issued :=
  let k := siteKey x
  let a := blockOff d x f
  if (slotAt d k).winSize < a + 4 * n then .exc 2 a
  else if a % 8 != 0 then .exc 3 a
  else body (leWords n (unitBytes d (winBase d k + a) (4 * n))) (drawFree d)

/-- A semaphore that an instruction names lies in the slot's mask (R140). -/
def semOk (sl : SlotSt) (q : Nat) : Bool := sl.semMask.getLsbD q

/-- The completion post of a U-format instruction. -/
def qOpt (f : FmtU) : Option Nat := if f.qEn == 1 then some f.q.toNat else none

/-- The encoding of a U-format instruction: rsvd 0, the semaphore it posts in the mask, and its sel legal. -/
def uOk (d : Dev) (x : Site) (f : FmtU) (selOk : Bool) : Bool :=
  f.rsvd == 0 && selOk && (f.qEn == 0 || semOk (slotAt d (siteKey x)) f.q.toNat)

/-- WIN.SET (R113, R115): takes effect at issue; q_en must be 0 (R145). -/
def execWinSet (x : Site) (f : FmtU) (s : State) : Host.Outcome State Fault Refusal :=
  issue x f.g (wordU 0x50 f) (uOk s.dev x f (decide (f.sel.toNat < 4)) && f.qEn == 0)
    (withBlock x f 16 (fun ws d =>
      let w := winParse ws
      vet (slotAt d (siteKey x)) (winRsvdOk ws && winOk w) [rd w.src (winEnd w - w.src)] []
        (.done (updSlot (siteKey x) (setWin f.sel.toNat w) d)))) s

end Sys2Proof.Machine
end

