-- ==== Sys2Proof/Machine/Sizing.lean ====
section
/-! DEFINITION. The Sizing unit (R86 to R105, R494): quantisation, the Calender, the store path of passes, SIZE.SET,
SIZE.QUANT and CAL.ROT. -/

namespace Sys2Proof.Machine

/-! Conversion codes (R88, Table 04-1). -/

def qcSrc (q : Nat) : Nat := fld q 6 2
def qcDst (q : Nat) : Nat := fld q 3 3
def qcScale (q : Nat) : Nat := fld q 1 2

/-- A legal conversion code (R88, R105). -/
def qcOk (q : Nat) : Bool :=
  qcSrc q != 3 && qcDst q != 7 && qcScale q != 3 && bitAt q 0 == false &&
  (decide (qcDst q < 4) || qcScale q == 0) && (qcScale q != 2 || qcDst q == 0 || qcDst q == 2)

/-- An integer dst. -/
def qcInt (q : Nat) : Bool := decide (qcDst q < 4)

/-- A zero point byte is a value of operand format 0 to 3 (R37). -/
def zpOk (fmt z : Nat) : Bool := if fmt < 2 then decide (z < 256) else decide (z < 16)

/-- Code range (Table 04-2). -/
def codeLo (dst : Nat) (z : Int) : Int :=
  match dst with
  | 0 => if z = 0 then -127 else -128
  | 2 => if z = 0 then -7 else -8
  | _ => 0

def codeHi (dst : Nat) : Int :=
  match dst with
  | 0 => 127
  | 1 => 255
  | 2 => 7
  | _ => 15

/-- Bytes of a stored element of dst; 0 for the 4-bit codes. -/
def dstBytes (dst : Nat) : Nat :=
  match dst with
  | 0 | 1 => 1
  | 2 | 3 => 0
  | 4 => 4
  | _ => 2

/-! Quantisation (R91, R97). -/

/-- The largest finite magnitude of a group. -/
def maxFinite (xs : List XR) : XR :=
  xs.foldl (fun m x => if xrIsFin x && xrLt m (xrAbs x) then xrAbs x else m) (.fin false 0 1)

/-- dyn_scale of R91. -/
def dynScale (md : Mode) (xs : List XR) (qmax : Nat) : NumM XR := do
  let mx := maxFinite xs
  if xrIsZero mx then pure (.fin false 1 1)
  else do
    let s ← roundBf16 md (xrDiv mx (xrInt qmax))
    pure (if xrIsZero s then pow2 (-133) else s)

/-- A quantised element: its code, and whether it clipped or vanished. -/
structure QElem where
  code : Int
  clipped : Bool
  vanished : Bool
  deriving DecidableEq, Repr

/-- quant of R91. -/
def quant (md : Mode) (x s : XR) (z lo hi : Int) : NumM QElem :=
  if xrIsNan x then do raise flagInvalid; pure ⟨z, false, false⟩
  else if xrIsNan s || xrIsInf s || !xrLt (.fin false 0 1) s then do raise flagInvalid; pure ⟨z, false, false⟩
  else if xrIsInf x then pure ⟨if xrSign x then lo else hi, true, false⟩
  else do
    let q := xrToInt (rint md (xrDiv x s))
    let van : Bool := q == 0 && !xrIsZero x
    if van then raise flagUnderflow
    let c := q + z
    pure (if hi < c then ⟨hi, true, van⟩ else if c < lo then ⟨lo, true, van⟩ else ⟨c, false, van⟩)

/-- How a row is quantised: dst format, scale mode, group size, zero point, and the static scales by group (one scale
for TENSOR). -/
structure QCfg where
  dst : Nat
  scale : Nat
  g : Nat
  z : Int
  statics : List XR
  deriving DecidableEq, Repr

/-- A quantised row: by group its scale and its elements. -/
abbrev QRow := List (XR × List QElem)

/-- The groups of g consecutive elements of a list (the last may be shorter). The fuel bounds the number of groups. -/
def groupsOf {α : Type} (g : Nat) : Nat → List α → List (List α)
  | 0, _ => []
  | fuel + 1, xs => if xs.isEmpty then [] else xs.take g :: groupsOf g fuel (xs.drop g)

/-- The scale of group j. -/
def groupScale (md : Mode) (c : QCfg) (j : Nat) (xs : List XR) : NumM XR :=
  if c.scale == 2 then dynScale md xs (codeHi c.dst).toNat
  else pure (c.statics.getD (if c.scale == 1 then j else 0) .nan)

def quantGroups (md : Mode) (c : QCfg) : Nat → List (List XR) → NumM QRow
  | _, [] => pure []
  | j, xs :: rest => do
    let s ← groupScale md c j xs
    let es ← xs.mapM (fun x => quant md x s c.z (codeLo c.dst c.z) (codeHi c.dst))
    let r ← quantGroups md c (j + 1) rest
    pure ((s, es) :: r)

def quantRow (md : Mode) (c : QCfg) (xs : List XR) : NumM QRow := quantGroups md c 0 (groupsOf c.g xs.length xs)

def qrowElems (r : QRow) : List QElem := r.flatMap (·.2)

/-- Positions of the elements of a list that satisfy a predicate. -/
def positions {α : Type} (p : α → Bool) (xs : List α) : List Nat :=
  (xs.zip (upFrom 0 xs.length)).filterMap (fun e => if p e.1 then some e.2 else none)

def monRunOf (es : List QElem) : MonRun :=
  { n := es.length, clipped := positions (·.clipped) es, vanished := positions (·.vanished) es }

/-- A count entry: vanished in [15:8], clipped in [7:0] (R98). -/
def countEntry (es : List QElem) : Nat := (es.filter (·.vanished)).length * 256 + (es.filter (·.clipped)).length

/-! The Calender (R95). -/

/-- One butterfly stage of span `sp` on a block: sums first, then differences, block by block. -/
def calBlocks (md : Mode) (sp : Nat) : Nat → List XR → NumM (List XR)
  | 0, xs => pure xs
  | fuel + 1, xs =>
    if xs.length < 2 * sp then pure xs
    else do
      let us := xs.take sp
      let vs := (xs.drop sp).take sp
      let a ← (us.zip vs).mapM (fun p => round32 md (xrAdd p.1 p.2))
      let b ← (us.zip vs).mapM (fun p => round32 md (xrSub p.1 p.2))
      let r ← calBlocks md sp fuel (xs.drop (2 * sp))
      pure (a ++ b ++ r)

/-- The stages of spans 1, 2, 4, … below h. -/
def calStages (md : Mode) (h : Nat) : Nat → Nat → List XR → NumM (List XR)
  | 0, _, xs => pure xs
  | fuel + 1, sp, xs => if sp < h then do
      let ys ← calBlocks md sp h xs
      calStages md h fuel (2 * sp) ys
    else pure xs

def calender (md : Mode) (h : Nat) (xs : List XR) : NumM (List XR) := calStages md h 8 1 xs

/-- The block size that cal_h names. -/
def calSize (c : Nat) : Nat := if c == 0 then 0 else 2 ^ (4 + c)

/-- Rotate blocks of a row from element 0 (R96). -/
def calRow (md : Mode) (h : Nat) (xs : List XR) : NumM (List XR) :=
  if h == 0 then pure xs else do
    let bs ← (groupsOf h xs.length xs).mapM (calender md h)
    pure bs.flatten

/-! Reading arrays from core store. -/

def readB32 (d : Dev) (a n : Nat) : List XR := (upFrom 0 n).map (fun i => val32 (unitNat d (a + 4 * i) 4))
def readBf16 (d : Dev) (a n : Nat) : List XR := (upFrom 0 n).map (fun i => valBf16 (unitNat d (a + 2 * i) 2))

/-! The store path (R87, R92, R98, R128, R494). -/

def gqSize (g : Nat) : Nat := 32 * 2 ^ g

/-- Bias, activation and rotation of one row (R87). -/
def postRow (md : Mode) (bias slope : Option (List XR)) (relu : Bool) (h : Nat) (acc : List XR) : NumM (List XR) := do
  let biased ← match bias with
    | some bs => (acc.zip bs).mapM (fun p => round32 md (xrAdd p.1 (if xrIsZero p.2 then .fin false 0 1 else p.2)))
    | none => pure acc
  let act ← match slope with
    | some ss => (biased.zip ss).mapM (fun p =>
        if xrLt p.1 (.fin false 0 1) then round32 md (xrMul p.1 p.2) else pure p.1)
    | none => pure (if relu then biased.map (fun v => if xrIsNan v || xrLt (.fin false 0 1) v then v else .fin false 0 1)
                    else biased)
  calRow md h act

/-- A float result's code in format 4 (binary32), 5 (BF16) or 6 (binary16); a NaN raises INVALID (R36). -/
def toFloat (md : Mode) (dst : Nat) (v : XR) : NumM Nat :=
  match dst with
  | 4 => do let w ← passNan v; pure (code32 w)
  | 5 => do let w ← roundBf16 md v; pure (codeBf16 w)
  | _ => do let w ← round16 md v; pure (code16 w)

/-- The bytes of a row of stored elements of dst (R494). -/
def packRow (dst : Nat) : List Nat → List Byte
  | [] => []
  | [c] => if dstBytes dst == 0 then [BitVec.ofNat 8 (c % 16)] else leBytes (dstBytes dst) c
  | c :: e :: rest =>
    if dstBytes dst == 0 then BitVec.ofNat 8 (c % 16 + 16 * (e % 16)) :: packRow dst rest
    else leBytes (dstBytes dst) c ++ leBytes (dstBytes dst) e ++ packRow dst rest

/-- Bytes of a row of n elements of dst. -/
def rowBytes (dst n : Nat) : Nat := if dstBytes dst == 0 then (n + 1) / 2 else n * dstBytes dst

/-- The window offset of a result element under depth-to-space (R128, R111). -/
def rgOff (b : SizeBlk) (rg : RegroupRec) (outW p c : Nat) : Int :=
  let r := 2 ^ b.regroup
  let e := rg.cBase + c
  let dst := qcDst b.qcode
  let y : Int := (p / outW * r + e % (r * r) / r : Nat) - (rg.outY0 : Int)
  let x : Int := (p % outW * r + e % r : Nat) - (rg.outX0 : Int)
  b.dst + layoutOff (if rg.block then 32 else 16) (dstBytes dst == 0) (dstBytes dst) rg.yPitch rg.planePitch (e / (r * r)) y x

/-- Store one element of a depth-to-space row; a 4-bit element leaves the other nibble (R494). -/
def rgWrite (base : Nat) (b : SizeBlk) (rg : RegroupRec) (outW p c code : Nat) (d : Dev) : Dev :=
  let dst := qcDst b.qcode
  let a := base + (rgOff b rg outW p c).toNat
  if dstBytes dst == 0 then
    let old := (tget 0 d.mem a).toNat
    let odd : Bool := (rg.cBase + c) / (2 ^ b.regroup * 2 ^ b.regroup) % 2 == 1
    wrMem a [BitVec.ofNat 8 (if odd then putFld old 4 4 code else putFld old 0 4 code)] d
  else wrMem a (leBytes (dstBytes dst) code) d

/-- Where the rows of an operation go: rows at dst with pitch, or depth-to-space. -/
inductive Place where
  | rows
  | regroup (rg : RegroupRec) (outW p : Nat)
  deriving DecidableEq, Repr

/-- Write row i of codes. -/
def putCodes (base : Nat) (b : SizeBlk) (pl : Place) (i : Nat) (codes : List Nat) (d : Dev) : Dev :=
  match pl with
  | .rows => wrMem (base + b.dst + i * b.pitch) (packRow (qcDst b.qcode) codes) d
  | .regroup rg ow p => forEach (codes.zip (upFrom 0 codes.length)) (fun e => rgWrite base b rg ow (p + i) e.2 e.1) d

/-- The static output scales of a store configuration for rows of n elements. -/
def outStatics (d : Dev) (base : Nat) (b : SizeBlk) (n : Nat) : List XR :=
  if qcScale b.qcode == 1 then readBf16 d (base + fld b.oscale 0 24) (ceilDiv n (gqSize b.gq)) else [valBf16 (fld b.oscale 0 16)]

def storeQCfg (d : Dev) (base : Nat) (b : SizeBlk) (n : Nat) : QCfg :=
  { dst := qcDst b.qcode, scale := qcScale b.qcode, g := gqSize b.gq,
    z := if qcInt b.qcode then codeVal (qcDst b.qcode) b.zo else 0, statics := outStatics d base b n }

/-- Write a quantised row with its dynamic scales and counts, and feed the monitor. -/
def putQRow (k base : Nat) (b : SizeBlk) (pl : Place) (i : Nat) (r : QRow) (d : Dev) : Dev :=
  let ng := r.length
  let d := if qcScale b.qcode == 2 then
      wrMem (base + b.scaleDst + 2 * i * ng) (r.flatMap (fun g => leBytes 2 (codeBf16 g.1))) d else d
  let d := if b.cntEn then wrMem (base + b.cntDst + 2 * i * ng) (r.flatMap (fun g => leBytes 2 (countEntry g.2))) d else d
  let es := qrowElems r
  let d := if b.monEn then monCount k b.mon (monRunOf es) d else d
  putCodes base b pl i (es.map (fun e => codeOf 8 e.code)) d

/-- Emit row i of finished values (R87). -/
def emitRow (k base : Nat) (md : Mode) (b : SizeBlk) (q : QCfg) (pl : Place) (i : Nat) (y : List XR) (d : Dev) : Dev :=
  if qcInt b.qcode then
    let (r, f) := runNum (quantRow md q y)
    raiseSlot k f (putQRow k base b pl i r d)
  else
    let (cs, f) := runNum (y.mapM (toFloat md (qcDst b.qcode)))
    raiseSlot k f (putCodes base b pl i cs d)

/-- The store side of a pass: its rows in order. -/
def storePass (k base : Nat) (md : Mode) (b : SizeBlk) (pl : Place) (n : Nat) (rows : List (List XR)) (d : Dev) : Dev :=
  let bias := if b.biasEn then some (readB32 d (base + b.bias) n) else none
  let slope := if b.act == 2 then some (readBf16 d (base + b.slope) n) else none
  let q := storeQCfg d base b n
  forEach (rows.zip (upFrom 0 rows.length)) (fun e d =>
    let (y, f) := runNum (postRow md bias slope (b.act == 1) (calSize b.calH) e.1)
    emitRow k base md b q pl e.2 y (raiseSlot k f d)) d

/-- The work of SIZE.QUANT. -/
def runQuant (k base : Nat) (md : Mode) (b : SizeBlk) (d : Dev) : Dev :=
  let q := storeQCfg d base b b.qLen
  forEach (upFrom 0 b.qRows) (fun i d =>
    let (y, f) := runNum (calRow md (calSize b.calH) (readB32 d (base + b.qSrc + i * b.qPitch) b.qLen))
    emitRow k base md b q .rows i y (raiseSlot k f d)) d

/-- The work of CAL.ROT. -/
def runRot (k base : Nat) (md : Mode) (b : RotBlk) (d : Dev) : Dev :=
  forEach (upFrom 0 b.rows) (fun i d =>
    let (y, f) := runNum (do
      let ys ← calRow md (calSize b.calH) (readB32 d (base + b.src + i * b.pitch) b.len)
      ys.mapM (fun v => do let w ← passNan v; pure (code32 w)))
    raiseSlot k f (wrMem (base + b.dst + i * b.pitch) (y.flatMap (leBytes 4)) d)) d

/-! Blocks (Tables 06-7 and 06-8) and their checks (R105). -/

def sizeParse (ws : List Nat) : SizeBlk :=
  let w (i : Nat) : Nat := ws.getD i 0
  { oscKind := bitAt (w 0) 29
    biasEn := bitAt (w 0) 28
    regroup := fld (w 0) 26 2
    monEn := bitAt (w 0) 25
    mon := fld (w 0) 22 3
    gq := fld (w 0) 20 2
    calH := fld (w 0) 18 2
    act := fld (w 0) 16 2
    zo := fld (w 0) 8 8
    qcode := fld (w 0) 0 8
    bias := fld (w 1) 0 24
    oscale := fld (w 2) 0 32
    slope := fld (w 3) 0 24
    scaleDst := fld (w 4) 0 24
    cntEn := bitAt (w 5) 31
    cntDst := fld (w 5) 0 24
    dst := fld (w 6) 0 24
    pitch := fld (w 7) 0 24
    rgLayout := fld (w 8) 0 24
    qSrc := fld (w 9) 0 24
    qPitch := fld (w 10) 0 24
    qLen := fld (w 11) 16 16
    qRows := fld (w 11) 0 16 }

def sizeRsvdOk (ws : List Nat) : Bool :=
  let w (i : Nat) : Nat := ws.getD i 0
  fld (w 0) 30 2 == 0 && fld (w 1) 24 8 == 0 && fld (w 3) 24 8 == 0 && fld (w 4) 24 8 == 0 && fld (w 5) 24 7 == 0 &&
  fld (w 6) 24 8 == 0 && fld (w 7) 24 8 == 0 && fld (w 8) 24 8 == 0 && fld (w 9) 24 8 == 0 && fld (w 10) 24 8 == 0 &&
  w 12 == 0 && w 13 == 0 && w 14 == 0 && w 15 == 0

/-- The rules that SIZE.SET and SIZE.QUANT share. -/
def sizeOk (b : SizeBlk) : Bool :=
  qcOk b.qcode && b.gq != 3 && b.pitch % 64 == 0 &&
  (if qcInt b.qcode then zpOk (qcDst b.qcode) b.zo && (qcScale b.qcode != 2 || b.zo == 0) else b.zo == 0) &&
  (if !qcInt b.qcode || qcScale b.qcode == 2 then !b.oscKind && b.oscale == 0
   else if qcScale b.qcode == 0 then !b.oscKind && fld b.oscale 16 16 == 0
   else b.oscKind && fld b.oscale 24 8 == 0)

/-- The core-store addresses of a configuration with the alignment each must have. -/
def sizeAligned (b : SizeBlk) (bias : Bool) : List (Nat × Nat) :=
  (if bias && b.biasEn then [(b.bias, 4)] else []) ++ (if bias && b.act == 2 then [(b.slope, 2)] else []) ++
  (if qcScale b.qcode == 1 then [(fld b.oscale 0 24, 2)] else []) ++ (if qcScale b.qcode == 2 then [(b.scaleDst, 2)] else []) ++
  (if b.cntEn && qcInt b.qcode then [(b.cntDst, 2)] else []) ++ (if b.regroup != 0 then [(b.rgLayout, 8)] else [])

/-- What an operation with rows of n elements reads and writes for its configuration, but for its output rows (R105). -/
def sizeSide (b : SizeBlk) (bias : Bool) (n m : Nat) : List Rng :=
  let ng := ceilDiv n (gqSize b.gq)
  (if bias && b.biasEn then [rd b.bias (4 * n)] else []) ++ (if bias && b.act == 2 then [rd b.slope (2 * n)] else []) ++
  (if qcScale b.qcode == 1 then [rd (fld b.oscale 0 24) (2 * ng)] else []) ++
  (if qcScale b.qcode == 2 then [wr b.scaleDst (2 * ng * m)] else []) ++
  (if b.cntEn && qcInt b.qcode then [wr b.cntDst (2 * ng * m)] else [])

/-- Its output rows. -/
def sizeRows (b : SizeBlk) (n m : Nat) : List Rng := rowsOf true b.dst b.pitch (rowBytes (qcDst b.qcode) n) m

/-- The addresses that SIZE.SET finds outside the window: each named address itself. -/
def sizeNamed (b : SizeBlk) : List Rng :=
  (sizeAligned b true).map (fun p => rd p.1 1) ++ [rd b.dst 1]

/-- SIZE.SET (R104, R105): takes effect at issue; q_en must be 0 (R145). -/
def execSizeSet (x : Site) (f : FmtU) (s : State) : Host.Outcome State Fault Refusal :=
  issue x f.g (wordU 0x48 f) (uOk s.dev x f (f.sel == 0) && f.qEn == 0)
    (withBlock x f 16 (fun ws d =>
      let b := sizeParse ws
      vet (slotAt d (siteKey x))
        (sizeRsvdOk ws && sizeOk b && b.act != 3 && ws.getD 9 0 == 0 && ws.getD 10 0 == 0 && ws.getD 11 0 == 0)
        (sizeNamed b) (sizeAligned b true)
        (.done (updSlot (siteKey x) (fun sl => { sl with store := some b }) d)))) s

/-! The unit queues (R149, R152). -/

/-- The slot a unit serves next: a Live slot first, else the slot not served last (R152). -/
def unitPick (d : Dev) (core : Nat) (u : UnitSt) : Option Nat :=
  let o := 1 - u.last
  if liveSlot d core 0 && !u.queue0.isEmpty then some 0
  else if liveSlot d core 1 && !u.queue1.isEmpty then some 1
  else if !(u.queue o).isEmpty then some o
  else if !(u.queue u.last).isEmpty then some u.last else none

/-- Move the head of a slot's queue to the operations begun. -/
def unitBegin (u : UnitSt) (slot : Nat) : UnitSt :=
  match u.queue slot with
  | [] => u
  | o :: rest => { (u.setQueue slot rest) with begun := o :: u.begun, last := slot }

/-- An idle unit begins its next operation; a Live slot's operation preempts the other slot's (R152). -/
def unitKick (core v : Nat) (d : Dev) : Dev :=
  let u := unitAt d (2 * core + v)
  match u.begun with
  | [] =>
    match unitPick d core u with
    | some sl => updUnit (2 * core + v) (fun u => unitBegin u sl) d
    | none => d
  | o :: _ =>
    let sl := 1 - o.slot
    if liveSlot d core sl && !liveSlot d core o.slot && !(u.queue sl).isEmpty then
      updUnit (2 * core + v) (fun u => unitBegin u sl) d else d

/-- Queue a unit operation, or find its queue full (16 entries, R149). -/
def unitQueue (x : Site) (v : Nat) (q : Option Nat) (w : UnitWork) (d : Dev) : Issued :=
  let key := 2 * x.core.val + v
  let k := siteKey x
  if 16 ≤ ((unitAt d key).queue x.slot.val).length then .full
  else
    let o : UnitOp := { slot := x.slot.val, q := q, base := winBase d k, mode := slotMode (slotAt d k), work := w }
    .done (unitKick x.core.val v (updUnit key (fun u => u.setQueue x.slot.val (u.queue x.slot.val ++ [o])) d))

/-- SIZE.QUANT (R104, R105). -/
def execSizeQuant (x : Site) (f : FmtU) (s : State) : Host.Outcome State Fault Refusal :=
  issue x f.g (wordU 0x49 f) (uOk s.dev x f (f.sel == 0))
    (withBlock x f 16 (fun ws d =>
      let b := sizeParse ws
      vet (slotAt d (siteKey x))
        (sizeRsvdOk ws && sizeOk b && b.regroup == 0 && b.qPitch % 64 == 0 && b.qLen != 0 && b.qRows != 0 &&
          (b.calH == 0 || b.qLen % calSize b.calH == 0))
        (sizeSide b false b.qLen b.qRows ++ sizeRows b b.qLen b.qRows ++ rowsOf false b.qSrc b.qPitch (4 * b.qLen) b.qRows)
        (sizeAligned b false ++ [(b.qSrc, 64)])
        (unitQueue x 0 (qOpt f) (.quant b) d))) s

def rotParse (ws : List Nat) : RotBlk :=
  let w (i : Nat) : Nat := ws.getD i 0
  { src := fld (w 0) 0 24, dst := fld (w 1) 0 24, pitch := fld (w 2) 0 24, calH := fld (w 3) 30 2,
    len := fld (w 3) 16 14, rows := fld (w 3) 0 16 }

/-- CAL.ROT (R96, R104, R105). -/
def execCalRot (x : Site) (f : FmtU) (s : State) : Host.Outcome State Fault Refusal :=
  issue x f.g (wordU 0x4C f) (uOk s.dev x f (f.sel == 0))
    (withBlock x f 4 (fun ws d =>
      let b := rotParse ws
      vet (slotAt d (siteKey x))
        ((ws.take 3).all (fun w => fld w 24 8 == 0) && b.calH != 0 && b.len != 0 && b.rows != 0 && b.pitch % 64 == 0 &&
          b.len % calSize b.calH == 0)
        (rowsOf false b.src b.pitch (4 * b.len) b.rows ++ rowsOf true b.dst b.pitch (4 * b.len) b.rows)
        [(b.src, 64), (b.dst, 64)]
        (unitQueue x 0 (qOpt f) (.rot b) d))) s

end Sys2Proof.Machine
end

