-- ==== Sys2Proof/Machine/Loom.lean ====
section
/-! DEFINITION. The looms (R60 to R85): WARP.LOAD and WEFT.PASS with their checks, the standby fill, the front, the
passes in flight and their results. -/

namespace Sys2Proof.Machine

/-! The dot product (R38, R41, R42). -/

def is4bit (fmt : Nat) : Bool := fmt == 2 || fmt == 3

/-- s[j] of each group: round32(sa × sw × 2^e). -/
def scaleProd (md : Mode) (e : Nat) (sa sw : XR) : NumM XR := round32 md (xrScale (xrMul sa sw) (8 * e : Nat))

/-- The exact integer sum of the products of one group. -/
def groupSum (a w : List Int) : Int := ((a.zip w).map (fun p => p.1 * p.2)).foldl (· + ·) 0

/-- The stations of one output, group by group: operands after zero-point subtraction, in groups. -/
def dotGroups (md : Mode) (e : Nat) : XR → List (List Int) → List (List Int) → List XR → List XR → NumM XR
  | acc, a :: as, w :: ws, sa :: sas, sw :: sws => do
    let s ← scaleProd md e sa sw
    let acc ← station md acc (groupSum a w) s
    dotGroups md e acc as ws sas sws
  | acc, _, _, _, _ => pure acc

/-- Integer-only mode: sat32 at every step in increasing k (R41). -/
def dotInt : Int → List Int → List Int → NumM Int
  | acc, a :: as, w :: ws => do
    let v ← sat32 (acc + a * w)
    dotInt v as ws
  | acc, _, _ => pure acc

/-! Warps (R60, R62, R64). -/

def gSize (g : Nat) : Nat := 32 * 2 ^ g

/-- Tile rows that hold k_len taps. -/
def tileRows (b : WarpBlk) : Nat := if is4bit b.fmtW then ceilDiv b.kLen 2 else b.kLen

/-- Read the tile and its scales from core store. -/
def readWarp (d : Dev) (o : LoadOp) : Warp :=
  let b := o.blk
  let rows := (upFrom 0 (tileRows b)).map (fun r => (unitBytes d (o.base + b.src + r * b.pitch) b.n).map (·.toNat))
  let scales := (upFrom 0 (ceilDiv b.kLen (gSize b.g))).map (fun j =>
    (upFrom 0 b.n).map (fun c => unitNat d (o.base + b.scaleSrc + 2 * (b.n * j + c)) 2))
  { slot := o.slot, blk := b, rows := rows, scales := scales,
    allFinite := scales.all (fun r => r.all (fun c => xrIsFin (valBf16 c))) }

/-- The taps of column c after zero-point subtraction, for k < k_len (R62). -/
def warpCol (w : Warp) (c : Nat) : List Int :=
  let codes := if is4bit w.blk.fmtW then w.rows.flatMap (fun r => [r.getD c 0 % 16, r.getD c 0 / 16]) else w.rows.map (·.getD c 0)
  (codes.take w.blk.kLen).map (fun x => codeVal w.blk.fmtW x - codeVal w.blk.fmtW w.blk.zw)

/-! The weft of a pass. -/

/-- The operand format that enters the cells (R65). -/
def enterFmt (b : WeftBlk) : Nat := if b.fmtKind then qcDst b.fmtA else b.fmtA

/-- Bytes of a stored element of a conversion code's source. -/
def srcBytes (q : Nat) : Nat := if qcSrc q == 0 then 4 else 2

def srcVal (q c : Nat) : XR := if qcSrc q == 0 then val32 c else if qcSrc q == 1 then valBf16 c else val16 c

/-- Bytes of a stored weft row: 256 bytes of codes, or 256 (8-bit) or 512 (4-bit) elements of a conversion source (R62). -/
def weftRowBytes (b : WeftBlk) : Nat :=
  if b.fmtKind then (if is4bit (enterFmt b) then 512 else 256) * srcBytes b.fmtA else 256

/-- The first n elements of weft row i as stored in core store. -/
def coreWeft (d : Dev) (base : Nat) (b : WeftBlk) (i n : Nat) : List XR :=
  let a := base + b.src + i * b.pitch
  (upFrom 0 n).map (fun j =>
    if b.fmtKind then srcVal b.fmtA (unitNat d (a + srcBytes b.fmtA * j) (srcBytes b.fmtA))
    else if is4bit b.fmtA then xrInt (codeVal b.fmtA (fld (unitNat d (a + j / 2) 1) (4 * (j % 2)) 4))
    else xrInt (codeVal b.fmtA (unitNat d (a + j) 1)))

/-- Weft row i of a pass: elements as they leave the source. -/
def weftRow (d : Dev) (f : Flight) (i : Nat) : List XR :=
  match f.op.win with
  | some w => (weftTaps w (f.op.blk.src + i)).map (tapVal d f.op.base w)
  | none => coreWeft d f.op.base f.op.blk i f.warp.blk.kLen

/-- Row i of a pass meets a truncation mark (R71, R193). -/
def weftMarked (d : Dev) (o : PassOp) (i : Nat) : Bool :=
  match o.win with
  | some w => rowMarked d o.base w (o.blk.src + i)
  | none => markedRange d (o.base + o.blk.src + i * o.blk.pitch) (weftRowBytes o.blk)

/-- Row i of a pass is skipped (R124). -/
def rowSkipped (f : Flight) (i : Nat) : Bool :=
  match f.op.win with
  | some w => w.skipEn && w.padMode == 0 && (f.op.blk.integer || f.warp.allFinite) && rowAllFill w (f.op.blk.src + i)
  | none => false

/-- Elements that the pass quantises in a row, and the groups its static scales cover. -/
def quantLen (b : WeftBlk) (w : Option WinDesc) (kLen : Nat) : Nat :=
  match w with
  | some w => if b.fmtKind then max w.kLen kLen else kLen
  | none => kLen

/-- The static activation scales of a pass by group: one for TENSOR, the array for GROUP. -/
def weftStatics (d : Dev) (f : Flight) : List XR :=
  let b := f.op.blk
  let ng := ceilDiv (quantLen b f.op.win f.warp.blk.kLen) (gSize f.warp.blk.g)
  if b.saMode == 1 then readBf16 d (f.op.base + fld b.sa 0 24) ng
  else (upFrom 0 ng).map (fun _ => valBf16 (fld b.sa 0 16))

/-- The load-side quantisation of a row: codes and scales by group. -/
def weftQuant (md : Mode) (f : Flight) (statics row : List XR) : NumM QRow :=
  quantRow md
    { dst := enterFmt f.op.blk, scale := if f.op.blk.saMode == 2 then 2 else 1, g := gSize f.warp.blk.g,
      z := codeVal (enterFmt f.op.blk) f.op.blk.za, statics := statics } row

/-- Starting accumulators of row i; −0 enters as +0 (R39). -/
def startAcc (d : Dev) (f : Flight) (i : Nat) : List XR :=
  let b := f.op.blk
  let n := f.warp.blk.n
  if !b.accCore then (upFrom 0 n).map (fun _ => .fin false 0 1)
  else
    (upFrom 0 n).map (fun c =>
      let v := unitNat d (f.op.base + b.accSrc + i * b.accPitch + 4 * c) 4
      if b.integer then xrInt (signedOf 32 v)
      else
        let r := val32 v
        if xrIsZero r then .fin false 0 1 else r)

/-- One output row: every column from its warp and the shared weft (R60). -/
def outRow (md : Mode) (f : Flight) (a : List Int) (sa : List XR) (acc : List XR) : NumM (List XR) :=
  let g := gSize f.warp.blk.g
  (acc.zip (upFrom 0 acc.length)).mapM (fun p => do
    let w := warpCol f.warp p.2
    if f.op.blk.integer then do
      let v ← dotInt (xrToInt p.1) a w
      pure (xrInt v)
    else
      dotGroups md f.op.blk.e p.1 (groupsOf g a.length a) (groupsOf g w.length w) sa
        (f.warp.scales.map (fun r => valBf16 (r.getD p.2 0))))

/-- Pad or cut a list of operand differences to k_len taps: a missing tap carries the zero point (R64). -/
def toTaps (n : Nat) (xs : List Int) : List Int := (xs ++ List.replicate (n - xs.length) 0).take n

/-- Result row i of a pass, with the elements its load-side quantisation counts. -/
def passRow (d : Dev) (f : Flight) (statics : List XR) (i : Nat) : NumM (List XR × List QElem) := do
  let md := f.op.mode
  let b := f.op.blk
  let acc := startAcc d f i
  let row := weftRow d f i
  let za := codeVal (enterFmt b) b.za
  let n := f.warp.blk.kLen
  if b.fmtKind then
    let r ← weftQuant md f statics row
    let sa := if b.saMode == 2 then r.map (·.1) ++ List.replicate 512 (.fin false 1 1) else statics
    if rowSkipped f i then pure (acc, qrowElems r)
    else do
      let out ← outRow md f (toTaps n ((qrowElems r).map (fun e => e.code - za))) sa acc
      pure (out, qrowElems r)
  else if rowSkipped f i then pure (acc, [])
  else do
    let out ← outRow md f (toTaps n (row.map (fun x => xrToInt x - za))) statics acc
    pure (out, [])

/-- The results of every row a pass entered or skipped. -/
def passRows (d : Dev) (f : Flight) : NumM (List (List XR × List QElem)) :=
  (upFrom 0 f.rows).mapM (passRow d f (weftStatics d f))

/-- out = PARTIAL: results unchanged as binary32 or INT32 (R65); a NaN is canonical and raises INVALID (R36). -/
def putPartial (k : Nat) (f : Flight) (rows : List (List XR)) (d : Dev) : Dev :=
  let b := f.op.blk
  forEach (rows.zip (upFrom 0 rows.length)) (fun e d =>
    let (cs, fl) := runNum (e.1.mapM (fun v =>
      if b.integer then pure (codeOf 32 (xrToInt v)) else do let w ← passNan v; pure (code32 w)))
    raiseSlot k fl (wrMem (f.op.base + b.partDst + e.2 * b.accPitch) (cs.flatMap (leBytes 4)) d)) d

/-- out = FINAL: the store side; an INT32 result enters it as round32 of its value (Table 02-5). -/
def putFinal (k : Nat) (f : Flight) (b : SizeBlk) (rows : List (List XR)) (d : Dev) : Dev :=
  let md := f.op.mode
  let (vs, fl) := runNum (rows.mapM (fun r => r.mapM (fun v => if f.op.blk.integer then round32 md v else pure v)))
  let pl := match f.op.rg, f.op.win with
    | some rg, some w => Place.regroup rg (winOutW w).toNat f.op.blk.src
    | _, _ => Place.rows
  storePass k f.op.base md b pl f.warp.blk.n vs (raiseSlot k fl d)

/-- The monitor that a pass counts into: the one of its store configuration. -/
def passMon (o : PassOp) : Option Nat :=
  match o.store with
  | some b => if b.monEn then some b.mon else none
  | none => none

/-- Everything a pass does when it completes, but its post. -/
def runPass (core : Nat) (f : Flight) (d : Dev) : Dev :=
  let k := slotKey core f.op.slot
  let (rs, fl) := runNum (passRows d f)
  let d := raiseSlot k fl d
  let d := match passMon f.op with
    | some m => forEach rs (fun r d => monCount k m (monRunOf r.2) d) d
    | none => d
  let skips := ((upFrom 0 f.rows).filter (rowSkipped f)).length
  let d := updSlot k (fun sl => { sl with winSkip := BitVec.ofNat 32 (satAdd 0xFFFFFFFF sl.winSkip.toNat skips) }) d
  let rows := rs.map (·.1)
  match f.op.store with
  | some b => putFinal k f b rows d
  | none => putPartial k f rows d

/-! WARP.LOAD (R64, R67). -/

def warpParse (ws : List Nat) : WarpBlk :=
  let w (i : Nat) : Nat := ws.getD i 0
  { zw := fld (w 0) 24 8, src := fld (w 0) 0 24, fmtW := fld (w 1) 30 2, g := fld (w 1) 28 2, scaleSrc := fld (w 1) 0 24,
    pitch := fld (w 2) 0 24, kLen := fld (w 3) 16 10, n := fld (w 3) 0 9 }

def warpRsvdOk (ws : List Nat) : Bool :=
  let w (i : Nat) : Nat := ws.getD i 0
  fld (w 1) 24 4 == 0 && fld (w 2) 24 8 == 0 && fld (w 3) 26 6 == 0 && fld (w 3) 9 7 == 0

/-- The presented width of a loom (R74). -/
def loomWidth (d : Dev) (core l : Nat) : Nat := getF d (kLoomWidth (2 * core + l)) 0 9

def warpOk (width : Nat) (b : WarpBlk) : Bool :=
  zpOk b.fmtW b.zw && b.g != 3 && !(is4bit b.fmtW && b.g == 0) && within 1 (if is4bit b.fmtW then 512 else 256) b.kLen &&
  within 1 width b.n && b.pitch % 64 == 0 && decide (b.n ≤ b.pitch)

/-- Append to a loom queue, or find it full (16 entries, R149). -/
def loomQueue (core l slot : Nat) (o : LoomOp) (d : Dev) : Issued :=
  if 16 ≤ ((loomAt d (2 * core + l)).queue slot).length then .full
  else .done (updLoom (2 * core + l) (fun st => st.setQueue slot (st.queue slot ++ [o])) d)

/-- The most recent WARP.LOAD a slot has issued to a loom since launch. -/
def slotLoad (sl : SlotSt) (l : Nat) : Option WarpBlk := if l == 0 then sl.loadA else sl.loadB

def setSlotLoad (l : Nat) (b : WarpBlk) (sl : SlotSt) : SlotSt :=
  if l == 0 then { sl with loadA := some b } else { sl with loadB := some b }

/-- WARP.LOAD. -/
def execWarpLoad (x : Site) (f : FmtU) (s : State) : Host.Outcome State Fault Refusal :=
  issue x f.g (wordU 0x40 f) (uOk s.dev x f (decide (f.sel.toNat < 2)))
    (withBlock x f 4 (fun ws d =>
      let l := f.sel.toNat
      let k := siteKey x
      let b := warpParse ws
      vet (slotAt d k) (warpRsvdOk ws && warpOk (loomWidth d x.core.val l) b)
        (rowsOf false b.src b.pitch b.n (tileRows b) ++ [rd b.scaleSrc (2 * b.n * ceilDiv b.kLen (gSize b.g))])
        [(b.src, 64), (b.scaleSrc, 64)]
        (loomQueue x.core.val l x.slot.val
          (.load { slot := x.slot.val, q := qOpt f, base := winBase d k, blk := b }) (updSlot k (setSlotLoad l b) d)))) s

/-! WEFT.PASS (R65, R67, R105, R119, R129). -/

def weftParse (ws : List Nat) : WeftBlk :=
  let w (i : Nat) : Nat := ws.getD i 0
  { fmtA := fld (w 0) 24 8
    fmtKind := bitAt (w 0) 23
    saMode := fld (w 0) 21 2
    e := fld (w 0) 19 2
    partialOut := bitAt (w 0) 18
    accCore := bitAt (w 0) 17
    integer := bitAt (w 0) 16
    ws := fld (w 0) 14 2
    selvedge := bitAt (w 0) 13
    m := fld (w 0) 0 13
    src := fld (w 1) 0 32
    za := fld (w 2) 24 8
    pitch := fld (w 2) 0 24
    accSrc := fld (w 3) 0 24
    partDst := fld (w 4) 0 24
    accPitch := fld (w 5) 0 24
    sa := fld (w 6) 0 32 }

/-- Reserved fields, and fields the pass does not use, are 0 (Table 06-6). -/
def weftRsvdOk (ws : List Nat) (b : WeftBlk) : Bool :=
  let w (i : Nat) : Nat := ws.getD i 0
  fld (w 3) 24 8 == 0 && fld (w 4) 24 8 == 0 && fld (w 5) 24 8 == 0 && w 7 == 0 &&
  (if b.selvedge then b.pitch == 0 else b.ws == 0 && fld (w 1) 24 8 == 0) &&
  (b.accCore || b.accSrc == 0) && (b.partialOut || b.partDst == 0) && (b.accCore || b.partialOut || b.accPitch == 0) &&
  (match b.saMode with
   | 0 => fld b.sa 16 16 == 0
   | 1 => fld b.sa 24 8 == 0
   | _ => b.sa == 0) &&
  (!b.integer || (b.e == 0 && (b.fmtKind || (b.saMode == 0 && b.sa == 0))))

/-- The rules of R65, R67, R88 and R105 that need only the block and the slot's last WARP.LOAD on the loom. -/
def weftOk (b : WeftBlk) (ld : WarpBlk) : Bool :=
  b.saMode != 3 && b.e != 3 && decide (b.m ≤ 4096) && b.pitch % 64 == 0 && b.accPitch % 64 == 0 &&
  (if b.fmtKind then qcOk b.fmtA && qcInt b.fmtA && qcScale b.fmtA == b.saMode && (b.saMode != 2 || b.za == 0)
   else decide (b.fmtA < 4) && b.saMode != 2) &&
  zpOk (enterFmt b) b.za && is4bit (enterFmt b) == is4bit ld.fmtW && (b.e == 0 || !is4bit ld.fmtW)

/-- The rules of R119 for a window set. -/
def weftWinOk (b : WeftBlk) (w : WinDesc) : Bool :=
  w.mode == 0 && (winEmpty w || decide (b.src + b.m ≤ winPositions w)) &&
  (if winIsCode w then !b.fmtKind && b.fmtA == w.fmt && b.za == w.zp
   else b.fmtKind && qcSrc b.fmtA == (if w.fmt == 6 then 0 else w.fmt - 3)) &&
  decide (w.kLen ≤ if is4bit (enterFmt b) then 512 else 256)

/-- The regroup record (Table 05-3). -/
def rgParse (ws : List Nat) : RegroupRec :=
  let w (i : Nat) : Nat := ws.getD i 0
  { cBase := fld (w 0) 16 16, block := bitAt (w 0) 0, outY0 := fld (w 1) 16 16, outX0 := fld (w 1) 0 16,
    yPitch := fld (w 2) 0 24, planePitch := fld (w 3) 0 24 }

def rgOk (ws : List Nat) (r : RegroupRec) : Bool :=
  let w (i : Nat) : Nat := ws.getD i 0
  fld (w 0) 1 15 == 0 && fld (w 2) 24 8 == 0 && fld (w 3) 24 8 == 0 && r.yPitch % 8 == 0 && r.planePitch % 8 == 0

/-- The elements of a depth-to-space store of m rows: the first that leaves the window, or enters the code region. -/
def rgOutside (sl : SlotSt) (b : SizeBlk) (rg : RegroupRec) (w : WinDesc) (o n m : Nat) : Option Int :=
  ((upFrom o m).flatMap (fun p => (upFrom 0 n).map (fun c => rgOff b rg (winOutW w).toNat p c))).find?
    (fun a => decide (a < sl.codeSize) || decide ((sl.winSize : Int) < a + (max 1 (dstBytes (qcDst b.qcode)) : Nat)))

/-- The rows that a pass draws: none from an empty window set (R122). -/
def drawRows (b : WeftBlk) (w : Option WinDesc) : Nat :=
  match w with
  | some w => if winEmpty w then 0 else b.m
  | none => b.m

/-- The ranges a pass reads and writes, but for a depth-to-space store (R105, R137, R138). -/
def weftRanges (b : WeftBlk) (ld : WarpBlk) (w : Option WinDesc) (st : Option SizeBlk) : List Rng :=
  let m := drawRows b w
  (if b.selvedge then [] else rowsOf false b.src b.pitch (weftRowBytes b) m) ++
  (if b.accCore then rowsOf false b.accSrc b.accPitch (4 * ld.n) m else []) ++
  (if b.partialOut then rowsOf true b.partDst b.accPitch (4 * ld.n) m else []) ++
  (if b.saMode == 1 then [rd (fld b.sa 0 24) (2 * ceilDiv (quantLen b w ld.kLen) (gSize ld.g))] else []) ++
  (match st with
   | some c => sizeSide c true ld.n m ++ (if c.regroup == 0 then sizeRows c ld.n m else [])
   | none => [])

def weftAligned (b : WeftBlk) : List (Nat × Nat) :=
  (if b.selvedge then [] else [(b.src, 64)]) ++ [(b.accSrc, 64), (b.partDst, 64)] ++
  (if b.saMode == 1 then [(fld b.sa 0 24, 2)] else [])

/-- An exception of the bound kind at an integer offset. -/
def boundExc (a : Int) : Issued := .exc 2 (codeOf 48 a)

/-- The last checks of a pass and its queueing. -/
def weftIssue (x : Site) (f : FmtU) (b : WeftBlk) (ld : WarpBlk) (w : Option WinDesc) (st : Option SizeBlk)
    (rg : Option RegroupRec) (d : Dev) : Issued :=
  let k := siteKey x
  let sl := slotAt d k
  let tile := match w with
    | some w => firstOutside w (drawTaps w b.src (drawRows b (some w)))
    | none => none
  let place := match st, rg, w with
    | some c, some r, some w => rgOutside sl c r w b.src ld.n (drawRows b (some w))
    | _, _, _ => none
  match tile, place with
  | some a, _ => boundExc a
  | none, some a => boundExc a
  | none, none =>
    vet sl true (weftRanges b ld w st) (weftAligned b)
      (loomQueue x.core.val f.sel.toNat x.slot.val
        (.pass { slot := x.slot.val, q := qOpt f, base := winBase d k, mode := slotMode sl, blk := b, store := st, rg := rg,
                 win := w }) d)

/-- The regroup record of a pass, read at issue (R146): none where the store has no regroup. -/
def weftRegroup (x : Site) (f : FmtU) (b : WeftBlk) (ld : WarpBlk) (w : Option WinDesc) (st : Option SizeBlk) (d : Dev) :
    Issued :=
  let k := siteKey x
  match st with
  | some c =>
    if c.regroup == 0 then weftIssue x f b ld w st none d
    else if (slotAt d k).winSize < c.rgLayout + 16 then .exc 2 c.rgLayout
    else
      let ws := leWords 4 (unitBytes d (winBase d k + c.rgLayout) 16)
      let r := rgParse ws
      if rgOk ws r then weftIssue x f b ld w st (some r) (drawFree d) else .exc 1 0
  | none => weftIssue x f b ld w st none d

/-- The legality of a pass against its window set and its store configuration, then its ranges. -/
def weftBody (x : Site) (f : FmtU) (ws : List Nat) (d : Dev) : Issued :=
  let sl := slotAt d (siteKey x)
  let b := weftParse ws
  match slotLoad sl f.sel.toNat with
  | none => .exc 1 0
  | some ld =>
    let w := if b.selvedge then getWin sl b.ws else none
    let winFine := match w with
      | some w => weftWinOk b w
      | none => !b.selvedge
    let st := if b.partialOut then none else sl.store
    let storeFine := match st with
      | some c => (c.calH == 0 || ld.n % calSize c.calH == 0) && (c.regroup == 0 || b.selvedge)
      | none => b.partialOut
    if weftRsvdOk ws b && weftOk b ld && winFine && storeFine then weftRegroup x f b ld w st d else .exc 1 0

/-- WEFT.PASS. -/
def execWeftPass (x : Site) (f : FmtU) (s : State) : Host.Outcome State Fault Refusal :=
  issue x f.g (wordU 0x41 f) (uOk s.dev x f (decide (f.sel.toNat < 2))) (withBlock x f 8 (weftBody x f)) s

/-! The loom's own events (R69 to R73, R80, R82). -/

def LoomSt.lost (l : LoomSt) (slot : Nat) : Bool := if slot == 0 then l.lost0 else l.lost1
def LoomSt.setLost (l : LoomSt) (slot : Nat) (v : Bool) : LoomSt := if slot == 0 then { l with lost0 := v } else { l with lost1 := v }
def LoomSt.lastLoad (l : LoomSt) (slot : Nat) : Option LoadOp := if slot == 0 then l.lastLoad0 else l.lastLoad1
def LoomSt.setLastLoad (l : LoomSt) (slot : Nat) (o : LoadOp) : LoomSt :=
  if slot == 0 then { l with lastLoad0 := some o } else { l with lastLoad1 := some o }

def headIsLoad (l : LoomSt) (slot : Nat) : Bool :=
  match l.queue slot with
  | .load _ :: _ => true
  | _ => false

def headIsPass (l : LoomSt) (slot : Nat) : Bool :=
  match l.queue slot with
  | .pass _ :: _ => true
  | _ => false

def hasPass (l : LoomSt) (slot : Nat) : Bool :=
  (l.queue slot).any (fun o => match o with | .pass _ => true | _ => false)

/-- The standby registers may be filled for a slot (R72, R82): they hold no warp, or the slot's own, or one that a Live
load or a load without a waiting pass behind it may overwrite. -/
def standbyFree (d : Dev) (core : Nat) (l : LoomSt) (slot : Nat) : Bool :=
  l.fill.isNone &&
  (match l.standby with
   | none => true
   | some w => w.slot == slot || liveSlot d core slot || !hasPass l w.slot)

/-- Overwrite a waiting warp of the other slot: its load will be repeated (R82). -/
def dropStandby (l : LoomSt) (slot : Nat) : LoomSt :=
  match l.standby with
  | none => l
  | some w => { (if w.slot == slot then l else l.setLost w.slot true) with standby := none }

/-- WARP_FILL_START: the WARP.LOAD at the head of a slot's loom queue begins to fill the standby registers (R72). -/
def execWarpFillStart (core : Fin 32) (loom : Fin 2) (slot : Fin 2) (s : State) : Host.Outcome State Fault Refusal :=
  let key := 2 * core.val + loom.val
  let l := loomAt s.dev key
  whenDev (headIsLoad l slot.val && standbyFree s.dev core.val l slot.val) "no standby fill can start"
    (match l.queue slot.val with
     | .load o :: rest =>
       updLoom key (fun l => { ((dropStandby l slot.val).setQueue slot.val rest) with fill := some (o, false) }) s.dev
     | _ => s.dev) s

/-- WARP_RELOAD: the loom repeats a slot's most recent WARP.LOAD that a front or a fill has replaced, before the slot's
next pass (R82). -/
def execWarpReload (core : Fin 32) (loom : Fin 2) (slot : Fin 2) (s : State) : Host.Outcome State Fault Refusal :=
  let key := 2 * core.val + loom.val
  let l := loomAt s.dev key
  whenDev (l.lost slot.val && headIsPass l slot.val && (l.lastLoad slot.val).isSome && standbyFree s.dev core.val l slot.val)
    "no warp has to be repeated"
    (match l.lastLoad slot.val with
     | some o => updLoom key (fun l => { ((dropStandby l slot.val).setLost slot.val false) with fill := some (o, true) }) s.dev
     | none => s.dev) s

/-- WARP_LOAD_COMPLETE: the standby registers hold the complete warp; a WARP.LOAD posts its q (R145), a repeat does not. -/
def execWarpLoadComplete (core : Fin 32) (loom : Fin 2) (s : State) : Host.Outcome State Fault Refusal :=
  let key := 2 * core.val + loom.val
  let d := s.dev
  match (loomAt d key).fill with
  | some (o, rep) =>
    whenDev true ""
      (postOpt core.val (if rep then none else o.q)
        (drawFree (updLoom key (fun l =>
          { ((l.setLastLoad o.slot o).setLost o.slot false) with
            fill := none
            standby := some (readWarp d o) }) d))) s
  | none => whenDev false "no fill is in progress" d s

/-- The warp that a slot's next pass would use: the waiting one, or the active one when the slot's own and not replaced. -/
def passWarp (l : LoomSt) (slot : Nat) : Option Warp :=
  match l.standby, l.active with
  | some w, a => if w.slot == slot then some w else a.filter (fun v => v.slot == slot && !l.lost slot)
  | none, a => a.filter (fun v => v.slot == slot && !l.lost slot)

/-- A slot's pass is at the head of its queue and its warp is ready. -/
def passReady (l : LoomSt) (slot : Nat) : Bool := headIsPass l slot && (passWarp l slot).isSome

/-- The slot whose pass a loom starts at a pass boundary (R80): a Live slot with anything queued here, else the slot not
served last whose pass is ready. -/
def loomPick (d : Dev) (core : Nat) (l : LoomSt) : Option Nat :=
  if liveSlot d core 0 && !l.queue0.isEmpty then (if passReady l 0 then some 0 else none)
  else if liveSlot d core 1 && !l.queue1.isEmpty then (if passReady l 1 then some 1 else none)
  else if passReady l (1 - l.served) then some (1 - l.served)
  else if passReady l l.served then some l.served else none

/-- The front takes a waiting warp into the cells (R73); the warp it replaces is lost to the other slot (R82). -/
def takeFront (l : LoomSt) (slot : Nat) : LoomSt :=
  match l.standby with
  | none => l
  | some w =>
    if w.slot == slot then
      let l' := match l.active with
        | some v => if v.slot == slot then l else l.setLost v.slot true
        | none => l
      { l' with active := some w, standby := none }
    else l

/-- LOOM_PASS_START: at a pass boundary the loom starts the next pass (R80). -/
def execLoomPassStart (core : Fin 32) (loom : Fin 2) (s : State) : Host.Outcome State Fault Refusal :=
  let key := 2 * core.val + loom.val
  let l := loomAt s.dev key
  match loomPick s.dev core.val l with
  | some slot =>
    match l.queue slot, passWarp l slot with
    | .pass o :: rest, some w =>
      whenDev true ""
        (updLoom key (fun l =>
          let l' := (takeFront l slot).setQueue slot rest
          { l' with
            flights := l'.flights ++ [{ op := o, warp := w, rows := drawRows o.blk o.win }]
            served := slot }) s.dev) s
    | _, _ => whenDev false "no pass can start" s.dev s
  | none => whenDev false "no pass can start" s.dev s

/-- A flight that enters no row: m = 0 or an empty window set (R68, R122). -/
def Flight.empty (f : Flight) : Bool := drawRows f.op.blk f.op.win == 0

/-- Rows of a flight before the first that meets a truncation mark. -/
def rowsBeforeMark (d : Dev) (f : Flight) : Nat :=
  ((upFrom 0 f.rows).find? (weftMarked d f.op)).getD f.rows

/-- Cut the oldest flight whose weft meets a mark (R71). -/
def cutFlight (d : Dev) : List Flight → List Flight
  | [] => []
  | f :: fs => if rowsBeforeMark d f < f.rows then { f with rows := rowsBeforeMark d f } :: fs else f :: cutFlight d fs

/-- TRUNCATION_TOKEN_RECEIVED: the pass enters no further rows (R71). It acts on the oldest pass whose weft meets a mark. -/
def execTruncationTokenReceived (core : Fin 32) (loom : Fin 2) (s : State) : Host.Outcome State Fault Refusal :=
  let key := 2 * core.val + loom.val
  let d := s.dev
  let l := loomAt d key
  whenDev (l.flights.any (fun f => decide (rowsBeforeMark d f < f.rows))) "no pass meets a truncation mark"
    (updLoom key (fun l => { l with flights := cutFlight d l.flights }) d) s

/-- Remove the first element that satisfies a predicate. -/
def takeFirst {α : Type} (p : α → Bool) : List α → Option (α × List α)
  | [] => none
  | a :: as => if p a then some (a, as) else (takeFirst p as).map (fun r => (r.1, a :: r.2))

/-- PASS_COMPLETE: the oldest pass in flight completes (an empty pass overtakes the drain of the passes before it, R68):
its results, its flags, its post (R69). -/
def execPassComplete (core : Fin 32) (loom : Fin 2) (empty : Bool) (s : State) : Host.Outcome State Fault Refusal :=
  let key := 2 * core.val + loom.val
  let d := s.dev
  match takeFirst (fun f => f.empty == empty) (loomAt d key).flights with
  | some (f, rest) =>
    let k := slotKey core.val f.op.slot
    let d1 := updLoom key (fun l => { l with flights := rest }) d
    let d2 := match f.op.win with
      | some w => if winEmpty w then drawEmpty k f.op.blk.ws d1 else d1
      | none => d1
    let d3 := if empty then d2 else drawFree (runPass core.val f d2)
    whenDev (decide (rowsBeforeMark d f = f.rows)) "a truncation token is due" (postOpt core.val f.op.q d3) s
  | none => whenDev false "no such pass is in flight" d s

end Sys2Proof.Machine
end

