-- ==== Sys2Proof/Machine/Ddr.lean ====
section
/-! DEFINITION. DDR4 (R388 to R404): the address map's memories, error marks, retired pages, the live region, scrub and
the sensors' commands. -/

namespace Sys2Proof.Machine

/-! Interleave (R393, R394). -/

def rotl4 (n r : Nat) : Nat := (n * 2 ^ (r % 4) + n / 2 ^ (4 - r % 4)) % 16

/-- The channel of a DDR offset outside the live region. -/
def hashChannel (seed a : Nat) : Nat :=
  let g := (a / 256 % 2 ^ 40) ^^^ (seed % 2 ^ 40)
  ((upFrom 0 10).foldl (fun c k => c ^^^ rotl4 (fld g (4 * k) 4) (fld seed (40 + 2 * k) 2)) 0) ^^^ fld seed 60 4

/-- Bytes of the live region. -/
def liveBytes (d : Dev) : Nat := getF d kMemLive 0 7 * 2 ^ 30

/-- The channel of a DDR offset. -/
def ddrChannel (d : Dev) (a : Nat) : Nat := if a < liveBytes d then a / 256 % 16 else hashChannel d.ddr.seed.toNat a

/-! Retired pages (R399, R400). -/

/-- MEM_RET_ADDR shows the entry that MEM_RET_IDX.sel names. -/
def showRetired (d : Dev) : Dev :=
  let p := d.ddr.retired.getD (getF d kRetIdx 16 13) 0
  regPut kRetHi (p / 2 ^ 32) (regPut kRetLo p d)

/-- Record a device-map page in the retired-page list. -/
def retirePage (page : Nat) (d : Dev) : Dev :=
  let ch := ddrChannel d (page - ddrBase)
  let n := d.ddr.retired.length
  if d.ddr.retired.contains page then d
  else if n < 4096 then
    let d := { d with ddr.retired := d.ddr.retired ++ [page] }
    raiseEvent 0x0C 2 ch [page % 2 ^ 32, page / 2 ^ 32, n] (showRetired (setF kRetIdx 0 13 (n + 1) d))
  else raiseEvent 0x0C 2 ch [page % 2 ^ 32, page / 2 ^ 32, 2 ^ 31] (setF kMemErr 3 1 1 d)

/-- Steps 2 and 3 of R399 for the line at a device-map address. -/
def ddrUncorrectable (a : Nat) (d : Dev) : Dev :=
  let d := zeroMem (a / 64 * 64) 64 d
  let d := { d with ddr.poison := tset false d.ddr.poison (a / 64) true }
  retirePage (a / 4096 * 4096) (bumpF kMemErrCnt 16 16 1 (setF kMemErr 2 1 1 d))

/-- The first address in a range whose line is marked uncorrectable. -/
def poisonIn (d : Dev) (a n : Nat) : Option Nat :=
  if d.ddr.poison.isEmpty || n == 0 then none
  else ((upFrom (a / 64) ((a + n - 1) / 64 + 1 - a / 64)).find? (fun l => tget false d.ddr.poison l)).map (· * 64)

/-- A write to a range that covers a marked line only in part fails (R399). -/
def poisonPartial (d : Dev) (a n : Nat) : Option Nat :=
  if d.ddr.poison.isEmpty || n == 0 then none
  else ((upFrom (a / 64) ((a + n - 1) / 64 + 1 - a / 64)).find? (fun l =>
    tget false d.ddr.poison l && !(decide (a ≤ 64 * l) && decide (64 * l + 64 ≤ a + n)))).map (· * 64)

/-- A write of device memory: whole lines lose their marks (R399). -/
def devWrite (a : Nat) (bs : List Byte) (d : Dev) : Dev :=
  let hit (l : Nat) : Bool := decide (a ≤ 64 * l) && decide (64 * l + 64 ≤ a + bs.length)
  let d := if d.ddr.poison.isEmpty then d else { d with ddr.poison := tclear d.ddr.poison hit }
  wrMem a bs d

/-! Who reaches what (Table 01-4, R174, R392, R395, R495). -/

/-- A range [a, a + n) lies in [lo, lo + len). -/
def inside (a n lo len : Nat) : Bool := decide (lo ≤ a) && decide (a + n ≤ lo + len)

/-- A slot on a core that runs the same job or session as slot k: the one with k's slot number when both do (R179). -/
def peerSlot (d : Dev) (k core : Nat) : Option Nat :=
  let me := slotAt d k
  let same (j : Nat) : Bool := isRunning d j && (slotAt d j).ident == me.ident && (slotAt d j).fn == me.fn
  let a := 2 * core + k % 2
  let b := 2 * core + (1 - k % 2)
  if same a then some a else if same b then some b else none

/-- A core-store range lies in the window of a slot j, for a write outside its code region. -/
def inWindow (d : Dev) (j a n : Nat) (write : Bool) : Bool :=
  let sl := slotAt d j
  let b := winBase d j
  inside a n b sl.winSize && (!write || decide (b + sl.codeSize ≤ a))

/-- A range touches a region that the root firmware holds locked: its own, the scheduler code, or a bundle's (R277, R427). -/
def lockedIn (d : Dev) (a n : Nat) : Bool :=
  let hit (lo len : Nat) : Bool := decide (a < lo + len) && decide (lo < a + n)
  d.boot.locked.any (fun r => hit r.1 r.2) ||
  d.sess.bundles.any (fun e => match e.2 with | some b => hit b.lo b.len | none => false)

/-- A DDR4 range that a slot may reach: in the populated capacity, trained, in the live region only a Live slot's own
session buffers (R395), and no locked region to write (R427). -/
def ddrReach (d : Dev) (k a n : Nat) (write : Bool) : Bool :=
  d.ddr.trained && inside a n ddrBase (ddrSize d) && !(write && lockedIn d a n) &&
  (decide (ddrBase + liveBytes d ≤ a) ||
    ((slotAt d k).live && d.ddr.bufs.any (fun b => b.ident == (slotAt d k).ident.toNat && inside a n b.lo b.len)))

/-- A device-map range that a stream or Quire transfer of slot k may read or write. -/
def devReach (d : Dev) (k a n : Nat) (write : Bool) : Bool :=
  if a < 0x20000000 then
    (let c := a / 0x1000000
     (inWindow d (2 * c) a n write && (peerSlot d k c).isSome && (slotAt d (2 * c)).ident == (slotAt d k).ident) ||
     (inWindow d (2 * c + 1) a n write && (peerSlot d k c).isSome && (slotAt d (2 * c + 1)).ident == (slotAt d k).ident))
  else
    inside a n (vatBase 0) 0x4000000 || inside a n (vatBase 1) 0x4000000 ||
    feltReach d k a n write ||
    (!write && inside a n dispatchReply 0x800) || ddrReach d k a n write

/-! Commands. -/

/-- DDR_RECALIBRATE: timing only (R391). -/
def execDdrRecalibrate (_ch : Fin 16) (s : State) : Host.Outcome State Fault Refusal :=
  whenDev s.dev.ddr.trained "DDR4 is not trained" s.dev s

/-- SKEW_WINDOW: the sums of the queue-depth samples of the 16 channels over 1 ms (R397). -/
def execSkewWindow (sums : List Nat) (s : State) : Host.Outcome State Fault Refusal :=
  let total := sums.foldl (· + ·) 0
  let d := s.dev
  whenDev (sums.length == 16 && d.ddr.trained) "no queue-depth window ends"
    (match (upFrom 0 16).find? (fun c => total != 0 && decide (4 * total < 16 * sums.getD c 0)) with
     | some c =>
       let v := sums.getD c 0
       raiseEvent 0x03 2 c [v % 2 ^ 32, total % 2 ^ 32]
         (regPut kMemSkew (c * 2 ^ 28 + min 0xFFFF (v * 4096 / total)) (bumpF kMemErrCnt 8 8 1 (setF kMemErr 1 1 1 d)))
     | none => d) s

/-- A channel may report its scrub corrections: none within the last second (R401). -/
def scrubDue (d : Dev) (ch : Nat) : Bool :=
  decide (0 < tget 0 d.ddr.scrubCorr ch) &&
  (match tget none d.ddr.scrubTime ch with
   | none => true
   | some t => decide (t + 200000000 ≤ d.aclk))

def scrubSend (ch : Nat) (d : Dev) : Dev :=
  let n := tget 0 d.ddr.scrubCorr ch
  let d := raiseEvent 0x0B 2 ch [n % 2 ^ 32] d
  { d with ddr.scrubCorr := tset 0 d.ddr.scrubCorr ch 0, ddr.scrubTime := tset none d.ddr.scrubTime ch (some d.aclk) }

/-- SCRUB_READ: patrol scrub reads a line of a page that is not listed; it was good, corrected or uncorrectable (R401). -/
def execScrubRead (off : BitVec 42) (r : LineRead) (s : State) : Host.Outcome State Fault Refusal :=
  let d := s.dev
  let a := ddrBase + off.toNat / 64 * 64
  let ch := ddrChannel d off.toNat
  whenDev (d.ddr.trained && decide (off.toNat < ddrSize d) && !d.ddr.retired.contains (a / 4096 * 4096)) "scrub does not read this line"
    (match r with
     | .good => d
     | .corrected =>
       let d := bumpF (kChStat ch) 0 16 1 d
       let d := { d with ddr.scrubCorr := tmod 0 d.ddr.scrubCorr ch (· + 1) }
       if (tget none d.ddr.scrubTime ch).isNone then scrubSend ch d else d
     | .uncorrectable => ddrUncorrectable a d) s

/-- SCRUB_REPORT: a channel reports the corrections since its previous report, at most once a second (R401). -/
def execScrubReport (ch : Fin 16) (s : State) : Host.Outcome State Fault Refusal :=
  whenDev (scrubDue s.dev ch.val) "no scrub report is due" (scrubSend ch.val s.dev) s

/-- DIMM_THERMAL_READ: the highest and lowest evidence of a channel's modules, in whole degrees: some module above 85 °C
doubles the refresh rate, all below 83 °C restores it (R403). -/
def execDimmThermalRead (ch : Fin 16) (hottest : Int) (s : State) : Host.Outcome State Fault Refusal :=
  let d := s.dev
  whenDev d.ddr.trained "DDR4 is not trained"
    (if 85 < hottest then setF (kChStat ch.val) 29 1 1 d else if hottest < 83 then setF (kChStat ch.val) 29 1 0 d else d) s

end Sys2Proof.Machine
end

