-- ==== Sys2Proof/Machine/Streams.lean ====
section
/-! DEFINITION. The stream engines (R167 to R185, R189 to R194): descriptors, tiles, credits, requests, completion,
persistence, cancellation and host pages. -/

namespace Sys2Proof.Machine

/-! The descriptor (Table 07-1). -/

def linkOf (w : Nat) : Link :=
  { postQ := fld w 26 6, postCore := fld w 21 5, postEn := bitAt w 20, waitQ := fld w 14 6, waitEn := bitAt w 13,
    cap := fld w 0 13 }

def noLink : Link := { postQ := 0, postCore := 0, postEn := false, waitQ := 0, waitEn := false, cap := 0 }

def strmParse (ws : List Nat) : StrmBlk :=
  let w (i : Nat) : Nat := ws.getD i 0
  { patBase := w 0 + w 1 * 2 ^ 32
    patSpace := fld (w 2) 30 2
    pkBase := fld (w 2) 0 24
    slotPitch := fld (w 3) 0 24
    cmpl := fld (w 4) 0 24
    dirOut := bitAt (w 5) 31
    persist := bitAt (w 5) 30
    rearm := bitAt (w 5) 29
    transpose := bitAt (w 5) 28
    mcast := bitAt (w 5) 27
    cmplEn := bitAt (w 5) 26
    esize := 2 ^ fld (w 5) 24 2
    conv := fld (w 5) 21 3
    tileDims := fld (w 5) 18 3
    ndims := fld (w 5) 15 3
    pk := linkOf (w 6)
    pt := if bitAt (w 5) 27 then noLink else linkOf (w 7)
    mask := if bitAt (w 5) 27 then w 7 else 0
    patDev := fld (w 8) 0 16
    c0 := fld (w 9) 0 16
    c1 := fld (w 9) 16 16
    c2 := fld (w 10) 0 16
    c3 := fld (w 10) 16 16
    c4 := fld (w 8) 16 16
    s0 := signedOf 32 (w 11)
    s1 := signedOf 32 (w 12)
    s2 := signedOf 32 (w 13)
    s3 := signedOf 32 (w 14)
    s4 := signedOf 32 (w 15) }

def strmRsvdOk (ws : List Nat) : Bool :=
  let w (i : Nat) : Nat := ws.getD i 0
  fld (w 2) 24 6 == 0 && fld (w 3) 24 8 == 0 && fld (w 4) 24 8 == 0 && fld (w 5) 0 15 == 0

/-! Elements and tiles (R170). -/

def counts (b : StrmBlk) : List Nat := [b.c0, b.c1, b.c2, b.c3, b.c4]
def strides (b : StrmBlk) : List Int := [b.s0, b.s1, b.s2, b.s3, b.s4]
def prodOf (l : List Nat) : Nat := l.foldl (· * ·) 1

/-- Elements of the whole stream, and of one tile, and its tiles. -/
def totalElems (b : StrmBlk) : Nat := prodOf (counts b)
def tileElems (b : StrmBlk) : Nat := prodOf ((counts b).take b.tileDims)
def totalTiles (b : StrmBlk) : Nat := prodOf ((counts b).drop b.tileDims)

/-- The coordinates of element n in stream order. -/
def coords : List Nat → Nat → List Nat
  | [], _ => []
  | c :: cs, n => n % c :: coords cs (n / c)

/-- Bytes of a destination element (Table 07-2). -/
def dstSize (b : StrmBlk) : Nat :=
  match b.conv with
  | 0 => b.esize
  | 5 | 6 => 2
  | _ => 4

/-- Bytes of an element on the packed side, and on the pattern side (R170). -/
def pkSize (b : StrmBlk) : Nat := if b.dirOut then b.esize else dstSize b
def ptSize (b : StrmBlk) : Nat := if b.dirOut then dstSize b else b.esize

/-- The pattern-side address of element n. -/
def patAddr (b : StrmBlk) (n : Nat) : Int :=
  ((coords (counts b) n).zip (strides b)).foldl (fun a p => a + (p.1 : Int) * p.2) (b.patBase : Int)

/-- packed_pos of R170. -/
def packedPos (b : StrmBlk) (n : Nat) : Nat :=
  let p := n % tileElems b
  if b.transpose then
    let i0 := p % b.c0
    let i1 := p / b.c0 % b.c1
    i1 + b.c1 * i0 + b.c0 * b.c1 * (p / (b.c0 * b.c1))
  else p

/-- The packed-side offset of element n of a run whose first tile is ring tile `tb`. -/
def pkAddr (b : StrmBlk) (tb n : Nat) : Nat :=
  let t := tb + n / tileElems b
  b.pkBase + (if b.pk.cap == 0 then t else t % b.pk.cap) * b.slotPitch + packedPos b n * pkSize b

/-- The packed-side bytes a run can touch: its ring slots. -/
def pkSpan (b : StrmBlk) (tb : Nat) : Nat :=
  let t := tb + totalTiles b
  ((if b.pk.cap == 0 then t else min t b.pk.cap) - 1) * b.slotPitch + tileElems b * pkSize b

/-- The lowest pattern-side byte and the one past the highest (R174). -/
def patLow (b : StrmBlk) : Int :=
  ((counts b).zip (strides b)).foldl (fun a p => a + min 0 (((p.1 : Int) - 1) * p.2)) (b.patBase : Int)

def patEnd (b : StrmBlk) : Int :=
  ((counts b).zip (strides b)).foldl (fun a p => a + max 0 (((p.1 : Int) - 1) * p.2)) (b.patBase : Int) + ptSize b

/-! Checks at issue (R173). -/

/-- A conversion and its source size (Table 07-2). -/
def convOk (b : StrmBlk) : Bool :=
  match b.conv with
  | 0 => true
  | 1 | 2 => b.esize == 2
  | 3 | 4 | 5 | 6 => b.esize == 1
  | _ => false

/-- Unused counts are 1 and unused strides 0. -/
def unusedOk (b : StrmBlk) : Bool :=
  (upFrom b.ndims (5 - b.ndims)).all (fun i => (counts b).getD i 0 == 1 && (strides b).getD i 0 == 0)

/-- The semaphores of the issuing core that a descriptor names lie in the mask. -/
def strmSemsOk (sl : SlotSt) (core : Nat) (b : StrmBlk) : Bool :=
  (!b.pk.waitEn || semOk sl b.pk.waitQ) && (!b.pt.waitEn || semOk sl b.pt.waitQ) &&
  (!(b.pk.postEn && !b.mcast && b.pk.postCore == core) || semOk sl b.pk.postQ) &&
  (!(b.pt.postEn && b.patSpace != 3 && b.pt.postCore == core) || semOk sl b.pt.postQ)

def linkUsed (l : Link) : Bool := l.postEn || l.waitEn

/-- The rules of R173 on a descriptor that is not a re-arm. -/
def strmOk (sl : SlotSt) (core : Nat) (b : StrmBlk) : Bool :=
  (b.patSpace == 2 || decide (b.patBase < 2 ^ 48)) && b.pkBase % 64 == 0 && b.slotPitch % 64 == 0 && b.cmpl % 32 == 0 &&
  within 1 5 b.tileDims && within 1 5 b.ndims && decide (b.tileDims ≤ b.ndims) && (counts b).all (fun c => c != 0) &&
  unusedOk b && convOk b &&
  (!b.transpose || ((b.esize == 1 || b.esize == 2) && b.conv == 0 && decide (2 ≤ b.tileDims) && b.c0 % 16 == 0 && b.c1 % 16 == 0)) &&
  decide (totalElems b < 2 ^ 48) && decide (b.pk.cap ≤ 4096) && decide (b.pt.cap ≤ 4096) &&
  (!linkUsed b.pk || b.pk.cap != 0) && (!linkUsed b.pt || b.pt.cap != 0) && (b.patSpace == 3 || b.patDev == 0) &&
  (!b.mcast || (!b.dirOut && b.patSpace == 1 && b.mask != 0 && b.pk.postCore == 0)) && strmSemsOk sl core b

/-- The core-store ranges checked at issue: the packed extent, the record, a pattern extent in space 0. -/
def strmRanges (b : StrmBlk) (tb : Nat) : List Rng :=
  [{ at_ := b.pkBase, len := pkSpan b tb, store := !b.dirOut }] ++ (if b.cmplEn then [wr b.cmpl 32] else []) ++
  (if b.patSpace == 0 then [{ at_ := codeOf 48 (patLow b), len := (patEnd b - patLow b).toNat, store := b.dirOut }] else [])

/-! Issue. -/

/-- The last descriptor a slot has on an engine, queued or running. -/
def lastDesc : List StrmEntry → Option StrmRun
  | [] => none
  | e :: es =>
    match lastDesc es, e with
    | some r, _ => some r
    | none, .desc r => some r
    | none, .cancel _ => none

/-- The slot's persistent descriptor on an engine (R180): its block and the tiles its ring has run through. -/
def persistent (st : StrmSt) (slot : Nat) : Option Armed :=
  match lastDesc (st.queue slot) with
  | some r => if r.blk.persist && !r.cancelled then some { blk := r.blk, tiles := r.tileBase + totalTiles r.blk } else none
  | none => st.armed slot

/-- A new descriptor for slot k. -/
def newRun (d : Dev) (k : Nat) (q : Option Nat) (b : StrmBlk) (tb : Nat) : StrmRun :=
  { slot := k % 2, q := q, blk := b, base := winBase d k, winSize := (slotAt d k).winSize, ident := (slotAt d k).ident, tileBase := tb }

/-- Marks that a new descriptor's packed range overlaps end (R193). -/
def dropMarks (k lo n : Nat) (d : Dev) : Dev :=
  { d with strm.marks := d.strm.marks.filter (fun m => !(m.slotKey == k && decide (m.lo < lo + n) && decide (lo ≤ m.hi))) }

/-- Queue a descriptor or find the queue full (8 entries, R149). -/
def strmQueue (x : Site) (e : Nat) (r : StrmRun) (d : Dev) : Issued :=
  let key := engKey x.core.val e
  let sl := x.slot.val
  if 8 ≤ ((engAt d key).queue sl).length then .full
  else
    let d := dropMarks (siteKey x) (r.base + r.blk.pkBase) (pkSpan r.blk r.tileBase) d
    .done (updEng key (fun st =>
      let st := st.setQueue sl (st.queue sl ++ [.desc r])
      if (st.queue sl).length == 1 && !r.blk.rearm then st.setArmed sl none else st) d)

/-- STRM.GO on engines 0 to 3 without re-arm (R169, R173); a re-arm bit goes by the STRM.REARM reading of the block. -/
def strmGoBody (x : Site) (f : FmtU) (ws : List Nat) (d : Dev) : Issued :=
  let k := siteKey x
  let sl := slotAt d k
  let e := f.sel.toNat
  let b := strmParse ws
  if b.rearm then
    match persistent (engAt d (engKey x.core.val e)) x.slot.val with
    | none => .exc 1 0
    | some a =>
      let n : StrmBlk := { a.blk with patBase := b.patBase, patSpace := b.patSpace, pkBase := b.pkBase, rearm := true }
      vet sl (!b.persist && fld (ws.getD 2 0) 24 6 == 0 && (n.patSpace == 2 || decide (n.patBase < 2 ^ 48)) && n.pkBase % 64 == 0 &&
          (n.patSpace == 3 || n.patDev == 0) && (!n.mcast || n.patSpace == 1) && strmSemsOk sl x.core.val n)
        (strmRanges n a.tiles) [] (strmQueue x e (newRun d k (qOpt f) n a.tiles) d)
  else
    vet sl (strmRsvdOk ws && strmOk sl x.core.val b) (strmRanges b 0) []
      (strmQueue x e (newRun d k (qOpt f) b 0) d)

/-- STRM.GO (R169): an engine 0 to 3. -/
def execStrmGo (x : Site) (f : FmtU) (s : State) : Host.Outcome State Fault Refusal :=
  issue x f.g (wordU 0x60 f) (uOk s.dev x f (decide (f.sel.toNat < 4))) (withBlock x f 16 (strmGoBody x f)) s

/-- STRM.REARM: a STRM.GO with rearm = 1 (R180). -/
def execStrmRearm (x : Site) (f : FmtU) (s : State) : Host.Outcome State Fault Refusal :=
  issue x f.g (wordU 0x60 f) (uOk s.dev x f (decide (f.sel.toNat < 4)))
    (withBlock x f 16 (fun ws d => strmGoBody x f ws d)) s

/-- STRM.CANCEL (R189): ra and off must be 0 (R145); the entry joins the queue behind the descriptors it cancels. -/
def execStrmCancel (x : Site) (f : FmtU) (s : State) : Host.Outcome State Fault Refusal :=
  issue x f.g (wordU 0x62 f) (uOk s.dev x f (decide (f.sel.toNat < 5)) && f.ra == 0 && f.off == 0)
    (fun d =>
      let core := x.core.val
      let sl := x.slot.val
      let e := f.sel.toNat
      if e == 4 then
        let id := d.nextId
        .done (updQuire core (fun q => { q with cancels := q.cancels ++ [(sl, id, qOpt f)] }) (cancelQuire core sl { d with nextId := id + 1 }))
      else if 8 ≤ ((engAt d (engKey core e)).queue sl).length then .full
      else .done (updEng (engKey core e) (fun st => st.setQueue sl (st.queue sl ++ [.cancel (qOpt f)])) (cancelEngine core e sl d))) s

/-! Running descriptors. -/

/-- Replace one descriptor of a queue: the first entry whose run satisfies `p`. -/
def mapRun (p : StrmRun → Bool) (g : StrmRun → StrmRun) : List StrmEntry → List StrmEntry
  | [] => []
  | .desc r :: es => if p r then .desc (g r) :: es else .desc r :: mapRun p g es
  | e :: es => e :: mapRun p g es

def findRun (p : StrmRun → Bool) : List StrmEntry → Option StrmRun
  | [] => none
  | .desc r :: es => if p r then some r else findRun p es
  | _ :: es => findRun p es

def updRun (key slot : Nat) (p : StrmRun → Bool) (g : StrmRun → StrmRun) (d : Dev) : Dev :=
  updEng key (fun st => st.setQueue slot (mapRun p g (st.queue slot))) d

/-- A descriptor that can still issue requests. -/
def runLive (r : StrmRun) : Bool := r.started && r.term.isNone && !r.cancelled && decide (r.next < totalElems r.blk)

/-- Every request of a descriptor has been issued, or none will be. -/
def runIssued (r : StrmRun) : Bool := r.cancelled || r.term.isSome || (r.started && !decide (r.next < totalElems r.blk))

/-- The first descriptor of a queue that has not issued its last request. -/
def currentRun (es : List StrmEntry) : Option StrmRun := findRun (fun r => !runIssued r) es

/-- The device-map address of a packed-side byte on each receiving core: the window of the issuing slot, or the windows
of the mask (R179). -/
def pkTargets (d : Dev) (k : Nat) (r : StrmRun) : List (Option Nat) :=
  if r.blk.mcast then
    ((upFrom 0 32).filter (bitAt r.blk.mask)).map (fun c => (peerSlot d k c).map (fun j => winBase d j))
  else [some r.base]

/-- A semaphore of another core lies in the mask of a slot of the same job or session (R174). -/
def semReach (d : Dev) (k core q : Nat) : Bool :=
  let me := slotAt d k
  [2 * core, 2 * core + 1].any (fun j =>
    isRunning d j && (slotAt d j).ident == me.ident && (slotAt d j).fn == me.fn && semOk (slotAt d j) q)

/-- The check before the first request (R174, R179): the address that fails, if any. -/
def startFault (d : Dev) (k : Nat) (r : StrmRun) : Option Nat :=
  let b := r.blk
  let lo := patLow b
  let n := (patEnd b - lo).toNat
  let bad := codeOf 64 lo
  let targets : Bool :=
    match b.patSpace with
    | 1 => decide (0 ≤ lo) && devReach d k lo.toNat n b.dirOut
    | 3 => decide (0 ≤ lo) && decide (patEnd b ≤ 2 ^ 48)
    | _ => true
  let posts : Bool :=
    (!b.pk.postEn || (if b.mcast then ((upFrom 0 32).filter (bitAt b.mask)).all (fun c => semReach d k c b.pk.postQ)
                      else semReach d k b.pk.postCore b.pk.postQ)) &&
    (!b.pt.postEn || b.patSpace == 3 || semReach d k b.pt.postCore b.pt.postQ)
  let peers : Bool := (pkTargets d k r).all (·.isSome) &&
    (!b.mcast || ((upFrom 0 32).filter (bitAt b.mask)).all (fun c =>
      match peerSlot d k c with
      | some j => inWindow d j (winBase d j + b.pkBase) (pkSpan b r.tileBase) true
      | none => false))
  if targets && posts && peers then none else some bad

/-- STREAM_START: an engine begins the slot's next descriptor once the previous one has issued its last request (R167),
after the range checks (R174). -/
def execStreamStart (x : Site) (engine : Fin 5) (s : State) : Host.Outcome State Fault Refusal :=
  let d := s.dev
  let key := engKey x.core.val engine.val
  let sl := x.slot.val
  match currentRun ((engAt d key).queue sl) with
  | some r =>
    whenDev (decide (engine.val < 4) && !r.started) "the current descriptor has begun"
      (updRun key sl (fun r => !runIssued r) (fun r =>
        match startFault d (siteKey x) r with
        | some a => { r with term := some (stBadAddr, a) }
        | none => { r with started := true }) d) s
  | none => whenDev false "no descriptor waits" d s

/-! Credits (R176, R177, R154). -/

/-- The decrement that a side's link waits for before the next tile: none when there is no link or it has been taken. -/
def creditNeed (r : StrmRun) (pattern : Bool) : Option (Nat × Nat) :=
  let tile := r.next / tileElems r.blk
  let l := if pattern then r.blk.pt else r.blk.pk
  let taken := if pattern then r.ptTaken else r.pkTaken
  if runLive r && r.suspended.isNone && l.waitEn && decide (taken ≤ tile) then
    some (l.waitQ, if r.blk.mcast && !pattern then popcount r.blk.mask else 1)
  else none

/-- Waiting decrements on semaphore q of a core, with their rank in R154: SEM.WAIT 0, S0 to S3 1 to 4, Quire 5. -/
def claims (d : Dev) (core q : Nat) : List (Nat × Nat) :=
  let sem := ([0, 1] : List Nat).filterMap (fun sl =>
    match (slotAt d (slotKey core sl)).hold with
    | .semWait p n => if p == q && isRunning d (slotKey core sl) then some (0, n) else none
    | _ => none)
  let eng := ([0, 1, 2, 3] : List Nat).flatMap (fun e =>
    ([0, 1] : List Nat).flatMap (fun sl =>
      match currentRun ((engAt d (engKey core e)).queue sl) with
      | some r => ([true, false] : List Bool).filterMap (fun pt =>
          match creditNeed r pt with
          | some (p, n) => if p == q then some (e + 1, n) else none
          | none => none)
      | none => []))
  let qui := (quireAt d core).ops.filterMap (fun o =>
    if !o.started && o.blk.waitEn && o.blk.waitQ == q then some (5, o.blk.waitCount) else none)
  sem ++ eng ++ qui

/-- A decrement of n at rank `rank` is granted: q suffices, and no waiter of higher priority could be granted (R154). -/
def grantable (d : Dev) (core q n rank : Nat) : Bool :=
  decide (n ≤ semGet d core q) && (claims d core q).all (fun c => !(decide (c.1 < rank) && decide (c.2 ≤ semGet d core q)))

/-- TILE_CREDIT_TAKEN: a link's wait semaphore is decremented for the next tile (R176). -/
def execTileCreditTaken (x : Site) (engine : Fin 4) (pattern : Bool) (s : State) : Host.Outcome State Fault Refusal :=
  let d := s.dev
  let core := x.core.val
  let key := engKey core engine.val
  match currentRun ((engAt d key).queue x.slot.val) with
  | some r =>
    match creditNeed r pattern with
    | some (q, n) =>
      whenDev (grantable d core q n (engine.val + 1)) "the decrement is not granted"
        (semTake core q n (updRun key x.slot.val (fun r => !runIssued r) (fun r =>
          if pattern then { r with ptTaken := r.next / tileElems r.blk + 1 }
          else { r with pkTaken := r.next / tileElems r.blk + 1 }) d)) s
    | none => whenDev false "no credit is due" d s
  | none => whenDev false "no descriptor runs" d s

/-! Requests (R175, R184). -/

/-- Credits of the current tile are held. -/
def creditsHeld (r : StrmRun) : Bool := (creditNeed r true).isNone && (creditNeed r false).isNone

/-- Outstanding requests of a slot's descriptors on an engine. -/
def outstanding (es : List StrmEntry) : Nat :=
  (es.map (fun e => match e with | .desc r => r.reqs.length | .cancel _ => 0)).foldl (· + ·) 0

/-- A slot's current descriptor can issue a request (R184). -/
def canRequest (d : Dev) (core e slot : Nat) : Bool :=
  let st := engAt d (engKey core e)
  let mine := outstanding (st.queue slot)
  let all := outstanding st.queue0 + outstanding st.queue1
  match currentRun (st.queue slot) with
  | some r =>
    runLive r && r.suspended.isNone && creditsHeld r && decide (all < 8) &&
    (!(liveSlot d core (1 - slot)) || liveSlot d core slot || decide (mine < 4))
  | none => false

/-- The slot that an engine serves next (R184). -/
def requestSlot (d : Dev) (core e : Nat) : Option Nat :=
  let st := engAt d (engKey core e)
  let can := canRequest d core e
  if liveSlot d core 0 && can 0 then some 0
  else if liveSlot d core 1 && can 1 then some 1
  else if can (1 - st.served) then some (1 - st.served)
  else if can st.served then some st.served else none

/-- Elements from n that one request covers: consecutive pattern-side bytes inside a 4 KiB block and the tile. -/
def requestLen (b : StrmBlk) : Nat → Nat → Nat
  | 0, _ => 0
  | fuel + 1, n =>
    let a := patAddr b n
    let z := a + ptSize b
    if (n + 1) % tileElems b == 0 || patAddr b (n + 1) != z || z.fdiv 4096 != a.fdiv 4096 ||
       (z + ptSize b - 1).fdiv 4096 != a.fdiv 4096 then 1
    else 1 + requestLen b fuel (n + 1)

/-- Destination bytes of an element from its source bytes, with the NaN rule of R171. -/
def convElem (b : StrmBlk) (src : List Byte) : NumM (List Byte) :=
  let v := leNat src
  match b.conv with
  | 1 => do let w ← passNan (valBf16 v); pure (leBytes 4 (code32 w))
  | 2 => do let w ← passNan (val16 v); pure (leBytes 4 (code32 w))
  | 3 => pure (leBytes 4 (codeOf 32 (signedOf 8 v)))
  | 4 => pure (leBytes 4 v)
  | 5 => pure [BitVec.ofNat 8 (codeOf 8 (signedOf 4 v)), BitVec.ofNat 8 (codeOf 8 (signedOf 4 (v / 16)))]
  | 6 => pure [BitVec.ofNat 8 (v % 16), BitVec.ofNat 8 (v / 16 % 16)]
  | _ => pure src

/-- The device-map address of a pattern-side byte in spaces 0 and 1. -/
def patMap (r : StrmRun) (a : Int) : Nat := if r.blk.patSpace == 0 then r.base + a.toNat else a.toNat

/-- The stored bytes of source element n in device memory. -/
def srcBytesOf (d : Dev) (r : StrmRun) (n : Nat) : List Byte :=
  if r.blk.dirOut then rdMem d (r.base + pkAddr r.blk r.tileBase n) r.blk.esize
  else rdMem d (patMap r (patAddr r.blk n)) r.blk.esize

/-- The destination bytes that a request's elements give, read from the packed side (for a write to another space). -/
def putBytes (d : Dev) (r : StrmRun) (first n : Nat) : List Byte × Flags :=
  runNum (do
    let bs ← (upFrom first n).mapM (fun i => convElem r.blk (srcBytesOf d r i))
    pure bs.flatten)

/-- How a request ends against device memory: the first element that meets a truncation mark, and an uncorrectable or
marked DDR4 line (R193, R194, R399). -/
def requestFault (d : Dev) (r : StrmRun) (q : StrmReq) : Option (Nat × Nat × Nat) :=
  let es := upFrom q.first q.count
  let src (n : Nat) : Nat :=
    if r.blk.dirOut then r.base + pkAddr r.blk r.tileBase n else patMap r (patAddr r.blk n)
  let srcLocal : Bool := r.blk.dirOut || decide (r.blk.patSpace < 2)
  let marked := if srcLocal then es.find? (fun n => markedRange d (src n) r.blk.esize) else none
  let bad := if srcLocal then (es.filterMap (fun n => poisonIn d (src n) r.blk.esize)).head? else none
  let dst (n : Nat) : Nat := patMap r (patAddr r.blk n)
  let badW := if r.blk.dirOut && decide (r.blk.patSpace < 2) then
      (es.filterMap (fun n => poisonPartial d (dst n) (dstSize r.blk))).head? else none
  match bad, badW, marked with
  | some a, _, _ => some (q.first, stMemUnc, a)
  | none, some a, _ => some (q.first, stMemUnc, a)
  | none, none, some n => some (n, stPageFault, src n)
  | none, none, none => none

/-- STREAM_REQUEST_ISSUE: an engine issues a request for the chosen slot. -/
def execStreamRequestIssue (core : Fin 32) (engine : Fin 4) (s : State) : Host.Outcome State Fault Refusal :=
  let d := s.dev
  let key := engKey core.val engine.val
  match requestSlot d core.val engine.val with
  | some sl =>
    match currentRun ((engAt d key).queue sl) with
    | some r =>
      let n := requestLen r.blk (totalElems r.blk - r.next) r.next
      let id := d.nextId
      let q : StrmReq := { id := id, first := r.next, count := n, ended := none }
      let far : Bool := r.blk.patSpace == 3
      let d1 := updEng key (fun st => { st with served := sl }) { d with nextId := id + 1 }
      match (if far && r.blk.dirOut then requestFault d r q else none) with
      | some f =>
        whenDev true "" (updRun key sl (fun r => !runIssued r) (fun r => { r with term := some (f.2.1, f.2.2) }) d1) s
      | none =>
        let d2 := updRun key sl (fun r => !runIssued r) (fun r => { r with next := r.next + n, reqs := r.reqs ++ [q] }) d1
        let a := (patAddr r.blk r.next).toNat
        let op := if r.blk.dirOut then XOp.put a (putBytes d r r.next n).1 else XOp.get a (n * r.blk.esize)
        whenDev true "" (if far then sendRemote (slotKey core.val sl) r.blk.patDev op (.stream core.val engine.val sl id) d2 else d2) s
    | none => whenDev false "no descriptor runs" d s
  | none => whenDev false "no request can issue" d s

/-! Delivery (R176, R181). -/

/-- Add [lo, lo + n) to a list of disjoint delivered runs of elements. -/
def addRange (lo n : Nat) (l : List (Nat × Nat)) : List (Nat × Nat) := l ++ [(lo, n)]

/-- The length of the delivered prefix: runs are taken up as long as one starts inside the prefix. -/
def prefixLen : Nat → List (Nat × Nat) → Nat → Nat
  | 0, _, p => p
  | fuel + 1, l, p =>
    match l.find? (fun r => decide (r.1 ≤ p) && decide (p < r.1 + r.2)) with
    | some r => prefixLen fuel l (r.1 + r.2)
    | none => p

/-- Post one tile on a link. -/
def postLink (k key : Nat) (r : StrmRun) (pattern : Bool) (d : Dev) : Dev :=
  let l := if pattern then r.blk.pt else r.blk.pk
  if !l.postEn then d
  else if pattern && r.blk.patSpace == 3 then sendRemote k r.blk.patDev (.signal l.postCore l.postQ 1) (.post (key % 8)) d
  else if r.blk.mcast then forEach ((upFrom 0 32).filter (bitAt r.blk.mask)) (fun c => semPost c l.postQ 1) d
  else semPost l.postCore l.postQ 1 d

def iter {α : Type} (f : α → α) : Nat → α → α
  | 0, a => a
  | n + 1, a => iter f n (f a)

/-- Post the tiles that the delivered prefix completes (R176). -/
def postTiles (k key : Nat) (r : StrmRun) (d : Dev) : Dev :=
  let done := r.delivered / tileElems r.blk
  let d := iter (postLink k key r false) (done - r.pkPosted) d
  let d := iter (postLink k key r true) (done - r.ptPosted) d
  updRun key (k % 2) (fun q => q.started && q.tileBase == r.tileBase && q.next == r.next && q.reqs == r.reqs)
    (fun q => { q with pkPosted := max q.pkPosted done, ptPosted := max q.ptPosted done }) d

/-- Write element n at its destination. -/
def writeElem (d0 : Dev) (k : Nat) (r : StrmRun) (n : Nat) (bs : List Byte) (d : Dev) : Dev :=
  if r.blk.dirOut then
    let a := patAddr r.blk n
    match r.blk.patSpace with
    | 2 => emit (.hostWrite (slotAt d0 k).fn (codeOf 64 a) bs) d
    | 3 => d
    | _ => devWrite (patMap r a) bs d
  else
    forEach (pkTargets d0 k r) (fun t d =>
      match t with
      | some b => devWrite (b + pkAddr r.blk r.tileBase n) bs d
      | none => d) d

/-- The end of the tile's ring slot that holds element n (R193). -/
def slotEnd (r : StrmRun) (n : Nat) : Nat :=
  let b := r.blk
  let t := r.tileBase + n / tileElems b
  let start := b.pkBase + (if b.pk.cap == 0 then t else t % b.pk.cap) * b.slotPitch
  start + max (tileElems b * pkSize b) b.slotPitch - 1

/-- The truncation token of a terminated descriptor that writes into core store: the mark and the fill post, once its
earlier requests have ended (R193, R194). -/
def settleTerm (k key : Nat) (r : StrmRun) (d : Dev) : Dev :=
  if r.term.isNone || r.settled || !r.started || !r.reqs.isEmpty then d
  else
    let isR (q : StrmRun) : Bool := q.term.isSome && !q.settled && q.started && q.reqs.isEmpty
    let d := updRun key (k % 2) isR (fun q => { q with settled := true, truncated := !q.blk.dirOut && decide (q.delivered < totalElems q.blk) }) d
    if r.blk.dirOut || !decide (r.delivered < totalElems r.blk) then d
    else
      let lo := pkAddr r.blk r.tileBase r.delivered
      let d := forEach (pkTargets d k r) (fun t d =>
        match t with
        | some b =>
          { d with strm.marks := d.strm.marks ++
              [{ lo := b + lo, hi := b + slotEnd r r.delivered, slotKey := k, engine := key % 8 }] }
        | none => d) d
      postLink k key r false d

/-- A request ends: its elements are delivered up to the first that fails, tiles are posted, and a failure terminates the
descriptor. -/
def endRequest (k key : Nat) (r : StrmRun) (q : StrmReq) (e : ReqEnd) (d : Dev) : Dev :=
  let here (p : StrmRun) : Bool := p.reqs.any (fun o => o.id == q.id)
  let rest := r.reqs.filter (fun o => o.id != q.id)
  if r.cancelled && !r.blk.dirOut then updRun key (k % 2) here (fun p => { p with reqs := rest }) d
  else
    let fault : Option (Nat × Nat × Nat) :=
      match e with
      | .failed st a => some (q.first, st, a)
      | .ok _ => requestFault d r q
    let upto := match fault with
      | some f => f.1
      | none => q.first + q.count
    let host : List Byte := match e with
      | .ok bs => bs
      | .failed _ _ => []
    let far : Bool := !r.blk.dirOut && decide (2 ≤ r.blk.patSpace)
    let (cs, fl) := runNum ((upFrom q.first (upto - q.first)).mapM (fun n => do
      let bs ← convElem r.blk (if far then (host.drop ((n - q.first) * r.blk.esize)).take r.blk.esize else srcBytesOf d r n)
      pure (n, bs)))
    let d1 := forEach cs (fun c dd => writeElem d k r c.1 c.2 dd) d
    let arr := addRange q.first (upto - q.first) r.arrived
    let del := prefixLen (arr.length + 1) arr 0
    let r' : StrmRun :=
      { r with
        reqs := rest
        arrived := arr
        delivered := max r.delivered del
        flags := r.flags.or fl
        term := match r.term, fault with
          | some t, _ => some t
          | none, some f => some (f.2.1, f.2.2)
          | none, none => none }
    let d2 := updRun key (k % 2) here (fun _ => r') d1
    let d3 := if r.cancelled then d2 else postTiles k key r' d2
    settleTerm k key r' d3

/-- STREAM_REQUEST_COMPLETE: a stream request returns or finishes writing. `r` says how: the bytes read from the host, an
uncorrectable line, or a failure of the host; a request to another device ends with the transport's answer. -/
def execStreamRequestComplete (x : Site) (engine : Fin 4) (id : Nat) (r : ReqEnd) (s : State) :
    Host.Outcome State Fault Refusal :=
  let d := s.dev
  let key := engKey x.core.val engine.val
  match findRun (fun p => p.reqs.any (fun o => o.id == id)) ((engAt d key).queue x.slot.val) with
  | some p =>
    match p.reqs.find? (fun o => o.id == id) with
    | some q =>
      let e : Option ReqEnd := if p.blk.patSpace == 3 then q.ended else some r
      let n := if !p.blk.dirOut && p.blk.patSpace == 2 then q.count * p.blk.esize else 0
      let ok : Bool := match e, p.blk.patSpace with
        | none, _ => false
        | some _, 3 => true
        | some (.ok bs), _ => bs.length == n
        | some (.failed st _), 2 => st == stBadAddr
        | some (.failed st _), _ => st == stMemUnc
      let d1 := match e, p.blk.patSpace with
        | some (.failed _ _), 3 => d
        | some (.failed st a), _ => if st == stMemUnc && decide (ddrBase ≤ a) then ddrUncorrectable a d else d
        | _, _ => d
      whenDev ok "the request has not ended so" (endRequest (siteKey x) key p q (e.getD (.ok [])) d1) s
    | none => whenDev false "no such request" d s
  | none => whenDev false "no such request" d s

/-! Completion (R181 to R183). -/

/-- The status of a completed descriptor (Table 07-3). -/
def runStatus (r : StrmRun) : Nat :=
  match r.term with
  | some t => t.1
  | none => if r.cancelled then stCancelled else if r.flags == Flags.none then stSuccess else stFlags

/-- The resume index: the counts on success, else the coordinates of the first undelivered element. -/
def resumeIdx (r : StrmRun) : List Nat :=
  if totalElems r.blk ≤ r.delivered then counts r.blk else coords (counts r.blk) r.delivered

/-- The completion record (Table 07-3). -/
def strmRecord (r : StrmRun) : List Nat :=
  let i := resumeIdx r
  let fa := (r.term.map (·.2)).getD 0
  [runStatus r + r.truncated.toNat * 256 + r.resolved.toNat * 512, r.delivered % 2 ^ 32,
   i.getD 0 0 * 65536 + r.delivered / 2 ^ 32, i.getD 2 0 * 65536 + i.getD 1 0, i.getD 4 0 * 65536 + i.getD 3 0,
   r.delivered / tileElems r.blk, fa % 2 ^ 32, fa / 2 ^ 32 % 2 ^ 32]

/-- A descriptor that has nothing left to do. -/
def runDone (r : StrmRun) : Bool :=
  r.reqs.isEmpty && (r.term.isSome || r.cancelled || (r.started && decide (totalElems r.blk ≤ r.delivered)))

/-- A persistent descriptor stays armed when no later descriptor of the slot waits on the engine (R180). -/
def armAfter (r : StrmRun) (rest : List StrmEntry) : Option Armed :=
  if r.blk.persist && !r.cancelled && (lastDesc rest).isNone then
    some { blk := r.blk, tiles := r.tileBase + totalTiles r.blk } else none

/-- What the completion of a descriptor does: cancelled links, the record, the post, the kept status. -/
def finishRun (k key : Nat) (r : StrmRun) (rest : List StrmEntry) (d : Dev) : Dev :=
  let core := k / 2
  let d := if r.cancelled && r.started then resetLinks core r.blk d else d
  let d := if r.blk.cmplEn then wrMem (r.base + r.blk.cmpl) ((strmRecord r).flatMap (leBytes 4)) d else d
  let d := raiseSlot k r.flags d
  let d := keepStatus k (runStatus r) ([r.delivered] ++ resumeIdx r) d
  let d := updEng key (fun st => (st.setQueue (k % 2) rest).setArmed (k % 2) (armAfter r rest)) d
  postOpt core r.q d

/-- STREAM_COMPLETE: the descriptor, or the cancel, at the head of a slot's queue on an engine completes (R181, R189). A
cancel of the Quire path completes when the slot's earlier transfers have. -/
def execStreamComplete (x : Site) (engine : Fin 5) (s : State) : Host.Outcome State Fault Refusal :=
  let d := s.dev
  let core := x.core.val
  let sl := x.slot.val
  if engine.val == 4 then
    match (quireAt d core).cancels.find? (fun c => c.1 == sl) with
    | some c =>
      whenDev ((quireAt d core).ops.all (fun o => !(o.slot == sl && decide (o.id < c.2.1)))) "a transfer is outstanding"
        (postOpt core c.2.2 (updQuire core (fun q => { q with cancels := q.cancels.filter (fun e => e != c) }) d)) s
    | none => whenDev false "no cancel waits" d s
  else
    let key := engKey core engine.val
    match (engAt d key).queue sl with
    | .desc r :: rest => whenDev (runDone r) "the descriptor is not done" (finishRun (siteKey x) key r rest d) s
    | .cancel q :: rest => whenDev true "" (postOpt core q (updEng key (fun st => st.setQueue sl rest) d)) s
    | [] => whenDev false "the queue is empty" d s

/-- CANCEL_ABANDON: requests of a cancelled descriptor that have not returned within 4,000 ACLK are abandoned (R189). -/
def execCancelAbandon (x : Site) (engine : Fin 5) (s : State) : Host.Outcome State Fault Refusal :=
  let d := s.dev
  let key := engKey x.core.val engine.val
  match (engAt d key).queue x.slot.val with
  | .desc r :: _ =>
    whenDev (decide (engine.val < 4) && r.cancelled && !r.reqs.isEmpty && decide (r.cancelAt + 4000 ≤ d.aclk)) "nothing to abandon"
      (updRun key x.slot.val (fun q => q.cancelled) (fun q => { q with reqs := [] }) d) s
  | _ => whenDev false "nothing to abandon" d s

/-! Host pages (R191 to R193, R362). -/

/-- Page requests of a function that are sent and unanswered. -/
def sentPages (d : Dev) (fn : Nat) : List PageReq := d.strm.pages.filter (fun p => p.fn == fn && p.sent)

/-- Send waiting page requests in fault order as far as the function's allocation allows (R362). -/
def sendPages (fn : Nat) : Nat → Dev → Dev
  | 0, d => d
  | fuel + 1, d =>
    if tget 0 d.strm.priAlloc fn ≤ (sentPages d fn).length then d
    else
      match d.strm.pages.find? (fun p => p.fn == fn && !p.sent) with
      | some p =>
        let same (o : PageReq) : Bool := o.fn == fn && o.page == p.page
        let d := emit (.pageRequest fn p.page) d
        sendPages fn fuel { d with strm.pages := d.strm.pages.map (fun o => if same o then { o with sent := true } else o) }
      | none => d

/-- A new page fault of some work: it joins the waiting requests; a page already requested is not requested again. -/
def addPage (fn page : Nat) (u : PageUser) (d : Dev) : Dev :=
  let dup := d.strm.pages.any (fun p => p.fn == fn && p.page == page && p.sent)
  let d := { d with strm.pages := d.strm.pages ++ [{ fn := fn, page := page, user := u, sent := dup, dead := false }] }
  sendPages fn d.strm.pages.length d

/-- Resume a stream after its page has become present (R192). -/
def resumeRun (r : StrmRun) : StrmRun :=
  if r.blk.dirOut then { r with suspended := none, resolved := true, next := r.delivered }
  else
    let t := r.delivered / tileElems r.blk * tileElems r.blk
    { r with suspended := none, resolved := true, next := t, arrived := [(0, t)] }

/-- Fail a stream whose page request failed (R193). -/
def failRun (page : Nat) (r : StrmRun) : StrmRun := { r with suspended := none, term := some (stPageFault, page) }

/-- A stream's page request is answered. -/
def answerStream (ok : Bool) (core e slot page : Nat) (d : Dev) : Dev :=
  let key := engKey core e
  let p (r : StrmRun) : Bool := r.suspended == some page
  let d := updRun key slot p (fun r => if ok then resumeRun r else failRun page r) d
  match findRun (fun r => r.term.isSome && !r.settled) ((engAt d key).queue slot) with
  | some r => settleTerm (slotKey core slot) key r d
  | none => d

end Sys2Proof.Machine
end

