-- ==== Sys2Proof/Machine/Quire.lean ====
section
/-! DEFINITION. The Quire path (R186, R187, R495): COPY and SIGNAL. -/

namespace Sys2Proof.Machine

def quireParse (ws : List Nat) : QuireBlk :=
  let w (i : Nat) : Nat := ws.getD i 0
  { src := w 0 + w 1 * 2 ^ 32
    dst := w 2 + w 3 * 2 ^ 32
    srcSpace := fld (w 4) 30 2
    dstSpace := fld (w 4) 28 2
    signal := bitAt (w 4) 27
    waitEn := bitAt (w 4) 26
    waitQ := fld (w 4) 20 6
    waitCount := fld (w 4) 12 8
    size := fld (w 4) 0 9
    srcDev := fld (w 5) 16 16
    dstDev := fld (w 5) 0 16
    postQ := fld (w 6) 26 6
    postCore := fld (w 6) 21 5
    postEn := bitAt (w 6) 20
    count := fld (w 6) 0 12 }

def quireRsvdOk (ws : List Nat) : Bool :=
  fld (ws.getD 4 0) 9 3 == 0 && fld (ws.getD 6 0) 12 8 == 0 && ws.getD 7 0 == 0

/-- A side of n bytes crosses no 4 KiB boundary. -/
def noCross (a n : Nat) : Bool := a / 4096 == (a + n - 1) / 4096

/-- An address fits its space (Table 07-1). -/
def spaceAddrOk (space a : Nat) : Bool := space == 2 || decide (a < 2 ^ 48)

/-- The fields of either op (R186). -/
def quireCommonOk (b : QuireBlk) : Bool :=
  (if b.waitEn then b.waitCount != 0 else b.waitQ == 0 && b.waitCount == 0) && (b.dstSpace == 3 || b.dstDev == 0) &&
  (b.srcSpace == 3 || b.srcDev == 0) && (b.dstSpace != 0 || b.postCore == 0)

def quireCopyOk (b : QuireBlk) : Bool :=
  within 1 256 b.size && b.count == 0 && noCross b.src b.size && noCross b.dst b.size && spaceAddrOk b.srcSpace b.src &&
  spaceAddrOk b.dstSpace b.dst && (b.postEn || (b.postQ == 0 && b.postCore == 0))

def quireSignalOk (b : QuireBlk) : Bool :=
  b.src == 0 && b.srcSpace == 0 && b.srcDev == 0 && b.dst == 0 && b.size == 0 && b.postEn && b.dstSpace != 2 &&
  within 1 2047 b.count

/-- The core of the semaphore a transfer posts; none on another device. -/
def quirePostCore (core : Nat) (b : QuireBlk) : Option Nat :=
  if b.dstSpace == 3 then none else if b.dstSpace == 0 then some core else some b.postCore

/-- Semaphores of the issuing core lie in the slot's mask (R140, R173). -/
def quireSemsOk (sl : SlotSt) (core : Nat) (b : QuireBlk) : Bool :=
  (!b.waitEn || semOk sl b.waitQ) && (!b.postEn || quirePostCore core b != some core || semOk sl b.postQ)

def quireRanges (b : QuireBlk) : List Rng :=
  if b.signal then []
  else (if b.srcSpace == 0 then [rd b.src b.size] else []) ++ (if b.dstSpace == 0 then [wr b.dst b.size] else [])

/-- What a transfer asks of another device when it starts. -/
def quireStart (k : Nat) (o : QuireOp) (d : Dev) : Dev :=
  let b := o.blk
  if b.signal && b.dstSpace == 3 then sendRemote k b.dstDev (.signal b.postCore b.postQ b.count) (.quire (k / 2) o.id) d
  else if !b.signal && b.srcSpace == 3 then sendRemote k b.srcDev (.get b.src b.size) (.quire (k / 2) o.id) d
  else d

/-- Queue a transfer, or find 64 outstanding ones on the core, or 32 of the slot's beside a Live program (R149, R184,
R186). One without a wait starts at once. -/
def quireQueue (x : Site) (f : FmtU) (b : QuireBlk) (d : Dev) : Issued :=
  let core := x.core.val
  let k := siteKey x
  let ops := (quireAt d core).ops
  let mine := (ops.filter (fun o => o.slot == x.slot.val)).length
  if decide (64 ≤ ops.length) || (liveSlot d core (1 - x.slot.val) && !liveSlot d core x.slot.val && decide (32 ≤ mine)) then .full
  else
    let o : QuireOp :=
      { id := d.nextId, slot := x.slot.val, q := qOpt f, blk := b, base := winBase d k, winSize := (slotAt d k).winSize,
        ident := (slotAt d k).ident, started := !b.waitEn }
    let d := updQuire core (fun q => { q with ops := q.ops ++ [o] }) { d with nextId := d.nextId + 1 }
    .done (if b.waitEn then d else quireStart k o d)

/-- The issue of a Quire block; `signal` names the row. -/
def quireBody (x : Site) (f : FmtU) (ws : List Nat) (d : Dev) : Issued :=
  let sl := slotAt d (siteKey x)
  let b := quireParse ws
  vet sl (quireRsvdOk ws && quireCommonOk b && (if b.signal then quireSignalOk b else quireCopyOk b) && quireSemsOk sl x.core.val b)
    (quireRanges b) [] (quireQueue x f b d)

/-- QUIRE_COPY: STRM.GO on engine 4 whose block names a COPY (R186). -/
def execQuireCopy (x : Site) (f : FmtU) (s : State) : Host.Outcome State Fault Refusal :=
  issue x f.g (wordU 0x60 f) (uOk s.dev x f (f.sel == 4)) (withBlock x f 8 (fun ws d => quireBody x f ws d)) s

/-- QUIRE_SIGNAL: STRM.GO on engine 4 whose block names a SIGNAL (R186). -/
def execQuireSignal (x : Site) (f : FmtU) (s : State) : Host.Outcome State Fault Refusal :=
  issue x f.g (wordU 0x60 f) (uOk s.dev x f (f.sel == 4)) (withBlock x f 8 (quireBody x f)) s

/-- QUIRE_WAIT_GRANT: a transfer's wait decrement is granted and it starts (R154, R186). -/
def execQuireWaitGrant (core : Fin 32) (id : Nat) (s : State) : Host.Outcome State Fault Refusal :=
  let d := s.dev
  let c := core.val
  match (quireAt d c).ops.find? (fun o => o.id == id) with
  | some o =>
    whenDev (!o.started && grantable d c o.blk.waitQ o.blk.waitCount 5) "the decrement is not granted"
      (quireStart (slotKey c o.slot) o
        (semTake c o.blk.waitQ o.blk.waitCount
          (updQuire c (fun q => { q with ops := q.ops.map (fun p => if p.id == id then { p with started := true } else p) }) d))) s
  | none => whenDev false "no such transfer" d s

/-! Completion (R187, R495). -/

/-- Where a transfer writes: a core, another device, the host, or device memory. -/
def quireDest (core : Nat) (b : QuireBlk) : Nat × Nat :=
  match b.dstSpace with
  | 0 => (0, core)
  | 3 => (3, b.dstDev)
  | 2 => (2, 0)
  | _ => if b.signal then (0, b.postCore) else if b.dst < 0x20000000 then (0, b.dst / 0x1000000) else (1, 0)

/-- Earlier copies of the slot to the same destination have been written, where this transfer posts or one of them waits
for a page (R186, R187). -/
def quireOrdered (core : Nat) (ops : List QuireOp) (o : QuireOp) : Bool :=
  ops.all (fun p =>
    !(decide (p.id < o.id) && p.slot == o.slot && !p.blk.signal && quireDest core p.blk == quireDest core o.blk &&
      (o.blk.signal || o.blk.postEn || p.page.isSome)))

def quireAddr (o : QuireOp) (space a : Nat) : Nat := if space == 0 then o.base + a else a

/-- A copy to a command port: the range, its size, the ports' own rows (R495). -/
def isEntPort (b : QuireBlk) : Bool := b.dstSpace == 1 && b.dst == dispatchPort && b.size == 32
def isRecvPort (core : Nat) (b : QuireBlk) : Bool := b.dstSpace == 1 && b.dst == recvPort core && b.size == 32
def entWindow (d : Dev) (k : Nat) (b : QuireBlk) : Option (Nat × Nat) := if b.dstSpace == 1 then commandPort d k b.dst b.size else none
def isCollPort (b : QuireBlk) : Bool := b.dstSpace == 1 && b.dst == collPort && b.size == 64

/-- Why a COPY cannot read its source or write its destination: a status and the address (R174, R193, R399). -/
def quireFault (d : Dev) (k : Nat) (o : QuireOp) : Option (Nat × Nat) :=
  let b := o.blk
  let s := quireAddr o b.srcSpace b.src
  let t := quireAddr o b.dstSpace b.dst
  let port := isEntPort b || (entWindow d k b).isSome || isRecvPort (k / 2) b || isCollPort b
  if b.srcSpace == 1 && !devReach d k b.src b.size false then some (stBadAddr, b.src)
  else if b.dstSpace == 1 && !port && !devReach d k b.dst b.size true then some (stBadAddr, b.dst)
  else if b.postEn && (match quirePostCore (k / 2) b with | some c => !semReach d k c b.postQ | none => false) then
    some (stBadAddr, b.postQ)
  else if decide (b.srcSpace < 2) && markedRange d s b.size then some (stPageFault, s)
  else
    match (if b.srcSpace < 2 then poisonIn d s b.size else none), (if b.dstSpace < 2 then poisonPartial d t b.size else none) with
    | some a, _ => some (stMemUnc, a)
    | none, some a => some (stMemUnc, a)
    | none, none => none

/-- Remove a transfer, keep its status and post its q. -/
def quireEnd (k st addr : Nat) (o : QuireOp) (d : Dev) : Dev :=
  let d := updQuire (k / 2) (fun q => { q with ops := q.ops.filter (fun p => p.id != o.id) }) d
  postOpt (k / 2) o.q (keepStatus k st [addr] d)

/-- The post of a COPY or the effect of a SIGNAL on this device; a COPY's post on another device is a SIGNAL to it. -/
def quirePost (k : Nat) (b : QuireBlk) (d : Dev) : Dev :=
  if !b.postEn then d
  else
    match quirePostCore (k / 2) b with
    | some c => semPost c b.postQ (if b.signal then b.count else 1) d
    | none => if b.signal then d else sendRemote k b.dstDev (.signal b.postCore b.postQ 1) (.post 4) d

/-- The bytes of the source, where it can give them now. -/
def quireData (d : Dev) (o : QuireOp) (r : ReqEnd) : Option ReqEnd :=
  match o.blk.srcSpace with
  | 2 =>
    match r with
    | .ok bs => if bs.length == o.blk.size then some r else none
    | .failed st _ => if st == stBadAddr then some r else none
  | 3 => o.ended
  | _ =>
    match r with
    | .ok _ => some (.ok (rdMem d (quireAddr o o.blk.srcSpace o.blk.src) o.blk.size))
    | .failed st _ => if st == stMemUnc then some r else none

/-- Write a COPY's bytes at a destination on this device or in host memory. -/
def quireWrite (k : Nat) (o : QuireOp) (bs : List Byte) (d : Dev) : Dev :=
  if o.blk.dstSpace == 2 then emit (.hostWrite (slotAt d k).fn o.blk.dst bs) d
  else if isEntPort o.blk then dispatchOpen k bs d
  else
    match entWindow d k o.blk with
    | some w => queueCommand w.1 w.2 bs d
    | none => devWrite (quireAddr o o.blk.dstSpace o.blk.dst) bs d

/-- A COPY whose source has been read: to this device or the host it is written and completes; to another device the
write is sent and the transfer waits for the answer. -/
def quireCopyData (k : Nat) (o : QuireOp) (e : ReqEnd) (d : Dev) : Dev :=
  match e with
  | .failed st a =>
    let d := if o.blk.srcSpace < 2 && st == stMemUnc && decide (ddrBase ≤ a) then ddrUncorrectable a d else d
    quireEnd k st a o d
  | .ok bs =>
    match if isEntPort o.blk && !openSemsOk d k bs then some (stBadAddr, dispatchPort) else quireFault d k o with
    | some f => quireEnd k f.1 f.2 o d
    | none =>
      if o.blk.dstSpace == 3 then
        let d := updQuire (k / 2) (fun q => { q with ops := q.ops.map (fun p =>
          if p.id == o.id then { p with data := some bs, ended := none } else p) }) d
        sendRemote k o.blk.dstDev (.put o.blk.dst bs) (.quire (k / 2) o.id) d
      else quireEnd k stSuccess 0 o (quirePost k o.blk (quireWrite k o bs d))

/-- A SIGNAL on this device (R174, R187). -/
def quireSignalHere (k : Nat) (o : QuireOp) (d : Dev) : Dev :=
  match quirePostCore (k / 2) o.blk with
  | some c => if semReach d k c o.blk.postQ then quireEnd k stSuccess 0 o (quirePost k o.blk d) else quireEnd k stBadAddr 0 o d
  | none => d

/-- The answer of another device to a write or a SIGNAL. -/
def quireAnswer (k : Nat) (o : QuireOp) (e : ReqEnd) (d : Dev) : Dev :=
  match e with
  | .ok _ => quireEnd k stSuccess 0 o (quirePost k o.blk d)
  | .failed st a => quireEnd k st a o d

/-- QUIRE_COMPLETE: a COPY or SIGNAL takes effect and completes. `r` gives the bytes of a host source, or an error of the
source; copies to the receive-window and collective ports complete by the rows of those commands. -/
def execQuireComplete (core : Fin 32) (id : Nat) (r : ReqEnd) (s : State) : Host.Outcome State Fault Refusal :=
  let d := s.dev
  let c := core.val
  match (quireAt d c).ops.find? (fun o => o.id == id) with
  | some o =>
    let k := slotKey c o.slot
    let ready : Bool := o.started && o.page.isNone && quireOrdered c (quireAt d c).ops o
    if o.blk.signal then
      if o.blk.dstSpace == 3 then
        match o.ended with
        | some e => whenDev ready "the transfer waits" (quireAnswer k o e d) s
        | none => whenDev false "no answer has come" d s
      else whenDev ready "the transfer waits" (quireSignalHere k o d) s
    else if o.data.isSome then
      match o.ended with
      | some e => whenDev ready "the transfer waits" (quireAnswer k o e d) s
      | none => whenDev false "no answer has come" d s
    else
      match quireData d o r with
      | some e =>
        whenDev (ready && !isRecvPort c o.blk && !isCollPort o.blk) "the transfer waits" (quireCopyData k o e d) s
      | none => whenDev false "the source has not ended so" d s
  | none => whenDev false "no such transfer" d s

end Sys2Proof.Machine
end

