-- ==== Sys2Proof/Machine/Waits.lean ====
section
/-! DEFINITION. Semaphore, time, fence and stream waits, HALT, the watchdog and the launch of programs (R134, R150 to
R156, R160, R162 to R166, R188). -/

namespace Sys2Proof.Machine

/-- An instruction that held the slot's issue retires. -/
def releaseHold (k : Nat) (d : Dev) : Dev := retireAt k (nextPc d k) d

/-- SEM.POST: count is signed; a negative post below 0 is the semaphore underflow (R153). -/
def execSemPost (x : Site) (f : FmtS) (s : State) : Host.Outcome State Fault Refusal :=
  issue x f.g (wordS 0x68 f) (f.rsvd == 0 && semOk (slotAt s.dev (siteKey x)) f.q.toNat)
    (fun d =>
      let c := f.count.toInt
      let core := x.core.val
      let q := f.q.toNat
      let v := semGet d core q
      if 0 ≤ c then .done (semPost core q c.toNat d)
      else if v < (-c).toNat then .exc 4 (q * 65536 + v) else .done (semSet core q (v - (-c).toNat) d)) s

/-- SEM.WAIT: issue holds until the decrement is granted (R153); count must not be 0 (R142). -/
def execSemWait (x : Site) (f : FmtS) (s : State) : Host.Outcome State Fault Refusal :=
  issue x f.g (wordS 0x69 f) (f.rsvd == 0 && f.count != 0 && semOk (slotAt s.dev (siteKey x)) f.q.toNat)
    (fun d => .wait (.semWait f.q.toNat f.count.toNat) d) s

/-- SEM_WAIT_GRANT: q decreases by count and the SEM.WAIT retires (R153, R154). -/
def execSemWaitGrant (x : Site) (s : State) : Host.Outcome State Fault Refusal :=
  let d := s.dev
  let k := siteKey x
  match (slotAt d k).hold with
  | .semWait q n =>
    whenDev (isRunning d k && grantable d x.core.val q n 0) "the decrement is not granted"
      (releaseHold k (semTake x.core.val q n d)) s
  | _ => whenDev false "the slot does not wait on a semaphore" d s

/-- The instant that TIME.WAIT reads: s[rs + 1] above s[rs]. -/
def waitInstant (sl : SlotSt) (rs : BitVec 5) : Nat := (getS sl rs).toNat + (getS sl (rs + 1)).toNat * 2 ^ 32

/-- TIME.WAIT (R156). -/
def execTimeWait (x : Site) (f : FmtT) (s : State) : Host.Outcome State Fault Refusal :=
  issue x f.g (wordT 0x70 f) (f.rsvd == 0 && f.rs.toNat % 2 == 0)
    (fun d =>
      let k := siteKey x
      let t := waitInstant (slotAt d k) f.rs
      let now := nowNs d
      if now + 2 ^ 40 < t then .exc 1 0
      else if t ≤ now then .done (updSlot k (setP f.pd.toNat false) d)
      else .wait (.timeWait t) (updSlot k (setP f.pd.toNat true) d)) s

/-- TIME_WAIT_END: Fabric Time is at or after T (R156). -/
def execTimeWaitEnd (x : Site) (s : State) : Host.Outcome State Fault Refusal :=
  let d := s.dev
  let k := siteKey x
  match (slotAt d k).hold with
  | .timeWait t => whenDev (isRunning d k && decide (t ≤ nowNs d)) "the instant has not come" (releaseHold k d) s
  | _ => whenDev false "the slot does not wait on time" d s

/-! FENCE, STRM.WAIT and HALT. -/

/-- No loom work of a slot is queued, being filled or in flight. -/
def loomClear (d : Dev) (core l slot : Nat) : Bool :=
  let st := loomAt d (2 * core + l)
  (st.queue slot).isEmpty && (match st.fill with | some f => f.1.slot != slot || f.2 | none => true) &&
  st.flights.all (fun f => f.op.slot != slot)

/-- A pass has Sizing work: a conversion on its load side or a store side. -/
def passSizes (o : PassOp) : Bool := o.blk.fmtKind || o.store.isSome

/-- No pass with Sizing work of a slot is queued or in flight on a loom. -/
def loomSizingClear (d : Dev) (core l slot : Nat) : Bool :=
  let st := loomAt d (2 * core + l)
  (st.queue slot).all (fun o => match o with | .pass p => !passSizes p | .load _ => true) &&
  st.flights.all (fun f => f.op.slot != slot || !passSizes f.op)

def unitClear (d : Dev) (core v slot : Nat) : Bool :=
  let u := unitAt d (2 * core + v)
  (u.queue slot).isEmpty && u.begun.all (fun o => o.slot != slot)

/-- Every instruction of a slot on stream engine e, or on the Quire path (4), has completed. -/
def strmClear (d : Dev) (core e slot : Nat) : Bool :=
  if e == 4 then
    (quireAt d core).ops.all (fun o => o.slot != slot) && (quireAt d core).cancels.all (fun c => c.1 != slot)
  else ((engAt d (engKey core e)).queue slot).isEmpty

/-- The queue that bit b of a FENCE mask names is clear (R151). -/
def queueClear (d : Dev) (core slot b : Nat) : Bool :=
  match b with
  | 0 => loomClear d core 0 slot
  | 1 => loomClear d core 1 slot
  | 2 => unitClear d core 0 slot && loomSizingClear d core 0 slot && loomSizingClear d core 1 slot
  | 3 => unitClear d core 1 slot
  | _ => strmClear d core (b - 4) slot

/-- Every queue that a FENCE names is clear; mask 0 names all. -/
def fenceClear (d : Dev) (core slot mask : Nat) : Bool :=
  (upFrom 0 9).all (fun b => (mask != 0 && !bitAt mask b) || queueClear d core slot b)

/-- FENCE (R151). -/
def execFence (x : Site) (f : FmtF) (s : State) : Host.Outcome State Fault Refusal :=
  issue x f.g (wordF 0x78 f) (f.rsvd == 0 && decide (f.mask.toNat < 512)) (fun d => .wait (.fence f.mask) d) s

/-- FENCE_RELEASE. -/
def execFenceRelease (x : Site) (s : State) : Host.Outcome State Fault Refusal :=
  let d := s.dev
  let k := siteKey x
  match (slotAt d k).hold with
  | .fence m => whenDev (isRunning d k && fenceClear d x.core.val x.slot.val m.toNat) "work is outstanding" (releaseHold k d) s
  | _ => whenDev false "the slot does not wait on a FENCE" d s

/-- STRM.WAIT (R188): q_en, ra and off must be 0 (R145). -/
def execStrmWait (x : Site) (f : FmtU) (s : State) : Host.Outcome State Fault Refusal :=
  issue x f.g (wordU 0x61 f) (uOk s.dev x f (decide (f.sel.toNat < 5)) && f.qEn == 0 && f.ra == 0 && f.off == 0)
    (fun d => .wait (.strmWait f.sel.toNat) d) s

/-- STRM_WAIT_RELEASE. -/
def execStrmWaitRelease (x : Site) (s : State) : Host.Outcome State Fault Refusal :=
  let d := s.dev
  let k := siteKey x
  match (slotAt d k).hold with
  | .strmWait e => whenDev (isRunning d k && strmClear d x.core.val e x.slot.val) "a descriptor is outstanding" (releaseHold k d) s
  | _ => whenDev false "the slot does not wait on an engine" d s

/-- HALT (R162): issue holds until everything has completed. -/
def execHalt (x : Site) (f : FmtN) (s : State) : Host.Outcome State Fault Refusal :=
  issue x f.g (wordN 0x7F f) (f.rsvd == 0) (fun d => .wait .halt d) s

/-- End the persistence of a slot's armed descriptors (R180). -/
def disarm (core slot : Nat) (d : Dev) : Dev :=
  forEach [0, 1, 2, 3] (fun e => updEng (engKey core e) (fun st => st.setArmed slot none)) d

/-- HALT_COMPLETE: the slot moves to HALTED and the scheduler firmware completes its work (R162, R53, R183). -/
def execHaltComplete (x : Site) (s : State) : Host.Outcome State Fault Refusal :=
  let d := s.dev
  let k := siteKey x
  whenDev (isRunning d k && (slotAt d k).hold == .halt && fenceClear d x.core.val x.slot.val 0) "the slot's work has not ended"
    (haltWork k (disarm x.core.val x.slot.val (updSlot k (fun sl => { sl with phase := .halted, hold := .none, wdCount := 0 }) d))) s

/-! The watchdog (R160). -/

/-- The hold kind of Table 06-14. -/
def holdKind : Hold → Nat
  | .semWait _ _ => 1
  | .lineWait _ _ _ _ => 2
  | .fullQueue => 3
  | .fence _ => 4
  | .strmWait _ => 5
  | .halt => 6
  | _ => 0

/-- WATCHDOG_EXPIRY: the slot has retired nothing for 2^wd_exp ACLK (R160): the event, and the stop with cause 5. -/
def execWatchdogExpiry (x : Site) (s : State) : Host.Outcome State Fault Refusal :=
  let d := s.dev
  let k := siteKey x
  let sl := slotAt d k
  whenDev (isRunning d k && decide (2 ^ sl.wdExp ≤ sl.wdCount)) "the watchdog has not reached its count"
    (stopSlot k 5 (headWord d k) (holdKind sl.hold) (raiseEvent 0x0E 1 k [sl.ident.toNat, sl.pc.toNat] d)) s

/-! Launch (R163 to R166). -/

/-- The header of a program image (Table 06-15). -/
structure ImgHdr where
  magic : Nat
  version : Nat
  flags : Nat
  entry : Nat
  codeSize : Nat
  dataOffset : Nat
  dataSize : Nat
  windowSize : Nat
  wdExp : Nat
  portCount : Nat
  fixupCount : Nat
  semMask : Nat
  codePtr : Nat
  dataPtr : Nat
  fixupPtr : Nat
  rsvd : Nat
  deriving DecidableEq, Repr

/-- n bytes of an image as a number. -/
def imgNat (img : List Byte) (a n : Nat) : Nat := leNat ((img.drop a).take n)

def imgHdr (img : List Byte) : ImgHdr :=
  { magic := imgNat img 0x00 4
    version := imgNat img 0x04 2
    flags := imgNat img 0x06 2
    entry := imgNat img 0x08 4
    codeSize := imgNat img 0x0C 4
    dataOffset := imgNat img 0x10 4
    dataSize := imgNat img 0x14 4
    windowSize := imgNat img 0x18 4
    wdExp := imgNat img 0x1C 1
    portCount := imgNat img 0x1D 1
    fixupCount := imgNat img 0x1E 2
    semMask := imgNat img 0x20 8
    codePtr := imgNat img 0x28 4
    dataPtr := imgNat img 0x2C 4
    fixupPtr := imgNat img 0x30 4
    rsvd := imgNat img 0x34 12 }

/-- A width fixup (R164). -/
structure Fixup where
  offset : Nat
  kind : Nat
  loom : Nat
  rsvd : Nat
  nTotal : Nat
  deriving DecidableEq, Repr

def fixupAt (img : List Byte) (h : ImgHdr) (i : Nat) : Fixup :=
  let a := h.fixupPtr + 16 * i
  { offset := imgNat img a 4, kind := imgNat img (a + 4) 1, loom := imgNat img (a + 5) 1,
    rsvd := imgNat img (a + 6) 2 + imgNat img (a + 12) 4, nTotal := imgNat img (a + 8) 4 }

def fixups (img : List Byte) (h : ImgHdr) : List Fixup := (upFrom 0 h.fixupCount).map (fixupAt img h)

/-- A fixup lies in the data region at a multiple of 4, with a defined kind and loom. -/
def fixupOk (h : ImgHdr) (f : Fixup) : Bool :=
  f.offset % 4 == 0 && decide (h.dataOffset ≤ f.offset) && decide (f.offset + 4 ≤ h.dataOffset + h.dataSize) &&
  decide (f.kind ≤ 2) && decide (f.loom ≤ 1) && f.rsvd == 0

/-- The rules of Table 06-15 and R164; code, data and fixups lie inside the image. -/
def imgOk (img : List Byte) (h : ImgHdr) : Bool :=
  decide (64 ≤ img.length) && h.magic == 0x47505A55 && h.version == 1 && decide (fld h.flags 0 2 < 2) && fld h.flags 3 13 == 0 &&
  h.entry % 8 == 0 && decide (h.entry < h.codeSize) && h.codeSize % 8 == 0 && decide (8 ≤ h.codeSize) &&
  h.dataOffset % 64 == 0 && decide (h.codeSize ≤ h.dataOffset) && decide (h.dataOffset + h.dataSize ≤ h.windowSize) &&
  h.windowSize % 65536 == 0 && within 65536 0x1000000 h.windowSize && within 16 31 h.wdExp && decide (h.portCount ≤ 4) &&
  decide (h.fixupCount ≤ 4096) && h.rsvd == 0 && decide (h.codePtr + h.codeSize ≤ img.length) &&
  decide (h.dataPtr + h.dataSize ≤ img.length) && decide (h.fixupPtr + 16 * h.fixupCount ≤ img.length) &&
  (fixups img h).all (fixupOk h)

/-- Every static scale of the program's bundle is positive and finite (R90). -/
def scalesOk (l : List (BitVec 16)) : Bool :=
  l.all (fun c => xrIsFin (valBf16 c.toNat) && !xrIsZero (valBf16 c.toNat) && !xrSign (valBf16 c.toNat))

/-- The loader accepts a launch: its image keeps the rules, and its bundle's static scales do. -/
def launchOk (r : LaunchReq) : Bool := imgOk r.image (imgHdr r.image) && scalesOk r.scales

/-- The value a fixup writes for presented width w. -/
def fixupVal (w : Nat) (f : Fixup) : Nat :=
  match f.kind with
  | 0 => w
  | 1 => ceilDiv f.nTotal w
  | _ => f.nTotal - (ceilDiv f.nTotal w - 1) * w

/-- Launch arguments in the first registers; every other register is 0 (R139). -/
def argTbl {w : Nat} (l : List (BitVec w)) : Tbl (BitVec w) := tsetRun 0 [] 0 l

/-- Clear the semaphores of a mask and their overflow bits (R155). -/
def clearSems (core : Nat) (mask : W64) (d : Dev) : Dev :=
  let d := { d with core.sems := tclear d.core.sems (fun k => k / 64 == core && mask.getLsbD (k % 64)) }
  { d with core.semovf := tmod 0 d.core.semovf core (fun b => b &&& ~~~mask) }

/-- The state of a slot right after its launch (R139, R165). -/
def launched (d : Dev) (r : LaunchReq) (h : ImgHdr) : SlotSt :=
  { phase := .running
    s := argTbl (r.sArgs.take 8)
    a := argTbl (r.aArgs.take 4)
    pc := BitVec.ofNat 24 h.entry
    rnd := BitVec.ofNat 2 (fld h.flags 0 2)
    wdExp := h.wdExp
    csBase := r.csBase.toNat
    winSize := h.windowSize
    codeSize := h.codeSize
    semMask := BitVec.ofNat 64 h.semMask
    live := r.live
    ident := r.ident
    ports := r.ports.map (·.val)
    launchAclk := d.aclk
    fn := r.fn.val }

/-- A loom forgets the warps of a slot's earlier program. -/
def forgetSlot (slot : Nat) (l : LoomSt) : LoomSt :=
  if slot == 0 then { l with lost0 := false, lastLoad0 := none } else { l with lost1 := false, lastLoad1 := none }

/-- Steps 1 to 8 of R165. -/
def launchSlot (k : Nat) (r : LaunchReq) (h : ImgHdr) (d : Dev) : Dev :=
  let core := k / 2
  let base := 0x1000000 * core + r.csBase.toNat
  let d := zeroMem base h.windowSize d
  let d := { d with strm.marks := d.strm.marks.filter (fun m => m.slotKey != k), strm.kept := tset [] d.strm.kept k [], felt.grants := tset 0 d.felt.grants k 0 }
  let d := wrMem base ((r.image.drop h.codePtr).take h.codeSize) d
  let d := wrMem (base + h.dataOffset) ((r.image.drop h.dataPtr).take h.dataSize) d
  let d := forEach (fixups r.image h) (fun f d => wrMem (base + f.offset) (leBytes 4 (fixupVal (loomWidth d core f.loom) f)) d) d
  let d := clearSems core (BitVec.ofNat 64 h.semMask) d
  let sl := launched d r h
  let d := forEach [0, 1] (fun l => updLoom (2 * core + l) (forgetSlot (k % 2))) d
  updSlot k (fun _ => sl) d

/-- Two windows of one core do not overlap. -/
def disjointWin (a n b m : Nat) : Bool := decide (a + n ≤ b) || decide (b + m ≤ a)

/-- What the scheduler firmware ensures of a launch (R81, R134, R137, R140, R166): an IDLE slot, a window on a 64 KiB
boundary inside core store apart from the other slot's, no semaphore of a running neighbour, no second Live program on
the core, live_ok for a Live session, and at most the ports the image declares. -/
def launchFits (d : Dev) (k : Nat) (r : LaunchReq) (h : ImgHdr) : Bool :=
  let o := slotAt d (k + 1 - 2 * (k % 2))
  let busy : Bool := o.phase != .idle
  r.csBase.toNat % 65536 == 0 && decide (r.csBase.toNat + h.windowSize ≤ 0x1000000) &&
  (!busy || (disjointWin r.csBase.toNat h.windowSize o.csBase o.winSize && (o.semMask &&& BitVec.ofNat 64 h.semMask) == 0)) &&
  (!r.live || (bitAt h.flags 2 && !(busy && o.live))) && decide (r.ports.length ≤ h.portCount)

/-- Launch argument i of s or of a, 0 where the launch gives none. -/
def sArg (r : LaunchReq) (i : Nat) : Nat := (r.sArgs.getD i 0).toNat
def aArg (r : LaunchReq) (i : Nat) : Nat := (r.aArgs.getD i 0).toNat

/-- The launch serves a session whose frames run, or a running job, and its arguments are those of R275: bundle, context, ID or
tag, the Vat area of a Live session, and a job's own from its record (R371). -/
def launchArgsOk (d : Dev) (r : LaunchReq) : Bool :=
  let i := r.ident.toNat
  if 65536 ≤ i then
    match sessAt d (i - 65536) with
    | some x =>
      (x.phase == .active || x.phase == .draining) && r.fn == 1 && r.live == (x.cls == 0) && sArg r 0 == i - 65536 && aArg r 1 == x.ctx &&
      (match bundleAt d x.bundle with | some b => aArg r 0 == b.lo | none => false) &&
      (!r.live || (match x.port with
        | some n => (match tget none d.live.ports n with | some p => aArg r 3 == p.areaBase | none => false)
        | none => false))
    | none => false
  else
    match d.host.jobs.find? (fun j => j.running && j.tag == i) with
    | some j =>
      r.fn == 2 && !r.live && sArg r 0 == i && (match bundleAt d j.bundle with | some b => aArg r 0 == b.lo | none => false) &&
      (upFrom 0 5).all (fun k => sArg r (3 + k) == bytesNat j.args (4 * k) 4) && aArg r 2 == bytesNat j.args 0x18 8 && aArg r 3 == bytesNat j.args 0x20 8
    | none => false

/-- PROGRAM_LAUNCH: a header or a static scale that breaks a rule completes the launch with INVALID_DESCRIPTOR and changes nothing
else (R35, R90, R166). -/
def execProgramLaunch (x : Site) (r : LaunchReq) (s : State) : Host.Outcome State Fault Refusal :=
  let d := s.dev
  let k := siteKey x
  let h := imgHdr r.image
  let ok := launchOk r
  whenDev ((slotAt d k).phase == .idle && (!ok || (launchFits d k r h && launchArgsOk d r && !(d.pwr.gated ++ d.pwr.chosen).contains (k / 2))) && schedulerUp d) "the scheduler firmware launches nothing here"
    (if ok then launchSlot k r h d else launchRefused r.fn.val r.ident d) s

/-- SLOT_RETURN_IDLE: the scheduler firmware returns a HALTED or STOPPED slot to IDLE (R134). -/
def execSlotReturnIdle (x : Site) (s : State) : Host.Outcome State Fault Refusal :=
  let d := s.dev
  let k := siteKey x
  whenDev ((slotAt d k).phase == .halted || (slotAt d k).phase == .stopped) "the slot has not ended"
    (updSlot k (fun sl => { sl with phase := .idle, live := false, report := none }) d) s

end Sys2Proof.Machine
end

