-- ==== Sys2Proof/Machine/Live.lean ====
section
/-! DEFINITION. Live ingress (R195 to R206): the ports' counters, host doorbells, ST 2110 packets, audio blocks, the wait
on a line position (R157), and the unbinding of a port. -/

namespace Sys2Proof.Machine

def portAt (d : Dev) (n : Nat) : Option LivePort := tget none d.live.ports n

def setPort (n : Nat) (p : LivePort) (d : Dev) : Dev := { d with live.ports := tset none d.live.ports n (some p) }

/-! Formats (Table 08-2). -/

def sampleBits (p : LiveRec) : Nat := if p.inFmt % 2 == 1 then 10 else 8
def sampleBytes (p : LiveRec) : Nat := if p.inFmt % 2 == 1 then 2 else 1
def is420 (p : LiveRec) : Bool := decide (p.inFmt < 2)
def is422 (p : LiveRec) : Bool := p.inFmt == 2 || p.inFmt == 3
def isRgb (p : LiveRec) : Bool := p.inFmt == 6 || p.inFmt == 7
def audioBytes (p : LiveRec) : Nat := if p.inFmt == 9 then 3 else 2

/-- Lines of a video frame, or blocks of an audio frame. -/
def fullIn (p : LiveRec) : Nat := p.inH

/-- The conditioned picture's size (R207): rotation by 90 or 270 degrees exchanges the dimensions. -/
def condW (p : LiveRec) : Nat := if p.orient % 2 == 1 then p.outH else p.outW
def condH (p : LiveRec) : Nat := if p.orient % 2 == 1 then p.outW else p.outH

/-- Rows or blocks of one frame on the output side. -/
def fullOut (p : LiveRec) : Nat := if p.audio then p.inH else condH p

/-! Input frames (R197, R198). -/

def bumpLoss (n lines frames late : Nat) (d : Dev) : Dev :=
  bumpF (kLiv n 0x10) 0 8 late (bumpF (kLiv n 0x10) 8 8 frames (bumpF (kLiv n 0x10) 16 16 lines d))

/-- Replace the newest input frame. -/
def setLast (f : FrameIn) : List FrameIn → List FrameIn
  | [] => []
  | [_] => [f]
  | g :: gs => g :: setLast f gs

/-- End the input of the newest frame: what is missing is lost (R198). -/
def endInput (n : Nat) (p : LivePort) (d : Dev) : LivePort × Dev :=
  match p.frames.getLast? with
  | some f =>
    if f.ended then (p, d)
    else
      let miss := upFrom f.lines (fullIn p.cfg - f.lines)
      ({ p with frames := setLast { f with ended := true, lost := f.lost ++ miss, lines := fullIn p.cfg, got := [] } p.frames },
       bumpLoss n miss.length 0 0 d)
  | none => (p, d)

/-- The completion of a host input frame (R202, Table 14-7 kind 2). -/
def inputCpl (n : Nat) (p : LivePort) (frame status lost : Nat) (d : Dev) : Dev :=
  if p.cfg.st2110 then d
  else postCpl 1 p.cfg.cplRing { tag := frame % 65536, status := status, kind := 2, ident := p.session, w3 := frame, w4 := lost, w5 := n } d

/-- Frames whose input has ended and whose output is written leave the port; a host frame is then completed, since the
Deckle has read it whole (R202). -/
def reap (n : Nat) (p : LivePort) : List FrameIn → Dev → List FrameIn × Dev
  | [], d => ([], d)
  | f :: fs, d => if f.done && f.ended then reap n p fs (inputCpl n p f.no stSuccess f.lost.length d) else (f :: fs, d)

/-- Note a new value of frame_in or lines_in; frames more than eight behind are forgotten. -/
def notePort (now : Nat) (p : LivePort) : LivePort :=
  if p.hist.any (fun e => e.1 == p.frameIn && e.2.1 == p.linesIn) || p.frameIn == 0xFFFFFFFF then p
  else { p with hist := p.hist.filter (fun e => decide ((p.frameIn + 2 ^ 32 - e.1) % 2 ^ 32 < 8)) ++ [(p.frameIn, p.linesIn, now)] }

/-- Store a port and show its frame numbers in its registers (R219). -/
def putPort (n : Nat) (p : LivePort) (d : Dev) : Dev :=
  let (fs, d) := reap n p p.frames d
  let p := notePort (nowNs d) p
  regPut (kLiv n 0x04) p.frameOut (regPut (kLiv n 0x0C) p.frameIn (setPort n { p with frames := fs } d))

/-- Begin input frame F with L lines (R198); the frames between are dropped. -/
def beginFrame (n f l capture ts : Nat) (p : LivePort) (d : Dev) : LivePort × Dev :=
  let gap := (f + 2 ^ 32 - p.frameIn) % 2 ^ 32 - 1
  let (p, d) := endInput n p d
  let d := bumpLoss n 0 gap 0 d
  let d := forEach (upFrom 1 gap) (fun i d => inputCpl n p ((p.frameIn + i) % 2 ^ 32) stCancelled 0 d) d
  let fr : FrameIn := { no := f, capture := capture, ts := ts, lines := l, lost := [], ended := l == fullIn p.cfg, got := [] }
  ({ p with frameIn := f, linesIn := l, frames := p.frames ++ [fr] }, d)

/-- Raise DOORBELL_RANGE for a live-port doorbell (Table 18-5). -/
def liveRange (off : Nat) (value : W64) (d : Dev) : Dev :=
  raiseEvent 0x0D 4 1 [(off - 0x30000) / 16 + 65536, off, value.toNat % 2 ^ 32] d

/-- LIVE_PORT_DOORBELL: the host announces arrived lines (R201). -/
def execLivePortDoorbell (off : Nat) (value : W64) (s : State) : Host.Outcome State Fault Refusal :=
  let d := s.dev
  let n := (off - 0x30000) / 16
  let f := value.toNat % 2 ^ 32
  let l := fld value.toNat 32 16
  whenDev (decide (0x30000 ≤ off) && decide (n < 24)) "no live-port doorbell lies there"
    (match portAt d n with
     | some p =>
       let gap := (f + 2 ^ 32 - p.frameIn) % 2 ^ 32
       let okL : Bool := decide (1 ≤ l) && decide (l ≤ fullIn p.cfg)
       if p.cfg.st2110 || off % 16 != 0 || fld value.toNat 48 16 != 0 then liveRange off value d
       else if gap == 0 && decide (p.linesIn < l) && decide (l ≤ fullIn p.cfg) then
         putPort n { p with
           linesIn := l
           frames := match p.frames.getLast? with
             | some fr => setLast { fr with lines := l, ended := l == fullIn p.cfg } p.frames
             | none => p.frames } d
       else if within 1 65536 gap && okL then
         let (p, d) := beginFrame n f l (nowNs d) 0 p d
         putPort n p d
       else liveRange off value d
     | none => liveRange off value d) s

/-! ST 2110 (R203 to R205). -/

/-- A packet belongs to a bound port's flow. -/
def flowMatch (p : LivePort) (k : St2110Pkt) : Bool :=
  p.cfg.st2110 && p.cfg.cb == k.cb.val && p.cfg.dstIp == k.dstIp && p.cfg.udpPort == k.udpPort && p.cfg.pt == k.pt &&
  (p.cfg.srcIp.all (· == 0) || p.cfg.srcIp == k.srcIp)

/-- The first port whose flow a packet matches. -/
def flowPort (d : Dev) (k : St2110Pkt) : Option (Nat × LivePort) :=
  (upFrom 0 24).findSome? (fun n =>
    match portAt d n with
    | some p => if flowMatch p k then some (n, p) else none
    | none => none)

/-- The capture time of an RTP timestamp (R205): the media clock count nearest to now that is congruent to it. -/
def rtpTime (now clock ts : Nat) : Nat :=
  let n0 : Int := (now * clock / 10 ^ 9 : Nat)
  let n := n0 + signedOf 32 (codeOf 32 ((ts : Int) - n0))
  ceilDiv (n.toNat * 10 ^ 9) clock

/-- Samples of a line, or of a block, received. -/
def lineGot (got : List (Nat × Nat × Nat)) (l : Nat) : Nat :=
  ((got.filter (fun g => g.1 == l)).map (fun g => g.2.2)).foldl (· + ·) 0

/-- The furthest line a packet has arrived for. -/
def furthest (got : List (Nat × Nat × Nat)) : Nat := (got.map (·.1)).foldl max 0

/-- Advance the count over lines that are complete, passed by eight, or ended by the marker (R204). -/
def advance (full width : Nat) (marker : Bool) : Nat → FrameIn → FrameIn
  | 0, f => f
  | fuel + 1, f =>
    if full ≤ f.lines then { f with ended := true, got := [] }
    else if lineGot f.got f.lines == width then advance full width marker fuel { f with lines := f.lines + 1 }
    else if marker || decide (f.lines + 8 ≤ furthest f.got) then
      advance full width marker fuel { f with lines := f.lines + 1, lost := f.lost ++ [f.lines] }
    else f

/-- Advance the newest frame of a port and count what it lost. -/
def advancePort (n width : Nat) (marker : Bool) (p : LivePort) (d : Dev) : LivePort × Dev :=
  match p.frames.getLast? with
  | some f =>
    let f' := advance (fullIn p.cfg) width marker (fullIn p.cfg + 1) f
    ({ p with frames := setLast f' p.frames, linesIn := f'.lines }, bumpLoss n (f'.lost.length - f.lost.length) 0 0 d)
  | none => (p, d)

/-- The address of a sample in the ST 2110 input ring (R203, R200). -/
def ringSample (p : LivePort) (frame plane line x : Nat) : Nat :=
  p.inRing + frame % p.cfg.inFrames * p.ringFrame + plane * p.ringPlane + line * p.ringLine + x * sampleBytes p.cfg

/-- Store the samples of one segment. -/
def putSeg (p : LivePort) (g : SrdSeg) (d : Dev) : Dev :=
  forEach (g.planes.zip (upFrom 0 g.planes.length)) (fun pl d =>
    let x0 := if pl.2 != 0 && is422 p.cfg then g.x0 / 2 else g.x0
    wrMem (ringSample p p.frameIn pl.2 g.line x0) (pl.1.flatMap (leBytes (sampleBytes p.cfg))) d) d

/-- Discard a late packet (R204). -/
def latePkt (n : Nat) (d : Dev) : Dev := bumpLoss n 0 0 1 d

/-- A segment lies in the picture. -/
def segOk (p : LivePort) (g : SrdSeg) : Bool := decide (g.line < p.cfg.inH) && decide (g.x0 + g.n ≤ p.cfg.inW)

/-- The samples of an accepted video packet. -/
def acceptVideo (n : Nat) (k : St2110Pkt) (p : LivePort) (d : Dev) : Dev :=
  let segs := k.video.filter (segOk p)
  let d := forEach segs (putSeg p) d
  let p := match p.frames.getLast? with
    | some f => { p with frames := setLast { f with got := f.got ++ segs.map (fun g => (g.line, g.x0, g.n)) } p.frames }
    | none => p
  let (p, d) := advancePort n p.cfg.inW k.marker p d
  putPort n p d

/-- A video packet (R204). -/
def videoPkt (n : Nat) (k : St2110Pkt) (p : LivePort) (d : Dev) : Dev :=
  let ts := k.ts.toNat
  let cap := rtpTime (nowNs d) 90000 ts
  let full : Bool := decide (p.cfg.inFrames ≤ (p.frames.filter (fun f => !f.done)).length)
  if p.frameIn == 0xFFFFFFFF && p.lastSample.isNone then
    let (p, d) := beginFrame n 0 0 cap ts p d
    acceptVideo n k { p with lastTs := ts, lastSample := some 0 } d
  else
    let dt := (ts + 2 ^ 32 - p.lastTs) % 2 ^ 32
    if dt == 0 then
      if k.video.any (fun g => decide (g.line < p.linesIn)) then latePkt n d else acceptVideo n k p d
    else if dt < 2 ^ 31 then
      if full then d
      else
        let step := max 1 ((2 * dt * p.cfg.rateNum + 90000 * p.cfg.rateDen) / (2 * 90000 * p.cfg.rateDen))
        let (p, d) := beginFrame n ((p.frameIn + step) % 2 ^ 32) 0 cap ts p d
        acceptVideo n k { p with lastTs := ts } d
    else latePkt n d

/-- One audio sample group (all channels) of running index u (R204). A group whose frame finds every input buffer in use
is discarded. -/
def audioSample (n : Nat) (cap ts u : Nat) (vals : List Nat) (p : LivePort) (d : Dev) : LivePort × Dev :=
  let blk := u / 6
  let f := blk / p.cfg.inH % 2 ^ 32
  let line := blk % p.cfg.inH
  let gap := (f + 2 ^ 32 - p.frameIn) % 2 ^ 32
  let isNew : Bool := within 1 (2 ^ 31 - 1) gap
  if isNew && decide (p.cfg.inFrames ≤ (p.frames.filter (fun f => !f.done)).length) then (p, d)
  else
    let r := if isNew then beginFrame n f 0 cap ts p d else (p, d)
    let p := r.1
    let d := wrMem (p.inRing + f % p.cfg.inFrames * p.ringFrame + line * p.ringLine + u % 6 * p.cfg.inW * audioBytes p.cfg)
      (vals.flatMap (leBytes (audioBytes p.cfg))) r.2
    let p := match p.frames.getLast? with
      | some fr => { p with frames := setLast { fr with got := fr.got ++ [(line, u % 6, 1)] } p.frames }
      | none => p
    advancePort n 6 false p d

/-- The groups of an audio packet in order, each with its place after sample u. -/
def audioGroups (n cap ts u : Nat) : List (List Nat × Nat) → LivePort × Dev → LivePort × Dev
  | [], st => st
  | g :: gs, st => audioGroups n cap ts u gs (audioSample n cap ts (u + g.2) g.1 st.1 st.2)

/-- An audio packet whose first sample is u. -/
def audioFrom (n : Nat) (k : St2110Pkt) (cap ts u : Nat) (p : LivePort) (d : Dev) : Dev :=
  let blk := u / 6
  let gap := (blk / p.cfg.inH + 2 ^ 32 - p.frameIn) % 2 ^ 32
  if p.lastSample.isSome && gap == 0 && decide (blk % p.cfg.inH < p.linesIn) then latePkt n d
  else
    let groups := groupsOf p.cfg.inW k.audio.length k.audio
    let r := audioGroups n cap ts u (groups.zip (upFrom 0 groups.length)) ({ p with lastSample := some u, lastTs := ts }, d)
    let r := if k.marker then advancePort n 6 true r.1 r.2 else r
    putPort n r.1 r.2

/-- An audio packet. -/
def audioPkt (n : Nat) (k : St2110Pkt) (p : LivePort) (d : Dev) : Dev :=
  let ts := k.ts.toNat
  let cap := rtpTime (nowNs d) 48000 ts
  let dt := (ts + 2 ^ 32 - p.lastTs) % 2 ^ 32
  let first : Option Nat := match p.lastSample with
    | none => some 0
    | some u => if within 1 (2 ^ 31 - 1) dt then some (u + dt) else none
  match first with
  | none => latePkt n d
  | some u => audioFrom n k cap ts u p d

/-- ST2110_PACKET: a packet that matches a bound port is assigned to an input frame or discarded as late. -/
def execSt2110Packet (p : St2110Pkt) (s : State) : Host.Outcome State Fault Refusal :=
  let d := s.dev
  match flowPort d p with
  | some m => whenDev true "" (if m.2.cfg.audio then audioPkt m.1 p m.2 d else videoPkt m.1 p m.2 d) s
  | none => whenDev false "no bound port's flow matches" d s

/-! Reading input from host memory. -/

/-- A byte of host memory that a command supplies; a byte it does not supply is free. -/
def imgByte (d : Dev) (img : HostImg) (a : Nat) : Byte :=
  match img.find? (fun r => decide (r.1 ≤ a) && decide (a < r.1 + r.2.length)) with
  | some r => r.2.getD (a - r.1) 0
  | none => Config.hostByte d.free a

def imgNum (d : Dev) (img : HostImg) (a n : Nat) : Nat := leNat ((upFrom a n).map (imgByte d img))

def imgBytes (d : Dev) (img : HostImg) (a n : Nat) : List Byte := (upFrom a n).map (imgByte d img)

/-- Count a use of host bytes. -/
def drawHost (d : Dev) : Dev := { d with free := d.free + 1 }

/-! Output side (R206, R210). -/

/-- The release word lets the device write running row or block k (R210). -/
def released (d : Dev) (p : LivePort) (k : Nat) : Bool :=
  let w := leNat (rdMem d (p.areaBase + p.cfg.relAddr) 4)
  decide ((w + 2 ^ 33 - (k % 2 ^ 32) + p.cfg.ringRows - 1) % 2 ^ 32 < 2 ^ 31)

def recordAt (p : LivePort) (frame : Nat) : Nat := p.areaBase + p.cfg.recAddr + 32 * (frame % 4)

/-- Fabric Time is LOCKED. -/
def timeLocked (d : Dev) : Bool := getF d kTimStatus 0 3 == 2

/-- The frame being conditioned, or the next one to begin. -/
def outFrame (p : LivePort) : Option FrameIn := p.frames.find? (fun f => !f.done)

/-- Begin frame_out: words 0 to 2 of its record (R206). -/
def beginOut (f : FrameIn) (p : LivePort) (d : Dev) : LivePort × Dev :=
  if p.running then (p, d)
  else
    ({ p with running := true, frameOut := f.no, linesOut := 0 },
     wrMem (recordAt p f.no) (leBytes 4 f.no ++ leBytes 8 f.capture) d)

/-- End frame_out: the rest of its record (R206). -/
def endOut (f : FrameIn) (p : LivePort) (d : Dev) : LivePort × Dev :=
  let d := wrMem (recordAt p f.no + 12)
    (leBytes 4 (2 ^ 31 + (timeLocked d).toNat * 2 ^ 30 + min 65535 f.lost.length) ++ List.replicate 16 0) d
  ({ p with
     running := false
     frames := p.frames.map (fun g => if g.no == f.no then { g with done := true } else g)
     prevDone := some f.no }, d)

/-- One audio sample at its place in the ring slot: the L16 or L24 sample in the top bits of 32 (R199). -/
def audioWord (p : LiveRec) (v : Nat) : List Byte := leBytes 4 (v * 2 ^ (32 - 8 * audioBytes p))

/-- Samples of block b of a frame, in channel order. -/
def audioBlock (d : Dev) (img : HostImg) (p : LivePort) (f : FrameIn) (b : Nat) : List Nat :=
  let w := audioBytes p.cfg
  (upFrom 0 (6 * p.cfg.inW)).map (fun i =>
    if f.lost.contains b then 0
    else if p.cfg.st2110 then
      leNat (rdMem d (p.inRing + f.no % p.cfg.inFrames * p.ringFrame + b * p.ringLine + i * w) w)
    else imgNum d img (p.cfg.inBase + f.no % p.cfg.inFrames * p.cfg.inFramePitch + b * p.cfg.inLinePitch + i * w) w)

/-- AUDIO_BLOCK_WRITE: the next arrived block goes to the sample ring once its slot is released (R199, R210). -/
def execAudioBlockWrite (port : Fin 24) (img : HostImg) (s : State) : Host.Outcome State Fault Refusal :=
  let d := s.dev
  let n := port.val
  match portAt d n with
  | some p =>
    match outFrame p with
    | some f =>
      let b := if p.running then p.linesOut else 0
      let a := p.areaBase + p.cfg.ringBase + p.rows % p.cfg.ringRows * p.cfg.yPitch
      let bytes := (audioBlock d img p f b).flatMap (audioWord p.cfg)
      let (p1, d1) := beginOut f p d
      let d2 := drawHost (wrMem a bytes d1)
      let p2 := { p1 with linesOut := b + 1, rows := p1.rows + 1 }
      let (p3, d3) := if b + 1 == fullOut p.cfg then endOut f p2 d2 else (p2, d2)
      whenDev (p.cfg.audio && decide (b < f.lines) && released d p p.rows) "no block can be written" (putPort n p3 d3) s
    | none => whenDev false "no frame has arrived" d s
  | none => whenDev false "the port is not bound" d s

/-! LINE.WAIT (R157). -/

/-- LINE.WAIT: lp must be bound to the slot's session at launch. -/
def execLineWait (x : Site) (f : FmtL) (s : State) : Host.Outcome State Fault Refusal :=
  issue x f.g (wordL 0x71 f) (f.rsvd == 0 && (slotAt s.dev (siteKey x)).ports.contains f.lp.toNat)
    (fun d =>
      let sl := slotAt d (siteKey x)
      .wait (.lineWait f.lp.toNat (getS sl f.rf).toNat (getS sl f.rl).toNat f.pd.toNat) d) s

/-- LINE_WAIT_END: the position is reached (pd = 1), or the port is no longer bound (pd = 0). -/
def execLineWaitEnd (x : Site) (s : State) : Host.Outcome State Fault Refusal :=
  let d := s.dev
  let k := siteKey x
  match (slotAt d k).hold with
  | .lineWait lp f l pd =>
    match portAt d lp with
    | some p =>
      whenDev (isRunning d k && lineReached p f l) "the line has not been reached"
        (releaseHold k (updSlot k (setP pd true) d)) s
    | none => whenDev (isRunning d k) "the slot does not run" (releaseHold k (updSlot k (setP pd false) d)) s
  | _ => whenDev false "the slot does not wait on a line" d s

/-- MSE_ENG_STAT.ports shows the ports assigned to each engine (Table 08-8). -/
def showMse (d : Dev) : Dev :=
  forEach [0, 1, 2, 3] (fun e d =>
    setF (kMse e) 27 5 (d.live.ports.filter (fun q => match q.2 with | some p => p.cfg.mseEn && p.mse == e | none => false)).length d) d

/-- Unbind a port: it takes no more input, its work is discarded, its registers clear but for the loss and latency counts
(R218, R219). -/
def unbindPort (n : Nat) (d : Dev) : Dev :=
  let d := showMse { d with live.ports := tset none d.live.ports n none }
  let d := forEach [0x00, 0x04, 0x08, 0x0C] (fun o d => regPut (kLiv n o) (regReset (kLiv n o)) d) d
  forEach [0, 1, 2] (fun i d => { d with latch := tset 0 d.latch (latchKey i (kLiv n 0x08)) 0 }) d

end Sys2Proof.Machine
end

