-- ==== Sys2Proof/Machine/Deckle.lean ====
section
/-! DEFINITION. The Deckle's conditioning of one row (R207 to R211) and the motion search of one band (R213 to R216). -/

namespace Sys2Proof.Machine

/-! Fixed point (R207): values in units of 2^-16. -/

/-- num / den as a whole number of units: exact where it is one, else one of the two next to it. -/
def roundFix (num : Int) (den : Nat) : Int :=
  let q := num / (den : Int)
  if num % (den : Int) == 0 then q else q + (Config.fixUp num den).toNat

/-- A coordinate clamped to 0 … n − 1. -/
def clampIdx (n : Nat) (i : Int) : Nat := if i < 0 then 0 else min i.toNat (n - 1)

/-- The coefficient of a phase and tap: the port's set, or the device default, whose phases also sum to 4,096 (R208). -/
def scaleCoef (p : LivePort) (ph t : Nat) : Int :=
  if p.coefs.isEmpty then
    (if t == 7 then 4096 - ((upFrom 0 7).map (Config.deckleCoef ph)).foldl (· + ·) 0 else Config.deckleCoef ph t)
  else p.coefs.getD (8 * ph + t) 0

/-- The position of output sample x as a tap base and a phase (R208). -/
def scalePos (nIn nOut x : Nat) : Int × Nat :=
  let num : Int := ((2 * x + 1) * nIn : Nat) - (nOut : Nat)
  let den : Int := (2 * nOut : Nat)
  let i := num / den
  let fr := 64 * (num % den)
  let q := (fr / den).toNat
  let r := 2 * (fr % den)
  let ph := if r < den then q else if den < r then q + 1 else q + (Config.fixUp fr (2 * nOut)).toNat
  if ph == 64 then (i + 1, 0) else (i, ph)

/-- Eight taps around a position, edges replicated. -/
def filter8 (p : LivePort) (n : Nat) (pos : Int × Nat) (get : Nat → Int) : Int :=
  roundFix (((upFrom 0 8).map (fun t => scaleCoef p pos.2 t * get (clampIdx n (pos.1 - 3 + t)))).foldl (· + ·) 0) 4096

/-- One output sample of a dimension; equal lengths bypass the filter. -/
def scaleDim (p : LivePort) (nIn nOut x : Nat) (get : Nat → Int) : Int :=
  if nIn == nOut then get x else filter8 p nIn (scalePos nIn nOut x) get

/-! Stages (R207). -/

/-- The code of normalised zero of a plane (R198). -/
def blackCode (p : LiveRec) (plane : Nat) : Nat :=
  let s := 2 ^ (sampleBits p - 8)
  if isRgb p || plane == 0 then (if p.full then 0 else 16 * s) else 2 ^ (sampleBits p - 1)

/-- A sample of an input frame; a lost line has the code of normalised zero. -/
def inSample (d : Dev) (img : HostImg) (p : LivePort) (f : FrameIn) (plane line x : Nat) : Nat :=
  let c := p.cfg
  let w := sampleBytes c
  let luma := if plane != 0 && is420 c then 2 * line else line
  if f.lost.contains luma then blackCode c plane
  else
    let v := if c.st2110 then
        leNat (rdMem d (p.inRing + f.no % c.inFrames * p.ringFrame + plane * p.ringPlane + line * p.ringLine + x * w) w)
      else imgNum d img (c.inBase + f.no % c.inFrames * c.inFramePitch + plane * c.inPlanePitch + line * c.inLinePitch + x * w) w
    v % 2 ^ sampleBits c

/-- The plane of a channel: Y′, Cb′, Cr′, or R, G, B. -/
def planeOf (p : LiveRec) (c : Nat) : Nat := if isRgb p then (c + 2) % 3 else c

/-- Cropped 4:4:4 sample of a plane, in codes (stages 1 and 2). -/
def cropped (d : Dev) (img : HostImg) (p : LivePort) (f : FrameIn) (plane y x : Nat) : Int :=
  let c := p.cfg
  let raw (yy xx : Nat) : Int := (inSample d img p f plane yy xx * 65536 : Nat)
  let sub : Bool := plane != 0 && (is420 c || is422 c)
  if !sub then raw (c.cropY + y) (c.cropX + x)
  else
    let row (yy : Nat) : Int :=
      filter8 p (c.cropW / 2) ((x / 2 : Nat), 32 * (x % 2)) (fun xx => raw yy (c.cropX / 2 + xx))
    if is420 c then scaleDim p (c.cropH / 2) c.cropH y (fun yy => row (c.cropY / 2 + yy)) else row (c.cropY + y)

/-- Normalisation (stage 3). -/
def normal (p : LiveRec) (plane : Nat) (v : Int) : Int :=
  let b := sampleBits p
  let s := 2 ^ (b - 8)
  let chroma : Bool := !isRgb p && plane != 0
  if p.full then roundFix (v - (if chroma then (2 ^ (b - 1) * 65536 : Nat) else (0 : Nat))) (2 ^ b - 1)
  else if chroma then roundFix (v - (128 * s * 65536 : Nat)) (224 * s) else roundFix (v - (16 * s * 65536 : Nat)) (219 * s)

/-- Kr and Kb in ten-thousandths. -/
def kr (p : LiveRec) : Int := if p.bt2020 then 2627 else 2126
def kb (p : LiveRec) : Int := if p.bt2020 then 593 else 722
def kg (p : LiveRec) : Int := 10000 - kr p - kb p

/-- Colour conversion (stage 4) of one channel of a pixel. -/
def convert (p : LiveRec) (ch : Nat) (v0 v1 v2 : Int) : Int :=
  match p.csc with
  | 1 =>
    let r := roundFix (10000 * v0 + 2 * (10000 - kr p) * v2) 10000
    let b := roundFix (10000 * v0 + 2 * (10000 - kb p) * v1) 10000
    if ch == 0 then r else if ch == 2 then b else roundFix (10000 * v0 - kr p * r - kb p * b) (kg p).toNat
  | 2 =>
    let y := roundFix (kr p * v0 + kg p * v1 + kb p * v2) 10000
    if ch == 0 then y
    else if ch == 1 then roundFix (10000 * (v2 - y)) (2 * (10000 - kb p)).toNat
    else roundFix (10000 * (v0 - y)) (2 * (10000 - kr p)).toNat
  | _ => if ch == 0 then v0 else if ch == 1 then v1 else v2

/-- A pixel's channel after stage 4. -/
def colour (d : Dev) (img : HostImg) (p : LivePort) (f : FrameIn) (ch y x : Nat) : Int :=
  let v (c : Nat) : Int := normal p.cfg (planeOf p.cfg c) (cropped d img p f (planeOf p.cfg c) y x)
  convert p.cfg ch (v 0) (v 1) (v 2)

/-- A pixel's channel after stage 5, at (y, x) of the out_w × out_h picture. -/
def scaled (d : Dev) (img : HostImg) (p : LivePort) (f : FrameIn) (ch y x : Nat) : Int :=
  let c := p.cfg
  scaleDim p c.cropH c.outH y (fun yy => scaleDim p c.cropW c.outW x (fun xx => colour d img p f ch yy xx))

/-- The scaled pixel that lies at (y, x) of the conditioned picture (stage 6). -/
def sourceOf (p : LiveRec) (y x : Nat) : Nat × Nat :=
  let y := if bitAt p.orient 3 then condH p - 1 - y else y
  let x := if bitAt p.orient 2 then condW p - 1 - x else x
  match p.orient % 4 with
  | 0 => (y, x)
  | 1 => (p.outH - 1 - x, y)
  | 2 => (p.outH - 1 - y, p.outW - 1 - x)
  | _ => (x, p.outW - 1 - y)

/-- A channel of the conditioned picture. -/
def conditioned (d : Dev) (img : HostImg) (p : LivePort) (f : FrameIn) (ch y x : Nat) : Int :=
  let q := sourceOf p.cfg y x
  scaled d img p f ch q.1 q.2

/-- The conditioned picture is RGB. -/
def outRgb (p : LiveRec) : Bool := if isRgb p then p.csc != 2 else p.csc == 1

/-- The UINT8 code of a channel (R209). -/
def code8 (chroma : Bool) (v : Int) : Nat :=
  let t := (255 * v + (if chroma then (128 * 65536 + 32768 : Int) else 32768)) / 65536
  if t < 0 then 0 else min t.toNat 255

/-- The element bytes of a channel (R209). -/
def elemBytes (p : LiveRec) (ch : Nat) (v : Int) : List Byte :=
  if p.bf16 then leBytes 2 (codeBf16 (runNum (roundBf16 .rne (xrFrac v 65536))).1)
  else leBytes 1 (code8 (!outRgb p && ch != 0) v)

/-- The luma of a conditioned pixel for motion search (R213). -/
def lumaCode (p : LiveRec) (v0 v1 v2 : Int) : Nat :=
  code8 false (if outRgb p then roundFix (kr p * v0 + kg p * v1 + kb p * v2) 10000 else v0)

def rgFactor (p : LiveRec) : Nat := 2 ^ p.regroup

/-! Which input a row needs (R211). -/

/-- The last tap row of output sample y of a dimension. -/
def lastTap (nIn nOut y : Nat) : Nat := if nIn == nOut then y else clampIdx nIn ((scalePos nIn nOut y).1 + 4)

/-- The lines of a frame that must have arrived before conditioned row y can be written. -/
def linesNeeded (p : LiveRec) (y : Nat) : Nat :=
  if p.orient % 4 != 0 || bitAt p.orient 3 then p.inH
  else
    let row := lastTap p.cropH p.outH y
    let luma := p.cropY + row + 1
    if is420 p then max luma (2 * (p.cropY / 2 + lastTap (p.cropH / 2) p.cropH row) + 1) else luma

/-! Writing (R209, R210). -/

/-- The Vat address of channel ch of conditioned pixel (y, x), where the regrouped row goes to ring row k. -/
def outAddr (p : LivePort) (k ch y x : Nat) : Nat :=
  let c := p.cfg
  let r := rgFactor c
  let e := if c.bf16 then 2 else 1
  let rc := ch * r * r + y % r * r + x % r
  p.areaBase + c.ringBase + rc / 32 * c.planePitch + k % c.ringRows * c.yPitch + x / r * 32 * e + rc % 32 * e

/-- The lanes beyond the last channel of the last plane are 0. -/
def zeroLanes (p : LivePort) (k : Nat) (d : Dev) : Dev :=
  let c := p.cfg
  let r := rgFactor c
  let e := if c.bf16 then 2 else 1
  let cc := 3 * r * r
  if cc % 32 == 0 then d
  else
    forEach (upFrom 0 (condW c / r)) (fun x d =>
      wrMem (p.areaBase + c.ringBase + cc / 32 * c.planePitch + k % c.ringRows * c.yPitch + x * 32 * e + cc % 32 * e)
        (List.replicate ((32 - cc % 32) * e) 0) d) d

/-- The luma plane of buffer i (log entry 8). -/
def lumaBase (p : LivePort) (i : Nat) : Nat := p.luma + i * (condW p.cfg * condH p.cfg)

/-- Write conditioned row y. -/
def writeRow (img : HostImg) (p : LivePort) (f : FrameIn) (y : Nat) (d0 d : Dev) : Dev :=
  forEach (upFrom 0 (condW p.cfg)) (fun x d =>
    let v (ch : Nat) : Int := conditioned d0 img p f ch y x
    let d := forEach [0, 1, 2] (fun ch d => wrMem (outAddr p p.rows ch y x) (elemBytes p.cfg ch (v ch)) d) d
    if p.cfg.mseEn then
      wrMem (lumaBase p p.lumaIdx + y * condW p.cfg + x) (leBytes 1 (lumaCode p.cfg (v 0) (v 1) (v 2))) d
    else d) (zeroLanes p p.rows d)

/-- A frame's motion search begins with its first row: it has a reference when the port's previous conditioned frame is the
frame before it (R215). -/
def beginMse (f : FrameIn) (p : LivePort) : LivePort :=
  if p.running || !p.cfg.mseEn then p
  else
    let i := (p.lumaIdx + 1) % 4
    let ref : Bool := decide (p.prevDone.map (fun n => (n + 1) % 2 ^ 32) = some (f.no % 2 ^ 32))
    { p with lumaIdx := i, mseJobs := p.mseJobs ++ [{ frame := f.no, bands := 0, hasRef := ref, cur := i }] }

/-- DECKLE_ROW: the next row of the port's frame_out, once its input has arrived and its ring row is free. -/
def execDeckleRow (port : Fin 24) (img : HostImg) (s : State) : Host.Outcome State Fault Refusal :=
  let d := s.dev
  let n := port.val
  match portAt d n with
  | some p =>
    match outFrame p with
    | some f =>
      let y := if p.running then p.linesOut else 0
      let (p1, d1) := beginOut f (beginMse f p) d
      let d2 := drawHost (writeRow img p1 f y d d1)
      let r := rgFactor p.cfg
      let p2 := { p1 with linesOut := y + 1, rows := if (y + 1) % r == 0 then p1.rows + 1 else p1.rows }
      let (p3, d3) := if y + 1 == fullOut p.cfg then endOut f p2 d2 else (p2, d2)
      whenDev (!p.cfg.audio && decide (linesNeeded p.cfg y ≤ f.lines) && released d p p.rows) "no row can be written"
        (putPort n p3 d3) s
    | none => whenDev false "no frame has arrived" d s
  | none => whenDev false "the port is not bound" d s

/-! Motion search. -/

/-- The size of a dimension at a pyramid level. -/
def levelDim : Nat → Nat → Nat
  | 0, n => n
  | j + 1, n => (levelDim j n + 1) / 2

/-- A pixel of a pyramid level (R213), edges replicated (R214). -/
def levelPix (d : Dev) (base w h : Nat) : Nat → Int → Int → Nat
  | 0, y, x => (tget 0 d.mem (base + clampIdx h y * w + clampIdx w x)).toNat
  | j + 1, y, x =>
    let yy : Int := (2 * clampIdx (levelDim (j + 1) h) y : Nat)
    let xx : Int := (2 * clampIdx (levelDim (j + 1) w) x : Nat)
    (levelPix d base w h j yy xx + levelPix d base w h j yy (xx + 1) + levelPix d base w h j (yy + 1) xx +
      levelPix d base w h j (yy + 1) (xx + 1) + 2) / 4

/-- A reference sample at a quarter-pel position (R214). -/
def subPel (ref : Int → Int → Nat) (y x : Int) : Nat :=
  let fx := (x % 4).toNat
  let fy := (y % 4).toNat
  let ix := x / 4
  let iy := y / 4
  ((4 - fx) * (4 - fy) * ref iy ix + fx * (4 - fy) * ref iy (ix + 1) + (4 - fx) * fy * ref (iy + 1) ix +
    fx * fy * ref (iy + 1) (ix + 1) + 8) / 16

/-- The 16 pixels of a block. -/
def blockPix (by_ bx : Nat) : List (Int × Int) :=
  (upFrom 0 16).map (fun i => ((4 * by_ + i / 4 : Nat), (4 * bx + i % 4 : Nat)))

def absDiff (a b : Nat) : Nat := (a - b) + (b - a)

/-- The sum of absolute differences of a block for a vector of full pixels of its level. -/
def sadInt (cur ref : Int → Int → Nat) (by_ bx : Nat) (v : Int × Int) : Nat :=
  ((blockPix by_ bx).map (fun q => absDiff (cur q.1 q.2) (ref (q.1 + v.1) (q.2 + v.2)))).foldl (· + ·) 0

/-- The sum for a vector in quarter pixels. -/
def sadSub (cur ref : Int → Int → Nat) (by_ bx : Nat) (v : Int × Int) : Nat :=
  ((blockPix by_ bx).map (fun q => absDiff (cur q.1 q.2) (subPel ref (4 * q.1 + v.1) (4 * q.2 + v.2)))).foldl (· + ·) 0

/-- Candidate a = (SAD, vector) is kept before b (R214). -/
def betterMv (a b : Nat × Int × Int) : Bool :=
  let sa := a.2.1.natAbs + a.2.2.natAbs
  let sb := b.2.1.natAbs + b.2.2.natAbs
  if a.1 != b.1 then decide (a.1 < b.1)
  else if sa != sb then decide (sa < sb)
  else if a.2.1 != b.2.1 then decide (a.2.1 < b.2.1)
  else decide (a.2.2 < b.2.2)

/-- The best of a start and some candidates. -/
def bestOf (cost : Int × Int → Nat) (start : Int × Int) (cs : List (Int × Int)) : Nat × Int × Int :=
  cs.foldl (fun b v => let c := (cost v, v); if betterMv c b then c else b) (cost start, start)

/-- The vectors within ±r of a centre. -/
def around (c : Int × Int) (r step : Nat) : List (Int × Int) :=
  (upFrom 0 ((2 * r + 1) * (2 * r + 1))).map (fun i =>
    (c.1 + ((i / (2 * r + 1) : Nat) - (r : Int)) * step, c.2 + ((i % (2 * r + 1) : Nat) - (r : Int)) * step))

/-- The integer vector and SAD of a block at a level: level 3 searches ±32, the others ±8 around twice their parent's. -/
def searchLevel (cur ref : Nat → Int → Int → Nat) : Nat → Nat → Nat → Nat → Nat × Int × Int
  | 0, j, by_, bx => bestOf (sadInt (cur j) (ref j) by_ bx) (0, 0) (around (0, 0) 32 1)
  | up + 1, j, by_, bx =>
    let q := searchLevel cur ref up (j + 1) (by_ / 2) (bx / 2)
    let c : Int × Int := (2 * q.2.1, 2 * q.2.2)
    bestOf (sadInt (cur j) (ref j) by_ bx) c (around c 8 1)

/-- The level-0 vector in quarter pixels and its SAD. -/
def searchBlock (cur ref : Nat → Int → Int → Nat) (by_ bx : Nat) : Nat × Int × Int :=
  let i := searchLevel cur ref 3 0 by_ bx
  let cost := sadSub (cur 0) (ref 0) by_ bx
  let h := bestOf cost (4 * i.2.1, 4 * i.2.2) (around (4 * i.2.1, 4 * i.2.2) 1 2)
  bestOf cost h.2 (around h.2 1 1)

/-- A motion record (R215). -/
def mvRecord (hasRef : Bool) (r : Nat × Int × Int) : List Byte :=
  if hasRef then leBytes 2 (codeOf 16 r.2.2) ++ leBytes 2 (codeOf 16 r.2.1) ++ leBytes 2 r.1 ++ leBytes 2 0
  else leBytes 4 0 ++ leBytes 2 0xFFFF ++ leBytes 2 1

/-- The scene-change score of a frame (R216). -/
def sceneScore (cur ref : Nat → Int → Int → Nat) (w h : Nat) (hasRef : Bool) : Nat :=
  if !hasRef then 65535
  else
    let blocks := (upFrom 0 (ceilDiv (levelDim 3 h) 4)).flatMap (fun y => (upFrom 0 (ceilDiv (levelDim 3 w) 4)).map (fun x => (y, x)))
    let inter := (blocks.map (fun b => (searchLevel cur ref 0 3 b.1 b.2).1)).foldl (· + ·) 0
    let intra := (blocks.map (fun b =>
      let ps := (blockPix b.1 b.2).map (fun q => cur 3 q.1 q.2)
      let m := (ps.foldl (· + ·) 0 + 8) / 16
      (ps.map (fun v => absDiff v m)).foldl (· + ·) 0)).foldl (· + ·) 0
    min 65535 (32768 * inter / max intra 1)

/-- Band j.bands of a job: its records, the trailer with the last band, and the post. -/
def writeBand (p : LivePort) (j : MseJob) (d : Dev) : Dev :=
  let c := p.cfg
  let w := condW c
  let h := condH c
  let cur := levelPix d (lumaBase p j.cur) w h
  let ref := levelPix d (lumaBase p ((j.cur + 3) % 4)) w h
  let field := p.areaBase + c.fieldBase
  let rows := min 8 (ceilDiv h 4 - 8 * j.bands)
  let d1 := forEach (upFrom (8 * j.bands) rows) (fun y dd =>
    forEach (upFrom 0 (ceilDiv w 4)) (fun x dd =>
      wrMem (field + y * c.fieldPitch + 8 * x) (mvRecord j.hasRef (searchBlock cur ref y x)) dd) dd) d
  let last : Bool := decide (h ≤ 32 * (j.bands + 1))
  let d2 := if last then
      wrMem (field + c.fieldPitch * ceilDiv h 4)
        (leBytes 4 j.frame ++ leBytes 4 (sceneScore cur ref w h j.hasRef) ++ leBytes 8 0) d1
    else d1
  let d3 := setF (kMse p.mse) 0 16 (getF d2 (kMse p.mse) 0 16 + 1) d2
  semPost (fld c.mseSem 8 5) (fld c.mseSem 0 6) 1 d3

/-- MSE_BAND: the port's engine finishes the next band, whose rows are conditioned (R216). -/
def execMseBand (port : Fin 24) (s : State) : Host.Outcome State Fault Refusal :=
  let d := s.dev
  let n := port.val
  match portAt d n with
  | some p =>
    match p.mseJobs with
    | j :: js =>
      let h := condH p.cfg
      let ready : Bool := p.frameOut != j.frame || decide (min (32 * (j.bands + 1)) h ≤ p.linesOut)
      let js' := if h ≤ 32 * (j.bands + 1) then js else { j with bands := j.bands + 1 } :: js
      whenDev ready "the band's rows are not conditioned" (putPort n { p with mseJobs := js' } (writeBand p j d)) s
    | [] => whenDev false "no picture waits for motion search" d s
  | none => whenDev false "the port is not bound" d s

end Sys2Proof.Machine
end

