-- ==== Sys2Proof/Machine/Rans.lean ====
section
/-! DEFINITION. The CDF builder and the rANS coder (R226 to R231, R493): selection, offsets, symbols and escapes, one step of
a substream in either direction. -/

namespace Sys2Proof.Machine

/-! The CDF builder (R226). -/

def symMax : Nat := 2 ^ 20

/-- The CDF that a scale selects: the number of boundaries at or below it. -/
def selectCdf (bound : List XR) (sigma : XR) : NumM Nat := do
  if xrIsNan sigma then
    raise flagInvalid
    pure 0
  else pure (bound.filter (fun b => xrLe b sigma)).length

/-- The symbol value of a latent and its mean. -/
def offsetOf (y mu : XR) : NumM Int := do
  match xrSub y mu with
  | .nan =>
    raise flagInvalid
    pure 0
  | .inf s =>
    raise flagOverflow
    pure (if s then -(symMax : Int) else symMax)
  | .fin s n den =>
    let k := (2 * n + den) / (2 * den)
    if symMax < k then raise flagOverflow
    let k := min k symMax
    pure (if s then -(k : Int) else k)

/-- n low bits of a number, most significant first (R231). -/
def bitsOf : Nat → Nat → List Bool
  | 0, _ => []
  | n + 1, v => bitAt v n :: bitsOf n v

/-- The symbol of a value in a CDF of half width R, with the escape bits. -/
def toSymbol (r : Nat) (s : Int) : Nat × List Bool :=
  if s.natAbs ≤ r then ((s + r).toNat, [])
  else
    let e := s.natAbs - r - 1
    let k := Nat.log2 (e + 1)
    (2 * r + 1, List.replicate k false ++ bitsOf (k + 1) (e + 1) ++ [decide (s < 0)])

/-- Bytes of a bit list, the last padded with 0 bits (R231). -/
def packBits : Nat → List Bool → List Byte
  | 0, _ => []
  | _ + 1, [] => []
  | fuel + 1, bs =>
    BitVec.ofNat 8 (((bs.take 8) ++ List.replicate (8 - (bs.take 8).length) false).foldl (fun a b => 2 * a + b.toNat) 0) :: packBits fuel (bs.drop 8)

def rawBytes (bs : List Bool) : List Byte := packBits (bs.length + 1) bs

def rawBits (bs : List Byte) : List Bool := bs.flatMap (fun b => bitsOf 8 b.toNat)

/-- n raw bits from a position; past the end it fails with the substream's length (Table 09-14). -/
def rawGet (raw : List Bool) (pos n : Nat) : Except Nat Nat :=
  if raw.length < pos + n then .error (raw.length / 8)
  else .ok (((raw.drop pos).take n).foldl (fun a b => 2 * a + b.toNat) 0)

/-- The prefix of an escape: its zeros, and the position after its one. -/
def escPrefix (raw : List Bool) : Nat → Nat → Nat → Except Nat (Nat × Nat)
  | 0, _, pos => .error ((pos - 1) / 8)
  | fuel + 1, k, pos =>
    match rawGet raw pos 1 with
    | .error e => .error e
    | .ok b => if b == 1 then .ok (k, pos + 1) else if k == 20 then .error (pos / 8) else escPrefix raw fuel (k + 1) (pos + 1)

/-- The value of a symbol, and the raw position after it. -/
def fromSymbol (r sym : Nat) (raw : List Bool) (pos : Nat) : Except Nat (Int × Nat) :=
  if sym ≤ 2 * r then .ok ((sym : Int) - r, pos)
  else do
    let (k, pos) ← escPrefix raw 22 0 pos
    let low ← rawGet raw pos k
    let neg ← rawGet raw (pos + k) 1
    let v := r + 1 + (2 ^ k + low - 1)
    if symMax < v then .error ((pos + k) / 8)
    else .ok (if neg == 1 then -(v : Int) else v, pos + k + 1)

/-! The coder (R228, R230). A CDF is its half width and its cumulative entries c[0] to c[n]. -/

structure Cdf where
  r : Nat
  c : List Nat
  deriving DecidableEq, Repr

/-- The CDF of a 512-byte record (R223). -/
def cdfOf (bs : List Byte) : Cdf :=
  let w (i : Nat) : Nat := leNat ((bs.drop (2 * i)).take 2)
  let r := w 0 % 256
  { r := r, c := 0 :: (upFrom 1 (2 * r + 1)).map w ++ [65536] }

def Cdf.cum (c : Cdf) (i : Nat) : Nat := c.c.getD i 65536
def Cdf.freq (c : Cdf) (i : Nat) : Nat := c.cum (i + 1) - c.cum i

/-- The encoder's step for symbol j of frequency f and start c. -/
def encSym (j f c : Nat) (st : List Nat × List Nat) : List Nat × List Nat :=
  let l := j % 8
  let x := st.1.getD l 65536
  let big : Bool := decide (f * 65536 ≤ x)
  let x' := if big then x / 65536 else x
  (st.1.set l (x' / f * 65536 + x' % f + c), if big then x % 65536 :: st.2 else st.2)

/-- A whole step: (f, c) of each symbol in order. -/
def encodeStep (items : List (Nat × Nat)) : List Byte :=
  if items.isEmpty then []
  else
    let st := (items.zip (upFrom 0 items.length)).foldr (fun p st => encSym p.2 p.1.1 p.1.2 st) (List.replicate 8 65536, [])
    st.1.flatMap (leBytes 4) ++ st.2.flatMap (leBytes 2)

/-- The decoder within a step: states, word pointer, raw position, flags, values in order (reversed), and the error. -/
structure DecRun where
  xs : List Nat
  pos : Nat
  rawPos : Nat
  flags : Flags
  vals : List Int
  err : Option (Nat × Nat × Nat)
  deriving DecidableEq, Repr

/-- The greatest symbol whose start is at or below a slot. -/
def symbolAt (c : Cdf) (slot : Nat) : Nat := ((upFrom 0 (2 * c.r + 2)).filter (fun i => decide (c.cum i ≤ slot))).length - 1

/-- Decode symbol j of substream k with a CDF. -/
def decSym (k j : Nat) (sub : List Byte) (raw : List Bool) (c : Cdf) (st : DecRun) : DecRun :=
  let l := j % 8
  let x := st.xs.getD l 0
  let slot := x % 65536
  let sym := symbolAt c slot
  let x' := c.freq sym * (x / 65536) + slot - c.cum sym
  if x' < 65536 && decide (sub.length < st.pos + 2) then { st with err := some (k, j, st.pos) }
  else
    let st := if x' < 65536 then { st with xs := st.xs.set l (x' * 65536 + leNat ((sub.drop st.pos).take 2)), pos := st.pos + 2 }
      else { st with xs := st.xs.set l x' }
    match fromSymbol c.r sym raw st.rawPos with
    | .ok (v, p) => { st with vals := v :: st.vals, rawPos := p }
    | .error off => { st with err := some (8, j, off) }

/-- Decode a part: the scales of its symbols, from symbol j of the step. -/
def decodePart (k : Nat) (sub : List Byte) (raw : List Bool) (bound : List XR) (cdf : Nat → Cdf) : Nat → List XR → DecRun → DecRun
  | _, [], st => st
  | j, s :: ss, st =>
    let (i, f) := runNum (selectCdf bound s)
    let st := decSym k j sub raw (cdf i) { st with flags := st.flags.or f }
    if st.err.isSome then st else decodePart k sub raw bound cdf (j + 1) ss st

/-- The initial states of a substream, or its error (Table 09-14). -/
def initStates (k : Nat) (sub : List Byte) : Except (Nat × Nat × Nat) (List Nat) :=
  let xs := leWords 8 sub
  if sub.length < 32 then .error (k, 0, sub.length)
  else if sub.length % 2 == 1 then .error (k, 0, sub.length - 1)
  else
    match (upFrom 0 8).find? (fun l => decide (xs.getD l 0 < 65536)) with
    | some l => .error (k, 0, 4 * l)
    | none => .ok xs

/-- The final check of a step of n symbols. -/
def finalOk (sub : List Byte) (st : DecRun) : Bool := st.pos == sub.length && st.xs.all (· == 65536)

end Sys2Proof.Machine
end

