-- ==== Sys2Proof/Machine/Encode.lean ====
section
/-! DEFINITION. The encoder side of a session (R270, R271, R286, R294): posted output buffers, the header units, and the
output of a finished slice or audio frame. -/

namespace Sys2Proof.Machine

def sessPort (d : Dev) (x : Sess) : Option LivePort :=
  match x.port with
  | some n => portAt d n
  | none => none

/-- The region of a session's bundle. -/
def sessLo (d : Dev) (x : Sess) : Nat := match bundleAt d x.bundle with | some b => b.lo | none => 0

/-- A profile limit of a session's bundle (Table 11-3). -/
def sessLimit (d : Dev) (x : Sess) (off n : Nat) : Nat :=
  match bundleAt d x.bundle with
  | some b => limit d b off n
  | none => 0

/-- The picture that a session's networks code: the conditioned picture for live input (R255). -/
def pictureSize (d : Dev) (x : Sess) : Nat × Nat :=
  match sessPort d x with
  | some p => (condW p.cfg, condH p.cfg)
  | none => (x.picW, x.picH)

/-- Slices of a picture (R256). -/
def sliceCount (ds h : Nat) : Nat := ceilDiv (ceilDiv h (2 ^ ds)) 4

/-- Units of latents in a frame of a session: its slices, or one for audio. -/
def frameSlices (d : Dev) (x : Sess) : Nat :=
  if x.media == 1 then 1 else sliceCount (sessLimit d x 6 1) (pictureSize d x).2

/-! Output buffers (R286). -/

/-- Return a buffer with its bytes used. -/
def returnBuf (i : Nat) (x : Sess) (b : OutBuf) (d : Dev) : Dev :=
  postCpl 1 x.cplRing { tag := 0, status := stSuccess, kind := 4, ident := i, w3 := b.tag, w4 := b.used } d

/-- Write a unit into the oldest posted buffer with room; the ones it does not fit are returned. The buffer as it stood, or
none when no buffer has room. -/
def storeUnit (i : Nat) (bytes : List Byte) (d : Dev) : Option OutBuf × Dev :=
  match sessAt d i with
  | some x =>
    let fits (b : OutBuf) : Bool := decide (b.used + bytes.length ≤ b.len)
    let d := forEach (x.bufs.takeWhile (fun b => !fits b)) (returnBuf i x) d
    match x.bufs.dropWhile (fun b => !fits b) with
    | [] => (none, updSess i (fun y => { y with bufs := [] }) d)
    | b :: bs =>
      (some b, updSess i (fun y => { y with bufs := { b with used := b.used + bytes.length } :: bs }) (emit (.hostWrite 1 (b.addr + b.used) bytes) d))
  | none => (none, d)

def updFrame (i : Nat) (f : Frame → Frame) (d : Dev) : Dev := updSess i (fun x => { x with frame := x.frame.map f }) d

/-- Count a unit dropped for lack of output space (R271, R286, R294). -/
def dropUnit (i : Nat) (d : Dev) : Dev :=
  let d := updFrame i (fun f => { f with dropped := f.dropped + 1, status := if f.status == 0 then stNoSpace else f.status }) d
  match sessAt d i with
  | some x => match x.port with | some n => bumpF (kLiv n 0x14) 0 16 1 d | none => d
  | none => d

/-- Write a header unit of a session. -/
def putHeader (i type : Nat) (body : List Byte) (d : Dev) : Dev :=
  match storeUnit i (storedUnit type body) d with
  | (some _, d) => updFrame i (fun f => { f with written := f.written + 1 }) d
  | (none, d) => dropUnit i d

/-! Latency (R291, R292, R294). -/

/-- The instant t0 of a slice or of an audio frame, and its bound in ns. -/
def unitStart (d : Dev) (x : Sess) (p : LivePort) (num slice : Nat) : Option (Nat × Nat) :=
  let rows := 4 * 2 ^ sessLimit d x 6 1
  let r := min ((slice + 1) * rows - 1 + sessLimit d x 0x0E 2) (condH p.cfg - 1)
  let need := if p.cfg.audio then p.cfg.inH else linesNeeded p.cfg r
  let here (e : Nat × Nat × Nat) : Bool :=
    (e.1 == num && decide (need ≤ e.2.1)) || (e.1 != num && decide ((e.1 + 2 ^ 32 - num) % 2 ^ 32 < 2 ^ 31))
  (p.hist.find? here).map (fun e => (e.2.2, if p.cfg.audio then 2000000 else 1500000))

/-- Count a unit's latency at its output completion. -/
def noteLatency (x : Sess) (num slice : Nat) (d : Dev) : Dev :=
  match x.port, sessPort d x with
  | some n, some p =>
    match unitStart d x p num slice with
    | some (t0, bound) =>
      let t := nowNs d - t0
      let d := if getF d (kLiv n 0x18) 0 32 < t then setF (kLiv n 0x18) 0 32 (min t (2 ^ 32 - 1)) d else d
      if bound < t then bumpF (kLiv n 0x14) 16 16 1 d else d
    | none => d
  | _, _ => d

/-! Units of a frame. -/

/-- Note the latents of a slice: a new token for a coded one, the reference for one that was not coded (R266, R271). -/
def noteSlice (i slice : Nat) (coded : Bool) (d : Dev) : Dev :=
  let tok := d.nextId + 1
  match sessAt d i with
  | some x =>
    let v := if coded then tok else if x.refOk then tget 0 x.ref slice else 0
    updFrame i (fun f => { f with lat := tset 0 f.lat slice v, next := max f.next (slice + 1) }) { d with nextId := d.nextId + 1 }
  | none => d

/-- OUTPUT_UNIT and ENCODER_SLICE_DROP: a finished slice (its index from its header) or audio frame is written with its output
completion, or dropped. -/
def outputCoded (i type : Nat) (hdr bytes : List Byte) (d : Dev) : Dev :=
  match sessAt d i with
  | some x =>
    match x.frame with
    | some f =>
      let slice := if type == 3 then beAt hdr 1 2 else 0
      match storeUnit i bytes d with
      | (some b, d) =>
        let d := noteSlice i slice true (updFrame i (fun f => { f with written := f.written + 1 }) d)
        let d := postCpl 1 x.cplRing { tag := 0, status := stSuccess, kind := 1, ident := i, w3 := b.tag, w4 := b.used, w5 := bytes.length,
                                       w6 := f.num, w7 := if type == 3 then slice else 0xFFFF } d
        noteLatency x f.num slice d
      | (none, d) => noteSlice i slice false (dropUnit i d)
    | none => d
  | none => d

/-- A lease of an encode session has failed: the encoder writes no unit for it (R271). -/
def failCoded (i st : Nat) (d : Dev) : Dev := noteFrame i st [] Flags.none d

/-- The sequence header of a session (Table 10-2). Where the spec gives an encode session no channel or block count (an audio
session without a port) they are free. -/
def encSeqBody (d : Dev) (x : Sess) : List Byte :=
  let fp := match bundleAt d x.bundle with | some b => b.fp | none => []
  let size := pictureSize d x
  let rate := match sessPort d x with | some p => (p.cfg.rateNum, p.cfg.rateDen) | none => (x.rateNum, x.rateDen)
  let col := match sessPort d x with
    | some p => p.cfg.bt2020.toNat * 128 + p.cfg.full.toNat * 64 + (outRgb p.cfg).toNat * 32
    | none => x.colour
  let sound := match sessPort d x with
    | some p => (p.cfg.inW, p.cfg.inH)
    | none => (1 + Config.freeNat d.free 0 % 8, 1 + Config.freeNat d.free 1 % 1024)
  seqBody (regionNat d (sessLo d x) 7 1) fp x.seqId x.media (sessLimit d x 6 1) (sessLimit d x 7 1) (x.media == 1)
    (size.1, size.2, rate.1, rate.2, col) sound.1 sound.2

/-- The header units at the start of a frame (R270): the sequence header of a first frame, or its copy before an intra frame; a
live port's time anchor; the frame header. -/
def putHeaders (i : Nat) (x : Sess) (num q : Nat) (intra : Bool) (d : Dev) : Dev :=
  let d := if x.start || (x.repeatSeq && intra && x.media != 1) then putHeader i 1 (encSeqBody d x) { d with free := d.free + 1 } else d
  let d := match sessPort d x with
    | some p =>
      match p.frames.find? (fun f => f.no == num) with
      | some f => putHeader i 5 (anchorBody num f.capture (timeLocked d)) d
      | none => d
    | none => d
  if x.media == 1 then d else putHeader i 2 (frameBody x.seqId num intra q) d

end Sys2Proof.Machine
end

