-- ==== Sys2Proof/Machine/FeltRun.lean ====
section
/-! DEFINITION. The entropy engines at work (R225, R232, R234 to R239, R243 to R246, R493): grants, family copies and the
commands STEP, LOAD, CLOSE and RELEASE. -/

namespace Sys2Proof.Machine

/-! Grants. -/

/-- Give a request its window: a new lease, its family slot, the reply (R234, R235). -/
def grantLease (o : OpenReq) (e w fs : Nat) (load : Bool) (d : Dev) : Dev :=
  let n := (tget 0 d.felt.grants o.slotKey + 1) % 65536
  let d := { d with
    felt.grants := tset 0 d.felt.grants o.slotKey n
    felt.opens := d.felt.opens.filter (fun x => x.slotKey != o.slotKey) }
  let d := if load then updEngSt e (fun x => x.setFam fs (some { bundle := o.bundle, family := o.family, nCdf := 0, ready := false })) d else d
  let l : Lease :=
    { slotKey := o.slotKey, session := o.session, live := o.live, bundle := o.bundle, unitType := o.unitType, dir := o.dir,
      family := o.family, famSlot := fs, symTotal := o.symTotal, doneQ := o.doneQ, tag := n }
  let d := setF kEntDisp 28 4 ((e + 1) % 16) (setLease e w l d)
  replyRecord o.slotKey stSuccess e w n (feltWindow e w) o.replyQ d

/-- LEASE_GRANT: the request examined first that can be granted gets its window. -/
def execLeaseGrant (s : State) : Host.Outcome State Fault Refusal :=
  let d := s.dev
  match nextGrant d with
  | some (o, e, w, fs, load) => whenDev true "" (grantLease o e w fs load d) s
  | none => whenDev false "no request can be granted" d s

/-! Failure (R245, R246). -/

/-- The error counter of an engine that a status adds to (Table 09-12). -/
def countFail (e st : Nat) (d : Dev) : Dev :=
  if st == stMalformed then bumpF (kEnt e 0x0C) 16 16 1 d
  else if st == stNoSpace then bumpF (kEnt e 0x0C) 8 8 1 d
  else if st == stMemUnc then bumpF (kEnt e 0x0C) 0 8 1 d
  else d

/-- A failed lease with where it failed. -/
def Lease.fail (l : Lease) (st : Nat) (err : Nat × Nat × Nat) : Lease :=
  { l with phase := .failed, status := st, errWhere := err.1, errSym := err.2.1, errOffset := err.2.2 }

/-- An encode lease that fails leaves its slice without a unit (R271). -/
def leaseFailed (st : Nat) (l : Lease) (d : Dev) : Dev := if l.dir || l.dropped then d else failCoded l.session st d

/-- A command fails its lease. -/
def failCmd (e w st : Nat) (err : Nat × Nat × Nat) (l : Lease) (d : Dev) : Dev :=
  leaseFailed st l (completeCmd e w st (l.fail st err) (countFail e st d))

/-! Family copies (R225). -/

/-- Copy a family image into its slot. -/
def copyFamily (e fs : Nat) (f : FamSlot) (lo img : Nat) (d : Dev) : Dev :=
  let n := regionNat d (lo + img) 6 2
  let cdfs := rdMem d (lo + img + regionNat d (lo + img) 0x0C 4) (512 * n)
  let bounds := rdMem d (lo + img + regionNat d (lo + img) 8 4) (4 * (n - 1))
  let d := wrMem (famBase e fs + 0x80000) bounds (wrMem (famBase e fs) cdfs d)
  showEng e (updEngSt e (fun x => x.setFam fs (some { f with nCdf := n, ready := true })) d)

/-- The copy failed: every lease that waits for it fails and the slot is empty. -/
def failFamily (e fs : Nat) (d : Dev) : Dev :=
  let d := showEng e (updEngSt e (fun x => x.setFam fs none) d)
  forEach ((engLeases d e).filter (fun p => p.2.famSlot == fs)) (fun p d =>
    leaseFailed stMemUnc p.2 (setLease e p.1 (p.2.fail stMemUnc (0, 0, 0)) (countFail e stMemUnc d))) d

/-- FAMILY_COPY: an engine ends the copy of a family, well or on an uncorrectable line. -/
def execFamilyCopy (engine : Fin 16) (fs : Fin 2) (r : ReqEnd) (s : State) : Host.Outcome State Fault Refusal :=
  let d := s.dev
  let e := engine.val
  match (engStAt d e).fam fs.val with
  | some f =>
    match bundleAt d f.bundle with
    | some b =>
      match familyAt d b f.family, r with
      | some img, .ok _ => whenDev (!f.ready && (poisonIn d b.lo b.len).isNone) "no copy runs" (copyFamily e fs.val f b.lo img d) s
      | some _, .failed st a =>
        whenDev (!f.ready && st == stMemUnc && inside a 1 b.lo b.len) "no copy runs"
          (failFamily e fs.val (if (poisonIn d a 1).isSome then d else ddrUncorrectable a d)) s
      | none, _ => whenDev false "no such family" d s
    | none => whenDev false "no such bundle" d s
  | none => whenDev false "no copy runs" d s

/-! Serving (R243). -/

/-- A lease's head command may run: its family is in place, or it has failed. -/
def leaseReady (d : Dev) (e : Nat) (l : Lease) : Bool :=
  !l.cmds.isEmpty && !l.dropped &&
  (l.phase == .failed || (match (engStAt d e).fam l.famSlot with | some f => f.ready && f.bundle == l.bundle && f.family == l.family | none => false))

/-- The window whose head command an engine runs next. -/
def nextServed (d : Dev) (e : Nat) : Option Nat :=
  let live := ((engLeases d e).filter (fun p => p.2.live && leaseReady d e p.2)).map (·.1)
  let rest := ((engLeases d e).filter (fun p => !p.2.live && leaseReady d e p.2)).map (·.1)
  match roundRobin (engStAt d e).servedLive live with
  | some w => some w
  | none => roundRobin (engStAt d e).served rest

/-- Run the head command of a lease when its turn has come; `f` gets the lease without it. -/
def onHead (engine : Fin 16) (window : Fin 5) (pick : EntCmd → Bool) (f : EntCmd → Lease → Dev → Dev) (s : State) :
    Host.Outcome State Fault Refusal :=
  let d := s.dev
  let e := engine.val
  let w := window.val
  match leaseAt d (leaseKey e w) with
  | some l =>
    match l.cmds with
    | c :: cs =>
      let served (x : EngSt) : EngSt := if l.live then { x with servedLive := w } else { x with served := w }
      whenDev (pick c && nextServed d e == some w) "the engine does not run this command" (f c { l with cmds := cs } (updEngSt e served d)) s
    | [] => whenDev false "the lease has no command" d s
  | none => whenDev false "the window is not leased" d s

/-! The family of a lease. -/

def leaseBounds (d : Dev) (e : Nat) (l : Lease) : List XR :=
  match (engStAt d e).fam l.famSlot with
  | some f => (upFrom 0 (f.nCdf - 1)).map (fun i => val32 (leNat (rdMem d (famBase e l.famSlot + 0x80000 + 4 * i) 4)))
  | none => []

def leaseCdf (d : Dev) (e : Nat) (l : Lease) (i : Nat) : Cdf := cdfOf (rdMem d (famBase e l.famSlot + 512 * i) 512)

/-! STEP (R226 to R231, R237). -/

/-- Write symbol values to the symbol area. -/
def putSyms (e w base : Nat) (vs : List Int) (d : Dev) : Dev :=
  wrMem (feltWindow e w + 0x20000 + 4 * base) (vs.flatMap (fun v => leBytes 4 (codeOf 32 v))) d

/-- Raise an engine's sticky flags and count its symbols (Tables 09-11, 09-13). -/
def noteEngine (e n : Nat) (f : Flags) (d : Dev) : Dev :=
  let d := if f.invalid then setF (kEnt e 0x08) 3 1 1 d else d
  let d := if f.overflow then setF (kEnt e 0x08) 0 1 1 d else d
  regPut (kEnt e 0x10) ((regVal d (kEnt e 0x10) + n) % 2 ^ 32) d

/-- The three binary32 values of encode record j. -/
def encRecord (d : Dev) (e w param j : Nat) : XR × XR × XR :=
  let v (i : Nat) : XR := val32 (leNat (rdMem d (feltWindow e w + param + 12 * j + 4 * i) 4))
  (v 0, v 1, v 2)

/-- Encode one record: its value, its CDF, its symbol and its escape bits. -/
def encRec (d : Dev) (e : Nat) (l : Lease) (bounds : List XR) (r : XR × XR × XR) : NumM (Int × Nat × Nat × List Bool) := do
  let i ← selectCdf bounds r.2.2
  let s ← offsetOf r.1 r.2.1
  let t := toSymbol (leaseCdf d e l i).r s
  pure (s, i, t.1, t.2)

/-- The bytes a lease's working area holds. -/
def workBytes (l : Lease) : Nat := (l.subs.map (·.length)).foldl (· + ·) 0 + (l.raw.length + 7) / 8

/-- A part on encode. -/
def stepEncode (e w : Nat) (last : Bool) (param count base : Nat) (l : Lease) (d : Dev) : Dev :=
  let bounds := leaseBounds d e l
  let (rs, fl) := runNum ((upFrom 0 count).mapM (fun j => encRec d e l bounds (encRecord d e w param j)))
  let d := noteEngine e count fl (putSyms e w base (rs.map (·.1)) d)
  let items := l.items ++ rs.map (fun r => (r.2.1, r.2.2.1))
  let l := { l with
    flags := l.flags.or fl
    symDone := l.symDone + count
    raw := l.raw ++ rs.flatMap (fun r => r.2.2.2)
    items := items
    openStep := true
    nextSym := base + count }
  let l := if last then
      { l with
        subs := l.subs ++ [encodeStep (items.map (fun p => ((leaseCdf d e l p.1).freq p.2, (leaseCdf d e l p.1).cum p.2)))]
        items := []
        openStep := false
        nextSym := 0
        stepsDone := l.stepsDone + 1 }
    else l
  if 131072 < workBytes l then failCmd e w stNoSpace (0, 0, 0) l d
  else completeCmd e w (if fl == Flags.none then stSuccess else stFlags) l d

/-- A part on decode. -/
def stepDecode (e w : Nat) (last : Bool) (param count base : Nat) (l : Lease) (d : Dev) : Dev :=
  let k := l.stepsDone
  let sub := l.subs.getD k []
  let sigmas := (upFrom 0 count).map (fun j => val32 (leNat (rdMem d (feltWindow e w + param + 4 * j) 4)))
  let fail (err : Nat × Nat × Nat) (vals : List Int) (l : Lease) (d : Dev) : Dev :=
    failCmd e w stMalformed err l (noteEngine e vals.length Flags.none (putSyms e w base (vals ++ List.replicate (count - vals.length) 0) d))
  match if l.openStep then .ok l.xs else initStates k sub with
  | .error err => fail err [] l d
  | .ok xs =>
    let r := decodePart k sub l.raw (leaseBounds d e l) (leaseCdf d e l) base sigmas
      { xs := xs, pos := if l.openStep then l.pos else 32, rawPos := l.rawPos, flags := Flags.none, vals := [], err := none }
    let vals := r.vals.reverse
    let l := { l with flags := l.flags.or r.flags }
    let d := noteEngine e 0 r.flags d
    match r.err with
    | some err => fail err vals l d
    | none =>
      if last && !finalOk sub r then fail (k, base + count, r.pos) vals l d
      else
        let d := noteEngine e count Flags.none (putSyms e w base vals d)
        let l := { l with
          symDone := l.symDone + count
          xs := r.xs
          pos := r.pos
          rawPos := r.rawPos
          openStep := !last
          nextSym := if last then 0 else base + count
          stepsDone := if last then k + 1 else k }
        completeCmd e w (if r.flags == Flags.none then stSuccess else stFlags) l d

/-- A STEP keeps the limits of R237. -/
def stepLimits (l : Lease) (param count base : Nat) : Bool :=
  decide (0x200 ≤ param) && decide (param + (if l.dir then 4 else 12) * count ≤ 0x20000) && decide (base + count ≤ 32768) &&
  decide (l.symDone + count ≤ l.symTotal)

/-- STEP by lease state (Table 09-7). -/
def runStep (e w : Nat) (ok : Bool) (step : Nat) (last : Bool) (param count base : Nat) (l : Lease) (d : Dev) : Dev :=
  if !ok then completeCmd e w stInvalid l d
  else
    match l.phase with
    | .failed =>
      let d := if l.dir then putSyms e w base (List.replicate (min count (32768 - base)) 0) d else d
      completeCmd e w l.status l d
    | .closed => completeCmd e w stConflict l d
    | _ =>
      if (l.phase == .opened) == l.dir then completeCmd e w stConflict l d
      else if !stepLimits l param count base then completeCmd e w stInvalid l d
      else if step != l.stepsDone || base != l.nextSym || (l.dir && decide (l.nSteps ≤ step)) then completeCmd e w stConflict l d
      else if l.dir then stepDecode e w last param count base l d
      else stepEncode e w last param count base l d

/-- STEP: the engine codes one part of a context step. -/
def execStep (engine : Fin 16) (window : Fin 5) (s : State) : Host.Outcome State Fault Refusal :=
  onHead engine window (fun c => match c with | .step _ _ _ _ _ _ => true | _ => false)
    (fun c l d =>
      match c with
      | .step ok st last param count base => runStep engine.val window.val ok st last param count base l d
      | _ => d) s

/-! LOAD (R232, R244, R259). -/

/-- Cut the substreams after a size table out of a payload. -/
def cutSubs : List Nat → List Byte → List (List Byte)
  | [], bs => [bs]
  | n :: ns, bs => bs.take n :: cutSubs ns (bs.drop n)

/-- The first size field whose running total exceeds a room; none where the total fills it exactly, else the last field. -/
def badSize (room : Nat) : Nat → Nat → List Nat → Option Nat
  | i, acc, [] => if acc == room then none else some (i - 1)
  | i, acc, n :: ns => if room < acc + n then some i else badSize room (i + 1) (acc + n) ns

/-- Parse a stored unit: the substreams and the raw-bit substream, or the error (Table 09-14). -/
def parseUnit (type nSteps payOff : Nat) (stored : List Byte) : Except (Nat × Nat × Nat) (List (List Byte)) :=
  let start : List Byte := [0, 0, 1, BitVec.ofNat 8 type]
  match (upFrom 0 4).find? (fun i => stored.getD i 0 != start.getD i 0) with
  | some i => .error (10, 0, i)
  | none =>
    match unprotect (stored.drop 4) with
    | .error i => .error (10, 0, 4 + i)
    | .ok body =>
      let unit := start ++ body
      let table := 4 + 3 * nSteps
      if unit.length < payOff + table then .error (10, 0, unit.length)
      else
        let pay := unit.drop payOff
        let sizes := (upFrom 0 (nSteps + 1)).map (fun i => beAt pay (1 + 3 * i) 3)
        if beAt pay 0 1 != nSteps then .error (9, 0, 0)
        else
          match badSize (pay.length - table) 0 0 sizes with
          | some i => .error (9, 0, 1 + 3 * i)
          | none => .ok (cutSubs (sizes.take nSteps) (pay.drop table))

/-- LOAD by lease state (Table 09-7). -/
def runLoad (e w : Nat) (ok : Bool) (nSteps payOff len : Nat) (l : Lease) (d : Dev) : Dev :=
  if !ok then completeCmd e w stInvalid l d
  else
    match l.phase with
    | .failed => completeCmd e w l.status l d
    | .opened =>
      if !l.dir then completeCmd e w stConflict l d
      else
        match parseUnit l.unitType nSteps payOff (rdMem d (feltWindow e w + 0x60000) len) with
        | .error err => failCmd e w stMalformed err l d
        | .ok parts =>
          completeCmd e w stSuccess
            { l with phase := .loaded, nSteps := nSteps, subs := parts.take nSteps, raw := rawBits (parts.getD nSteps []), rawPos := 0 } d
    | _ => completeCmd e w stConflict l d

/-- LOAD: the engine parses a stored unit and its size table. -/
def execLoad (engine : Fin 16) (window : Fin 5) (s : State) : Host.Outcome State Fault Refusal :=
  onHead engine window (fun c => match c with | .load _ _ _ _ => true | _ => false)
    (fun c l d =>
      match c with
      | .load ok n p len => runLoad engine.val window.val ok n p len l d
      | _ => d) s

/-! CLOSE (R232, R244). -/

/-- The payload of an encoded unit (R258, R259). -/
def payloadOf (l : Lease) : List Byte :=
  let raw := rawBytes l.raw
  beBytes 1 l.subs.length ++ (l.subs.flatMap (fun s => beBytes 3 s.length)) ++ beBytes 3 raw.length ++ l.subs.flatMap id ++ raw

/-- CLOSE on encode: build the unit and write it out. -/
def closeEncode (e w hdrLen : Nat) (l : Lease) (d : Dev) : Dev :=
  let hdr := rdMem d (feltWindow e w + 0x100) hdrLen
  let unit := storedUnit l.unitType (hdr ++ payloadOf l)
  let l := { l with out := true }
  if 131072 < unit.length then failCmd e w stNoSpace (0, 0, 0) l d
  else
    let d := completeCmd e w stSuccess { l with phase := .closed, unitLen := unit.length } (wrMem (feltWindow e w + 0x60000) unit d)
    noteFrame l.session 0 [] l.flags (outputCoded l.session l.unitType hdr unit d)

/-- CLOSE on decode: the checks of R244. Where steps are missing the spec names no error location: it is free. -/
def closeDecode (e w : Nat) (l : Lease) (d : Dev) : Dev :=
  let l := { l with out := true }
  let left := l.raw.drop l.rawPos
  if l.stepsDone != l.nSteps || l.openStep then
    failCmd e w stMalformed (Config.freeNat d.free 0 % 11, Config.freeNat d.free 1 % 65536, Config.freeNat d.free 2 % 2 ^ 17) l
      { d with free := d.free + 1 }
  else if decide (8 ≤ left.length) || left.any id then failCmd e w stMalformed (8, 0, l.rawPos / 8) l d
  else completeCmd e w stSuccess { l with phase := .closed } d

/-- CLOSE by lease state (Table 09-7). -/
def runClose (e w : Nat) (ok : Bool) (hdrLen : Nat) (l : Lease) (d : Dev) : Dev :=
  if !ok then completeCmd e w stInvalid l d
  else
    match l.phase with
    | .failed => completeCmd e w l.status { l with out := true } d
    | .closed => completeCmd e w stConflict l d
    | .opened => if l.dir || l.openStep then completeCmd e w stConflict l d else closeEncode e w hdrLen l d
    | .loaded => closeDecode e w l d

/-- CLOSE: the engine builds the encoded unit or checks that decoding is complete. -/
def execClose (engine : Fin 16) (window : Fin 5) (s : State) : Host.Outcome State Fault Refusal :=
  onHead engine window (fun c => match c with | .close _ _ => true | _ => false)
    (fun c l d =>
      match c with
      | .close ok n => runClose engine.val window.val ok n l d
      | _ => d) s

/-- RELEASE: the command completes and the window is free. -/
def execRelease (engine : Fin 16) (window : Fin 5) (s : State) : Host.Outcome State Fault Refusal :=
  onHead engine window (fun c => match c with | .release _ => true | _ => false)
    (fun c l d =>
      match c with
      | .release true => freeWindow engine.val window.val (completeCmd engine.val window.val stSuccess l d)
      | _ => completeCmd engine.val window.val stInvalid l d) s

end Sys2Proof.Machine
end

