-- ==== Sys2Proof/Machine/Decoder.lean ====
section
/-! DEFINITION. The decoder of a session (R252, R262 to R269): what it does with each stored unit of the dispatched frame. -/

namespace Sys2Proof.Machine

def updDec (i : Nat) (f : Dec → Dec) (d : Dev) : Dev := updSess i (fun x => { x with dec := f x.dec }) d

def decAt (d : Dev) (i : Nat) : Dec := match sessAt d i with | some x => x.dec | none => {}

/-- "Discard" of R263. -/
def discardUnit (i : Nat) (d : Dev) : Dev := updDec i (fun c => { c with discarded := satAdd 0xFFFF c.discarded 1 }) d

/-! The current sequence (Table 10-2). -/

def Dec.media (c : Dec) : Nat := beAt c.body 19 2 / 2 ^ 14
def Dec.audio (c : Dec) : Bool := c.media == 1
def Dec.seqId (c : Dec) : Nat := beAt c.body 17 2

/-- Slices of a frame of the current sequence. -/
def decSlices (d : Dev) (x : Sess) : Nat := sliceCount (sessLimit d x 6 1) (beAt x.dec.body 23 2)

/-- The fields of a sequence header lie in their ranges. -/
def seqFieldsOk (d : Dev) (x : Sess) (b : List Byte) : Bool :=
  let m := beAt b 19 2
  let media := m / 2 ^ 14
  let geometry : Bool :=
    within 16 (min 16384 (sessLimit d x 0 2)) (beAt b 21 2) && within 16 (min 16384 (sessLimit d x 2 2)) (beAt b 23 2) &&
    (if media == 0 then decide (1 ≤ beAt b 25 4) && within 1 1001 (beAt b 29 4) else beAt b 25 4 == 0 && beAt b 29 4 == 0) &&
    beAt b 33 1 % 32 == 0
  let sound : Bool := within 1 8 (beAt b 21 1) && within 1 1024 (beAt b 22 2) && beAt b 24 1 == 0 && beAt b 25 9 == 0
  decide (media < 3) && bitAt (sessLimit d x 5 1) media && m % 128 == 0 && fld m 7 4 == sessLimit d x 7 1 &&
  fld m 11 3 == (if media == 1 then 0 else sessLimit d x 6 1) && (if media == 1 then sound else geometry)

/-- The status of R262 for a sequence header body, 0 when it is accepted. -/
def seqStatus (d : Dev) (x : Sess) (b : List Byte) : Nat :=
  let fp := match bundleAt d x.bundle with | some u => u.fp | none => []
  if b.length != 38 || !crcOk b then stMalformed
  else if beAt b 0 1 != regionNat d (sessLo d x) 7 1 || (b.drop 1).take 16 != fp then stMismatch
  else if seqFieldsOk d x b then stSuccess else stMalformed

/-! Reports (R268). -/

/-- Write a frame report at the next place of the submission. -/
def frameReport (i num concealed : Nat) (intra drift : Bool) (a : Option Anchor) (fl : Flags) (d : Dev) : Dev :=
  match sessAt d i with
  | some x =>
    match x.frame with
    | some f =>
      let c := x.dec
      let st := if concealed != 0 || c.missing != 0 then stConcealed else endStatus 0 fl
      let w0 := concealed * 65536 + fl.toNat * 4096 + intra.toNat * 1024 + a.isSome.toNat * 512 + drift.toNat * 256 + st
      let cap := match a with | some t => t.capture | none => 0
      let lock := match a with | some t => t.locked.toNat | none => 0
      let ws := [w0, num, cap % 2 ^ 32, cap / 2 ^ 32, c.discarded * 65536 + c.missing, lock, 0, 0]
      let d := emit (.hostWrite 1 (f.req.reportAddr + 32 * f.reports) (ws.flatMap (leBytes 4))) d
      updFrame i (fun g => { g with reports := g.reports + 1, num := num }) (updDec i (fun c => { c with discarded := 0, missing := 0 }) d)
    | none => d
  | none => d

/-! Frames (R264 to R266). -/

/-- Conceal slice k of the open frame (R266). -/
def concealSlice (i k : Nat) (d : Dev) : Dev :=
  updDec i (fun c => { c with open_ := c.open_.map (fun f => { f with
    lat := tset 0 f.lat k (if c.refOk then tget 0 c.ref k else 0)
    concealed := f.concealed + 1
    next := k + 1 }) }) d

/-- Conceal slices lo to hi - 1, in increasing order. -/
def concealRun (i lo hi : Nat) (d : Dev) : Dev := forEach (upFrom lo (hi - lo)) (concealSlice i) d

/-- The flags of the session's running decode programs. -/
def slotFlags (d : Dev) (i : Nat) : Flags := ((sessSlots d i).map (fun k => (slotAt d k).flags)).foldl Flags.or Flags.none

/-- FRAME_CLOSE: conceal what is missing, make the frame the reference, settle drift, report (R264, R269). -/
def closeFrame (i : Nat) (d : Dev) : Dev :=
  match sessAt d i with
  | some x =>
    match x.dec.open_ with
    | some f0 =>
      let d := concealRun i f0.next (decSlices d x) d
      match (decAt d i).open_ with
      | some f =>
        let bad : Bool := f.concealed != 0 || f.gap != 0 || f.noRef
        let drift := if bad then true else if f.intra then false else x.dec.drift
        let d := updDec i (fun c => { c with phase := .seq, open_ := none, refOk := true, ref := f.lat, drift := drift }) d
        frameReport i f.num f.concealed f.intra drift f.anchor (f.flags.or (slotFlags d i)) d
      | none => d
    | none => d
  | none => d

/-- Close the frame if one is open. -/
def closeOpen (i : Nat) (d : Dev) : Dev := if (decAt d i).phase == .frame then closeFrame i d else d

/-- The anchor held for a frame that opens; one for another frame is dropped. -/
def takeAnchor (i num : Nat) (d : Dev) : Option Anchor × Dev :=
  let c := decAt d i
  let d' := updDec i (fun c => { c with anchor := none }) d
  match c.anchor with
  | some a => if a.num == num then (some a, d') else (none, discardUnit i d')
  | none => (none, d)

/-- A frame number comes after the last of the sequence. -/
def numLater (c : Dec) (num : Nat) : Bool :=
  match c.last with
  | some l => within 1 (2 ^ 31 - 1) ((num + 2 ^ 32 - l) % 2 ^ 32)
  | none => true

/-- Frames missing before a frame number. -/
def numGap (c : Dec) (num : Nat) : Nat :=
  match c.last with
  | some l => (num + 2 ^ 32 - l) % 2 ^ 32 - 1
  | none => 0

/-- Open a frame (R264, R269). -/
def openFrame (i num q : Nat) (intra : Bool) (d : Dev) : Dev :=
  let gap := numGap (decAt d i) num
  let (a, d) := takeAnchor i num d
  let d := updFrame i (fun f => { f with num := num }) d
  updDec i (fun c => { c with
    phase := .frame
    last := some num
    stillDone := true
    missing := satAdd 0xFFFF c.missing gap
    drift := c.drift || gap != 0 || (!intra && !c.refOk)
    open_ := some { num := num, intra := intra, q := q, gap := gap, noRef := !intra && !c.refOk, anchor := a } }) d

/-! The head unit. -/

/-- The session with its dispatched decode frame and the unit to be handled. -/
def headUnit (d : Dev) (i : Nat) : Option (Sess × List Byte) :=
  match sessAt d i with
  | some x =>
    match x.frame with
    | some f => if x.decode then f.units.head?.map (fun u => (x, u)) else none
    | none => none
  | none => none

/-- The body of a unit that passes R254. -/
def unitBody (u : List Byte) : Option (List Byte) := match unprotect u.tail with | .ok b => some b | .error _ => none

def unitType (u : List Byte) : Nat := (u.headD 0).toNat

/-- Handle the head unit of a session where it is of a type and passes R254. -/
def onUnit (sess : BitVec 16) (type : Nat) (ok : Sess → List Byte → Bool) (f : Sess → List Byte → Dev → Dev) (s : State) :
    Host.Outcome State Fault Refusal :=
  let d := s.dev
  let i := sess.toNat
  match headUnit d i with
  | some (x, u) =>
    match unitBody u with
    | some b =>
      whenDev (!u.isEmpty && unitType u == type && ok x b) "the next unit is another"
        (f x b (updFrame i (fun g => { g with units := g.units.tail }) d)) s
    | none => whenDev false "the next unit fails its framing" d s
  | none => whenDev false "no unit waits" d s

def always (_ : Sess) (_ : List Byte) : Bool := true

/-- SEQUENCE_HEADER (R262, Table 10-6). -/
def execSequenceHeader (sess : BitVec 16) (s : State) : Host.Outcome State Fault Refusal :=
  onUnit sess 1 always (fun x b d =>
    let i := sess.toNat
    let st := seqStatus d x b
    let d := closeOpen i d
    if st == stSuccess then
      if x.dec.phase != .noSeq && x.dec.phase != .refused && x.dec.body == b then d
      else updDec i (fun c => { c with phase := .seq, body := b, last := none, refOk := false, ref := [], stillDone := false }) d
    else
      updDec i (fun c => { c with phase := .refused, refOk := false, ref := [] })
        (updFrame i (fun f => { f with status := if f.status == 0 then st else f.status }) d)) s

/-- A frame header is valid for the current sequence (Table 10-3). -/
def frameHeaderOk (d : Dev) (x : Sess) (b : List Byte) : Bool :=
  let c := x.dec
  let t := beAt b 6 2
  b.length == 12 && crcOk b && beAt b 0 2 == c.seqId && decide (t / 2 ^ 14 < 2) && (c.media != 2 || (t / 2 ^ 14 == 0 && !c.stillDone)) &&
  decide (fld t 6 8 < sessLimit d x 0x0C 2) && t % 64 == 0 && numLater c (beAt b 2 4)

/-- FRAME_HEADER (Table 10-6). -/
def execFrameHeader (sess : BitVec 16) (s : State) : Host.Outcome State Fault Refusal :=
  onUnit sess 2 always (fun x b d =>
    let i := sess.toNat
    match x.dec.phase with
    | .noSeq | .refused => discardUnit i d
    | _ =>
      let d := closeOpen i d
      if !x.dec.audio && frameHeaderOk d x b then openFrame i (beAt b 2 4) (fld (beAt b 6 2) 6 8) (beAt b 6 2 / 2 ^ 14 == 0) d
      else discardUnit i d) s

/-- A slice is decoded or concealed by its lease; elsewhere it is discarded (R265). -/
def sliceDecodes (d : Dev) (x : Sess) (b : List Byte) : Bool :=
  match x.dec.open_ with
  | some f =>
    x.dec.phase == .frame && decide (3 ≤ b.length) && beAt b 0 1 == f.num % 256 && decide (f.next ≤ beAt b 1 2) && decide (beAt b 1 2 < decSlices d x)
  | none => false

/-- The decode lease of a session that has ended and whose result no unit has taken. -/
def endedLease (d : Dev) (i type : Nat) (at_ : Option (Fin 16 × Fin 5)) : Option (Nat × Nat × Lease) :=
  match at_ with
  | some (e, w) =>
    match leaseAt d (leaseKey e.val w.val) with
    | some l => if l.session == i && l.dir && l.unitType == type && !l.used && (l.phase == .closed || l.phase == .failed) then some (e.val, w.val, l) else none
    | none => none
  | none => none

/-- What a lease's end means for its frame: its flags, and a failure other than STREAM_MALFORMED (R283). -/
def takeLease (i : Nat) (r : Nat × Nat × Lease) (d : Dev) : Dev :=
  let l := r.2.2
  let st := if l.phase == .failed && l.status != stMalformed then l.status else 0
  noteFrame i st [] l.flags (setLease r.1 r.2.1 { l with used := true } d)

/-- SLICE: the decoder decodes the unit with the lease named, conceals it, or discards it (R265). -/
def execSlice (sess : BitVec 16) (lease : Option (Fin 16 × Fin 5)) (s : State) : Host.Outcome State Fault Refusal :=
  let i := sess.toNat
  let d0 := s.dev
  onUnit sess 3 (fun x b => if sliceDecodes d0 x b then (endedLease d0 i 3 lease).isSome else lease.isNone) (fun x b d =>
    match endedLease d0 i 3 lease, x.dec.open_ with
    | some r, some f =>
      let k := beAt b 1 2
      let d := takeLease i r (concealRun i f.next k d)
      if r.2.2.phase == .failed then concealSlice i k d
      else
        let tok := d.nextId + 1
        updDec i (fun c => { c with open_ := c.open_.map (fun f => { f with lat := tset 0 f.lat k tok, next := k + 1 }) }) { d with nextId := d.nextId + 1 }
    | _, _ => discardUnit i d) s

/-- An audio frame is decoded by its lease; elsewhere it is discarded (R267). -/
def audioDecodes (d : Dev) (x : Sess) (b : List Byte) : Bool :=
  x.dec.phase == .seq && x.dec.audio && decide (5 ≤ b.length) && decide (beAt b 4 1 < sessLimit d x 0x0C 2) && numLater x.dec (beAt b 0 4)

/-- Produce a concealed audio frame. -/
def concealAudio (i num : Nat) (d : Dev) : Dev := frameReport i num 1 false (decAt d i).drift none Flags.none d

/-- Decode or conceal an audio frame with its lease (R267). -/
def decodeAudio (i num : Nat) (r : Nat × Nat × Lease) (d : Dev) : Dev :=
  let c := decAt d i
  let gap := numGap c num
  let d := if gap ≤ 16 then forEach (upFrom 1 gap) (fun k d => concealAudio i ((num + 2 ^ 32 - gap - 1 + k) % 2 ^ 32) d) d
    else updDec i (fun c => { c with missing := satAdd 0xFFFF c.missing gap }) d
  let (a, d) := takeAnchor i num d
  let d := takeLease i r d
  let failed : Bool := r.2.2.phase == .failed
  let tok := d.nextId + 1
  let d := updDec i (fun c => { c with
    last := some num
    refOk := true
    ref := if failed then c.ref else tset 0 [] 0 tok }) { d with nextId := d.nextId + 1 }
  frameReport i num failed.toNat false (decAt d i).drift a (r.2.2.flags.or (slotFlags d i)) d

/-- AUDIO_FRAME (R267, Table 10-6). -/
def execAudioFrame (sess : BitVec 16) (lease : Option (Fin 16 × Fin 5)) (s : State) : Host.Outcome State Fault Refusal :=
  let i := sess.toNat
  let d0 := s.dev
  onUnit sess 4 (fun x b => if audioDecodes d0 x b then (endedLease d0 i 4 lease).isSome else lease.isNone) (fun _ b d =>
    match endedLease d0 i 4 lease with
    | some r => decodeAudio i (beAt b 0 4) r d
    | none => discardUnit i (closeOpen i d)) s

/-- TIME_ANCHOR (Table 10-6). -/
def execTimeAnchor (sess : BitVec 16) (s : State) : Host.Outcome State Fault Refusal :=
  onUnit sess 5 always (fun x b d =>
    let i := sess.toNat
    let ok : Bool := b.length == 17 && crcOk b && beAt b 12 1 % 128 == 0
    let a : Anchor := { num := beAt b 0 4, capture := beAt b 4 8, locked := beAt b 12 1 == 128 }
    match x.dec.phase, ok with
    | .seq, true | .frame, true =>
      let d := match x.dec.open_ with | some f => if f.num == a.num then d else closeOpen i d | none => d
      let d := if (decAt d i).anchor.isSome then discardUnit i d else d
      updDec i (fun c => { c with anchor := some a }) d
    | _, _ => discardUnit i d) s

/-- The decoder ignores a unit in SEQ and FRAME where it is well formed; elsewhere it is discarded. -/
def ignoreUnit (i : Nat) (x : Sess) (ok : Bool) (d : Dev) : Dev :=
  if ok && (x.dec.phase == .seq || x.dec.phase == .frame) then d else discardUnit i d

/-- PADDING (Table 10-6). -/
def execPadding (sess : BitVec 16) (s : State) : Host.Outcome State Fault Refusal :=
  onUnit sess 6 always (fun x b d => ignoreUnit sess.toNat x (b.all (· == 0xFF) && decide (b.length ≤ 65535)) d) s

/-- END_OF_SEQUENCE (Table 10-6). -/
def execEndOfSequence (sess : BitVec 16) (s : State) : Host.Outcome State Fault Refusal :=
  onUnit sess 7 always (fun x b d =>
    let i := sess.toNat
    if !b.isEmpty then discardUnit i d
    else
      match x.dec.phase with
      | .noSeq => d
      | .refused => updDec i (fun c => { c with phase := .noSeq }) d
      | _ => updDec i (fun c => { c with phase := .noSeq, refOk := false, ref := [] }) (closeOpen i d)) s

/-- USER_DATA (Table 10-6). -/
def execUserData (sess : BitVec 16) (s : State) : Host.Outcome State Fault Refusal :=
  onUnit sess 8 always (fun x b d => ignoreUnit sess.toNat x (within 16 65535 b.length) d) s

/-- DISCARDED_UNIT: a unit without a type byte, of a reserved type, or that fails R254 (R252). -/
def execDiscardedUnit (sess : BitVec 16) (s : State) : Host.Outcome State Fault Refusal :=
  let d := s.dev
  let i := sess.toNat
  match headUnit d i with
  | some (_, u) =>
    whenDev (u.isEmpty || (unitBody u).isNone || !within 1 8 (unitType u)) "the unit is not discarded"
      (discardUnit i (updFrame i (fun g => { g with units := g.units.tail }) d)) s
  | none => whenDev false "no unit waits" d s

end Sys2Proof.Machine
end

