-- ==== Sys2Proof/Machine/Ports.lean ====
section
/-! DEFINITION. Binding a live port (R195, R196, R289, R290): the port record, admission, allocation, and the unbinding. -/

namespace Sys2Proof.Machine

/-! DDR4 regions. -/

/-- Two ranges share no byte. -/
def apart (a n b m : Nat) : Bool := decide (a + n ≤ b) || decide (b + m ≤ a)

/-- A range of DDR4 that is allocated to nothing, not locked, and holds no retired page; `live` says in which part it lies. -/
def regionFree (d : Dev) (live : Bool) (a n : Nat) : Bool :=
  d.ddr.trained && decide (0 < n) &&
  (if live then inside a n ddrBase (liveBytes d) else decide (ddrBase + liveBytes d ≤ a) && inside a n ddrBase (ddrSize d)) &&
  d.sess.allocs.all (fun r => apart a n r.1 r.2) && d.ddr.bufs.all (fun b => apart a n b.lo b.len) &&
  d.ddr.retired.all (fun p => apart a n p 4096) && d.boot.locked.all (fun r => apart a n r.1 r.2)

/-- Some free range of n bytes exists: one that begins where the part or a used range ends, rounded up to 64. -/
def regionExists (d : Dev) (live : Bool) (n : Nat) : Bool :=
  let ends := (if live then ddrBase else ddrBase + liveBytes d) :: d.sess.allocs.map (fun r => r.1 + r.2) ++
    d.ddr.bufs.map (fun b => b.lo + b.len) ++ d.ddr.retired.map (· + 4096) ++ d.boot.locked.map (fun r => r.1 + r.2)
  ends.any (fun a => regionFree d live (ceilDiv a 64 * 64) n)

def allocRegion (a n : Nat) (d : Dev) : Dev := { d with sess.allocs := d.sess.allocs ++ [(a, n)] }
def freeRegion (a : Nat) (d : Dev) : Dev := { d with sess.allocs := d.sess.allocs.filter (fun r => r.1 != a) }

/-! The record (Table 08-1). -/

def recOf (bs : List Byte) : LiveRec :=
  let w (o n : Nat) : Nat := bytesNat bs o n
  { audio := w 0 1 == 1, st2110 := w 1 1 == 1, cb := w 2 1, inFmt := w 3 1, inW := w 4 2, inH := w 6 2, rateNum := w 8 4, rateDen := w 0xC 4,
    bt2020 := w 0x10 1 == 1, full := w 0x11 1 == 1, csc := w 0x12 1, orient := w 0x13 1, cropX := w 0x14 2, cropY := w 0x16 2, cropW := w 0x18 2,
    cropH := w 0x1A 2, outW := w 0x1C 2, outH := w 0x1E 2, regroup := w 0x20 1, bf16 := w 0x21 1 == 1, mseEn := w 0x22 1 == 1, inFrames := w 0x23 1,
    ringRows := w 0x24 2, mseSem := w 0x26 2, ringBase := w 0x28 8, yPitch := w 0x30 4, planePitch := w 0x34 4, relAddr := w 0x38 8,
    recAddr := w 0x40 8, fieldBase := w 0x48 8, fieldPitch := w 0x50 4, cplRing := w 0x54 2, vatArea := w 0x56 2, inBase := w 0x58 8,
    inLinePitch := w 0x60 4, inPlanePitch := w 0x64 4, inFramePitch := w 0x68 4, pt := w 0x6C 1, udpPort := w 0x6E 2,
    dstIp := (bs.drop 0x70).take 16, srcIp := (bs.drop 0x80).take 16 }

/-- The codes of the record's enumerated fields and its reserved byte. -/
def recCodesOk (bs : List Byte) : Bool :=
  let w (o : Nat) : Nat := bytesNat bs o 1
  decide (w 0 < 2) && decide (w 1 < 2) && decide (w 2 < 8) && decide (w 3 < 10) && decide (w 0x10 < 2) && decide (w 0x11 < 2) && decide (w 0x12 < 3) &&
  decide (w 0x13 < 16) && decide (w 0x20 < 4) && decide (w 0x21 < 2) && decide (w 0x22 < 2) && w 0x6D == 0

/-- in_fmt matches kind and source (Table 08-2). -/
def fmtOk (c : LiveRec) : Bool := (c.audio == decide (8 ≤ c.inFmt)) && (!c.st2110 || decide (3 ≤ c.inFmt))

/-- out / crop lies in [1/8, 8]. -/
def ratioOk (o c : Nat) : Bool := decide (c ≤ 8 * o) && decide (o ≤ 8 * c)

/-- The video fields. -/
def videoOk (c : LiveRec) : Bool :=
  let even (n : Nat) : Bool := n % 2 == 0
  within 16 3840 c.inW && within 16 2160 c.inH && (!(is420 c || is422 c) || (even c.inW && even c.cropX && even c.cropW)) &&
  (!is420 c || (even c.inH && even c.cropY && even c.cropH)) && within 1 1001 c.rateDen && decide (c.rateNum ≤ 60 * c.rateDen) &&
  decide (c.cropX + c.cropW ≤ c.inW) && decide (c.cropY + c.cropH ≤ c.inH) && within 16 3840 c.outW && within 16 3840 c.outH &&
  ratioOk c.outW c.cropW && ratioOk c.outH c.cropH && condW c % rgFactor c == 0 && condH c % rgFactor c == 0 &&
  (if c.mseEn then c.fieldBase % 64 == 0 && c.fieldPitch % 64 == 0 && decide (8 * ceilDiv (condW c) 4 ≤ c.fieldPitch) && fld c.mseSem 13 3 == 0 && fld c.mseSem 6 2 == 0
   else c.mseSem == 0 && c.fieldBase == 0 && c.fieldPitch == 0)

/-- The audio fields; those of video are 0. -/
def audioOk (c : LiveRec) : Bool :=
  within 1 8 c.inW && within 1 1024 c.inH && c.rateNum == 0 && c.rateDen == 0 && !c.bt2020 && !c.full && c.csc == 0 && c.orient == 0 && c.cropX == 0 &&
  c.cropY == 0 && c.cropW == 0 && c.cropH == 0 && c.outW == 0 && c.outH == 0 && c.regroup == 0 && !c.bf16 && !c.mseEn && c.mseSem == 0 &&
  c.fieldBase == 0 && c.fieldPitch == 0 && c.planePitch == 0

/-- The fields of the source. -/
def sourceOk (c : LiveRec) : Bool :=
  let zero (l : List Byte) : Bool := l.all (· == 0)
  if c.st2110 then
    c.cplRing == 0 && c.inBase == 0 && c.inLinePitch == 0 && c.inPlanePitch == 0 && c.inFramePitch == 0 && within 96 127 c.pt && within 1 65535 c.udpPort
  else
    c.cb == 0 && c.pt == 0 && c.udpPort == 0 && zero c.dstIp && zero c.srcIp && c.inLinePitch % 64 == 0 && c.inPlanePitch % 64 == 0 &&
    c.inFramePitch % 64 == 0 && decide (c.cplRing < 1024)

/-- Each structure lies inside the Vat area with the extent it is given (R196). -/
def extentsOk (c : LiveRec) : Bool :=
  let size := c.vatArea * 65536
  let e := if c.bf16 then 2 else 1
  let r := rgFactor c
  let planes := ceilDiv (3 * r * r) 32
  let ring := if c.audio then (c.ringRows - 1) * c.yPitch + 24 * c.inW
    else (planes - 1) * c.planePitch + (c.ringRows - 1) * c.yPitch + condW c / r * 32 * e
  within 1 768 c.vatArea && within 2 8 c.inFrames && within 1 65535 c.ringRows && c.ringBase % 64 == 0 && c.yPitch % 64 == 0 && c.planePitch % 64 == 0 &&
  c.relAddr % 4 == 0 && c.recAddr % 32 == 0 && inside c.ringBase ring 0 size && inside c.relAddr 4 0 size && inside c.recAddr 128 0 size &&
  (!c.mseEn || inside c.fieldBase (c.fieldPitch * ceilDiv (condH c) 4 + 16) 0 size)

/-- Program images that a manifest names for roles in a list: their offsets. -/
def roleImages (d : Dev) (lo : Nat) (roles : List Nat) : List Nat :=
  match sectOf d lo 2 with
  | some s =>
    ((upFrom 0 (s.size / 8)).filter (fun i => roles.contains (regionNat d (lo + s.off) (8 * i) 1))).filterMap (fun i =>
      (sectFind d lo 3 (regionNat d (lo + s.off) (8 * i + 4) 4)).map (·.off))
  | none => []

/-- mse_sem lies in the sem_mask of an encode program of the session's bundle. -/
def mseSemOk (d : Dev) (x : Sess) (c : LiveRec) : Bool :=
  !c.mseEn || (roleImages d (sessLo d x) [1, 2]).any (fun o => bitAt (regionNat d (sessLo d x + o) 0x20 8) (fld c.mseSem 0 6))

/-- An ST 2110 port names a Crebor port in Ethernet mode. -/
def cbOk (d : Dev) (c : LiveRec) : Bool := !c.st2110 || ((linkAt d c.cb).mode == 1 && getF d (kCrbPort c.cb 0) 31 1 == 1)

/-- The record breaks no rule of Table 08-1 or of its chapter. -/
def recOk (d : Dev) (x : Sess) (bs : List Byte) : Bool :=
  let c := recOf bs
  bs.length == 144 && recCodesOk bs && fmtOk c && (c.audio == (x.media == 1)) && (if c.audio then audioOk c else videoOk c) && sourceOk c && extentsOk c &&
  mseSemOk d x c && cbOk d c

/-! Admission (Table 11-8). -/

/-- Conditioned pixels (or audio frames) per ms. -/
def pixPerMs (c : LiveRec) : Nat := if c.audio then ceilDiv 8 c.inH else ceilDiv (c.outW * c.outH * c.rateNum) (c.rateDen * 1000)

/-- Slice starts (or audio frames) per ms. -/
def startsPerMs (c : LiveRec) (ds : Nat) : Nat :=
  if c.audio then ceilDiv 8 c.inH else ceilDiv (sliceCount ds (condH c) * c.rateNum) (c.rateDen * 1000)

/-- A per-1,024-pixel cost of P, divided further; audio costs are per frame. -/
def costOf (c : LiveRec) (cost div : Nat) : Nat := ceilDiv (pixPerMs c * cost) (if c.audio then div else 1024 * div)

/-- Bytes per stored input pixel, doubled. -/
def inBytes2 (c : LiveRec) : Nat := (if is420 c then 3 else if is422 c then 4 else 6) * sampleBytes c

/-- The rate of a whole quantity per frame, per ms. -/
def perMs (c : LiveRec) (n : Nat) : Nat := if c.audio then n else ceilDiv (n * c.rateNum) (c.rateDen * 1000)

/-- Demands of a port on rows 4, 5, 7, 8, 9 and 10. -/
structure Demand where
  loom : Nat
  slice : Nat
  lanes : Nat
  deckle : Nat
  mse : Nat
  ddr : Nat
  deriving DecidableEq, Repr

def demandOf (d : Dev) (x : Sess) (c : LiveRec) : Demand :=
  let l (o n : Nat) : Nat := sessLimit d x o n
  let s := startsPerMs c (l 6 1)
  { loom := costOf c (l 0x10 4) (2 * max 1 (l 0x0A 1)) + 4612 * s
    slice := l 0x14 4
    lanes := costOf c (l 0x18 4) 8 + 128 * s * (l 7 1 + 2)
    deckle := if c.audio then 0 else perMs c (max (c.cropW * c.cropH) (c.outW * c.outH))
    mse := if c.mseEn then pixPerMs c else 0
    ddr := costOf c (l 0x1C 4) 1 + (if !c.st2110 then 0 else if c.audio then 8 * c.inW * 48 else inBytes2 c * perMs c (c.inW * c.inH)) +
      (if c.mseEn then 6 * pixPerMs c else 0) }

/-- Bound ports with the sessions they serve. -/
def boundPorts (d : Dev) : List (LivePort × Sess) :=
  d.live.ports.filterMap (fun e =>
    match e.2 with
    | some p => (sessAt d p.session).map (fun x => (p, x))
    | none => none)

def sumOf {α : Type} (f : α → Nat) (l : List α) : Nat := (l.map f).foldl (· + ·) 0

/-- Cores that hold Live programs: those of the bound ports' sessions. -/
def liveCores (d : Dev) : List Nat := (boundPorts d).flatMap (fun b => b.2.cores)

/-! Power levels (R460, R461). -/

/-- Cores of a die without a Live program, powered or not. -/
def calmCores (d : Dev) (die : Nat) : List Nat := (upFrom (16 * die) 16).filter (fun c => !(liveCores d).contains c)

/-- The deepest level at which both dies can gate their share without touching a Live core. -/
def floorLevel (d : Dev) : Nat := min 3 (min ((calmCores d 0).length / 4) ((calmCores d 1).length / 4))

def critical (d : Dev) : Bool := getF d kPwrStat 30 1 == 1

/-- The level in force: the deepest of the request and of shedding, limited by the floor; P3 while THERMAL_CRITICAL is in force. -/
def levelInForce (d : Dev) : Nat := if critical d then 3 else min (max (getF d kPwrCtl 0 2) d.pwr.shed) (floorLevel d)

/-- The cores a die gates at a level: the highest-numbered ones without a Live program, then the others. -/
def wantGated (d : Dev) (level die : Nat) : List Nat :=
  ((calmCores d die).reverse ++ ((upFrom (16 * die) 16).filter (fun c => (liveCores d).contains c)).reverse).take (4 * level)

/-- The cores that the level in force gates. -/
def levelCores (d : Dev) : List Nat := wantGated d (levelInForce d) 0 ++ wantGated d (levelInForce d) 1

/-- Choose the cores to gate for the level in force, and show it in PWR_STAT. -/
def relevel (d : Dev) : Dev :=
  let want := levelCores d
  let d := { d with pwr.chosen := want.filter (fun c => !d.pwr.gated.contains c) }
  let n (die : Nat) : Nat := (d.pwr.gated.filter (fun c => c / 16 == die)).length
  setF kPwrStat 31 1 (!d.pwr.chosen.isEmpty).toNat (setF kPwrStat 8 4 (n 1) (setF kPwrStat 4 4 (n 0)
    (setF kPwrStat 2 2 (floorLevel d) (setF kPwrStat 0 2 (levelInForce d) d))))

/-- Powered cores of a die without a Live program. -/
def freeCores (d : Dev) (die : Nat) : List Nat := (upFrom (16 * die) 16).filter (fun c => !(liveCores d).contains c && !d.pwr.gated.contains c)

/-- The die that R290 chooses among those with n free cores. -/
def chooseDie (d : Dev) (n : Nat) : Option Nat :=
  let used (die : Nat) : Nat := ((liveCores d).filter (fun c => c / 16 == die)).length
  let ok (die : Nat) : Bool := decide (n ≤ (freeCores d die).length)
  if ok 0 && (!ok 1 || decide (used 0 ≤ used 1)) then some 0 else if ok 1 then some 1 else none

/-- The engine of four with the least demand, the lowest on a tie. -/
def leastOf (f : Nat → Nat) : Nat := (upFrom 1 3).foldl (fun b e => if f e < f b then e else b) 0

/-- Bytes of a Vat that Live data takes (row 3). -/
def vatUsed (d : Dev) (die : Nat) : Nat :=
  sumOf (fun b => b.1.cfg.vatArea * 65536) ((boundPorts d).filter (fun b => b.1.die == die)) +
  sumOf (fun v => v.2.2.2) (d.sess.vats.filter (fun v => v.2.1 == die))

def hasVatCopy (d : Dev) (h die : Nat) : Bool := d.sess.vats.any (fun v => v.1 == h && v.2.1 == die)

/-- Where a port goes: die, Deckle, MSE and cores; or the first failing row of Table 11-8. -/
inductive Admit where
  | fits (die deckle mse : Nat) (cores : List Nat)
  | refused (row : Nat)
  deriving DecidableEq, Repr

def allow (d : Dev) (x : Sess) (n : Nat) (c : LiveRec) : Admit :=
  let l (o k : Nat) : Nat := sessLimit d x o k
  let bound := boundPorts d
  let dem := demandOf d x c
  let total (f : Demand → Nat) : Nat := sumOf (fun b => f (demandOf d b.2 b.1.cfg)) bound
  let onDck (e : Nat) : Nat := sumOf (fun b => (demandOf d b.2 b.1.cfg).deckle) (bound.filter (fun b => b.1.deckle == e && !b.1.cfg.audio))
  let onMse (e : Nat) : Nat := sumOf (fun b => (demandOf d b.2 b.1.cfg).mse) (bound.filter (fun b => b.1.mse == e && b.1.cfg.mseEn))
  let dck := leastOf onDck
  let mse := leastOf onMse
  let row1 : Bool := (portAt d n).isNone && l 9 1 == 1 &&
    (if c.audio then decide (c.inH ≤ 160) else decide (c.outW ≤ l 0 2) && decide (c.outH ≤ l 2 2) && decide (c.rateNum ≤ l 4 1 * c.rateDen))
  if !row1 then .refused 1
  else
    match chooseDie d (l 0x0A 1) with
    | none => .refused 2
    | some die =>
      let vat := vatUsed d die + c.vatArea * 65536 + (if hasVatCopy d x.bundle die then 0 else l 0x24 4)
      if 48 * 1048576 < vat then .refused 3
      else if 180000 < dem.loom then .refused 4
      else if 180000 < dem.slice then .refused 5
      else if 32 ≤ bound.length then .refused 6
      else if 6400000 < total (·.lanes) + dem.lanes then .refused 7
      else if 1600000 < onDck dck + dem.deckle then .refused 8
      else if 497664 < onMse mse + dem.mse then .refused 9
      else if 40000 * getF d kMemCfg 0 16 < total (·.ddr) + dem.ddr then .refused 10
      else .fits die (if c.audio then 0 else dck) (if c.mseEn then mse else 0) ((freeCores d die).take (l 0x0A 1))

/-! The plan of the firmware. -/

/-- Vat ranges in use on a die. -/
def vatRanges (d : Dev) (die : Nat) : List (Nat × Nat) :=
  ((boundPorts d).filter (fun b => b.1.die == die)).map (fun b => (b.1.areaBase, b.1.cfg.vatArea * 65536)) ++
  (d.sess.vats.filter (fun v => v.2.1 == die)).map (fun v => v.2.2)

/-- Bytes of the ST 2110 input ring and of the luma buffers. -/
def inRingBytes (c : LiveRec) (p : BindPlan) : Nat := if c.st2110 then c.inFrames * p.ringFrame else 0
def lumaBytes (c : LiveRec) : Nat := if c.mseEn then 4 * (condW c * condH c) else 0

/-- A plan's ranges are free and hold what they must. -/
def planOk (d : Dev) (x : Sess) (c : LiveRec) (die : Nat) (p : BindPlan) : Bool :=
  let copy := if hasVatCopy d x.bundle die then 0 else sessLimit d x 0x24 4
  let freeVat (a n : Nat) : Bool := inside a n (vatBase die) 0x4000000 && (vatRanges d die).all (fun r => apart a n r.1 r.2)
  let lines := if c.audio then c.inH else c.inH
  freeVat p.area (c.vatArea * 65536) && p.area % 64 == 0 &&
  (copy == 0 || (freeVat p.vatCopy copy && apart p.area (c.vatArea * 65536) p.vatCopy copy)) &&
  (!c.st2110 || (regionFree d true p.inRing (inRingBytes c p) &&
    decide ((if c.audio then 6 else 1) * c.inW * (if c.audio then audioBytes c else sampleBytes c) ≤ p.ringLine) &&
    decide (lines * p.ringLine ≤ p.ringPlane) && decide ((if c.audio then 1 else 3) * p.ringPlane ≤ p.ringFrame))) &&
  (!c.mseEn || (regionFree d true p.luma (lumaBytes c) && (!c.st2110 || apart p.luma (lumaBytes c) p.inRing (inRingBytes c p))))

/-- The scaler coefficients of a bundle's Deckle section (R208). -/
def bundleCoefs (d : Dev) (lo : Nat) : List Int :=
  match sectOf d lo 6 with
  | some s => (upFrom 0 512).map (fun i => signedOf 16 (regionNat d (lo + s.off) (2 * i) 2))
  | none => []

/-- The bytes of a bundle's sections with vat = 1. -/
def vatSections (d : Dev) (lo : Nat) : List Byte := ((sects d lo).filter (fun s => bitAt s.flags 0)).flatMap (fun s => rdMem d (lo + s.off) s.size)

/-- LIV_PORT_CFG of a bound port (Table 08-4). -/
def portCfgWord (i : Nat) (c : LiveRec) (dck mse : Nat) : Nat :=
  2 ^ 31 + c.audio.toNat * 2 ^ 30 + c.st2110.toNat * 2 ^ 29 + c.cb * 2 ^ 26 + dck * 2 ^ 24 + mse * 2 ^ 22 + c.mseEn.toNat * 2 ^ 21 + i

/-- Bind port n to session i: the Vat copy, the buffers, the release word, the registers (R196, R197, R210, R219). -/
def bindPort (i n : Nat) (x : Sess) (c : LiveRec) (die dck mse : Nat) (cores : List Nat) (p : BindPlan) (d : Dev) : Dev :=
  let bs := vatSections d (sessLo d x)
  let d := if hasVatCopy d x.bundle die || bs.isEmpty then d
    else wrMem p.vatCopy bs { d with sess.vats := d.sess.vats ++ [(x.bundle, die, p.vatCopy, sessLimit d x 0x24 4)] }
  let buf (a len : Nat) (on : Bool) : List LiveBuf := if on then [{ lo := a, len := len, ident := 65536 + i }] else []
  let d := { d with ddr.bufs := d.ddr.bufs ++ buf p.inRing (inRingBytes c p) c.st2110 ++ buf p.luma (lumaBytes c) c.mseEn }
  let port : LivePort :=
    { cfg := c, session := i, die := die, deckle := dck, mse := mse, areaBase := p.area, coefs := bundleCoefs d (sessLo d x), inRing := p.inRing,
      ringLine := p.ringLine, ringPlane := p.ringPlane, ringFrame := p.ringFrame, luma := p.luma }
  let d := wrMem (p.area + c.relAddr) (leBytes 4 0) d
  let d := regPut (kLiv n 0x00) (portCfgWord i c dck mse) d
  relevel (showMse (putPort n port (updSess i (fun y => { y with port := some n, cores := cores }) d)))

/-- Unbind the port of a session and release its reservation (R218): waiting AT_LINE descriptors are cancelled (R368), the Vat
area and the live-region buffers go, and the bundle's Vat copy with the last Live session of the bundle on the die. -/
def releasePort (i : Nat) (d : Dev) : Dev :=
  match sessAt d i with
  | some x =>
    match x.port with
    | some n =>
      let p := portAt d n
      let d := sweepLines n (unbindPort n d)
      let d := { d with ddr.bufs := d.ddr.bufs.filter (fun b => b.ident != 65536 + i || b.lo == x.ctx) }
      let d := relevel (updSess i (fun y => { y with port := none, cores := [] }) d)
      let die := match p with | some q => q.die | none => 0
      if (boundPorts d).any (fun b => b.2.bundle == x.bundle && b.1.die == die) then d
      else { d with sess.vats := d.sess.vats.filter (fun v => !(v.1 == x.bundle && v.2.1 == die)) }
    | none => d
  | none => d

/-- Refuse a command of a session state; a FREE session is unknown (R282). -/
def wrongState (x : Desc) (d : Dev) : Dev :=
  match sessAt d x.ident with
  | some _ => finishDesc x stConflict [] d
  | none => finishDesc x stUnknown [] d

/-- PORT_BIND on an OPEN Live session without a port. -/
def runPortBind (x : Desc) (y : Sess) (port : Nat) (r : ReqEnd) (plan : BindPlan) (d : Dev) : Dev :=
  match r with
  | .failed st _ => finishDesc x st [] d
  | .ok bs =>
    let c := recOf bs
    if !recOk d y bs || decide (24 ≤ port) then finishDesc x stInvalid [] d
    else
      match allow d y port c with
      | .refused row => finishDesc x stRefused [row] d
      | .fits die dck mse cores =>
        finishDesc x stSuccess [die + dck * 16 + mse * 256, plan.area % 2 ^ 32, plan.area / 2 ^ 32] (bindPort x.ident port y c die dck mse cores plan d)

/-- The plan matters only where the port is admitted. -/
def bindPlanOk (d : Dev) (y : Sess) (port : Nat) (r : ReqEnd) (plan : BindPlan) : Bool :=
  match r with
  | .failed st _ => st == stBadAddr
  | .ok bs =>
    bs.length == 144 &&
    (!recOk d y bs || decide (24 ≤ port) ||
     (match allow d y port (recOf bs) with | .refused _ => true | .fits die _ _ _ => planOk d y (recOf bs) die plan))

/-- PORT_BIND (R289): `r` gives the record as read from host memory. -/
def execPortBind (uid port : Nat) (r : ReqEnd) (plan : BindPlan) (s : State) : Host.Outcome State Fault Refusal :=
  let d := s.dev
  match cmdDesc d uid 1 0x11 with
  | some x =>
    match sessAt d x.ident with
    | some y =>
      if y.phase == .opened && y.cls == 0 && y.port.isNone then
        whenDev (bindPlanOk d y port r plan) "the firmware's plan does not fit" (runPortBind x y port r plan d) s
      else whenDev true "" (wrongState x d) s
    | none => whenDev true "" (wrongState x d) s
  | none => whenDev false "no such descriptor is eligible" d s

/-- PORT_UNBIND in OPEN and FAULTED. -/
def execPortUnbind (uid : Nat) (s : State) : Host.Outcome State Fault Refusal :=
  onDesc uid 1 0x12 (fun x d =>
    match sessAt d x.ident with
    | some y =>
      if (y.phase == .opened || y.phase == .faulted) && y.port.isSome then finishDesc x stSuccess [] (releasePort x.ident d)
      else wrongState x d
    | none => wrongState x d) s

end Sys2Proof.Machine
end

