-- ==== Sys2Proof/Machine/Press.lean ====
section
/-! DEFINITION. The Press (R405 to R424): its commands, their dispatch to an engine, and their completion. -/

namespace Sys2Proof.Machine

/-- A stream context of PF3; none is IDLE. -/
def pressCtx (d : Dev) (stream : Nat) : Option PressCtx := tget none d.press.ctxs stream

def setPressCtx (stream : Nat) (c : Option PressCtx) (d : Dev) : Dev := { d with press.ctxs := tset none d.press.ctxs stream c }

def pressQueue (d : Dev) (e : Nat) : List PressCmd := tget [] d.press.engs e

/-- Queued uncompressed bytes of a command: an INFLATE counts its output buffer (log entry 23). -/
def pressBytes (c : PressCmd) : Nat := if c.op == 0x30 then c.srcLen else if c.op == 0x31 then c.dstLen else 0

/-- PRS_ENG_STAT shows the running command and how many wait behind it (Table 16-4). -/
def showPress (e : Nat) (d : Dev) : Dev :=
  regPut (kPrs e 0)
    (match pressQueue d e with
     | c :: cs => 2 ^ 31 + (c.op == 0x31).toNat * 2 ^ 29 + c.stream * 256 + min 255 cs.length
     | [] => 0) d

def setPressQueue (e : Nat) (q : List PressCmd) (d : Dev) : Dev := showPress e { d with press.engs := tset [] d.press.engs e q }

/-- Count uncompressed bytes processed (Table 16-5). -/
def countPress (e n : Nat) (d : Dev) : Dev :=
  let v := regVal d (kPrs e 4) + regVal d (kPrs e 8) * 2 ^ 32 + n
  regPut (kPrs e 4) (v % 2 ^ 32) (regPut (kPrs e 8) (v / 2 ^ 32 % 2 ^ 32) d)

/-- Count a failed command (Table 16-6). -/
def countPressErr (e st : Nat) (d : Dev) : Dev :=
  if st == stMalformed then bumpF (kPrs e 12) 16 16 1 d
  else if st == stNoSpace then bumpF (kPrs e 12) 8 8 1 d
  else bumpF (kPrs e 12) 0 8 1 d

/-! Acceptance. -/

/-- The operands of a PF3 submission (Table 16-2). -/
def pressOf (x : Desc) : PressCmd :=
  { uid := x.uid, op := x.op, stream := fld (x.w 4) 8 8, framing := fld (x.w 4) 4 2, starts := bitAt (x.w 4) 0, ends := bitAt (x.w 4) 1,
    src := x.w64 5, srcLen := x.w 7, dst := x.w64 8, dstLen := x.w 10, srcDdr := bitAt (x.w 11) 0, dstDdr := bitAt (x.w 11) 1, bg := x.bg }

/-- A DDR4 range that a Press command may name (R407); an empty range names nothing. -/
def pressRange (d : Dev) (a n : Nat) : Bool :=
  n == 0 || (d.ddr.trained && inside a n ddrBase (ddrSize d) && decide (ddrBase + liveBytes d ≤ a) && !lockedIn d a n)

def pressRangesOk (d : Dev) (c : PressCmd) : Bool :=
  (!c.srcDdr || pressRange d c.src c.srcLen) && (!c.dstDdr || pressRange d c.dst c.dstLen)

/-- The command is legal in the state of its stream (Table 16-3). -/
def pressStateOk (c : PressCmd) : Option PressCtx → Bool
  | none => c.op != 0x32 && c.starts
  | some x => if c.op == 0x32 then !x.inflate else c.starts || x.inflate == (c.op == 0x31)

/-- Commands accepted and not completed, oldest first within a stream. -/
def pressBusy (d : Dev) (stream : Nat) : Bool :=
  d.press.waiting.any (fun c => c.stream == stream) || d.press.engs.any (fun e => e.2.any (fun c => c.stream == stream))

/-- Accept a Press command: its ranges are checked, its stream's state where no earlier command of the stream is outstanding,
and it waits for an engine. -/
def acceptPress (x : Desc) (d : Dev) : Dev :=
  let c := pressOf x
  if (c.srcDdr || c.dstDdr) && !d.ddr.trained then finishDesc x stInternal [] d
  else if !pressRangesOk d c then finishDesc x stBadAddr [] d
  else if !pressBusy d c.stream && !pressStateOk c (pressCtx d c.stream) then finishDesc x stConflict [] d
  else beginDesc x.uid { d with press.waiting := d.press.waiting ++ [c] }

def execPressDeflate (uid : Nat) (s : State) : Host.Outcome State Fault Refusal := onDesc uid 3 0x30 acceptPress s
def execPressInflate (uid : Nat) (s : State) : Host.Outcome State Fault Refusal := onDesc uid 3 0x31 acceptPress s
def execPressFlush (uid : Nat) (s : State) : Host.Outcome State Fault Refusal := onDesc uid 3 0x32 acceptPress s

/-! Dispatch (R409, R421). -/

/-- Waiting commands whose stream has no earlier command outstanding. -/
def pressReady (d : Dev) : List PressCmd :=
  d.press.waiting.filter (fun c =>
    !d.press.engs.any (fun e => e.2.any (fun y => y.stream == c.stream)) &&
    (d.press.waiting.find? (fun y => y.stream == c.stream)).map (·.uid) == some c.uid)

/-- The command dispatched next: Standard before Background; shedding pauses both (R288, R295, R421). -/
def nextPress (d : Dev) : Option PressCmd :=
  let r := pressReady d
  match if d.pwr.stdStop || d.pwr.allStop then none else r.find? (fun c => !c.bg) with
  | some c => some c
  | none => if d.pwr.bgStop || d.pwr.allStop || r.any (fun c => !c.bg) then none else r.head?

def pressLoad (d : Dev) (e : Nat) : Nat := ((pressQueue d e).map pressBytes).foldl (· + ·) 0

/-- End a command that is on no engine any more. -/
def endPress (c : PressCmd) (st : Nat) (res : List Nat) (d : Dev) : Dev :=
  match findDesc d c.uid with
  | some x => finishDesc x st res d
  | none => d

/-- PRESS_DISPATCH: the next command goes to the engine with the fewest queued bytes, or ends where its stream's state forbids
it. -/
def execPressDispatch (s : State) : Host.Outcome State Fault Refusal :=
  let d := s.dev
  match if schedulerUp d then nextPress d else none with
  | some c =>
    let d1 := { d with press.waiting := d.press.waiting.filter (fun y => y.uid != c.uid) }
    whenDev true ""
      (if pressStateOk c (pressCtx d c.stream) then
         let e := leastOf (pressLoad d)
         setPressQueue e (pressQueue d1 e ++ [c]) d1
       else endPress c stConflict [] d1) s
  | none => whenDev false "no Press command may be dispatched" d s

/-! Completion (R410, R415 to R419, R424). -/

/-- How a command ends: success with the context that results, the output, the input bytes consumed and the uncompressed bytes
processed; or a status with the offending offset. -/
inductive PressEnd where
  | good (ctx : PressCtx) (out : List Byte) (consumed bytes : Nat)
  | bad (st : Nat) (at_ : Nat)
  deriving DecidableEq, Repr

/-- The context a command acts on: a fresh one with begin. -/
def pressStart (c : PressCmd) : Option PressCtx → PressCtx
  | some x => if c.starts && c.op != 0x32 then { inflate := c.op == 0x31, framing := c.framing } else x
  | none => { inflate := c.op == 0x31, framing := c.framing }

/-- DEFLATE or FLUSH on a context with the input `bs`. -/
def runDeflate (c : PressCmd) (x : PressCtx) (bs : List Byte) : PressEnd :=
  let y := { x with
    data := x.data ++ bs
    flushes := if c.op == 0x32 then x.flushes ++ [x.data.length] else x.flushes }
  let out := (deflateOut y.framing y.data y.flushes (c.ends && c.op != 0x32)).drop x.done
  if c.dstLen < out.length then .bad stNoSpace 0
  else .good { y with done := x.done + out.length } out bs.length bs.length

/-- INFLATE on a context with the input `bs`. -/
def runInflate (c : PressCmd) (x : PressCtx) (bs : List Byte) : PressEnd :=
  let all := x.data ++ bs
  let r := inflate x.framing all
  let out := r.1.drop x.done
  if c.dstLen < out.length then .bad stNoSpace 0
  else
    match r.2 with
    | .error (.bad p) => .bad stMalformed p
    | .error .more =>
      if c.ends then .bad stMalformed all.length
      else .good { x with data := all, done := x.done + out.length } out bs.length out.length
    | .ok n => .good { x with data := all.take n, done := x.done + out.length } out (n - x.data.length) out.length

def runPress (c : PressCmd) (x : PressCtx) (bs : List Byte) : PressEnd := if c.op == 0x31 then runInflate c x bs else runDeflate c x bs

/-- The input of a command: the bytes read from host memory, or those of device DDR4. -/
def pressInput (d : Dev) (c : PressCmd) (bs : List Byte) : List Byte := if c.srcDdr then rdMem d c.src c.srcLen else bs

/-- The end of the running command of an engine once its input is read: marked DDR4 lines fail it (R399). -/
def pressEnd (d : Dev) (c : PressCmd) (bs : List Byte) : PressEnd :=
  if c.srcDdr && (poisonIn d c.src c.srcLen).isSome then .bad stMemUnc 0
  else
    match runPress c (pressStart c (pressCtx d c.stream)) (pressInput d c bs) with
    | .good x out n m => if c.dstDdr && (poisonPartial d c.dst out.length).isSome then .bad stMemUnc 0 else .good x out n m
    | .bad st p => .bad st p

/-- Fail a command: its context stays, the engine counts it (R410). How many bytes it had processed is not stated. -/
def failPress (e : Nat) (c : PressCmd) (st at_ : Nat) (d : Dev) : Dev :=
  let d := countPressErr e st (countPress e (Config.freeNat d.free 0 % (pressBytes c + 1)) { d with free := d.free + 1 })
  endPress c st [0, 0, at_ % 2 ^ 32, at_ / 2 ^ 32] d

def endRunning (e : Nat) (c : PressCmd) (r : PressEnd) (d : Dev) : Dev :=
  match r with
  | .bad st p => failPress e c st p d
  | .good x out n m =>
    let d := if out.isEmpty then d else if c.dstDdr then devWrite c.dst out d else emit (.hostWrite 3 c.dst out) d
    let d := setPressCtx c.stream (if c.ends && c.op != 0x32 then none else some x) d
    endPress c stSuccess [n, out.length] (countPress e m d)

/-- PRESS_COMMAND_COMPLETE: the running command of an engine ends; `r` gives its host input, or the failure of an access. -/
def execPressCommandComplete (engine : Fin 4) (r : ReqEnd) (s : State) : Host.Outcome State Fault Refusal :=
  let d := s.dev
  let e := engine.val
  match pressQueue d e with
  | c :: cs =>
    let d1 := setPressQueue e cs d
    match r with
    | .ok bs => whenDev (bs.length == (if c.srcDdr then 0 else c.srcLen) && !descPaged d c.uid) "not the input of the command" (endRunning e c (pressEnd d c bs) d1) s
    | .failed st _ =>
      whenDev ((!c.srcDdr || !c.dstDdr) && st == stBadAddr && !descPaged d c.uid) "no such failure" (failPress e c st 0 d1) s
  | [] => whenDev false "the engine runs no command" d s

end Sys2Proof.Machine
end

