-- ==== Sys2Proof/Machine/Sessions.lean ====
section
/-! DEFINITION. The session commands (R280 to R286, R296, R422). -/

namespace Sys2Proof.Machine

/-! Opening and freeing (R280, R281, R285). -/

/-- The bundle a session names has an adaptation section. -/
def adapts (d : Dev) (h : Nat) : Bool :=
  match loadedBundle d h with
  | some b => (sectOf d b.lo 7).isSome
  | none => false

/-- The session that SESS_OPEN's words describe (Table 11-6), with its context at `ctx`. -/
def openedSess (d : Dev) (x : Desc) (ctx : Nat) : Sess :=
  let h := fld (x.w 4) 24 8
  { cls := fld (x.w 4) 22 2, decode := bitAt (x.w 4) 21, media := fld (x.w 4) 19 2, bundle := h, repeatSeq := bitAt (x.w 4) 18,
    adaptSteps := fld (x.w 4) 13 5, cplRing := fld (x.w 5) 0 16, qIndex := fld (x.w 6) 24 8, seqId := fld (x.w 6) 0 16, picW := fld (x.w 7) 16 16,
    picH := fld (x.w 7) 0 16, rateNum := x.w 8, rateDen := x.w 9, colour := fld (x.w 10) 0 8, ctx := ctx,
    ctxLen := match loadedBundle d h with | some b => limit d b 0x20 4 | none => 0 }

/-- The operands of SESS_OPEN that depend on the bundle (R281, Table 11-6). -/
def openOk (d : Dev) (y : Sess) : Bool :=
  match loadedBundle d y.bundle with
  | none => false
  | some b =>
    bundleKind d b == 0 && bitAt (limit d b 5 1) y.media &&
    (y.cls != 0 || (!y.decode && limit d b 9 1 == 1 && y.adaptSteps == 0 && decide (y.qIndex < limit d b 0x0C 2))) &&
    (y.adaptSteps == 0 || (!y.decode && adapts d y.bundle)) &&
    (if y.cls == 0 || y.decode || y.media == 1 then y.picW == 0 && y.picH == 0
     else within 16 (limit d b 0 2) y.picW && within 16 (limit d b 2 2) y.picH)

/-- Allocate a session context: in the live region for Live (R395). -/
def allocCtx (i : Nat) (y : Sess) (d : Dev) : Dev :=
  if y.cls == 0 then { d with ddr.bufs := d.ddr.bufs ++ [{ lo := y.ctx, len := y.ctxLen, ident := 65536 + i }] } else allocRegion y.ctx y.ctxLen d

def runSessOpen (x : Desc) (ctx : Nat) (d : Dev) : Dev :=
  let y := openedSess d x ctx
  if !d.ddr.trained then finishDesc x stInternal [] d
  else if (sessAt d x.ident).isSome then finishDesc x stConflict [] d
  else if !openOk d y then finishDesc x stInvalid [] d
  else if !regionExists d (y.cls == 0) y.ctxLen then finishDesc x stNoSpace [] d
  else finishDesc x stSuccess [] (setSess x.ident y (allocCtx x.ident y d))

/-- SESS_OPEN; `ctx` is where the firmware places the context. -/
def execSessOpen (uid ctx : Nat) (s : State) : Host.Outcome State Fault Refusal :=
  let d := s.dev
  match cmdDesc d uid 1 0x10 with
  | some x =>
    let y := openedSess d x ctx
    let opens : Bool := d.ddr.trained && (sessAt d x.ident).isNone && openOk d y && regionExists d (y.cls == 0) y.ctxLen
    whenDev (!opens || regionFree d (y.cls == 0) ctx y.ctxLen) "the firmware's place for the context is not free" (runSessOpen x ctx d) s
  | none => whenDev false "no such descriptor is eligible" d s

/-- Free a session: buffers return, the port and its reservation go, the context is freed (R285). -/
def freeSession (i : Nat) (d : Dev) : Dev :=
  match sessAt d i with
  | some x =>
    let d := releasePort i (forEach x.bufs (returnBuf i x) d)
    let d := if x.cls == 0 then { d with ddr.bufs := d.ddr.bufs.filter (fun b => b.lo != x.ctx) } else freeRegion x.ctx d
    { d with sess.sess := tset none d.sess.sess i none }
  | none => d

/-! Commands on a session that is not FREE. -/

/-- A command that acts where the session's phase satisfies `ok`. -/
def sessCmd (uid op : Nat) (ok : SessPhase → Bool) (f : Desc → Sess → Dev → Dev) (s : State) : Host.Outcome State Fault Refusal :=
  onDesc uid 1 op (fun x d =>
    match sessAt d x.ident with
    | some y => if ok y.phase then f x y d else wrongState x d
    | none => wrongState x d) s

/-- The session runs or can run frames. -/
def started : SessPhase → Bool
  | .active | .parked => true
  | _ => false

/-- SESS_START. -/
def execSessStart (uid : Nat) (s : State) : Host.Outcome State Fault Refusal :=
  sessCmd uid 0x13 (· == .opened) (fun x y d =>
    if y.cls == 0 && y.port.isNone then finishDesc x stConflict [] d
    else finishDesc x stSuccess [] (updSess x.ident (fun y => { y with phase := if y.cls == 0 then .active else .parked }) d)) s

/-- The operands of FRAME_SUBMIT that a session's direction uses (Table 11-5). -/
def submitOk (d : Dev) (y : Sess) (o : SubmitOps) : Bool :=
  y.cls != 0 &&
  (if y.decode then o.qIndex == 0
   else o.len == 0 && o.picAddr == 0 && o.reportAddr == 0 && decide (o.qIndex.toNat < sessLimit d y 0x0C 2))

/-- FRAME_SUBMIT: the frame is queued and the command completes; the frame has a completion of its own. -/
def execFrameSubmit (uid : Nat) (ops : SubmitOps) (s : State) : Host.Outcome State Fault Refusal :=
  sessCmd uid 0x14 started (fun x y d =>
    if !submitOk d y ops then finishDesc x stInvalid [] d
    else if 64 ≤ y.queue.length then finishDesc x stConflict [] d
    else
      let r : FrameReq :=
        { tag := x.tag, serial := d.nextId, deadline := ops.deadline.toNat, addr := ops.addr.toNat, len := ops.len, picAddr := ops.picAddr.toNat,
          reportAddr := ops.reportAddr.toNat, qIndex := ops.qIndex.toNat }
      finishDesc x stSuccess [] (updSess x.ident (fun y => { y with queue := y.queue ++ [r] }) { d with nextId := d.nextId + 1 })) s

/-- OUTBUF_POST. -/
def execOutbufPost (uid addr len tag : Nat) (s : State) : Host.Outcome State Fault Refusal :=
  sessCmd uid 0x15 (fun _ => true) (fun x y d =>
    if !within 4096 16777216 len then finishDesc x stInvalid [] d
    else if 16 ≤ y.bufs.length then finishDesc x stConflict [] d
    else finishDesc x stSuccess [] (updSess x.ident (fun y => { y with bufs := y.bufs ++ [{ tag := tag, addr := addr, len := len, used := 0 }] }) d)) s

/-- INTRA_REFRESH (R272): the next frame dispatched is an intra frame; audio has none. -/
def execIntraRefresh (uid : Nat) (s : State) : Host.Outcome State Fault Refusal :=
  sessCmd uid 0x16 started (fun x y d =>
    if y.decode then finishDesc x stInvalid [] d
    else finishDesc x stSuccess [] (updSess x.ident (fun y => { y with intraReq := y.media != 1 }) d)) s

/-- SESS_ADAPT (R296): at once in OPEN, at the next frame boundary otherwise. -/
def execSessAdapt (uid steps : Nat) (reset : Bool) (s : State) : Host.Outcome State Fault Refusal :=
  sessCmd uid 0x17 (fun p => p == .opened || started p) (fun x y d =>
    if y.cls == 0 || y.decode || !adapts d y.bundle || decide (16 < steps) then finishDesc x stInvalid [] d
    else
      finishDesc x stSuccess []
        (updSess x.ident (fun y =>
          if y.phase == .opened then { y with
            adaptSteps := steps
            adaptT := if reset then 0 else y.adaptT }
          else { y with
            adaptNext := some steps
            adaptReset := reset || y.adaptReset }) d)) s

/-! Checkpoints (R422). -/

/-- The checkpoint header. -/
def checkpointHeader (d : Dev) (x : Sess) (comp : Nat) : List Byte :=
  let fp := match bundleAt d x.bundle with | some b => b.fp | none => []
  leBytes 4 0x4B435A55 ++ leBytes 2 1 ++ leBytes 2 (2 * x.cls + x.decode.toNat) ++ fp ++ leBytes 8 x.ctxLen ++ leBytes 8 comp ++ List.replicate 24 0

/-- Write a checkpoint of a PARKED session and complete its command; the Press engine with the least work counts its bytes. -/
def writeCheckpoint (x : Desc) (y : Sess) (addr len : Nat) (d : Dev) : Dev :=
  if (poisonIn d y.ctx y.ctxLen).isSome then finishDesc x stMemUnc [] d
  else
    let comp := deflateOut 1 (rdMem d y.ctx y.ctxLen) [] true
    if len < 64 + comp.length then finishDesc x stNoSpace [] d
    else finishDesc x stSuccess [] (emit (.hostWrite 1 addr (checkpointHeader d y comp.length ++ comp)) (countPress (leastOf (pressLoad d)) y.ctxLen d))

/-- SESS_CHECKPOINT. -/
def execSessCheckpoint (uid addr len : Nat) (s : State) : Host.Outcome State Fault Refusal :=
  sessCmd uid 0x18 started (fun x y d =>
    if y.decode || y.cls == 0 then finishDesc x stInvalid [] d
    else if y.phase == .parked then writeCheckpoint x y addr len d
    else beginDesc uid (updSess x.ident (fun y => { y with checkpoints := y.checkpoints ++ [(uid, addr, len)] }) d)) s

/-- The session of a checkpoint: its fields but class and direction lie in the context's bytes. -/
def restoredSess (bs data : List Byte) (bundle ctx : Nat) : Sess :=
  let f (k bound : Nat) : Nat := Config.ctxField data k % bound
  { phase := .parked, cls := bytesNat bs 6 2 / 2, decode := false, media := f 0 3, bundle := bundle, repeatSeq := f 1 2 == 1, adaptSteps := f 2 17,
    cplRing := f 3 1024, qIndex := 0, seqId := f 4 65536, picW := f 5 65536, picH := f 6 65536, rateNum := f 7 (2 ^ 32), rateDen := f 8 (2 ^ 32),
    colour := f 9 256, ctx := ctx, ctxLen := data.length, adaptT := f 10 (2 ^ 32), start := f 11 2 == 1,
    lastNum := if f 12 2 == 1 then some (f 13 (2 ^ 32)) else none, intraReq := f 14 2 == 1, refOk := f 15 2 == 1 }

/-- The outcome of the checks of SESS_RESTORE: a status, or the session's context bytes. -/
def checkRestore (d : Dev) (bs : List Byte) (b : Bundle) : Except Nat (List Byte) :=
  let cls := bytesNat bs 6 2
  let comp := bytesNat bs 0x20 8
  if bs.length < 64 || bytesNat bs 0 4 != 0x4B435A55 || bytesNat bs 4 2 != 1 || bytesNat bs 0x28 24 != 0 || !(cls == 2 || cls == 4) then
    .error stMalformed
  else if (bs.drop 8).take 16 != b.fp then .error stMismatch
  else if bs.length < 64 + comp || bytesNat bs 0x18 8 != limit d b 0x20 4 then .error stMalformed
  else
    match inflate 1 ((bs.drop 64).take comp) with
    | (out, .ok n) => if out.length == bytesNat bs 0x18 8 && n == comp then .ok out else .error stMalformed
    | (_, .error _) => .error stMalformed

/-- Restore a session whose checkpoint has been read. -/
def runRestore (x : Desc) (bundle ctx : Nat) (bs : List Byte) (d : Dev) : Dev :=
  match loadedBundle d bundle with
  | none => finishDesc x stInvalid [] d
  | some b =>
    if bundleKind d b != 0 then finishDesc x stInvalid [] d
    else
      match checkRestore d bs b with
      | .error st => finishDesc x st [] d
      | .ok data =>
        if !regionExists d false data.length then finishDesc x stNoSpace [] d
        else
          let y := restoredSess bs data bundle ctx
          finishDesc x stSuccess [] (setSess x.ident y (devWrite ctx data (allocCtx x.ident y (countPress (leastOf (pressLoad d)) data.length d))))

/-- The context's place matters only where the session is restored. -/
def restorePlaceOk (d : Dev) (bundle ctx : Nat) (bs : List Byte) : Bool :=
  match loadedBundle d bundle with
  | none => true
  | some b =>
    match checkRestore d bs b with
    | .error _ => true
    | .ok data => !regionExists d false data.length || regionFree d false ctx data.length

/-- SESS_RESTORE; `r` gives the checkpoint as read from host memory. -/
def execSessRestore (uid bundle ctx : Nat) (r : ReqEnd) (s : State) : Host.Outcome State Fault Refusal :=
  let d := s.dev
  match cmdDesc d uid 1 0x19 with
  | some x =>
    if !d.ddr.trained then whenDev true "" (finishDesc x stInternal [] d) s
    else if (sessAt d x.ident).isSome then whenDev true "" (finishDesc x stConflict [] d) s
    else
      match r with
      | .failed st _ => whenDev (st == stBadAddr) "no such failure" (finishDesc x st [] d) s
      | .ok bs => whenDev (restorePlaceOk d bundle ctx bs) "the firmware's place for the context is not free" (runRestore x bundle ctx bs d) s
  | none => whenDev false "no such descriptor is eligible" d s

/-! Reset, close and query. -/

/-- R284: the work ends with CANCELLED, references and adaptation state go, the session is OPEN. -/
def resetSess (i : Nat) (d : Dev) : Dev :=
  match sessAt d i with
  | some x =>
    let d := endCheckpoints x stCancelled (endWork i stCancelled d)
    updSess i (fun y => { y with
      phase := .opened
      adaptSteps := y.adaptNext.getD y.adaptSteps
      adaptNext := none
      adaptReset := false
      adaptT := 0
      start := true
      lastNum := none
      intraReq := false
      refOk := false
      ref := []
      dec := {}
      closing := none
      closeStatus := 0
      checkpoints := [] }) d
  | none => d

/-- SESS_RESET; in DRAINING the close completes with CANCELLED. -/
def execSessReset (uid : Nat) (s : State) : Host.Outcome State Fault Refusal :=
  sessCmd uid 0x1A (fun _ => true) (fun x y d =>
    if y.phase == .opened then finishDesc x stSuccess [] d
    else
      let d := resetSess x.ident d
      let d := match y.closing.bind (findDesc d) with | some c => finishDesc c stCancelled [] d | none => d
      finishDesc x stSuccess [] d) s

/-- SESS_CLOSE (R285): OPEN and FAULTED sessions are freed at once; ACTIVE and PARKED ones drain. -/
def execSessClose (uid : Nat) (s : State) : Host.Outcome State Fault Refusal :=
  sessCmd uid 0x1B (· != .draining) (fun x y d =>
    if started y.phase then
      let d := endCheckpoints y stCancelled (cancelQueue x.ident y d)
      beginDesc uid (updSess x.ident (fun y => { y with
        phase := .draining
        queue := []
        checkpoints := []
        closing := some uid }) d)
    else finishDesc x stSuccess [] (freeSession x.ident d)) s

def phaseCode : SessPhase → Nat
  | .opened => 1
  | .active => 2
  | .parked => 3
  | .faulted => 4
  | .draining => 5

/-- SESS_QUERY (Table 14-7). -/
def execSessQuery (uid : Nat) (s : State) : Host.Outcome State Fault Refusal :=
  onDesc uid 1 0x1C (fun x d =>
    match sessAt d x.ident with
    | some y =>
      finishDesc x stSuccess
        [phaseCode y.phase + 8 * y.cls + 32 * y.port.isSome.toNat + 64 * y.port.getD 0, y.queue.length, y.bufs.length] d
    | none => finishDesc x stSuccess [0, 0, 0] d) s

end Sys2Proof.Machine
end

