-- ==== Sys2Proof/Machine/Frames.lean ====
section
/-! DEFINITION. The dispatch of frames and jobs (R288, R295), the frame boundary (R287, R108), and the end of a drain (R285). -/

namespace Sys2Proof.Machine

/-! Dispatch. -/

/-- Work that waits for dispatch: its class (1 Standard, 2 Background), deadline (0 is the latest) and place in arrival order. -/
structure WaitingWork where
  id : WorkId
  cls : Nat
  deadline : Nat
  serial : Nat
  deriving DecidableEq, Repr

/-- The oldest queued frame of a parked Standard or Background session. -/
def sessWork (e : Nat × Option Sess) : Option WaitingWork :=
  match e.2 with
  | some x =>
    if x.phase == .parked && x.cls != 0 then
      x.queue.head?.map (fun r => { id := .frame (BitVec.ofNat 16 e.1), cls := x.cls, deadline := r.deadline, serial := r.serial })
    else none
  | none => none

def jobWork (j : Job) : Option WaitingWork :=
  if j.running then none else some { id := .job j.uid, cls := if j.bg then 2 else 1, deadline := 0, serial := j.uid }

def waitingWork (d : Dev) : List WaitingWork := d.sess.sess.filterMap sessWork ++ d.host.jobs.filterMap jobWork

/-- Standard work goes by deadline, then by arrival; Background work by arrival. -/
def workBefore (a b : WaitingWork) : Bool :=
  let key (w : WaitingWork) : Nat := if w.cls == 2 then 0 else if w.deadline == 0 then 2 ^ 64 else w.deadline
  decide (key a < key b) || (key a == key b && decide (a.serial < b.serial))

/-- The work of a class that is dispatched first. -/
def firstWork (cls : Nat) (l : List WaitingWork) : Option WaitingWork :=
  (l.filter (fun w => w.cls == cls)).foldl (fun b w => match b with | some v => if workBefore w v then some w else some v | none => some w) none

/-- The Standard or Background work dispatched next: Background only while no Standard work waits, and neither while it is shed
or while work is paused (R288, R295). -/
def nextWork (d : Dev) : Option WaitingWork :=
  if d.pwr.allStop then none
  else
    match firstWork 1 (waitingWork d) with
    | some w => if d.pwr.stdStop then none else some w
    | none => if d.pwr.bgStop then none else firstWork 2 (waitingWork d)

/-- An encoder must code the frame as intra (R270, R272, R257). -/
def mustIntra (x : Sess) : Bool := x.media != 1 && (x.start || x.intraReq || x.media == 2 || !x.refOk)

/-- Dispatch a frame of an encode session: its header units are written. -/
def startEncode (i : Nat) (x : Sess) (r : FrameReq) (num : Nat) (intra : Bool) (d : Dev) : Dev :=
  let intra := x.media != 1 && (intra || mustIntra x)
  let f : Frame := { req := r, num := num, intra := intra }
  let d := updSess i (fun y => { y with
    phase := if y.phase == .parked then .active else y.phase
    queue := if y.cls == 0 then y.queue else y.queue.tail
    frame := some f
    lastNum := some num
    start := false
    intraReq := y.intraReq && !intra }) d
  putHeaders i x num r.qIndex intra d

/-- Dispatch a frame of a decode session: its stored units wait for the decoder. -/
def startDecode (i : Nat) (r : FrameReq) (img : HostImg) (d : Dev) : Dev :=
  let units := splitUnits (imgBytes d img r.addr r.len)
  let f : Frame := { req := r, num := 0, intra := false, units := units }
  updSess i (fun y => { y with
    phase := .active
    queue := y.queue.tail
    frame := some f }) { d with free := d.free + 1 }

/-- A Live session's port has begun a conditioned frame that the session has not coded. -/
def liveFrame (d : Dev) (x : Sess) : Option Nat :=
  match sessPort d x with
  | some p => if x.phase == .active && x.cls == 0 && x.frame.isNone && p.running && x.lastNum != some p.frameOut then some p.frameOut else none
  | none => none

/-- The frame number after the last one, 0 for the first. -/
def nextNum (x : Sess) : Nat := match x.lastNum with | some n => (n + 1) % 2 ^ 32 | none => 0

/-- FRAME_DISPATCH: the next frame of a session, or a PF2 job. `intra` is the encoder's choice where it has one, `img` the host
memory that a decode submission names. -/
def execFrameDispatch (w : WorkId) (intra : Bool) (img : HostImg) (s : State) : Host.Outcome State Fault Refusal :=
  let d := s.dev
  let turn : Bool := schedulerUp d && (nextWork d).map (·.id) == some w
  match w with
  | .job uid => whenDev turn "the job is not dispatched next" (updJob uid (fun j => { j with running := true }) d) s
  | .frame sess =>
    let i := sess.toNat
    match sessAt d i with
    | some x =>
      match liveFrame d x with
      | some num =>
        let r : FrameReq := { tag := 0, serial := 0, deadline := 0, addr := 0, len := 0, picAddr := 0, reportAddr := 0, qIndex := x.qIndex }
        whenDev (schedulerUp d && !d.pwr.allStop) "nothing is dispatched" (startEncode i x r num intra d) s
      | none =>
        match x.queue with
        | r :: _ => whenDev turn "the frame is not dispatched next" (if x.decode then startDecode i r img d else startEncode i x r (nextNum x) intra d) s
        | [] => whenDev false "no frame waits" d s
    | none => whenDev false "no such session" d s

/-! The frame boundary. -/

/-- A slot of a Live session rests between frames at LINE.WAIT. -/
def atLineWait (sl : SlotSt) : Bool := match sl.hold with | .lineWait _ _ _ _ => true | _ => false

/-- Leases of a session. -/
def hasLeases (d : Dev) (i : Nat) : Bool :=
  d.felt.leases.any (fun e => match e.2 with | some l => l.session == i | none => false)

/-- Every program, lease and unit of the dispatched frame is done; a Live session's programs wait for later lines, and its slices
are coded or its port has gone on. -/
def frameDone (d : Dev) (i : Nat) (x : Sess) (f : Frame) : Bool :=
  f.units.isEmpty && !hasLeases d i &&
  (if x.cls == 0 then
     (sessSlots d i).all (fun k => atLineWait (slotAt d k)) &&
     (decide (frameSlices d x ≤ f.next) || (match sessPort d x with | some p => p.frameOut != f.num | none => true))
   else (sessSlots d i).isEmpty)

/-- The latents of a coded frame: a slice that was not coded takes the reference (R266, R271). -/
def settledLat (d : Dev) (x : Sess) (f : Frame) : Tbl Nat :=
  (upFrom 0 (frameSlices d x)).foldl (fun t k =>
    if tget 0 t k != 0 then t else tset 0 t k (if x.refOk then tget 0 x.ref k else 0)) f.lat

/-- What a frame boundary changes in a session: the reference, the adaptation state and a change of adaptation (R108, R296), the
state. -/
def boundarySess (d : Dev) (f : Frame) (x : Sess) : Sess :=
  let t := if x.cls != 0 && !x.decode then x.adaptT + x.adaptSteps else x.adaptT
  { x with
    phase := if x.phase == .active && x.cls != 0 then .parked else x.phase
    frame := none
    refOk := x.refOk || !x.decode
    ref := if x.decode then x.ref else settledLat d x f
    adaptT := if x.adaptReset then 0 else t
    adaptSteps := x.adaptNext.getD x.adaptSteps
    adaptNext := none
    adaptReset := false }

/-- Write the checkpoints that waited for PARKED. -/
def writeWaiting (i : Nat) (d : Dev) : Dev :=
  match sessAt d i with
  | some x =>
    if x.phase == .parked then
      updSess i (fun y => { y with checkpoints := [] })
        (forEach x.checkpoints (fun c d => match findDesc d c.1 with | some y => writeCheckpoint y x c.2.1 c.2.2 d | none => d) d)
    else d
  | none => d

/-- FRAME_BOUNDARY: the frame completes. -/
def execFrameBoundary (sess : BitVec 16) (s : State) : Host.Outcome State Fault Refusal :=
  let d := s.dev
  let i := sess.toNat
  match sessAt d i with
  | some x =>
    match x.frame with
    | some f =>
      whenDev (frameDone d i x f) "the frame has not ended"
        (writeWaiting i (setSess i (boundarySess d f x) (cplFrame i x f 0 d))) s
    | none => whenDev false "no frame is dispatched" d s
  | none => whenDev false "no such session" d s

/-! The end of a drain. -/

/-- Write an end-of-sequence unit if output space allows; buffers without room for it are returned. -/
def putEnd (i : Nat) (x : Sess) (d : Dev) : Dev :=
  if x.decode then d else (storeUnit i (storedUnit 7 []) d).2

/-- SESSION_DRAIN_END: the drained session is freed and its close completes. -/
def execSessionDrainEnd (sess : BitVec 16) (s : State) : Host.Outcome State Fault Refusal :=
  let d := s.dev
  let i := sess.toNat
  match sessAt d i with
  | some x =>
    whenDev (x.phase == .draining && x.frame.isNone) "no drain ends"
      (let d := dropSessLeases i (forEach (sessSlots d i) stopQuiet d)
       let d := freeSession i (putEnd i x d)
       match x.closing.bind (findDesc d) with
       | some c => finishDesc c x.closeStatus [] d
       | none => d) s
  | none => whenDev false "no such session" d s

end Sys2Proof.Machine
end

