-- ==== Sys2Proof/Machine/Sha3.lean ====
section
/-! DEFINITION. SHA3-256, SHA3-512 and SHAKE256 (FIPS 202), which fingerprints, signatures, evidence and the device's seeds
use (R274, R430, R440, R442). -/

namespace Sys2Proof.Machine

/-- The round constants of Keccak-f[1600]. -/
def keccakRc : List W64 :=
  [0x0000000000000001, 0x0000000000008082, 0x800000000000808A, 0x8000000080008000, 0x000000000000808B, 0x0000000080000001,
   0x8000000080008081, 0x8000000000008009, 0x000000000000008A, 0x0000000000000088, 0x0000000080008009, 0x000000008000000A] ++
  [0x000000008000808B, 0x800000000000008B, 0x8000000000008089, 0x8000000000008003, 0x8000000000008002, 0x8000000000000080,
   0x000000000000800A, 0x800000008000000A, 0x8000000080008081, 0x8000000000008080, 0x0000000080000001, 0x8000000080008008]

/-- The rotation of lane x + 5y. -/
def keccakRot : List Nat :=
  [0, 1, 62, 28, 27, 36, 44, 6, 55, 20, 3, 10, 43] ++ [25, 39, 41, 45, 15, 21, 8, 18, 2, 61, 56, 14]

/-- Lane x + 5y of the state. -/
def lane (a : List W64) (x y : Nat) : W64 := a.getD (x % 5 + 5 * (y % 5)) 0

/-- One round: θ, ρ and π, χ, ι. -/
def keccakRound (rc : W64) (a : List W64) : List W64 :=
  let c := (upFrom 0 5).map (fun x => lane a x 0 ^^^ lane a x 1 ^^^ lane a x 2 ^^^ lane a x 3 ^^^ lane a x 4)
  let dd := (upFrom 0 5).map (fun x => c.getD ((x + 4) % 5) 0 ^^^ (c.getD ((x + 1) % 5) 0).rotateLeft 1)
  let a := (upFrom 0 25).map (fun i => (a.getD i 0 ^^^ dd.getD (i % 5) 0).rotateLeft (keccakRot.getD i 0))
  let b := (upFrom 0 25).map (fun i => lane a (i % 5 + 3 * (i / 5)) (i % 5))
  let a := (upFrom 0 25).map (fun i =>
    lane b (i % 5) (i / 5) ^^^ (~~~lane b (i % 5 + 1) (i / 5) &&& lane b (i % 5 + 2) (i / 5)))
  match a with
  | l :: t => (l ^^^ rc) :: t
  | [] => []

def keccakF (a : List W64) : List W64 := keccakRc.foldl (fun a rc => keccakRound rc a) a

/-- 64-bit lanes of bytes, little-endian. -/
def lanes : Nat → List Byte → List W64
  | 0, _ => []
  | n + 1, bs => BitVec.ofNat 64 (leNat (bs.take 8)) :: lanes n (bs.drop 8)

/-- Mix a block into the state. -/
def absorb (a : List W64) (block : List Byte) : List W64 :=
  keccakF (List.zipWith (· ^^^ ·) a (lanes 25 block))

/-- The message with its domain suffix and padding to a multiple of the rate. -/
def keccakPad (rate : Nat) (suffix : Byte) (m : List Byte) : List Byte :=
  let n := rate - m.length % rate
  if n = 1 then m ++ [suffix ||| 0x80] else m ++ [suffix] ++ List.replicate (n - 2) 0 ++ [0x80]

def absorbAll (rate : Nat) : Nat → List W64 → List Byte → List W64
  | 0, a, _ => a
  | n + 1, a, bs => absorbAll rate n (absorb a (bs.take rate)) (bs.drop rate)

/-- The sponge, with at most one block of output. -/
def keccak (rate : Nat) (suffix : Byte) (out : Nat) (m : List Byte) : List Byte :=
  let p := keccakPad rate suffix m
  ((absorbAll rate (p.length / rate) (List.replicate 25 0) p).flatMap (fun l => leBytes 8 l.toNat)).take out

def sha3x256 (m : List Byte) : List Byte := keccak 136 0x06 32 m
def sha3x512 (m : List Byte) : List Byte := keccak 72 0x06 64 m
def shake256 (out : Nat) (m : List Byte) : List Byte := keccak 136 0x1F out m

end Sys2Proof.Machine
end

