-- ==== Sys2Proof/Machine/Signed.lean ====
section
/-! DEFINITION. Signed objects (R428 to R431): the header, the signature block, the labels and accepted keys, and the
verification. -/

namespace Sys2Proof.Machine

/-- A label as bytes, filled with zeros to 32 (pad32 of R430). -/
def label32 (s : String) : List Byte :=
  let bs := s.toList.map (fun c => BitVec.ofNat 8 c.toNat)
  bs ++ List.replicate (32 - bs.length) 0

/-- The ASCII bytes of a string. -/
def ascii (s : String) : List Byte := s.toList.map (fun c => BitVec.ofNat 8 c.toNat)

/-- The label of a kind; 6 stands for a bundle and 7 for evidence (Table 17-4). -/
def kindLabel (kind : Nat) : List Byte :=
  match kind with
  | 1 => label32 "Mladeri UZ960 root firmware"
  | 2 => label32 "Mladeri UZ960 scheduler firmware"
  | 3 => label32 "Mladeri UZ960 manufacture record"
  | 4 => label32 "Mladeri UZ960 platform record"
  | 5 => label32 "Mladeri UZ960 device certificate"
  | 6 => label32 "Mladeri UZ960 Emzil bundle"
  | _ => label32 "Mladeri UZ960 evidence"

/-- The magic and the largest total_size of a kind. -/
def kindMagic (kind : Nat) : Nat :=
  match kind with
  | 1 => 0x46525A55
  | 2 => 0x46535A55
  | 3 => 0x524D5A55
  | 4 => 0x52505A55
  | _ => 0x43445A55

def kindLimit (kind : Nat) : Nat :=
  match kind with
  | 1 => 0x80000
  | 2 => 0x1000000
  | 3 => 0x8000
  | 4 => 0x10000
  | _ => 2 ^ 32

/-! The signature block (Table 17-3). -/

def sigSize : Nat := 5376

def slice (bs : List Byte) (off n : Nat) : List Byte := (bs.drop off).take n

def blockOk (sb : List Byte) : Bool :=
  sb.length == sigSize && bytesNat sb 0 4 == 0x42535A55 && bytesNat sb 4 2 == 1 && bytesNat sb 6 2 == 0 && (slice sb 0x14F5 11).all (· == 0)

def edKey (sb : List Byte) : List Byte := slice sb 8 32
def mlKey (sb : List Byte) : List Byte := slice sb 0x28 1952

/-- The key hash of a signature block. -/
def keyHash (sb : List Byte) : List Byte := sha3x256 (edKey sb ++ mlKey sb)

/-- The message that is signed. -/
def tbs (kind : Nat) (content : List Byte) : List Byte := kindLabel kind ++ sha3x512 content

/-- Both signatures of a block hold over a content (R430); one never makes up for the other. -/
def sigsOk (kind : Nat) (content sb : List Byte) : Bool :=
  Config.edVerify (edKey sb) (tbs kind content) (slice sb 0x7C8 64) && Config.mlVerify (mlKey sb) (tbs kind content) (slice sb 0x808 3309)

/-- The reason of Table 17-5 for a block over a content, 0 for none. -/
def sigReason (kind : Nat) (accepted : List (List Byte)) (content sb : List Byte) : Nat :=
  if !blockOk sb then 1
  else if !accepted.contains (keyHash sb) then 3
  else if sigsOk kind content sb then 0 else 2

/-! Accepted keys (Table 17-4). -/

def vendorKeys : List (List Byte) := [Config.vendorKey false, Config.vendorKey true]

/-- The body of an object: it follows the 64-byte header. -/
def bodyOf (obj : List Byte) : List Byte := slice obj 0x40 (bytesNat obj 0x24 4)

/-- The object of a kind that is in use. -/
def objAt (d : Dev) (kind : Nat) : List Byte := tget [] d.boot.objs kind

/-- Platform key hashes of a manufacture record body (Table 17-9). -/
def platformKeys (body : List Byte) : List (List Byte) := (upFrom 0 (min 4 (bytesNat body 0x0B 1))).map (fun i => slice body (0x20 + 32 * i) 32)

/-- Bundle owner key hashes of a platform record body (Table 17-10). -/
def ownerKeys (body : List Byte) : List (List Byte) := (upFrom 0 (min 16 (bytesNat body 6 1))).map (fun i => slice body (0x80 + 32 * i) 32)

def acceptedKeys (d : Dev) (kind : Nat) : List (List Byte) :=
  match kind with
  | 4 => vendorKeys ++ platformKeys (bodyOf (objAt d 3))
  | 6 => vendorKeys ++ ownerKeys (bodyOf (objAt d 4))
  | _ => vendorKeys

/-! Objects other than bundles. -/

def objSigned (obj : List Byte) : Nat := bytesNat obj 8 8
def objSvn (obj : List Byte) : Nat := bytesNat obj 0x20 4
def objKind (obj : List Byte) : Nat := bytesNat obj 6 1
def objCommit (obj : List Byte) : Bool := bytesNat obj 7 1 == 1

/-- The bytes of the signed content and of the signature block. -/
def objContent (obj : List Byte) : List Byte := obj.take (objSigned obj)
def objBlock (obj : List Byte) : List Byte := slice obj (objSigned obj) sigSize

/-- The digest of an object (R442). -/
def objDigest (obj : List Byte) : List Byte := sha3x256 (objContent obj)

/-- Table 17-2 for an object of a kind. -/
def objHeaderOk (kind : Nat) (obj : List Byte) : Bool :=
  let n := objSigned obj
  let body := bytesNat obj 0x24 4
  decide (64 ≤ obj.length) && bytesNat obj 0 4 == kindMagic kind && bytesNat obj 4 2 == 1 && objKind obj == kind && decide (bytesNat obj 7 1 < 2) &&
  n % 64 == 0 && decide (0x40 + body ≤ n) && bytesNat obj 0x10 8 == n && bytesNat obj 0x18 8 == n + sigSize && decide (n + sigSize ≤ kindLimit kind) &&
  decide (n + sigSize ≤ obj.length) && (kind != 5 || objSvn obj == 0) && (!(kind == 3 || kind == 5) || bytesNat obj 0x28 8 != 0) &&
  (if kind ≤ 2 then bytesNat obj 0x30 4 % 4 == 0 && decide (bytesNat obj 0x30 4 < body) else bytesNat obj 0x30 4 == 0) && bytesNat obj 0x34 12 == 0 &&
  (slice obj (0x40 + body) (n - 0x40 - body)).all (· == 0)

/-- Bits set in a byte sequence. -/
def bitCount (bs : List Byte) : Nat := (bs.map (fun b => popcount b.toNat)).foldl (· + ·) 0

def zeroBytes (bs : List Byte) : Bool := bs.all (· == 0)

/-- The device certificate of a manufacture record body. -/
def certOf (body : List Byte) : List Byte := slice body 0xCA0 7488

/-- Table 17-9. -/
def mfgBodyOk (obj : List Byte) : Bool :=
  let b := bodyOf obj
  let n := bytesNat b 0x0B 1
  b.length == 0x29E0 && bytesNat b 8 2 == 0x0960 && decide (n ≤ 4) && zeroBytes (slice b 0x0C 20) && zeroBytes (slice b (0x20 + 32 * n) (128 - 32 * n)) &&
  (upFrom 0 64).all (fun l => decide (bitCount (slice b (0xA0 + 32 * l) 32) ≤ 8)) && bytesNat (certOf b) 0x28 8 == bytesNat obj 0x28 8

/-- Table 17-10; the ranges of other chapters' fields stand with their registers. -/
def platBodyOk (obj : List Byte) : Bool :=
  let b := bodyOf obj
  let n := bytesNat b 6 1
  let rate := bytesNat b 2 2
  b.length == 0x1680 && within 300 600 (bytesNat b 0 2) && [2400, 2666, 2933, 3200].contains rate && decide (bytesNat b 4 1 ≤ 64) &&
  decide (bytesNat b 5 1 < 2) && decide (n ≤ 16) && decide (bytesNat b 7 1 ≤ 16) && zeroBytes (slice b 0x68 24) && zeroBytes (slice b (0x80 + 32 * n) (512 - 32 * n))

def objBodyOk (kind : Nat) (obj : List Byte) : Bool :=
  match kind with
  | 3 => mfgBodyOk obj
  | 4 => platBodyOk obj
  | 5 => bytesNat obj 0x24 4 == 2000
  | _ => true

/-- The device's serial: that of the manufacture record in use. -/
def ownSerial (d : Dev) : Nat := bytesNat (objAt d 3) 0x28 8

/-- The counter of a kind (R439): C0 to C3. -/
def counterOf (d : Dev) (kind : Nat) : Nat := tget 0 d.boot.rpmc (kind - 1)

/-- verify of R430: 0 for ok, else the reason of Table 17-5. Before a manufacture record is in use the device has no serial to
compare. -/
def verifyObj (d : Dev) (kind : Nat) (obj : List Byte) : Nat :=
  if !objHeaderOk kind obj then 1
  else
    let r := sigReason kind (acceptedKeys d kind) (objContent obj) (objBlock obj)
    let serial := bytesNat obj 0x28 8
    if r != 0 then r
    else if serial != 0 && ownSerial d != 0 && serial != ownSerial d then 5
    else if kind != 5 && decide (objSvn obj < counterOf d kind) then 4
    else if objBodyOk kind obj then 0 else 6

end Sys2Proof.Machine
end

