-- ==== Sys2Proof/Machine/Loader.lean ====
section
/-! DEFINITION. Loading and unloading bundles (R274 to R279, R223, R224, R208, R496). -/

namespace Sys2Proof.Machine

/-! The checks on a bundle's bytes, by reason code (Table 11-4). -/

/-- The parts of the header that place the signed content and the signature block. -/
def bundleFrameOk (b : List Byte) : Bool :=
  let n := bytesNat b 8 8
  bytesNat b 0 4 == 0x42455A55 && n % 64 == 0 && decide (128 ≤ n) && bytesNat b 0x10 8 == n && bytesNat b 0x18 8 == n + sigSize && b.length == n + sigSize

def bundleVersionOk (b : List Byte) : Bool :=
  bytesNat b 4 2 == 1 && bytesNat b 7 1 == (if bytesNat b 6 1 == 0 then 1 else 0)

/-- Section table entry i of a bundle's bytes. -/
def sectIn (b : List Byte) (i : Nat) : Sect :=
  let a := bytesNat b 0x20 4 + 32 * i
  { type := bytesNat b a 2, flags := bytesNat b (a + 2) 2, index := bytesNat b (a + 4) 4, off := bytesNat b (a + 8) 8, size := bytesNat b (a + 16) 8,
    rsvd := bytesNat b (a + 24) 8 }

def sectsIn (b : List Byte) : List Sect := (upFrom 0 (bytesNat b 0x24 2)).map (sectIn b)

/-- The size a section's type fixes. -/
def sectSizeOk (s : Sect) : Bool :=
  match s.type with
  | 1 => s.size == 64
  | 2 => s.size % 8 == 0 && decide (8 ≤ s.size)
  | 6 => s.size == 1024
  | _ => true

/-- Sections by type: how many a kind of bundle may hold (Table 11-2). -/
def sectCountOk (codec : Bool) (l : List Sect) : Bool :=
  let n (t : Nat) : Nat := (l.filter (fun s => s.type == t)).length
  n 1 == codec.toNat && n 2 == 1 && decide (1 ≤ n 3) && (!codec || decide (1 ≤ n 5)) && (codec || n 5 == 0) && decide (n 6 ≤ 1) && decide (n 7 ≤ 1)

/-- No two sections of one type share an index. -/
def sectsDistinct : List Sect → Bool
  | [] => true
  | s :: t => t.all (fun u => !(u.type == s.type && u.index == s.index)) && sectsDistinct t

/-- Header, section table and layout (reason 0x01). -/
def bundleLayoutOk (b : List Byte) : Bool :=
  let n := bytesNat b 8 8
  let p := bytesNat b 0x20 4
  let l := sectsIn b
  decide (bytesNat b 6 1 < 2) && p % 64 == 0 && within 1 4096 (bytesNat b 0x24 2) && decide (0x40 ≤ p) && decide (p + 32 * bytesNat b 0x24 2 ≤ n) &&
  zeroBytes (slice b 0x26 26) &&
  l.all (fun s => within 1 7 s.type && decide (s.flags < 2) && s.off % 64 == 0 && decide (s.off + s.size ≤ n) && s.rsvd == 0 && sectSizeOk s) &&
  sectCountOk (bytesNat b 6 1 == 0) l && sectsDistinct l

/-- The bytes of a section. -/
def sectBytes (b : List Byte) (s : Sect) : List Byte := slice b s.off s.size

/-- Profile limits but context_kind and context_steps (Table 11-3). -/
def limitsOk (x : List Byte) : Bool :=
  let f (o n : Nat) : Nat := bytesNat x o n
  within 16 16384 (f 0 2) && within 16 16384 (f 2 2) && within 1 60 (f 4 1) && decide (f 5 1 < 8) && within 2 6 (f 6 1) && decide (f 9 1 < 2) &&
  within 1 4 (f 0x0A 1) && f 0x0B 1 == 0 && within 1 256 (f 0x0C 2) && decide (f 0x0E 2 ≤ 256) && f 0x20 4 % 65536 == 0 &&
  within 65536 16777216 (f 0x20 4) && decide (f 0x28 4 ≤ 131072) && zeroBytes (slice x 0x2C 20)

/-- context_kind and context_steps (reason 0x04). -/
def contextOk (x : List Byte) : Bool := bytesNat x 8 1 == 0 && within 1 8 (bytesNat x 7 1)

/-- The manifest's entries: defined roles, core counts, and program images that the bundle holds (Table 11-2). -/
def manifestOk (l : List Sect) (x : List Byte) : Bool :=
  (upFrom 0 (x.length / 8)).all (fun i =>
    let f (o n : Nat) : Nat := bytesNat x (8 * i + o) n
    (within 1 7 (f 0 1) || f 0 1 == 0x10) && within 1 32 (f 1 1) && f 2 2 == 0 && l.any (fun s => s.type == 3 && s.index == f 4 4))

/-- A list of exact values rises strictly. -/
def rising : List XR → Bool
  | a :: b :: t => xrLt a b && rising (b :: t)
  | _ => true

/-- A CDF record (R223, R224). -/
def cdfRecordOk (x : List Byte) : Bool :=
  let e (i : Nat) : Nat := bytesNat x (2 * i) 2
  let r := e 0
  let cum := 0 :: (upFrom 1 (2 * r + 1)).map e ++ [65536]
  decide (r ≤ 127) && (cum.zip cum.tail).all (fun p => decide (p.1 < p.2)) && (upFrom (2 * r + 2) (254 - 2 * r)).all (fun i => e i == 0)

/-- A table family image (R223, R224). -/
def familyOk (x : List Byte) : Bool :=
  let n := bytesNat x 6 2
  let bp := bytesNat x 8 4
  let cp := bytesNat x 0x0C 4
  let bounds := (upFrom 0 (n - 1)).map (fun i => val32 (bytesNat x (bp + 4 * i) 4))
  decide (64 ≤ x.length) && bytesNat x 0 4 == 0x46545A55 && bytesNat x 4 2 == 1 && within 1 1024 n && bp % 64 == 0 && cp % 64 == 0 &&
  zeroBytes (slice x 0x10 48) && decide (64 ≤ bp) && decide (64 ≤ cp) && decide (bp + 4 * (n - 1) ≤ x.length) && decide (cp + 512 * n ≤ x.length) &&
  apart bp (4 * (n - 1)) cp (512 * n) && bounds.all xrIsFin && rising bounds && (upFrom 0 n).all (fun i => cdfRecordOk (slice x (cp + 512 * i) 512))

/-- Deckle coefficients: each phase sums to 4,096 (R208). -/
def coefsOk (x : List Byte) : Bool :=
  (upFrom 0 64).all (fun p => ((upFrom 0 8).map (fun t => signedOf 16 (bytesNat x (16 * p + 2 * t) 2))).foldl (· + ·) 0 == 4096)

/-- An adaptation layer record (Table 04-13). -/
def layerOk (l : List Sect) (size : Nat) (x : List Byte) : Bool :=
  let f (o n : Nat) : Nat := bytesNat x o n
  let g := f 3 1
  let esz := if f 1 1 == 0 then 2 else 4
  decide (fld g 0 2 < 3) && decide (fld g 2 2 < 3) && fld g 4 4 == 0 && f 0x18 8 == 0 &&
  (match f 0 1 with
   | 0 => decide (f 1 1 < 2) && decide (f 2 1 < 3) && within 1 65535 (f 4 4) && within 1 65535 (f 8 4) && l.any (fun s => s.type == 4 && s.index == f 0x0C 4) &&
      f 0x10 8 % 64 == 0 && decide (f 0x10 8 + f 4 4 * f 8 4 * esz ≤ size)
   | 1 => f 1 1 == 1 && f 2 1 == 0 && within 1 (2 ^ 24) (f 4 4) && f 8 4 == 0 && f 0x0C 4 == 0 && f 0x10 8 == 0
   | _ => false)

/-- The adaptation section (R496). -/
def adaptationOk (l : List Sect) (x : List Byte) : Bool :=
  let f (o n : Nat) : Nat := bytesNat x o n
  let v (o : Nat) : XR := val32 (f o 4)
  let one := xrInt 1
  let beta (o : Nat) : Bool := xrIsFin (v o) && xrLe (xrInt 0) (v o) && xrLt (v o) one && xrIsFin (v (o + 4)) && xrEq (v (o + 4)) (xrSub one (v o))
  decide (64 ≤ x.length) && within 1 1024 (f 0 2) && within 1 1024 (f 2 2) && beta 4 && beta 0x0C && xrIsFin (v 0x14) && xrLt (xrInt 0) (v 0x14) &&
  xrIsFin (v 0x18) && xrLe (xrInt 0) (v 0x18) && f 0x1C 4 % 64 == 0 && f 0x20 4 % 64 == 0 && decide (64 ≤ f 0x1C 4) && decide (64 ≤ f 0x20 4) &&
  zeroBytes (slice x 0x24 28) && decide (f 0x1C 4 + 32 * f 0 2 ≤ x.length) && decide (f 0x20 4 + 4 * f 2 2 ≤ x.length) &&
  (upFrom 0 (f 2 2)).all (fun i => xrIsFin (v (f 0x20 4 + 4 * i))) && (upFrom 0 (f 0 2)).all (fun i => layerOk l x.length (slice x (f 0x1C 4 + 32 * i) 32))

/-- What each section holds (reason 0x03). -/
def sectContentOk (b : List Byte) (s : Sect) : Bool :=
  let x := sectBytes b s
  match s.type with
  | 1 => limitsOk x
  | 2 => manifestOk (sectsIn b) x
  | 3 => imgOk x (imgHdr x)
  | 5 => familyOk x
  | 6 => coefsOk x
  | 7 => adaptationOk (sectsIn b) x
  | _ => true

/-- The reason a bundle's bytes are refused, 0 for none; the order of the checks within step 4 is the model's (log entry 24). -/
def bundleReason (d : Dev) (b : List Byte) : Nat :=
  let n := bytesNat b 8 8
  if !bundleFrameOk b then 1
  else
    match sigReason 6 (acceptedKeys d 6) (b.take n) (slice b n sigSize) with
    | 1 => 1
    | 2 | 3 => 2
    | _ =>
      if !bundleVersionOk b then 5
      else if !bundleLayoutOk b then 1
      else if (sectsIn b).any (fun s => s.type == 1 && !contextOk (sectBytes b s)) then 4
      else if (sectsIn b).all (sectContentOk b) then 0 else 3

/-! The commands. -/

/-- BUNDLE_LOAD: the lowest free handle and a locked region at `region`; the copy begins (R277 step 1). Without trained DDR4 it fails
(R391). -/
def execBundleLoad (uid region : Nat) (s : State) : Host.Outcome State Fault Refusal :=
  let d := s.dev
  match cmdDesc d uid 0 0x01 with
  | some x =>
    let n := x.w64 6
    if !d.ddr.trained then whenDev true "" (finishDesc x stInternal [] d) s
    else
    match (upFrom 0 256).find? (fun h => (bundleAt d h).isNone) with
    | none => whenDev true "" (finishDesc x stNoSpace [] d) s
    | some h =>
      if !regionExists d false n then whenDev true "" (finishDesc x stNoSpace [] d) s
      else
        whenDev (regionFree d false region n) "the firmware's place for the bundle is not free"
          (beginDesc uid (allocRegion region n
            { d with sess.bundles := tset none d.sess.bundles h (some { lo := region, len := n, loading := some uid, fp := [] }) })) s
  | none => whenDev false "no such descriptor is eligible" d s

/-- Forget a bundle: its region, its family slots and Vat copies (R279). -/
def dropBundle (h : Nat) (b : Bundle) (d : Dev) : Dev :=
  let out (f : Option FamSlot) : Option FamSlot := match f with | some g => if g.bundle == h then none else some g | none => none
  let clear (e : EngSt) : EngSt := { e with
    fam0 := out e.fam0
    fam1 := out e.fam1 }
  let d := freeRegion b.lo d
  { d with
    sess.bundles := tset none d.sess.bundles h none
    sess.vats := d.sess.vats.filter (fun v => v.1 != h)
    felt.engs := (upFrom 0 16).foldl (fun t e => tmod {} t e clear) d.felt.engs }

/-- End a load with a status; a load whose descriptor is gone (R385) writes no completion. -/
def endLoad (uid st : Nat) (res : List Nat) (d : Dev) : Dev :=
  match findDesc d uid with
  | some x => finishDesc x st res d
  | none => d

/-- The bundle's bytes have arrived (R277 steps 3 to 6). -/
def publishBundle (h : Nat) (b : Bundle) (uid : Nat) (bs : List Byte) (d : Dev) : Dev :=
  let d := devWrite b.lo bs d
  match bundleReason d bs with
  | 0 =>
    let fp := (sha3x256 (bs.take (bytesNat bs 8 8))).take 16
    match (upFrom 0 256).find? (fun j => match loadedBundle d j with | some y => y.fp == fp | none => false) with
    | some j => endLoad uid stConflict [j] (dropBundle h b d)
    | none =>
      endLoad uid stSuccess (h :: leWords 4 fp)
        { d with sess.bundles := tset none d.sess.bundles h (some { b with loading := none, fp := fp }) }
  | r => endLoad uid stInvalid [r] (dropBundle h b d)

/-- BUNDLE_COPY_COMPLETE: the copy of a bundle has ended; the root firmware verifies, checks and publishes it, or the load fails
and leaves nothing (R277, R278). While the scheduler firmware restarts, its completion waits (R448). -/
def execBundleCopyComplete (handle : Fin 256) (r : ReqEnd) (s : State) : Host.Outcome State Fault Refusal :=
  let d := s.dev
  let h := handle.val
  match bundleAt d h with
  | some b =>
    match b.loading with
    | some uid =>
      match r with
      | .ok bs => whenDev (bs.length == b.len && !descPaged d uid && !d.boot.restarting) "not the bytes of the bundle" (publishBundle h b uid bs d) s
      | .failed st _ =>
        whenDev ((st == stMemUnc || st == stBadAddr) && !descPaged d uid && !d.boot.restarting) "no such failure" (endLoad uid st [0] (dropBundle h b d)) s
    | none => whenDev false "the bundle is not being loaded" d s
  | none => whenDev false "no bundle is being loaded" d s

/-- A session that is not FREE, or a PF2 job, uses the bundle. -/
def bundleUsed (d : Dev) (h : Nat) : Bool :=
  d.sess.sess.any (fun e => match e.2 with | some x => x.bundle == h | none => false) || d.host.jobs.any (fun j => j.bundle == h)

/-- BUNDLE_UNLOAD (R279). -/
def execBundleUnload (uid : Nat) (s : State) : Host.Outcome State Fault Refusal :=
  onDesc uid 0 0x02 (fun x d =>
    let h := fld (x.w 4) 0 8
    match loadedBundle d h with
    | some b => if bundleUsed d h then finishDesc x stConflict [] d else finishDesc x stSuccess [] (dropBundle h b d)
    | none => finishDesc x stConflict [] d) s

end Sys2Proof.Machine
end

