-- ==== Sys2Proof/Machine/Jobs.lean ====
section
/-! DEFINITION. PF2 jobs and the commands of every function (R336, R340, R371). -/

namespace Sys2Proof.Machine

/-- An export record (Table 13-9): inside DDR4 or a Vat. -/
def exportOk (d : Dev) (b : List Byte) : Bool :=
  let a := bytesNat b 0 8
  let n := bytesNat b 8 6
  a % 64 == 0 && n % 64 == 0 && decide (64 ≤ n) && decide (bytesNat b 0x0E 1 < 4) && bytesNat b 0x0F 1 == 0 &&
  (inside a n (vatBase 0) 0x4000000 || inside a n (vatBase 1) 0x4000000 || (d.ddr.trained && inside a n ddrBase (ddrSize d)))

/-- Bytes of a group record, filled to a multiple of 16. -/
def groupSize (b : List Byte) : Nat := ceilDiv (16 + 2 * bytesNat b 0 4) 16 * 16

/-- The members of a group record, in rank order. -/
def groupMembers (b : List Byte) : List Nat := (upFrom 0 (bytesNat b 0 4)).map (fun i => bytesNat b (16 + 2 * i) 2)

/-- All numbers of a list differ; the list is cut from its front. -/
def allDistinct : List Nat → Bool
  | [] => true
  | a :: t => !t.contains a && allDistinct t

/-- A group record (R340). -/
def groupOk (d : Dev) (b : List Byte) : Bool :=
  let n := bytesNat b 0 4
  let m := bytesNat b 8 2
  within 1 65536 n && within 10 10000000 (bytesNat b 4 4) && fld m 8 7 == 0 && bytesNat b 0x0A 6 == 0 && zeroBytes (b.drop (16 + 2 * n)) &&
  allDistinct (groupMembers b) && (groupMembers b).contains (ownId d)

/-- Cut n group records from a job record's tail; none where they do not fill it exactly. -/
def cutGroups : Nat → List Byte → Option (List (List Byte))
  | 0, bs => if bs.isEmpty then some [] else none
  | n + 1, bs =>
    if bytesNat bs 0 4 == 0 || decide (65536 < bytesNat bs 0 4) || decide (bs.length < groupSize bs) then none
    else (cutGroups n (bs.drop (groupSize bs))).map (fun l => bs.take (groupSize bs) :: l)

/-- The header of a job record (R371): arguments and zeros. -/
def jobHeaderOk (b : List Byte) : Bool :=
  zeroBytes (slice b 0x14 4) && zeroBytes (slice b 0x1E 2) && zeroBytes (slice b 0x26 26)

/-- The job that a JOB_RUN and its record describe; none where a rule is broken. -/
def jobOf (d : Dev) (x : Desc) (b : List Byte) : Option Job :=
  let nExp := fld (x.w 5) 0 5
  let handle := fld (x.w 4) 0 8
  let exps := (upFrom 0 nExp).map (fun i => slice b (64 + 16 * i) 16)
  let kindOk := match loadedBundle d handle with | some u => bundleKind d u == 1 | none => false
  if b.length < 64 + 16 * nExp || !kindOk || !jobHeaderOk b || !exps.all (exportOk d) then none
  else
    match cutGroups (fld (x.w 5) 8 5) (b.drop (64 + 16 * nExp)) with
    | some gs =>
      if gs.all (groupOk d) then
        some { uid := x.uid, tag := x.ident, ring := x.ring, fabric := fld (x.w 4) 16 16, bundle := handle, bg := x.bg, exports := exps, groups := gs, args := b.take 64 }
      else none
    | none => none

/-- The state of a JOB_RUN's targets allows it: its bundle is loaded, and no job uses its fabric job ID (R371, R382). -/
def jobTargetOk (d : Dev) (x : Desc) : Bool :=
  (loadedBundle d (fld (x.w 4) 0 8)).isSome &&
  !(fld (x.w 4) 16 16 != 0 && d.host.jobs.any (fun y => y.fabric == fld (x.w 4) 16 16))

/-- JOB_RUN with its record read: the job waits for dispatch. -/
def runJob (x : Desc) (b : List Byte) (d : Dev) : Dev :=
  match jobOf d x b with
  | none => finishDesc x stInvalid [] d
  | some j => beginDesc x.uid { d with host.jobs := d.host.jobs ++ [j] }

/-- JOB_RUN; `r` gives the job record as read from host memory, once the state of its targets allows the command (R369). -/
def execJobRun (uid : Nat) (r : ReqEnd) (s : State) : Host.Outcome State Fault Refusal :=
  let d := s.dev
  match cmdDesc d uid 2 0x20 with
  | some x =>
    if !d.ddr.trained then whenDev true "" (finishDesc x stInternal [] d) s
    else if !jobTargetOk d x then whenDev true "" (finishDesc x stConflict [] d) s
    else
    match r with
    | .ok b => whenDev (b.length == x.w 8) "not the job record" (runJob x b d) s
    | .failed st _ => whenDev (st == stBadAddr) "no such failure" (finishDesc x st [] d) s
  | none => whenDev false "no such descriptor is eligible" d s

/-- The job that a JOB_RUN with this tag from this ring runs. -/
def jobByTag (d : Dev) (ring tag : Nat) : Option Job :=
  d.host.jobs.find? (fun j => match findDesc d j.uid with | some y => y.ring == ring && y.tag == tag | none => false)

/-- JOB_ABORT. -/
def execJobAbort (uid : Nat) (s : State) : Host.Outcome State Fault Refusal :=
  onDesc uid 2 0x21 (fun x d =>
    match jobByTag d x.ring (fld (x.w 4) 0 16) with
    | some j => finishDesc x stSuccess [] (completeJob j.uid stCancelled d)
    | none => finishDesc x stConflict [] d) s

/-- The function of a descriptor. -/
def descFn (d : Dev) (uid : Nat) : Nat := match findDesc d uid with | some x => x.fn | none => 0

/-- Descriptors that a CANCEL names: taken from its ring, not yet eligible. -/
def cancelled (x y : Desc) : Bool :=
  y.fn == x.fn && y.ring == fld (x.w 5) 0 16 && y.tag == fld (x.w 4) 0 16 && (y.phase == .waiting || y.phase == .armed)

/-- CANCEL, on every function. -/
def execCancel (uid : Nat) (s : State) : Host.Outcome State Fault Refusal :=
  onDesc uid (descFn s.dev uid) 0x7E (fun x d =>
    if d.host.descs.any (cancelled x) then finishDesc x stSuccess [] (cancelWaiting (cancelled x) d)
    else finishDesc x stConflict [] d) s

/-- NOP, on every function. -/
def execNopCmd (uid : Nat) (s : State) : Host.Outcome State Fault Refusal :=
  onDesc uid (descFn s.dev uid) 0x7F (fun x d => finishDesc x stSuccess [] d) s

end Sys2Proof.Machine
end

