-- ==== Sys2Proof/Machine/Pages.lean ====
section
/-! DEFINITION. Absent host pages and the answers to page requests (R186, R191 to R193, R361, R362, R366, R465). -/

namespace Sys2Proof.Machine

/-- The page of an address. -/
def pageOf (a : Nat) : Nat := a / 4096 * 4096

/-- A range of n bytes touches a page. -/
def touches (a n page : Nat) : Bool := decide (a < page + 4096) && decide (page < a + n)

/-- A stream whose next element lies in host space on the page: the descriptor that would issue a request for it. -/
def pagedRun (d : Dev) (core e slot page : Nat) : Option StrmRun :=
  match currentRun ((engAt d (engKey core e)).queue slot) with
  | some r =>
    if canRequest d core e slot && r.blk.patSpace == 2 && touches (codeOf 64 (patAddr r.blk r.next)) (ptSize r.blk) page then some r else none
  | none => none

/-- A Quire COPY that has started and has a side in host space on the page. -/
def pagedQuire (d : Dev) (core id page : Nat) : Option QuireOp :=
  match (quireAt d core).ops.find? (fun o => o.id == id) with
  | some o =>
    let b := o.blk
    let hit : Bool := (b.srcSpace == 2 && touches b.src b.size page) || (b.dstSpace == 2 && touches b.dst b.size page)
    if o.started && o.page.isNone && o.ended.isNone && !b.signal && hit then some o else none
  | none => none

/-- The next entry of a ring that the device reads or writes lies on the page. -/
def pagedRing (d : Dev) (fn r page : Nat) : Bool :=
  let sq := regVal d (kRing fn r 0x04) * 2 ^ 32 + regVal d (kRing fn r 0x00) + 64 * sqHead d fn r
  ringRunning d fn r && !(ringAt d fn r).pageWait &&
  (touches (cqBase d fn r + 32 * cqTail d fn r) 32 page || (!(fn == 0 && r == 8) && ringPending d fn r && touches sq 64 page))

/-- A command that reads or writes host memory of its own accord: it is eligible, or its work is under way. -/
def pagedDesc (d : Dev) (uid : Nat) : Option Desc :=
  match findDesc d uid with
  | some x =>
    let kind : Bool := (x.fn == 0 && x.op == 0x01) || (x.fn == 1 && (x.op == 0x11 || x.op == 0x19)) || (x.fn == 2 && x.op == 0x20) || x.fn == 3
    let now : Bool := match x.phase with | .eligible _ => !(x.fn == 3) && x.op != 0x01 | .begun => x.op == 0x01 || x.fn == 3 | _ => false
    if kind && now && !descPaged d uid then some x else none
  | none => none

/-- A PF3 command fails whether it runs or is queued; a command that has not reached an engine has read nothing. -/
def runningPress (d : Dev) (uid : Nat) : Option (Nat × PressCmd) :=
  (upFrom 0 4).findSome? (fun e =>
    match pressQueue d e with
    | c :: _ => if c.uid == uid then some (e, c) else none
    | [] => none)

/-- A command's page request has failed: it ends with PAGE_FAULT_FATAL. -/
def failDesc (uid : Nat) (d : Dev) : Dev :=
  match runningPress d uid with
  | some (e, c) => failPress e c stPageFault 0 (setPressQueue e (pressQueue d e).tail d)
  | none =>
    match d.sess.bundles.find? (fun e => match e.2 with | some b => b.loading == some uid | none => false) with
    | some (h, some b) => endLoad uid stPageFault [0] (dropBundle h b d)
    | _ => endLoad uid stPageFault [] d

/-- What a page answer does to the work that met the page. -/
def answerPage (ok : Bool) (p : PageReq) (d : Dev) : Dev :=
  if p.dead then d
  else
    match p.user with
    | .stream core e slot => answerStream ok core e slot p.page d
    | .quire core id =>
      match (quireAt d core).ops.find? (fun o => o.id == id) with
      | some o =>
        if ok then updQuire core (fun q => { q with ops := q.ops.map (fun y => if y.id == id then { y with page := none } else y) }) d
        else quireEnd (slotKey core o.slot) stPageFault p.page o d
      | none => d
    | .ring fn r =>
      if ok then
        let d := updRing fn r (fun s => { s with pageWait := false }) d
        flushHeld fn r (ringAt d fn r).held d
      else stopRing fn r d
    | .desc uid => if ok then d else failDesc uid d

/-- Suspend the work that meets a page. -/
def suspendUser (u : PageUser) (page : Nat) (d : Dev) : Dev :=
  match u with
  | .stream core e slot => updRun (engKey core e) slot (fun r => !runIssued r) (fun r => { r with suspended := some page }) d
  | .quire core id => updQuire core (fun q => { q with ops := q.ops.map (fun o => if o.id == id then { o with page := some page } else o) }) d
  | .ring fn r => updRing fn r (fun s => { s with pageWait := true }) d
  | .desc _ => d

/-- The function whose pages some work uses; none where the work meets no such page now. -/
def pageFn (d : Dev) (u : PageUser) (page : Nat) : Option Nat :=
  match u with
  | .stream core e slot => (pagedRun d core e slot page).map (fun _ => (slotAt d (slotKey core slot)).fn)
  | .quire core id => (pagedQuire d core id page).map (fun o => (slotAt d (slotKey core o.slot)).fn)
  | .ring fn r => if pagedRing d fn r page then some fn else none
  | .desc uid =>
    match pagedDesc d uid with
    | some x => if x.fn == 3 && (runningPress d uid).isNone then none else some x.fn
    | none => none

/-- HOST_PAGE_ABSENT: the work is suspended and a page request made, or waits for its turn; a function whose requests have
failed for good fails the work at once (R362). -/
def execHostPageAbsent (u : PageUser) (page : BitVec 64) (s : State) : Host.Outcome State Fault Refusal :=
  let d := s.dev
  let a := page.toNat
  match pageFn d u a with
  | some fn =>
    whenDev (a % 4096 == 0) "not a page"
      (let d := suspendUser u a d
       if tget false d.strm.priFailed fn then answerPage false { fn := fn, page := a, user := u, sent := false, dead := false } d
       else addPage fn a u d) s
  | none => whenDev false "the work meets no such page" d s

/-- A sent request for the page is outstanding. -/
def pageSent (d : Dev) (fn page : Nat) : Bool := d.strm.pages.any (fun p => p.fn == fn && p.page == page && p.sent)

/-- The requests that satisfy `p` are answered and forgotten; waiting ones take their turn. -/
def answerPages (ok : Bool) (p : PageReq → Bool) (fn : Nat) (d : Dev) : Dev :=
  let gone := d.strm.pages.filter p
  let d := forEach gone (answerPage ok) { d with strm.pages := d.strm.pages.filter (fun q => !p q) }
  sendPages fn d.strm.pages.length d

def onPage (fn page : Nat) (q : PageReq) : Bool := q.fn == fn && q.page == page && q.sent

/-- PAGE_REQUEST_SUCCESS: the suspended work resumes. -/
def execPageRequestSuccess (fn : Fin 4) (page : BitVec 64) (s : State) : Host.Outcome State Fault Refusal :=
  let d := s.dev
  whenDev (pageSent d fn.val page.toNat) "no such page request" (answerPages true (onPage fn.val page.toNat) fn.val d) s

/-- PAGE_REQUEST_FAILURE: an Invalid Request response fails the work. -/
def execPageRequestFailure (fn : Fin 4) (page : BitVec 64) (s : State) : Host.Outcome State Fault Refusal :=
  let d := s.dev
  whenDev (pageSent d fn.val page.toNat) "no such page request" (answerPages false (onPage fn.val page.toNat) fn.val d) s

/-- PAGE_RESPONSE_FAILURE: the work fails, and with it every request of the function that is not sent; the function makes no page
request until software enables PRI again. -/
def execPageResponseFailure (fn : Fin 4) (page : BitVec 64) (s : State) : Host.Outcome State Fault Refusal :=
  let d := s.dev
  let f := fn.val
  whenDev (pageSent d f page.toNat) "no such page request"
    (answerPages false (fun q => onPage f page.toNat q || (q.fn == f && !q.sent)) f
      { d with strm.priFailed := tset false d.strm.priFailed f true }) s

/-- PRI_ENABLE: software sets PRI Enable after having cleared it; `alloc` page requests are allocated to the function. -/
def execPriEnable (fn : Fin 4) (alloc : Nat) (s : State) : Host.Outcome State Fault Refusal :=
  let d := s.dev
  whenDev true ""
    (sendPages fn.val d.strm.pages.length { d with
      strm.priFailed := tset false d.strm.priFailed fn.val false
      strm.priAlloc := tset 0 d.strm.priAlloc fn.val alloc }) s

/-! Invalidation (R361). -/

/-- A stream's outstanding requests touch the page. -/
def runTouches (d : Dev) (fn page : Nat) (r : StrmRun) (k : Nat) : Bool :=
  r.blk.patSpace == 2 && (slotAt d k).fn == fn &&
  r.reqs.any (fun q => touches (codeOf 64 (patAddr r.blk q.first)) ((patAddr r.blk (q.first + q.count - 1) - patAddr r.blk q.first).toNat + ptSize r.blk) page)

/-- A request that used the translation of a page is outstanding. -/
def pageInUse (d : Dev) (fn page : Nat) : Bool :=
  let inQueue (core slot : Nat) (es : List StrmEntry) : Bool :=
    es.any (fun e => match e with | .desc r => runTouches d fn page r (slotKey core slot) | .cancel _ => false)
  d.strm.engines.any (fun e => inQueue (e.1 / 8) 0 e.2.queue0 || inQueue (e.1 / 8) 1 e.2.queue1) ||
  (fn == 3 && d.press.engs.any (fun e =>
    match e.2 with
    | c :: _ => (!c.srcDdr && touches c.src c.srcLen page) || (!c.dstDdr && touches c.dst c.dstLen page)
    | [] => false)) ||
  (fn == 0 && d.sess.bundles.any (fun e =>
    match e.2 with
    | some b => (match b.loading.bind (findDesc d) with | some x => touches (x.w64 4) b.len page | none => false)
    | none => false))

/-- ATS_INVALIDATE: an Invalidate Request completes once no request that used the page's translation is outstanding. -/
def execAtsInvalidate (fn : Fin 4) (page : BitVec 64) (s : State) : Host.Outcome State Fault Refusal :=
  let d := s.dev
  whenDev (!pageInUse d fn.val page.toNat) "a request that used the translation is outstanding" (emit (.invalidateDone fn.val page.toNat) d) s

end Sys2Proof.Machine
end

