-- ==== Sys2Proof/Machine/Time.lean ====
section
/-! DEFINITION. Fabric Time (R297 to R312, R476): its states and corrections, the calendar clock, the sources and the
grandmaster. -/

namespace Sys2Proof.Machine

/-! The source (R305, R306). -/

def timeState (d : Dev) : Nat := getF d kTimStatus 0 3
def timeSource (d : Dev) : Nat := getF d kTimStatus 8 4
def setTimeState (v : Nat) (d : Dev) : Dev := setF kTimStatus 0 3 v d

def gmEn (d : Dev) : Bool := getF d kTimSrcCfg 0 1 == 1

/-- PPS_IN with FREQ_IN, and IEEE 1588, are sources of this device (Table 12-2). -/
def ppsSource (d : Dev) : Bool := getF d kTimSrcCfg 1 1 == 1 && d.time.ppsOk && d.time.freqOk
def ptpSource (d : Dev) : Bool := getF d kTimSrcCfg 2 1 == 1 && getF d kTimSrcCfg 11 2 != 3

/-- The class of this device's best source. -/
def ownClass (d : Dev) : Nat := if ppsSource d then 0 else if ptpSource d && d.time.ptpLocked then 1 else 2

/-- Candidates for grandmaster as (class, priority, device ID): this device, and those its neighbours follow. -/
def gmCandidates (d : Dev) : List (Nat × Nat × Nat) :=
  (if gmEn d then [(ownClass d, getF d kTimSrcCfg 24 8, ownId d)] else []) ++
  d.time.adverts.filterMap (fun e => match e.2 with | some a => if a.gmEn then some (a.cls, a.prio, a.gmId) else none | none => none)

/-- A candidate that comes before another. -/
def gmBefore (a b : Nat × Nat × Nat) : Bool :=
  decide (a.1 < b.1) || (a.1 == b.1 && (decide (a.2.1 < b.2.1) || (a.2.1 == b.2.1 && decide (a.2.2 < b.2.2))))

def bestGm (d : Dev) : Option (Nat × Nat × Nat) :=
  (gmCandidates d).foldl (fun b c => match b with | some g => if gmBefore c g then some c else some g | none => some c) none

/-- The neighbour that offers the fewest hops to a grandmaster, the lowest port on a tie. -/
def bestParent (d : Dev) (gm : Nat × Nat × Nat) : Option (Nat × Advert) :=
  d.time.adverts.foldl (fun b e =>
    match e.2 with
    | some a =>
      if a.gmEn && (a.cls, a.prio, a.gmId) == gm then
        (match b with
         | some p => if a.hops < p.2.hops then some (e.1, a) else some p
         | none => some (e.1, a))
      else b
    | none => b) none

/-- The largest hop count this device knows of: its own and those its neighbours report (log entry 30). -/
def knownHops (d : Dev) (own : Nat) : Nat :=
  d.time.adverts.foldl (fun m e => match e.2 with | some a => max m (max a.hops a.maxHops) | none => m) own

/-- LOCKED ends when the source is lost; ACQUIRING falls back (R299, R300). -/
def loseSource (d : Dev) : Dev :=
  let d := { d with time.run := 0, time.bad := 0 }
  if timeState d == 2 then setTimeState 3 (raiseEvent 0x06 6 0 [timeSource d] d)
  else if timeState d == 1 then setTimeState 0 d else d

/-- The grandmaster, source, parent and hop count that the rule of R306 gives now. -/
structure Choice where
  gm : Option (Nat × Nat × Nat)
  source : Nat
  parent : Option Nat
  hops : Nat
  deriving DecidableEq, Repr

def chooseSource (d : Dev) : Choice :=
  match bestGm d with
  | none => { gm := none, source := 0, parent := none, hops := 0 }
  | some g =>
    if gmEn d && g.2.2 == ownId d then
      { gm := some g, source := if ppsSource d then 1 else if ptpSource d then 2 else 0, parent := none, hops := 0 }
    else
      match bestParent d g with
      | some p => { gm := some g, source := 3, parent := some p.1, hops := p.2.hops + 1 }
      | none => { gm := some g, source := 0, parent := none, hops := 0 }

/-- Apply the rule of R306; a source that changes is lost first. -/
def reselect (d : Dev) : Dev :=
  let c := chooseSource d
  let gmId := match c.gm with | some g => g.2.2 | none => 0
  let cls := match c.gm with | some g => g.1 | none => 2
  let moved : Bool := timeSource d != c.source || (c.source == 3 && getF d kTimGm 16 16 != gmId)
  let d := if moved then loseSource d else d
  let d := setF kTimStatus 8 4 c.source (setF kTimStatus 16 8 c.hops d)
  let d := regPut kTimGm (gmId * 65536 + (knownHops d c.hops % 256) * 256 + cls) d
  { d with time.parent := c.parent }

/-! Samples (R299, R301, R307). Offsets are in units of 0.25 ns. -/

/-- A number as an INT32 that saturates. -/
def satInt32 (v : Int) : Nat := codeOf 32 (if v < -2147483648 then -2147483648 else if 2147483647 < v then 2147483647 else v)

/-- Move Fabric Time in one ACLK. -/
def stepTime (off : Int) (d : Dev) : Dev :=
  let d := setF kTimStatus 30 1 1 (bumpF kTimAnomaly 0 16 1 d)
  { d with
    time.ft := (d.time.ft + off * 16384).toNat
    time.slew := 0 }

/-- An invalid sample; `only` says it is invalid for its offset alone. -/
def badSample (src : Nat) (off : Int) (only : Bool) (d : Dev) : Dev :=
  let d := raiseEvent 0x07 6 0 [src, satInt32 off] (bumpF kTimAnomaly 16 16 1 d)
  let n := if only then d.time.bad + 1 else 0
  if n == 8 then stepTime off { d with time.bad := 0, time.run := 0 } else { d with time.bad := n, time.run := 0 }

/-- The bound of Table 12-4, in units of 0.25 ns; none on IEEE 1588. -/
def sampleBound (d : Dev) : Option Nat :=
  match timeSource d with
  | 1 => some 8
  | 3 => some (8 + 6 * getF d kTimStatus 16 8)
  | _ => none

/-- The frequency correction a valid sample leaves, which the servo decides (log entry 31). -/
def servo (d : Dev) : Int := ((Config.freeNat d.free 0 % 65 : Nat) : Int) - 32

/-- A valid sample. `within` says it lies within its bound after correction, which the servo decides unless the offset itself does. -/
def goodSample (off : Int) (within_ : Bool) (d : Dev) : Dev :=
  let near : Bool := within_ || (match sampleBound d with | some b => decide (off.natAbs ≤ b) | none => false)
  let d := regPut kTimOffset (satInt32 off) d
  let run := if near then d.time.run + 1 else 0
  let d := { d with
    free := d.free + 1
    time.valid := d.aclk
    time.bad := 0
    time.freq := servo d
    time.slew := off * 16384
    time.run := run }
  match timeState d with
  | 1 =>
    if 16 ≤ run then
      let d := setTimeState 2 d
      if 4000 ≤ off.natAbs then stepTime off d else d
    else d
  | 2 => d
  | _ => setTimeState 1 { d with time.run := if near then 1 else 0 }

/-- One sample of the selected source (R307). -/
def takeSample (src : Nat) (off : Int) (within_ : Bool) (d : Dev) : Dev :=
  if timeState d == 2 && decide (4000 < off.natAbs) then badSample src off true d else goodSample off within_ d

/-- TIME_SAMPLE: an offset measured against the PTP master by the IEEE 1588 slave, where that is the selected source; samples of
PPS_IN and of the parent come by their own commands. -/
def execTimeSample (off : Int) (within_ : Bool) (s : State) : Host.Outcome State Fault Refusal :=
  whenDev (timeSource s.dev == 2) "IEEE 1588 is not the selected source" (takeSample 2 off within_ s.dev) s

/-- ACLK in four sample intervals of the selected source; the PTP profile sets its own. -/
def sampleTimeout (d : Dev) : Nat :=
  match timeSource d with
  | 1 => 800000000
  | 3 => 800000
  | _ => 0

/-- TIME_SAMPLE_TIMEOUT: four sample intervals pass without a valid sample; a silent parent's advertisement goes (R299). -/
def execTimeSampleTimeout (s : State) : Host.Outcome State Fault Refusal :=
  let d := s.dev
  whenDev ((timeState d == 1 || timeState d == 2) && timeSource d != 0 && decide (d.time.valid + sampleTimeout d ≤ d.aclk)) "samples are not overdue"
    (let d := loseSource d
     let quiet (e : Nat × Option Advert) : Bool := match e.2 with | some a => decide (a.at_ + 800000 ≤ d.aclk) | none => true
     reselect { d with time.adverts := d.time.adverts.filter (fun e => !quiet e) }) s

/-! The calendar clock and PPS_OUT (R302, R312). -/

/-- CALENDAR_WRITE: at a whole second while LOCKED. -/
def execCalendarWrite (s : State) : Host.Outcome State Fault Refusal :=
  let d := s.dev
  let sec := nowNs d / 1000000000
  whenDev (timeState d == 2 && sec != d.time.calSec) "no whole second to write"
    (setF kTimStatus 31 1 0 { d with
      time.cal := sec % 2 ^ 40 * 32768
      time.calBad := false
      time.calFrac := 0
      time.calSec := sec }) s

/-- The number of the PPS_OUT pin in what the device drives. -/
def pinPpsOut : Nat := 16

/-- PPS_OUT_EDGE: it rises at a whole second and falls 1 ms later. -/
def execPpsOutEdge (s : State) : Host.Outcome State Fault Refusal :=
  let d := s.dev
  let sec := nowNs d / 1000000000
  let ms := nowNs d % 1000000000 / 1000000
  if d.time.ppsHigh then
    whenDev (ms != 0 || sec != d.time.ppsSec) "1 ms has not passed" (emit (.pin pinPpsOut 0) { d with time.ppsHigh := false }) s
  else
    whenDev (ms == 0 && sec != d.time.ppsSec) "no whole second" (emit (.pin pinPpsOut 1) { d with time.ppsHigh := true, time.ppsSec := sec }) s

/-! PPS_IN and FREQ_IN (R307, R308, R476). -/

/-- The second number of an edge: the armed one, else the nearest. -/
def edgeSecond (d : Dev) : Nat := d.time.armed.getD ((nowNs d + 500000000) / 1000000000)

/-- Nanoseconds from the nearest whole second of Fabric Time. -/
def fromSecond (d : Dev) : Nat := min (nowNs d % 1000000000) (1000000000 - nowNs d % 1000000000)

/-- PPS_IN_EDGE: the edge counts toward the input's presence and, where PPS_IN is the selected source, is a sample. -/
def execPpsInEdge (within_ : Bool) (s : State) : Host.Outcome State Fault Refusal :=
  let d := s.dev
  let spaced : Bool := match d.time.ppsAt with
    | some t => decide (t + 199980000 ≤ d.aclk) && decide (d.aclk ≤ t + 200020000)
    | none => false
  let n := if spaced then d.time.ppsRun + 1 else 1
  let off := ((edgeSecond d : Nat) * 1000000000 * 65536 - (d.time.ft : Int)).fdiv 16384
  let sample (d : Dev) : Dev :=
    if timeSource d != 1 then d
    else if timeState d == 2 && decide (1000000 < fromSecond d) then badSample 1 off false d
    else takeSample 1 off within_ d
  let d := sample d
  whenDev true ""
    (reselect { d with
      time.armed := none
      time.ppsRun := n
      time.ppsAt := some d.aclk
      time.ppsOk := d.time.ppsOk || decide (3 ≤ n) }) s

/-- PPS_IN_LOSS: no edge for 1.1 s. -/
def execPpsInLoss (s : State) : Host.Outcome State Fault Refusal :=
  let d := s.dev
  let late : Bool := match d.time.ppsAt with | some t => decide (t + 220000000 ≤ d.aclk) | none => true
  whenDev (d.time.ppsOk && late) "PPS_IN is not lost" (reselect { d with time.ppsOk := false, time.ppsRun := 0 }) s

/-- FREQ_IN_WINDOW: the frequency that a 1 ms count gives, in Hz. -/
def execFreqInWindow (hz : Nat) (s : State) : Host.Outcome State Fault Refusal :=
  whenDev true "" (reselect { s.dev with time.freqOk := within 9999500 10000500 hz }) s

/-- A write of TIM_SET_SEC_HI arms the second. -/
def armSecond (v : Nat) (d : Dev) : Dev := { d with time.armed := some (fld v 0 8 * 2 ^ 32 + d.time.setLo) }

/-- TIM_SET_SEC_ARM (R308). -/
def execTimSetSecArm (v : W32) (s : State) : Host.Outcome State Fault Refusal := whenDev (bootDone s.dev) "the TIM block is not in use" (armSecond v.toNat s.dev) s

/-! IEEE 1588 (R309). -/

/-- A domain number that a profile accepts (Table 12-3). -/
def ptpDomainOk (profile dom : Nat) : Bool := if profile == 1 then within 24 43 dom else decide (dom < 128)

/-- PTP_MESSAGE: a message of a domain number and profile arrives on the PTP port; `locked` says whether the slave clock is locked
after it. Messages of another domain or profile are ignored. -/
def execPtpMessage (dom : BitVec 8) (profile : Fin 4) (locked : Bool) (s : State) : Host.Outcome State Fault Refusal :=
  let d := s.dev
  let p := getF d kTimSrcCfg 11 2
  let port := getF d kTimSrcCfg 13 3
  let mine : Bool := dom.toNat == getF d kTimSrcCfg 16 8 && profile.val == p && ptpDomainOk p dom.toNat && p != 3
  whenDev (getF d kTimSrcCfg 2 1 == 1 && (linkAt d port).mode == 1 && linkUp d port) "no PTP port is in use"
    (if mine then reselect { d with time.ptpLocked := locked } else d) s

end Sys2Proof.Machine
end

