-- ==== Sys2Proof/Machine/CrbLink.lean ====
section
/-! DEFINITION. The Crebor link layer (R322 to R329, R349 to R352): ports going up and down, flits and their control codes, replay,
credits, violations, the stall windows, Ethernet frames and tunnels. -/

namespace Sys2Proof.Machine

/-! Flits (Table 13-3). -/

def flitHead (f : List Byte) : Nat := bytesNat f 0 8
def flitKind (f : List Byte) : Nat := fld (flitHead f) 60 4
def flitPayload (f : List Byte) : List Byte := slice f 8 244

/-- A flit whose CRC is good. -/
def flitGood (f : List Byte) : Bool := f.length == 256 && bytesNat f 252 4 == crc32c (f.take 252)

/-- A flit from its header fields and payload; `acks` are the bits below the numbered part. -/
def buildFlit (kind vl sop eop seq acks : Nat) (payload : List Byte) : List Byte :=
  let h := kind * 2 ^ 60 + vl * 2 ^ 57 + sop * 2 ^ 56 + eop * 2 ^ 55 + seq * 2 ^ 36 + acks
  let body := leBytes 8 h ++ payload ++ List.replicate (244 - payload.length) 0
  body ++ leBytes 4 (crc32c body)

/-- The operands of a control code, with the code, for a known code (Table 13-5). -/
def ctrlLen (code : Nat) : Option Nat :=
  match code with
  | 1 | 2 => some 16
  | 3 => some 2
  | 4 => some 10
  | 5 => some 30
  | 6 => some 1
  | _ => none

/-- The control code of a good control flit with a known code. -/
def ctrlCode (f : List Byte) : Option Nat :=
  let c := bytesNat f 8 1
  if flitGood f && flitKind f == 2 && (ctrlLen c).isSome then some c else none

/-- Operand bytes of a control flit. -/
def ctrlNat (f : List Byte) (off n : Nat) : Nat := bytesNat f (9 + off) n

/-- The eight counts of CRED_INIT and CRED_SYNC. -/
def ctrlCounts (f : List Byte) : Tbl Nat :=
  (upFrom 0 8).foldl (fun t v => tset 0 t v (ctrlNat f (2 * v) 2)) []

/-! Links. -/

/-- A port is in Ethernet mode and up. -/
def ethUp (d : Dev) (p : Nat) : Bool := decide (p < 8) && linkUp d p && (linkAt d p).mode == 1

/-- The record of a tunnel (Table 13-15). -/
def tunnelRec (d : Dev) (t : Nat) : List Byte := slice (bodyOf (objAt d 4)) (0x280 + 64 * t) 64

/-- The port that carries a link. -/
def linkPort (d : Dev) (l : Nat) : Nat := if l < 8 then l else bytesNat (tunnelRec d (l - 8)) 0 1

/-- Receive buffers advertised by virtual lane (Table 13-4, R352). -/
def bufSizes (l : Nat) : Tbl Nat :=
  (upFrom 0 8).map (fun v => (v, if l < 8 then (if v < 6 then 80 else 16) else 256))

def replayMax (l : Nat) : Nat := if l < 8 then 64 else 2048
def ackTimeout (l : Nat) : Nat := if l < 8 then 4000 else 400000

/-- The control flit that advertises buffers. -/
def credPayload (code : Nat) (t : Tbl Nat) : List Byte := leBytes 1 code ++ (upFrom 0 8).flatMap (fun v => leBytes 2 (tget 0 t v))

/-- A link that has just come up. -/
def freshLink (now l : Nat) (s : LinkSt) : LinkSt :=
  { mode := s.mode, media := s.media, partner := bufSizes l, ctrl := [credPayload 1 (bufSizes l)], initAt := some now, winAt := now, heard := now,
    rx := s.rx, lastEvt := s.lastEvt }

/-- A link that has gone down: what it had queued or kept for replay is discarded, whole packets received stay. -/
def deadLink (now : Nat) (s : LinkSt) : LinkSt := { mode := s.mode, media := s.media, downAt := now, rx := s.rx.map (fun p => { p with flits := 0 }), lastEvt := s.lastEvt }

/-- A tunnel goes down. -/
def tunnelDown (t : Nat) (d : Dev) : Dev := updLink (8 + t) (deadLink d.aclk) (setF (kCrbTunnel t) 30 1 0 d)

/-- The tunnels of a port go down. -/
def tunnelsDown (p : Nat) (d : Dev) : Dev :=
  forEach ((upFrom 0 16).filter (fun t => linkUp d (8 + t) && linkPort d (8 + t) == p)) tunnelDown d

/-- DOWN_NOTICE leaves on a Crebor-mode port that is up; the spec gives its reason code no values. -/
def sendNotice (p : Nat) (d : Dev) : Dev :=
  if nativeUp d p then
    emit (.flit p (buildFlit 2 0 0 0 0 0 (leBytes 1 6 ++ leBytes 1 (Config.freeNat d.free 0)))) { d with free := d.free + 1 }
  else d

/-- Take a port that is up down (R350): `st` is the state it goes to, `notice` says this device sends DOWN_NOTICE before. -/
def linkDown (p st : Nat) (notice : Bool) (d : Dev) : Dev :=
  if linkUp d p then
    let d := if notice then sendNotice p d else d
    let d := setF (kCrbPort p 4) 29 3 st (setF (kCrbPort p 4) 28 1 1 (bumpF (kCrbPort p 4) 0 8 1 d))
    let d := raiseEvent 0x05 3 p [(linkAt d p).since, 256] d
    let d := regPut (kTimHop p) 0 (tunnelsDown p (updLink p (deadLink d.aclk) d))
    reselect { d with time.adverts := tset none d.time.adverts p none }
  else setF (kCrbPort p 4) 29 3 st d

/-! Violations (R349, R350). -/

/-- Count a violation on a link; 16 within 1 ms take its port down. -/
def violate (l row : Nat) (d : Dev) : Dev :=
  let p := linkPort d l
  let d := setF (kCrbPort p 0xC) 24 8 row (bumpF (kCrbPort p 0xC) 0 16 1 d)
  let now := d.aclk
  let d := updLink p (fun s => { s with
    viol := (s.viol.filter (fun t => decide (now < t + 200000))) ++ [now]
    since := s.since + 1 }) d
  let s := linkAt d p
  let due : Bool := match s.lastEvt with | some t => decide (t + 200000 ≤ now) | none => true
  let d := if due then updLink p (fun s => { s with since := 0, lastEvt := some now }) (raiseEvent 0x05 3 l [s.since, row] d) else d
  if 16 ≤ s.viol.length then linkDown p 3 true d else d

/-- Ask for the expected number, once for each gap (R327). -/
def askReplay (l : Nat) (d : Dev) : Dev :=
  updLink l (fun s =>
    match s.gap with
    | some (e, _) => if e == s.expect then s else { s with gap := some (s.expect, d.aclk), ctrl := s.ctrl ++ [leBytes 1 3 ++ leBytes 2 s.expect] }
    | none => { s with gap := some (s.expect, d.aclk), ctrl := s.ctrl ++ [leBytes 1 3 ++ leBytes 2 s.expect] }) d

/-! Receiving. -/

/-- An ack drops what it covers from the replay buffer. -/
def ackLink (a : Nat) (s : LinkSt) : LinkSt :=
  match s.replay.findIdx? (fun f => f.seq == a) with
  | some i => { s with replay := s.replay.drop (i + 1), resend := min s.resend (s.replay.length - (i + 1)) }
  | none => s

/-- An ack names a number that was not sent (Table 13-13, row 4). -/
def ackUnsent (s : LinkSt) (a : Nat) : Bool :=
  !s.replay.any (fun f => f.seq == a) && (s.seq + 8191 - s.replay.length) % 4096 != a && decide ((a + 4096 - s.seq) % 4096 < 2048)

/-- Apply the ack and the credits that every good flit of a known kind carries (R326). -/
def rxHead (l : Nat) (f : List Byte) (d : Dev) : Dev :=
  let h := flitHead f
  let a := fld h 24 12
  let bad := ackUnsent (linkAt d l) a
  let d := updLink l (fun s =>
    let s := if bad then s else ackLink a s
    { s with credits := tmod 0 s.credits (fld h 21 3) (· + fld h 12 9) }) d
  if bad then violate l 4 d else d

/-- Buffer freed on a lane, to be returned. -/
def freeBuf (l vl n : Nat) (d : Dev) : Dev := updLink l (fun s => { s with owed := tmod 0 s.owed vl (· + n) }) d

/-- Bits of a header that a packet of its type leaves 0 (Table 13-6). -/
def pktRsvdOk (b : List Byte) : Bool :=
  let p := pktOf b
  p.rsvd == 0 && decide (p.len ≤ 4096) && fld p.post 13 2 == 0 && fld p.post 6 2 == 0 && (p.type == 9 || p.status == 0) &&
  (p.type != 3 || within 1 2047 p.addr) && (p.type != 0x10 || decide (p.dst < 256)) &&
  (!(p.type == 1 || p.type == 2 || p.type == 0x10) || p.len != 0) && (!isColl p.type || decide (32 ≤ p.len)) && (p.type != 0x28 || p.len == 16)

/-- The row of Table 13-13 that a whole packet breaks: 7, 8, or none. TIME messages are vetted by their own row. -/
def pktRow (l vl flits : Nat) (b : List Byte) : Option Nat :=
  let p := pktOf b
  match typeVl p.type with
  | none => some 7
  | some v =>
    let lane : Bool := vl == v || (decide (v < 6) && vl == v + 1)
    let size : Bool := ceilDiv (32 + dataLen p.type p.len) 244 == flits
    let away : Bool := decide (8 ≤ l) && (p.type == 0x20 || p.type == 0x28 || p.type == 0x10)
    if !lane || away || (p.type != 0x20 && !(size && pktRsvdOk b)) then some 8 else none

/-- Answer a packet that breaks a row; a response draws nothing. -/
def nakBad (row : Nat) (b : List Byte) (d : Dev) : Dev :=
  let p := pktOf b
  if isResponse p.type then d else sendPlain (nakOf d (if row == 7 then 1 else 7) p) d

/-- A packet has come whole: it waits for its own command, or breaks a row. -/
def rxWhole (l vl : Nat) (pls : List (List Byte)) (d : Dev) : Dev :=
  let b := pls.flatten
  match pktRow l vl pls.length b with
  | some row => violate l row (nakBad row b (freeBuf l vl pls.length d))
  | none => updLink l (fun s => { s with rx := s.rx ++ [{ vl := vl, flits := pls.length, bytes := b.take (32 + (pktOf b).data.length) }] }) d

/-- Put an accepted DATA flit to its packet (R329). A packet that has 18 flits has been answered and is swallowed to its end. -/
def assemble (l vl : Nat) (sop eop : Bool) (pl : List Byte) (d : Dev) : Dev :=
  let cur := tget [] (linkAt d l).part vl
  let put (x : List (List Byte)) (d : Dev) : Dev := updLink l (fun s => { s with part := tset [] s.part vl x }) d
  let start (d : Dev) : Dev := if eop then rxWhole l vl [pl] (put [] d) else put [pl] d
  if sop then
    if cur.isEmpty then start d
    else if cur.length == 18 then start d
    else start (violate l 8 (nakBad 8 cur.flatten (freeBuf l vl cur.length d)))
  else if cur.isEmpty then violate l 8 (freeBuf l vl 1 d)
  else if cur.length == 18 then (if eop then put [] (freeBuf l vl 1 d) else freeBuf l vl 1 d)
  else if cur.length == 17 then
    violate l 8 (nakBad 8 cur.flatten (freeBuf l vl 18 (put (if eop then [] else cur ++ [pl]) d)))
  else if eop then rxWhole l vl (cur ++ [pl]) (put [] d)
  else put (cur ++ [pl]) d

/-- A DATA flit with a good CRC: rows 2 and 3, else it is accepted. -/
def rxData (l : Nat) (f : List Byte) (d : Dev) : Dev :=
  let h := flitHead f
  let vl := fld h 57 3
  let s := linkAt d l
  if fld h 36 12 != s.expect then violate l 2 (askReplay l d)
  else if tget 0 s.partner vl == 0 then
    let free := (upFrom 0 8).foldl (fun t v => tset 0 t v (tget 0 s.partner v + tget 0 s.owed v)) ([] : Tbl Nat)
    let d := updLink l (fun s => { s with partner := free, owed := [], sync := some d.aclk, ctrl := s.ctrl ++ [credPayload 2 free] }) d
    violate l 3 (askReplay l d)
  else
    let d := updLink l (fun s => { s with
      expect := (s.expect + 1) % 4096
      gap := none
      sync := none
      partner := tmod 0 s.partner vl (· - 1) }) d
    assemble l vl (fld h 56 1 == 1) (fld h 55 1 == 1) (flitPayload f) d

/-- A flit other than a good control flit with a known code (R327, R349). -/
def rxPlain (l : Nat) (f : List Byte) (d : Dev) : Dev :=
  if !flitGood f then violate l 1 (askReplay l (bumpF (kCrbPort (linkPort d l) 8) 16 16 1 d))
  else if flitKind f == 0 then rxHead l f (updLink l (fun s => { s with initAt := none }) d)
  else if flitKind f == 1 then
    let d := rxHead l f (updLink l (fun s => { s with initAt := none }) d)
    if linkUp d l then rxData l f d else d
  else violate l 6 d

/-- FLIT_RECEIVE: a flit reaches a Crebor-mode port; the control codes of Table 13-5 have commands of their own. -/
def execFlitReceive (port : Fin 8) (f : List Byte) (s : State) : Host.Outcome State Fault Refusal :=
  whenDev (nativeUp s.dev port.val && f.length == 256 && (ctrlCode f).isNone) "no such flit" (rxPlain port.val f s.dev) s

/-! Control flits. -/

/-- CRED_INIT sets the credits the first time after link-up; a repetition changes nothing. -/
def onCredInit (l : Nat) (f : List Byte) (d : Dev) : Dev :=
  updLink l (fun s => if s.sizes then s else { s with sizes := true, credits := ctrlCounts f }) d

def onCredSync (l : Nat) (f : List Byte) (d : Dev) : Dev := updLink l (fun s => { s with credits := ctrlCounts f }) d

/-- Count a replay started. -/
def countReplay (l : Nat) (d : Dev) : Dev := if l < 8 then bumpF (kCrbPort l 8) 8 8 1 d else d

/-- Resend from the named flit, from the oldest where it is no longer buffered (row 5); the number to be sent next asks for nothing. -/
def onReplayReq (l : Nat) (f : List Byte) (d : Dev) : Dev :=
  let n := ctrlNat f 0 2 % 4096
  let s := linkAt d l
  if n == s.seq then d
  else
    match s.replay.findIdx? (fun x => x.seq == n) with
    | some i => countReplay l (updLink l (fun s => { s with resend := s.replay.length - i }) d)
    | none => violate l 5 (countReplay l (updLink l (fun s => { s with resend := s.replay.length }) d))

/-- Fabric Time as ns and 16-bit fraction. -/
def timeBytes (ft : Nat) : List Byte := leBytes 8 (ft / 65536) ++ leBytes 2 (ft % 65536)
def timeNat (f : List Byte) (off : Nat) : Nat := ctrlNat f off 8 * 65536 + ctrlNat f (off + 8) 2

/-- The bytes after the operands are 0. -/
def ctrlClean (f : List Byte) (n : Nat) : Bool := zeroBytes (slice f (9 + n) (243 - n))

/-- A malformed time probe (row 10). -/
def badProbe (l : Nat) (d : Dev) : Dev := violate l 10 (raiseEvent 0x07 6 0 [3, 0] (bumpF kTimAnomaly 16 16 1 d))

/-- A TIME_PROBE is answered with its t1, the time of its arrival, and the time of the answer, set as it leaves. -/
def onTimeProbe (l : Nat) (f : List Byte) (d : Dev) : Dev :=
  if ctrlClean f 10 then updLink l (fun s => { s with ctrl := s.ctrl ++ [leBytes 1 5 ++ slice f 9 10 ++ timeBytes d.time.ft] }) d
  else badProbe l d

/-- A TIME_PROBE_RSP yields the link delay in units of 0.25 ns (R310). -/
def onTimeProbeRsp (l : Nat) (f : List Byte) (d : Dev) : Dev :=
  let q : Int := ((d.time.ft : Int) - (timeNat f 0 : Int)) - ((timeNat f 20 : Int) - (timeNat f 10 : Int))
  let v := q / 32768
  if ctrlClean f 30 && decide (0 ≤ q) && decide (v < 16777216) then regPut (kTimHop l) (2 ^ 31 + v.toNat) d else badProbe l d

/-- A good control flit with a known code. Over a tunnel no time probe is sent, and one that comes is not known. -/
def rxCtrl (l code : Nat) (f : List Byte) (d : Dev) : Dev :=
  let d := rxHead l f d
  if !linkUp d l then d
  else
  match code with
  | 1 => onCredInit l f d
  | 2 => onCredSync l f d
  | 3 => onReplayReq l f d
  | 4 => if l < 8 then onTimeProbe l f d else violate l 6 d
  | 5 => if l < 8 then onTimeProbeRsp l f d else violate l 6 d
  | _ => if l < 8 then linkDown l 3 false d else tunnelDown (l - 8) d

/-- A control flit of a code reaches a Crebor-mode port. -/
def ctrlStep (port : Fin 8) (code : Nat) (f : List Byte) (s : State) : Host.Outcome State Fault Refusal :=
  whenDev (nativeUp s.dev port.val && ctrlCode f == some code) "no such control flit" (rxCtrl port.val code f s.dev) s

/-- CRED_INIT. -/
def execCredInit (port : Fin 8) (f : List Byte) (s : State) : Host.Outcome State Fault Refusal := ctrlStep port 1 f s

/-- CRED_SYNC. -/
def execCredSync (port : Fin 8) (f : List Byte) (s : State) : Host.Outcome State Fault Refusal := ctrlStep port 2 f s

/-- REPLAY_REQ. -/
def execReplayReq (port : Fin 8) (f : List Byte) (s : State) : Host.Outcome State Fault Refusal := ctrlStep port 3 f s

/-- TIME_PROBE. -/
def execTimeProbe (port : Fin 8) (f : List Byte) (s : State) : Host.Outcome State Fault Refusal := ctrlStep port 4 f s

/-- TIME_PROBE_RSP. -/
def execTimeProbeRsp (port : Fin 8) (f : List Byte) (s : State) : Host.Outcome State Fault Refusal := ctrlStep port 5 f s

/-- DOWN_NOTICE. -/
def execDownNotice (port : Fin 8) (f : List Byte) (s : State) : Host.Outcome State Fault Refusal := ctrlStep port 6 f s

/-! Sending. -/

/-- Times that a control flit or a TIME message carries are those at which it leaves. -/
def stampCtrl (ft : Nat) (pl : List Byte) : List Byte :=
  match bytesNat pl 0 1 with
  | 4 => leBytes 1 4 ++ timeBytes ft
  | 5 => pl.take 21 ++ timeBytes ft
  | _ => pl

def stampData (ft : Nat) (f : TxFlit) : TxFlit :=
  if f.vl == 6 then { f with payload := f.payload.take 32 ++ timeBytes ft ++ f.payload.drop 42 } else f

/-- The lowest lane with buffer to return, and how much. -/
def owedNow (s : LinkSt) : Nat × Nat :=
  match (upFrom 0 8).find? (fun v => decide (0 < tget 0 s.owed v)) with
  | some v => (v, min 511 (tget 0 s.owed v))
  | none => (0, 0)

/-- The ack and credit bits of the next flit. -/
def ackBits (s : LinkSt) : Nat := ((s.expect + 4095) % 4096) * 2 ^ 24 + (owedNow s).1 * 2 ^ 21 + (owedNow s).2 * 2 ^ 12

/-- Credits returned with a flit. -/
def returnCredits (s : LinkSt) : LinkSt :=
  let (v, n) := owedNow s
  { s with owed := tmod 0 s.owed v (· - n), partner := tmod 0 s.partner v (· + n) }

/-- The first flit of the queue that its lane has credit for. -/
def sendable (l : Nat) (s : LinkSt) : Option TxFlit :=
  if !s.sizes || decide (replayMax l ≤ s.replay.length) then none else s.tx.find? (fun f => decide (0 < tget 0 s.credits f.vl))

/-- Remove the first flit of a lane. -/
def dropFirst (vl : Nat) : List TxFlit → List TxFlit
  | [] => []
  | f :: fs => if f.vl == vl then fs else f :: dropFirst vl fs

/-- The lanes that hold a flit and no credit. -/
def stalledLanes (s : LinkSt) : List Nat := (upFrom 0 8).filter (fun v => s.tx.any (fun f => f.vl == v) && tget 0 s.credits v == 0)

/-- Count a flit slot (R351). -/
def countSlot (sentData : Bool) (s : LinkSt) : LinkSt :=
  let st := stalledLanes s
  if sentData || st.isEmpty then { s with slots := s.slots + 1 }
  else { s with
    slots := s.slots + 1
    stalled := s.stalled + 1
    stalls := st.foldl (fun t v => tmod 0 t v (· + 1)) s.stalls }

def dataFlit (s : LinkSt) (f : TxFlit) : List Byte := buildFlit 1 f.vl f.sop.toNat f.eop.toNat f.seq (ackBits s) f.payload

/-- Replace element i of a list. -/
def setNth {α : Type} (i : Nat) (x : α) : List α → List α
  | [] => []
  | y :: ys => if i = 0 then x :: ys else y :: setNth (i - 1) x ys

/-- The next flit of a link with the link after it: a control flit, else one to be sent again, else a new DATA flit that has credit and
replay space, else IDLE. -/
def nextFlit (now ft l : Nat) (s : LinkSt) : List Byte × LinkSt :=
  match s.ctrl with
  | c :: cs => (buildFlit 2 0 0 0 0 (ackBits s) (stampCtrl ft c), countSlot false (returnCredits { s with ctrl := cs }))
  | [] =>
    match (if s.resend == 0 then none else s.replay[s.replay.length - s.resend]?) with
    | some f =>
      (dataFlit s f, countSlot true (returnCredits { s with
        replay := setNth (s.replay.length - s.resend) { f with sentAt := now } s.replay
        resend := s.resend - 1 }))
    | none =>
      match sendable l s with
      | some f =>
        let f := stampData ft { f with seq := s.seq, sentAt := now }
        (dataFlit s f, countSlot true (returnCredits { s with
          tx := dropFirst f.vl s.tx
          replay := s.replay ++ [f]
          seq := (s.seq + 1) % 4096
          credits := tmod 0 s.credits f.vl (· - 1) }))
      | none => (buildFlit 0 0 0 0 0 (ackBits s) [], countSlot false (returnCredits s))

/-- FLIT_TRANSMIT: a port sends its next flit; a tunnel sends it as a datagram. -/
def execFlitTransmit (link : Fin 24) (s : State) : Host.Outcome State Fault Refusal :=
  let d := s.dev
  let l := link.val
  let st := linkAt d l
  let (f, st') := nextFlit d.aclk d.time.ft l st
  let again : Bool := st.ctrl.isEmpty && st.resend != 0
  let d1 := updLink l (fun _ => st') d
  let d2 := if l < 8 then emit (.flit l f) d1 else emit (.datagram (l - 8) f) (if again then bumpF (kCrbTunnel (l - 8)) 0 16 1 d1 else d1)
  whenDev (linkLive d l) "the link is down" d2 s

/-! Timeouts. -/

/-- REPLAY_TIMEOUT: the oldest flit not acknowledged was sent 20 µs ago, on a tunnel 2 ms. -/
def execReplayTimeout (link : Fin 24) (s : State) : Host.Outcome State Fault Refusal :=
  let d := s.dev
  let l := link.val
  let st := linkAt d l
  let late : Bool := match st.replay.head? with | some f => decide (f.sentAt + ackTimeout l ≤ d.aclk) | none => false
  whenDev (linkLive d l && late && decide (st.resend < st.replay.length)) "no flit waits so long for its ack"
    (countReplay l (updLink l (fun s => { s with resend := s.replay.length }) d)) s

/-- CRED_INIT_RESEND: link-up is not acknowledged after 20 µs. -/
def execCredInitResend (link : Fin 24) (s : State) : Host.Outcome State Fault Refusal :=
  let d := s.dev
  let l := link.val
  let late : Bool := match (linkAt d l).initAt with | some t => decide (t + 4000 ≤ d.aclk) | none => false
  whenDev (linkLive d l && late) "link-up does not wait"
    (updLink l (fun s => { s with initAt := some d.aclk, ctrl := s.ctrl ++ [credPayload 1 (bufSizes l)] }) d) s

/-- A request that was sent at some time and is 20 µs old. -/
def overdue (now : Nat) : Option Nat → Bool
  | some t => decide (t + 4000 ≤ now)
  | none => false

/-- CTRL_RESEND_TIMEOUT: a REPLAY_REQ or CRED_SYNC has drawn no response. -/
def execCtrlResendTimeout (link : Fin 24) (s : State) : Host.Outcome State Fault Refusal :=
  let d := s.dev
  let l := link.val
  let st := linkAt d l
  let g := overdue d.aclk (st.gap.map (·.2))
  let y := overdue d.aclk st.sync
  whenDev (linkLive d l && (g || y)) "no request waits so long"
    (updLink l (fun s =>
      let s := if y then { s with sync := some d.aclk, ctrl := s.ctrl ++ [credPayload 2 s.partner] } else s
      if g then { s with gap := some (s.expect, d.aclk), ctrl := s.ctrl ++ [leBytes 1 3 ++ leBytes 2 s.expect] } else s) d) s

/-- A millisecond has passed. -/
def msDue (now : Nat) : Option Nat → Bool
  | some t => decide (t + 200000 ≤ now)
  | none => true

/-- TIME_PROBE_SEND. -/
def execTimeProbeSend (port : Fin 8) (s : State) : Host.Outcome State Fault Refusal :=
  let d := s.dev
  let p := port.val
  whenDev (nativeUp d p && msDue d.aclk (linkAt d p).probeAt) "no probe is due"
    (updLink p (fun s => { s with probeAt := some d.aclk, ctrl := s.ctrl ++ [leBytes 1 4 ++ timeBytes 0] }) d) s

/-- The data of a TIME message (Table 13-12); its time is set as it leaves. -/
def timeMsg (d : Dev) : List Byte :=
  let g := (bestGm d).getD (ownClass d, getF d kTimSrcCfg 24 8, ownId d)
  timeBytes 0 ++ leBytes 2 g.2.2 ++ leBytes 1 g.1 ++ leBytes 1 g.2.1 ++ leBytes 1 (getF d kTimStatus 16 8) ++ leBytes 1 (getF d kTimGm 8 8) ++
  leBytes 1 (timeState d) ++ leBytes 1 (bestGm d).isSome.toNat ++ leBytes 14 0

/-- A message to the neighbour on a port: TIME or RESET. -/
def hopPkt (d : Dev) (type : Nat) (data : List Byte) : Pkt :=
  { dst := 0, src := ownId d, type := type, hop := getF d kCrbRoute 0 8, flow := 0, tag := 0, len := data.length, job := 0, post := 0,
    addr := 0, status := 0, rsvd := 0, time := nowNs d, data := data }

/-- TIME_MESSAGE_SEND. -/
def execTimeMessageSend (port : Fin 8) (s : State) : Host.Outcome State Fault Refusal :=
  let d := s.dev
  let p := port.val
  whenDev (nativeUp d p && msDue d.aclk (linkAt d p).timeAt) "no TIME message is due"
    (queuePkt p 0 (hopPkt d 0x20 (timeMsg d)) (updLink p (fun s => { s with timeAt := some d.aclk }) d)) s

/-! Hotspots (R351). -/

/-- The lane with the largest count, the lowest on a tie. -/
def hotLane (t : Tbl Nat) : Nat := (upFrom 1 7).foldl (fun b v => if tget 0 t b < tget 0 t v then v else b) 0

/-- HOTSPOT_WINDOW: the 1 ms stall window of a port ends. -/
def execHotspotWindow (port : Fin 8) (s : State) : Host.Outcome State Fault Refusal :=
  let d := s.dev
  let p := port.val
  let st := linkAt d p
  let frac := if st.slots == 0 then 0 else min 0xFFFF (st.stalled * 65536 / st.slots)
  let hot : Bool := st.slots != 0 && decide (getF d kCrbHot 0 16 * st.slots < st.stalled * 65536)
  let vl := hotLane st.stalls
  whenDev (nativeUp d p && decide (st.winAt + 200000 ≤ d.aclk)) "the window has not ended"
    (let d := updLink p (fun s => { s with slots := 0, stalled := 0, stalls := [], winAt := d.aclk }) d
     let d := setF (kCrbPort p 0x10) 16 16 frac (setF (kCrbPort p 0x10) 8 3 vl d)
     let d := if hot then bumpF (kCrbPort p 0x10) 0 8 1 d else d
     if hot && getF d kCrbHot 31 1 == 1 then raiseEvent 0x04 3 p [frac + vl * 65536] d else d) s

/-! Ports going up and down. -/

/-- What a write of CRB_PORT_CFG does beyond its fields: enabling starts training with the mode and media written, disabling takes the
link down (R324, R350). -/
def portCfgEffect (p : Nat) (was : Bool) (d : Dev) : Dev :=
  let en : Bool := getF d (kCrbPort p 0) 31 1 == 1
  if en && !was then
    emit (.trainPort p) (setF (kCrbPort p 4) 29 3 1
      (updLink p (fun s => { mode := getF d (kCrbPort p 0) 30 1, media := getF d (kCrbPort p 0) 28 2, rx := s.rx, lastEvt := s.lastEvt }) d))
  else if !en && was then linkDown p 0 true d
  else d

/-- Write CRB_PORT_CFG of a port. -/
def portCfgWrite (p v : Nat) (d : Dev) : Dev :=
  let was : Bool := getF d (kCrbPort p 0) 31 1 == 1
  let fs := ((crbPortSpec 0).map (·.fields)).getD []
  portCfgEffect p was (regPut (kCrbPort p 0) (writeFields fs (regVal d (kCrbPort p 0)) v) d)

/-- PORT_ENABLE: the root firmware writes a port's configuration with enable = 1 where it was 0. -/
def execPortEnable (port : Fin 8) (v : W32) (s : State) : Host.Outcome State Fault Refusal :=
  let d := s.dev
  whenDev (bootDone d && getF d (kCrbPort port.val 0) 31 1 == 0 && bitAt v.toNat 31) "the port is not enabled by this" (portCfgWrite port.val v.toNat d) s

/-- PORT_LINK_UP. -/
def execPortLinkUp (port : Fin 8) (s : State) : Host.Outcome State Fault Refusal :=
  let d := s.dev
  let p := port.val
  let d1 := setF (kCrbPort p 4) 29 3 2 d
  whenDev (getF d (kCrbPort p 4) 29 3 == 1) "the port is not training"
    (if (linkAt d p).mode == 0 then updLink p (freshLink d.aclk p) d1 else d1) s

/-- LANE_LOCK_LOSS. -/
def execLaneLockLoss (port : Fin 8) (s : State) : Host.Outcome State Fault Refusal :=
  whenDev (linkUp s.dev port.val) "the port is not up" (linkDown port.val 3 false s.dev) s

/-- PORT_RETRAIN: 1 ms after it went down. -/
def execPortRetrain (port : Fin 8) (s : State) : Host.Outcome State Fault Refusal :=
  let d := s.dev
  let p := port.val
  whenDev (getF d (kCrbPort p 4) 29 3 == 3 && decide ((linkAt d p).downAt + 200000 ≤ d.aclk)) "the port does not wait to retrain"
    (emit (.trainPort p) (setF (kCrbPort p 4) 29 3 1 d)) s

/-! Ethernet mode (R325) and tunnels (R352). -/

/-- The MAC accepts a frame: its size, its check sequence and its tags. -/
def frameOk (d : Dev) (p : Nat) (f : EthFrame) : Bool :=
  let vid := getF d (kCrbPort p 0) 0 12
  within 64 9216 f.len && f.fcsOk &&
  (match f.tags with
   | [] => true
   | [v] => vid != 0 && v == vid
   | _ => false)

/-- The device keeps a frame's content. -/
def frameKept (d : Dev) (p : Nat) (f : EthFrame) : Bool :=
  match f.content with
  | .ptp profile => getF d kTimSrcCfg 2 1 == 1 && getF d kTimSrcCfg 13 3 == p && profile == getF d kTimSrcCfg 11 2 && profile != 3
  | .st2110 dstIp srcIp udp pt =>
    (flowPort d { cb := Fin.ofNat 8 p, dstIp := dstIp, srcIp := srcIp, udpPort := udp, pt := pt, ts := 0, marker := false, video := [], audio := [] }).isSome
  | .ipv6 dstIp udp =>
    (upFrom 0 16).any (fun t =>
      let r := tunnelRec d t
      getF d (kCrbTunnel t) 31 1 == 1 && bytesNat r 0 1 == p && bytesNat r 2 2 == udp && slice r 0x10 16 == dstIp)
  | .other => false

/-- ETH_FRAME_RECEIVE: a frame is kept, and its content then comes by its own command, or dropped and counted. -/
def execEthFrameReceive (port : Fin 8) (f : EthFrame) (s : State) : Host.Outcome State Fault Refusal :=
  let d := s.dev
  let p := port.val
  whenDev (ethUp d p) "the port is not an Ethernet port that is up"
    (if frameOk d p f && frameKept d p f then d else bumpF (kCrbPort p 8) 0 8 1 d) s

/-- The whole flits of a datagram. -/
def cutFlits : Nat → List Byte → List (List Byte)
  | 0, _ => []
  | n + 1, b => b.take 256 :: cutFlits n (b.drop 256)

/-- A flit of a datagram, unless an earlier one has taken the tunnel down. -/
def rxTunnel (l : Nat) (f : List Byte) (d : Dev) : Dev :=
  if linkUp d l then
    match ctrlCode f with
    | some c => rxCtrl l c f d
    | none => rxPlain l f d
  else d

/-- TUNNEL_DATAGRAM: a datagram for a tunnel reaches its port; `good` says its checksum is right and it comes from the peer. -/
def execTunnelDatagram (tunnel : Fin 16) (good : Bool) (b : List Byte) (s : State) : Host.Outcome State Fault Refusal :=
  let d := s.dev
  let t := tunnel.val
  let l := 8 + t
  let p := linkPort d l
  let sized : Bool := b.length % 256 == 0 && within 256 1024 b.length
  whenDev (getF d (kCrbTunnel t) 31 1 == 1 && ethUp d p) "the tunnel's port is not up"
    (if good && sized then
      let d := if linkUp d l then d else updLink l (freshLink d.aclk l) (setF (kCrbTunnel t) 30 1 1 d)
      forEach (cutFlits (b.length / 256) b) (rxTunnel l) (updLink l (fun s => { s with heard := d.aclk }) d)
    else bumpF (kCrbPort p 8) 0 8 1 d) s

/-- TUNNEL_TIMEOUT: nothing from the peer for 100 ms. -/
def execTunnelTimeout (tunnel : Fin 16) (s : State) : Host.Outcome State Fault Refusal :=
  let d := s.dev
  whenDev (linkUp d (8 + tunnel.val) && decide ((linkAt d (8 + tunnel.val)).heard + 20000000 ≤ d.aclk)) "the peer is not silent" (tunnelDown tunnel.val d) s

end Sys2Proof.Machine
end

