-- ==== Sys2Proof/Machine/Transport.lean ====
section
/-! DEFINITION. The Crebor transport (R330 to R339): packets that have come whole are forwarded or served here, requests are checked
against their job, answers end outstanding requests; receive windows; snapshots (R319). -/

namespace Sys2Proof.Machine

/-! The oldest packet of a link. -/

/-- The oldest packet of a link. -/
def rxHeadPkt (d : Dev) (l : Nat) : Option RxPkt := (linkAt d l).rx.head?

/-- Take it, returning its buffer. -/
def popRx (l : Nat) (d : Dev) : Dev :=
  match rxHeadPkt d l with
  | some r =>
    let d := updLink l (fun s => { s with rx := s.rx.drop 1 }) d
    if l < 24 && r.flits != 0 then freeBuf l r.vl r.flits d else d
  | none => d

/-- The class a packet travels in, by its lane. -/
def rxClass (r : RxPkt) : Nat := if r.vl < 6 then r.vl % 2 else 0

/-- Serve the oldest packet of a link, of a given type. -/
def pktStep (l type : Nat) (f : RxPkt → Pkt → Dev → Dev) (s : State) : Host.Outcome State Fault Refusal :=
  let d := s.dev
  match rxHeadPkt d l with
  | some r => whenDev ((pktOf r.bytes).type == type) "the oldest packet is of another type" (f r (pktOf r.bytes) (popRx l d)) s
  | none => whenDev false "no packet waits" d s

/-- A routed packet is forwarded unless it is for this device (R330). -/
def routed (f : Pkt → Dev → Dev) (r : RxPkt) (p : Pkt) (d : Dev) : Dev := if p.dst == ownId d then f p d else forwardPkt (rxClass r) p d

/-! Requests at their target (R335, R338). -/

/-- xport_timeout in ns, and the time for which a request is recognised. -/
def xportNs (d : Dev) : Nat := 2 ^ getF d kCrbXport 0 5 * 1000
def seenNs (d : Dev) : Nat := xportNs d * (getF d kCrbXport 28 3 + 1)

/-- The answer already given to a request. -/
def seenAnswer (d : Dev) (p : Pkt) : Option (List Byte) :=
  (d.crb.seen.find? (fun x => x.src == p.src && x.tag == p.tag && decide (nowNs d < x.at_ + seenNs d))).map (·.answer)

/-- An ACK or GET_RSP to a packet. -/
def answerPkt (d : Dev) (type : Nat) (data : List Byte) (p : Pkt) : Pkt :=
  { dst := p.src, src := ownId d, type := type, hop := getF d kCrbRoute 0 8, flow := p.flow, tag := p.tag, len := data.length, job := p.job,
    post := 0, addr := 0, status := 0, rsvd := 0, time := p.time, data := data }

/-- Answer a request and remember the answer. -/
def giveAnswer (p a : Pkt) (d : Dev) : Dev :=
  let keep (x : Seen) : Bool := decide (nowNs d < x.at_ + seenNs d) && !(x.src == p.src && x.tag == p.tag)
  sendPlain a { d with crb.seen := d.crb.seen.filter keep ++ [{ src := p.src, tag := p.tag, at_ := nowNs d, answer := pktBytes a }] }

/-- An export of a job holds a range, with an access (bit 0 read, bit 1 write). -/
def exportHolds (j : Job) (a n bit : Nat) : Bool :=
  j.exports.any (fun e => inside a n (bytesNat e 0 8) (bytesNat e 8 6) && bitAt (bytesNat e 0x0E 1) bit)

/-- A receive window of a slot running the job holds a range. -/
def winHolds (d : Dev) (j : Job) (a n : Nat) (write : Bool) : Bool :=
  d.crb.wins.any (fun e =>
    match e.2 with
    | some w => (jobSlots d j.tag).contains (e.1 / 4) && inside a n w.lo w.len && (if write then w.writable else w.readable)
    | none => false)

/-- Bytes that exist in the device map and that the scheduler firmware's traffic reaches (R335, R392, R495). -/
def mapHolds (d : Dev) (a n : Nat) (write : Bool) : Bool :=
  inside a n 0 0x20000000 || inside a n (vatBase 0) 0x4000000 || inside a n (vatBase 1) 0x4000000 || inside a n (feltBase 0) 0x4000000 ||
  (!write && inside a n dispatchReply 0x800) || (d.ddr.trained && inside a n ddrBase (ddrSize d))

/-- A range lies apart from the live region (R395). -/
def offLive (d : Dev) (a : Nat) : Bool := decide (a < ddrBase) || decide (ddrBase + liveBytes d ≤ a)

/-- A semaphore that a slot running the job owns. -/
def jobSem (d : Dev) (j : Job) (core q : Nat) : Bool :=
  (jobSlots d j.tag).any (fun k => k / 2 == core && (slotAt d k).semMask.getLsbD q)

/-- The range of a PUT, GET or MCAST is one the packet's job may reach. -/
def rangeOk (d : Dev) (j : Option Job) (a n : Nat) (write : Bool) : Bool :=
  !lockedIn d a n &&
  (match j with
   | none => mapHolds d a n write
   | some j => offLive d a && mapHolds d a n write && (exportHolds j a n (if write then 1 else 0) || winHolds d j a n write))

def postCore (p : Pkt) : Nat := fld p.post 8 5
def postQ (p : Pkt) : Nat := fld p.post 0 6
def postEn (p : Pkt) : Bool := bitAt p.post 15

/-- The semaphore a request posts lies in a sem_mask of its job's slots there. -/
def postOk (d : Dev) (j : Option Job) (p : Pkt) : Bool :=
  match j with
  | none => true
  | some j => jobSem d j (postCore p) (postQ p)

/-- The NAK code of a request, 0 where it is good (R335, Table 13-8). -/
def nakCode (d : Dev) (p : Pkt) : Nat :=
  let j := fabricJob d p.job
  if p.type != 3 && lockedIn d p.addr p.len then 2
  else if p.job != 0 && j.isNone then 6
  else
    match p.type with
    | 3 => if postOk d j p then 0 else 2
    | 2 => if !rangeOk d j p.addr p.len false then 2 else if (poisonIn d p.addr p.len).isSome then 5 else 0
    | _ =>
      if !rangeOk d j p.addr p.len true || (postEn p && !postOk d j p) then 2
      else if (poisonPartial d p.addr p.len).isSome then 5 else 0

/-- What a good request does, with its answer. -/
def serve (p : Pkt) (d : Dev) : Dev :=
  match p.type with
  | 3 => giveAnswer p (answerPkt d 8 [] p) (semPost (postCore p) (postQ p) p.addr d)
  | 2 => giveAnswer p (answerPkt d 0x0A (unitBytes d p.addr p.len) p) (drawFree d)
  | _ =>
    let d := devWrite p.addr p.data d
    let d := if postEn p then semPost (postCore p) (postQ p) 1 d else d
    giveAnswer p (answerPkt d 8 [] p) d

/-- Apply a request, unless it was answered before: then it gets the same answer (R338). -/
def applyReq (p : Pkt) (d : Dev) : Dev :=
  match seenAnswer d p with
  | some a => sendPlain (pktOf a) d
  | none => if nakCode d p == 0 then serve p d else giveAnswer p (nakOf d (nakCode d p) p) d

/-- A request for this device: while a snapshot of its job runs, it is logged or held by its send time (R319). -/
def takeReq (p : Pkt) (d : Dev) : Dev :=
  match d.crb.snap with
  | some s =>
    if p.job != 0 && p.job == s.fabric then
      if p.time < s.t then applyReq p { d with crb.snap := some { s with log := s.log ++ [pktBytes p] } }
      else { d with crb.heldPkts := d.crb.heldPkts ++ [{ vl := 0, flits := 0, bytes := pktBytes p }] }
    else applyReq p d
  | none => applyReq p d

/-- PUT: the oldest packet of a link (24 holds this device's packets to itself). -/
def execPut (link : Fin 25) (s : State) : Host.Outcome State Fault Refusal := pktStep link.val 0x01 (routed takeReq) s

/-- GET. -/
def execGet (link : Fin 25) (s : State) : Host.Outcome State Fault Refusal := pktStep link.val 0x02 (routed takeReq) s

/-- SIGNAL. -/
def execSignal (link : Fin 25) (s : State) : Host.Outcome State Fault Refusal := pktStep link.val 0x03 (routed takeReq) s

/-! Answers (R338, Table 13-8). -/

/-- The status at the initiator of a NAK code. -/
def nakStatus (code : Nat) : Nat :=
  match code with
  | 2 | 6 => stBadAddr
  | 5 => stMemUnc
  | _ => stUnreach

/-- A NAK that any device on the path can send: unknown type, unreachable, malformed (Table 13-8, R332, R349). -/
def pathNak (p : Pkt) : Bool := p.type == 9 && (p.status == 1 || p.status == 3 || p.status == 7)

/-- The outstanding request that an answer matches: its tag, and its target unless a device on the path refused the packet (log
entry 81). -/
def answered (d : Dev) (p : Pkt) : Option XReq := d.crb.outstanding.find? (fun r => r.tag == p.tag && (r.dst == p.src || pathNak p))

/-- End one outstanding request. -/
def endOne (r : XReq) (e : ReqEnd) (d : Dev) : Dev := sweepColls (endReqs (fun x => x.tag == r.tag && x.dst == r.dst) (fun _ => e) d)

/-- An answer ends the request it matches, where it is of the request's kind; another is discarded (R349, row 11). -/
def onAnswer (p : Pkt) (d : Dev) : Dev :=
  match answered d p with
  | some r =>
    let q := pktOf r.packet
    match p.type with
    | 9 => endOne r (.failed (nakStatus p.status) r.addr) d
    | 8 => if q.type == 2 then d else endOne r (.ok []) d
    | _ => if q.type == 2 && p.len == q.len then endOne r (.ok p.data) d else d
  | none => d

/-- ACK. -/
def execAck (link : Fin 25) (s : State) : Host.Outcome State Fault Refusal := pktStep link.val 0x08 (routed onAnswer) s

/-- NAK. -/
def execNak (link : Fin 25) (s : State) : Host.Outcome State Fault Refusal := pktStep link.val 0x09 (routed onAnswer) s

/-- GET_RSP. -/
def execGetRsp (link : Fin 25) (s : State) : Host.Outcome State Fault Refusal := pktStep link.val 0x0A (routed onAnswer) s

/-- XPORT_TIMEOUT: an outstanding request is sent again, or has been sent again `retries` times and fails. -/
def execXportTimeout (dst tag : Nat) (s : State) : Host.Outcome State Fault Refusal :=
  let d := s.dev
  match d.crb.outstanding.find? (fun r => r.tag == tag && r.dst == dst) with
  | some r =>
    whenDev (decide (r.sentAt + xportNs d ≤ nowNs d)) "no timeout has passed"
      (if r.resent < getF d kCrbXport 28 3 then
        sendPkt 0 (pktOf r.packet) { d with crb.outstanding := d.crb.outstanding.map (fun x =>
          if x.tag == tag && x.dst == dst then { x with sentAt := nowNs d, resent := x.resent + 1 } else x) }
       else endOne r (.failed stTimeout r.addr) d) s
  | none => whenDev false "no such request" d s

/-! Multicast (R339). -/

/-- Elements of a broadcast that have been written, as (first byte, bytes) from dst. -/
def noteMcast (p : Pkt) (d : Dev) : Dev :=
  { d with crb.colls := d.crb.colls.map (fun c =>
      if c.op == 7 && c.mcast == some (p.dst % 256) && c.fabric == p.job && c.rank != 0 && inside p.addr p.len c.dst (c.count * memBytes c) then
        { c with got := c.got ++ [(p.addr - c.dst, p.len)] }
      else c) }

/-- The local copy of an MCAST packet. -/
def mcastHere (p : Pkt) (d : Dev) : Dev :=
  match fabricJob d p.job with
  | some j =>
    if exportHolds j p.addr p.len 1 && rangeOk d (some j) p.addr p.len true && (poisonPartial d p.addr p.len).isNone then noteMcast p (devWrite p.addr p.data d)
    else bumpF kCrbRouteErr 0 16 1 d
  | none => bumpF kCrbRouteErr 0 16 1 d

/-- Copies of an MCAST packet on every native port of the mask but that of arrival; one that cannot leave is counted. -/
def mcastOn (l cls : Nat) (p : Pkt) (d : Dev) : Dev :=
  let key := kCrbMcast (p.dst % 256)
  forEach ((upFrom 0 8).filter (fun q => getF d key (8 + q) 1 == 1 && q != l)) (fun q d =>
    if nativeUp d q && p.hop != 0 then queuePkt q cls { p with hop := p.hop - 1 } d else bumpF kCrbRouteErr 0 16 1 d) d

/-! Receive windows (R337). -/

/-- A Quire COPY that has read its source for a command port; `data` is the source, and `f` the effect: a status, and the state. -/
def portCopy (c : Nat) (o : QuireOp) (f : List Byte → Dev → Nat × Dev) (e : ReqEnd) (d : Dev) : Dev :=
  let k := slotKey c o.slot
  match e with
  | .failed _ _ => quireCopyData k o e d
  | .ok bs =>
    match quireFault d k o with
    | some x => quireEnd k x.1 x.2 o d
    | none =>
      let (st, d) := f bs d
      if st == stSuccess then quireEnd k st 0 o (quirePost k o.blk d) else quireEnd k st o.blk.dst o d

/-- The step of a port's COPY: `mine` chooses the row by the bytes. -/
def portStep (core : Fin 32) (id : Nat) (r : ReqEnd) (isPort : QuireBlk → Bool) (mine : List Byte → Bool) (f : Nat → List Byte → Dev → Nat × Dev)
    (s : State) : Host.Outcome State Fault Refusal :=
  let d := s.dev
  let c := core.val
  match (quireAt d c).ops.find? (fun o => o.id == id) with
  | some o =>
    let ready : Bool := o.started && o.page.isNone && quireOrdered c (quireAt d c).ops o && !o.blk.signal && isPort o.blk
    match quireData d o r with
    | some e =>
      let fits : Bool := match e with | .ok bs => mine bs | .failed _ _ => true
      whenDev (ready && fits) "the transfer is none of this command" (portCopy c o (f (slotKey c o.slot)) e d) s
    | none => whenDev false "the source has not ended so" d s
  | none => whenDev false "no such transfer" d s

/-- The words of an open keep R337. -/
def winOpenOk (d : Dev) (k : Nat) (ws : List Nat) : Bool :=
  let w (i : Nat) : Nat := ws.getD i 0
  let sl := slotAt d k
  fld (w 0) 24 8 == 1 && fld (w 0) 2 22 == 0 && decide (w 1 < 2 ^ 24) && decide (w 2 < 2 ^ 24) && decide (w 3 < 4) &&
  w 4 == 0 && w 5 == 0 && w 6 == 0 && w 7 == 0 && w 1 % 64 == 0 && w 2 % 64 == 0 && decide (64 ≤ w 2) &&
  inside (w 1) (w 2) 0 sl.winSize && decide (sl.codeSize ≤ w 1)

def openWin (k : Nat) (bs : List Byte) (d : Dev) : Nat × Dev :=
  let ws := leWords 8 bs
  let w (i : Nat) : Nat := ws.getD i 0
  if winOpenOk d k ws then
    let x : RecvWin := { lo := winBase d k + w 1, len := w 2, readable := bitAt (w 3) 0, writable := bitAt (w 3) 1 }
    (stSuccess, { d with crb.wins := tset none d.crb.wins (4 * k + w 0 % 4) (some x) })
  else (stBadAddr, d)

def closeWin (k : Nat) (bs : List Byte) (d : Dev) : Nat × Dev :=
  let ws := leWords 8 bs
  if fld (ws.getD 0 0) 2 22 == 0 && (ws.drop 1).all (· == 0) then (stSuccess, { d with crb.wins := tset none d.crb.wins (4 * k + ws.getD 0 0 % 4) none })
  else (stBadAddr, d)

/-- The operation a command COPY names. -/
def copyOp (bs : List Byte) : Nat := bytesNat bs 3 1

/-- RECV_WINDOW_OPEN: a COPY of 32 bytes to its core's receive-window port, with any operation but a close. -/
def execRecvWindowOpen (core : Fin 32) (id : Nat) (r : ReqEnd) (s : State) : Host.Outcome State Fault Refusal :=
  portStep core id r (isRecvPort core.val) (fun bs => copyOp bs != 2) openWin s

/-- RECV_WINDOW_CLOSE. -/
def execRecvWindowClose (core : Fin 32) (id : Nat) (r : ReqEnd) (s : State) : Host.Outcome State Fault Refusal :=
  portStep core id r (isRecvPort core.val) (fun bs => copyOp bs == 2) closeWin s

/-! Snapshots (R319). -/

/-- Bytes of a slot's registers: scalar, address and predicate registers, pc, flags. -/
def slotBytes (sl : SlotSt) : List Byte :=
  (upFrom 0 32).flatMap (fun i => leBytes 4 (tget 0 sl.s i).toNat) ++ (upFrom 0 16).flatMap (fun i => leBytes 6 (tget 0 sl.a i).toNat) ++
  (upFrom 0 8).map (fun i => if getP sl i then 1 else 0) ++ leBytes 4 sl.pc.toNat ++ leBytes 1 sl.flags.toNat

/-- What a capture holds: each slot's registers, semaphores and window, and the named ranges. -/
def captured (d : Dev) (p : Snap) : List Byte :=
  (jobSlots d p.tag).flatMap (fun k =>
    slotBytes (slotAt d k) ++ (upFrom 0 64).flatMap (fun q => if (slotAt d k).semMask.getLsbD q then leBytes 2 (semGet d (k / 2) q) else []) ++
    rdMem d (winBase d k) (slotAt d k).winSize) ++
  p.ranges.flatMap (fun r => rdMem d r.1 r.2)

/-- SNAPSHOT_CAPTURE: at the first ACLK at or after T the job's issue is held; the job, the ranges and the region are what the
scheduler firmware was given. -/
def execSnapshotCapture (t uid : Nat) (ranges : List (Nat × Nat)) (region len : Nat) (s : State) : Host.Outcome State Fault Refusal :=
  let d := s.dev
  match jobAt d uid with
  | some j =>
    let ok (a n : Nat) (write : Bool) : Bool := inside a n ddrBase (ddrSize d) && d.ddr.trained && !(write && lockedIn d a n)
    whenDev (schedulerUp d && j.running && d.crb.snap.isNone && decide (t ≤ nowNs d) && ranges.all (fun r => ok r.1 r.2 false) && ok region len true)
      "no snapshot begins"
      { d with crb.snap := some { t := t, job := uid, tag := j.tag, fabric := j.fabric, ranges := ranges, region := region, regionLen := len, log := [] } } s
  | none => whenDev false "no such job" d s

/-- The end of a snapshot: the capture region is written, held messages are applied in order of arrival, issue goes on. -/
def endSnap (p : Snap) (d : Dev) : Dev :=
  let c := captured d p
  let bytes := (upFrom 0 p.regionLen).map (fun i => Config.captureByte c p.log i)
  let held := d.crb.heldPkts
  let d := devWrite p.region bytes { d with crb.snap := none, crb.heldPkts := [] }
  forEach held (fun r d => applyReq (pktOf r.bytes) d) d

/-- SNAPSHOT_COPY_DONE: the instructions issued before and their streams have completed, and the copy has ended. -/
def execSnapshotCopyDone (s : State) : Host.Outcome State Fault Refusal :=
  let d := s.dev
  match d.crb.snap with
  | some p => whenDev ((jobSlots d p.tag).all (fun k => fenceClear d (k / 2) (k % 2) 0)) "the job's work has not ended" (endSnap p d) s
  | none => whenDev false "no snapshot runs" d s

end Sys2Proof.Machine
end

