-- ==== Sys2Proof/Machine/Collect.lean ====
section
/-! DEFINITION. The commands of collectives (R318, R339 to R346) and of fabric resets (R348, R456, R457). -/

namespace Sys2Proof.Machine

/-- Collectives go on after one has ended. -/
def settle (d : Dev) : Dev := startColls 81 d

/-! Messages of a collective. -/

/-- The collective header (R329). -/
structure CollHdr where
  group : Nat
  seq : Nat
  op : Nat
  fmt : Nat
  rnd : Nat
  crc : Nat
  count : Nat
  first : Nat
  status : Nat
  deriving DecidableEq, Repr

def collHdr (b : List Byte) : CollHdr :=
  { group := bytesNat b 0 2, seq := bytesNat b 2 4, op := bytesNat b 6 1, fmt := bytesNat b 7 1, rnd := bytesNat b 8 1, crc := bytesNat b 9 4,
    count := bytesNat b 13 4, first := bytesNat b 17 4, status := bytesNat b 21 1 }

def flagsOf (n : Nat) : Flags := { invalid := bitAt n 3, inexact := bitAt n 2, underflow := bitAt n 1, overflow := bitAt n 0 }

/-- The rank that a device has in a member list. -/
def rankOf (members : List Nat) (dev : Nat) : Option Nat := members.findIdx? (fun m => m == dev)

/-- This device's collective that a message of a job belongs to. -/
def msgColl (d : Dev) (job : Nat) (h : CollHdr) : Option Coll :=
  d.crb.colls.find? (fun c => c.job == job && c.group == h.group && c.seq == h.seq)

/-- A COLL_UP at this rank (R342 to R345): a child whose op, fmt, rnd, count or member_crc differs aborts the collective. -/
def applyUp (c : Coll) (rank : Nat) (p : Pkt) (d : Dev) : Dev :=
  let h := collHdr p.data
  if h.op != c.op || h.fmt != c.fmt || h.rnd != c.rnd || h.count != c.count || h.crc != memberCrc c then abortColl c stInvalid stInvalid c.rank d
  else
    let body := p.data.drop 32
    kickColl c.uid (updColl c.uid (fun x => { x with
      heard := x.heard ++ [(rank, h.first, body)]
      flags := x.flags.or (flagsOf h.status)
      dsts := if c.op == 7 && c.mcast.isSome then x.dsts ++ [(rank, leNat (body.take 8))] else x.dsts }) d)

/-- All elements of a multicast broadcast have been written here. -/
def gotAll (c : Coll) : Bool :=
  let w := memBytes c
  (upFrom 0 c.count).all (fun i => c.got.any (fun g => inside (i * w) w g.1 g.2))

/-- A multicast broadcast completes once the down pass and every element have come. -/
def finishMcast (uid : Nat) (d : Dev) : Dev :=
  match collAt d uid with
  | some c => if c.downEnd && gotAll c then finishColl c stSuccess 0xFFFFFFFF c.flags d else d
  | none => d

/-- A COLL_DOWN at this rank (R343, R344). -/
def applyDown (c : Coll) (p : Pkt) (d : Dev) : Dev :=
  let h := collHdr p.data
  let body := p.data.drop 32
  let fl := flagsOf h.status
  if c.op == 7 && c.mcast.isSome then
    let d := forEach (collChildren c) (fun r d => sendColl c 0x19 r 0 h.status body d) d
    finishMcast c.uid (updColl c.uid (fun x => { x with downEnd := true, flags := fl, startedAt := nowNs d }) d)
  else if !hasDown c then passDown c [] fl d
  else
    let c := { c with down := c.down ++ [(h.first, body)] }
    let d := updColl c.uid (fun _ => c) d
    if (upFrom 0 (resultElems c)).all (fun i => (runElem (memBytes c) c.down i).isSome) then passDown c c.down fl d else d

/-- Send COLL_ABORT to the ranks around this one but the one that told it, and remember the abort (R345). -/
def spreadAbort (c : Coll) (st failing : Nat) (told : Option Nat) (d : Dev) : Dev :=
  let near := ((if c.rank == 0 then [] else [collParent c.rank]) ++ collChildren c).filter (fun r => some r != told)
  let d := forEach near (fun r d => sendColl c 0x1A r failing st [] d) d
  { d with crb.aborted := d.crb.aborted ++ [(c.job, c.group, c.seq, st)] }

/-- A collective of a group that this device has not been asked for: what its messages need. -/
def groupColl (d : Dev) (j : Job) (h : CollHdr) : Option Coll :=
  match j.groups[h.group]? with
  | some g =>
    let ms := groupMembers g
    some { uid := d.nextId, slotKey := 0, job := j.uid, fabric := j.fabric, op := h.op, fmt := h.fmt, group := h.group, rnd := h.rnd, replyQ := none,
           seq := h.seq, src := 0, dst := 0, count := h.count, cmpl := 0, t := 0, guard_ := 0, rank := (rankOf ms (ownId d)).getD 0, members := ms,
           timeoutUs := bytesNat g 4 4, mcast := none, startedAt := 0 }
  | none => none

/-- The last number this device was asked for in a group. -/
def lastSeq (d : Dev) (job group : Nat) : Nat := tget 0 d.crb.seqs (job * 16 + group)

/-- A message that has been answered takes its effect: on a collective that runs or waits here, else it is kept until the request comes;
one for a collective that has ended here is dropped. -/
def onColl (j : Job) (p : Pkt) (d : Dev) : Dev :=
  let h := collHdr p.data
  match msgColl d j.uid h with
  | some c =>
    match rankOf c.members p.src with
    | some r =>
      if p.type == 0x1A then finishColl c h.status h.first c.flags (spreadAbort c h.status h.first (some r) d)
      else if p.type == 0x19 then (if c.rank != 0 && r == collParent c.rank then applyDown c p d else d)
      else if (collChildren c).contains r then applyUp c r p d
      else d
    | none => d
  | none =>
    if h.seq ≤ lastSeq d j.uid h.group || d.crb.aborted.any (fun a => a.1 == j.uid && a.2.1 == h.group && a.2.2.1 == h.seq) then d
    else if p.type == 0x1A then
      match groupColl d j h with
      | some c => spreadAbort c h.status h.first (rankOf c.members p.src) d
      | none => d
    else { d with crb.early := d.crb.early ++ [{ vl := 0, flits := 0, bytes := pktBytes p }] }

/-- A collective message for this device: answered once, then applied. -/
def takeColl (p : Pkt) (d : Dev) : Dev :=
  match seenAnswer d p with
  | some a => sendPlain (pktOf a) d
  | none =>
    match fabricJob d p.job with
    | some j => settle (onColl j p (giveAnswer p (answerPkt d 8 [] p) d))
    | none => giveAnswer p (nakOf d 6 p) d

/-- COLL_UP. -/
def execCollUp (link : Fin 25) (s : State) : Host.Outcome State Fault Refusal := pktStep link.val 0x18 (routed takeColl) s

/-- COLL_DOWN. -/
def execCollDown (link : Fin 25) (s : State) : Host.Outcome State Fault Refusal := pktStep link.val 0x19 (routed takeColl) s

/-- COLL_ABORT. -/
def execCollAbort (link : Fin 25) (s : State) : Host.Outcome State Fault Refusal := pktStep link.val 0x1A (routed takeColl) s

/-- MCAST: copies go on, the local copy is written, and a broadcast that has it all completes. -/
def execMcast (link : Fin 25) (s : State) : Host.Outcome State Fault Refusal :=
  pktStep link.val 0x10 (fun r p d =>
    let d := mcastOn link.val (rxClass r) p d
    let d := if getF d (kCrbMcast (p.dst % 256)) 0 1 == 1 then mcastHere p d else d
    settle (forEach (d.crb.colls.filter (fun c => c.downEnd)) (fun c d => finishMcast c.uid d) d)) s

/-! Requests (Table 13-10). -/

/-- The ranges and reserved bits of a request. -/
def collFieldsOk (ws : List Nat) : Bool :=
  let w (i : Nat) : Nat := ws.getD i 0
  let op := fld (w 0) 24 8
  within 1 7 op && fld (w 0) 22 2 != 3 && fld (w 0) 16 6 == 0 && fld (w 0) 0 5 == 0 && w 7 == 0 && w 13 == 0 && w 14 == 0 && w 15 == 0 &&
  (if op ≤ 2 then fld (w 0) 22 2 == 0 && w 6 == 0 else within 1 16777216 (w 6))

/-- A request of slot k as a collective of job j and one of its group records. -/
def collOf (d : Dev) (k : Nat) (j : Job) (g : List Byte) (ws : List Nat) : Coll :=
  let w (i : Nat) : Nat := ws.getD i 0
  let ms := groupMembers g
  let m := bytesNat g 8 2
  { uid := d.nextId, slotKey := k, job := j.uid, fabric := j.fabric, op := fld (w 0) 24 8, fmt := fld (w 0) 22 2, group := fld (w 0) 12 4,
    rnd := (slotAt d k).rnd.toNat, replyQ := if bitAt (w 0) 5 then some (fld (w 0) 6 6) else none, seq := w 1, src := w 2 + w 3 * 2 ^ 32,
    dst := w 4 + w 5 * 2 ^ 32, count := w 6, cmpl := w 8 + w 9 * 2 ^ 32, t := w 10 + w 11 * 2 ^ 32, guard_ := w 12,
    rank := (rankOf ms (ownId d)).getD 0, members := ms, timeoutUs := bytesNat g 4 4,
    mcast := if fld (w 0) 24 8 == 7 && bitAt m 15 then some (m % 256) else none, startedAt := nowNs d }

/-- Bytes of contribution and of result at this rank (R343). -/
def srcLen (c : Coll) : Nat :=
  match c.op with
  | 3 | 4 | 6 => c.count * memBytes c
  | 5 => c.members.length * c.count * memBytes c
  | 7 => if c.rank == 0 then c.count * memBytes c else 0
  | _ => 0

def dstLen (c : Coll) : Nat :=
  match c.op with
  | 3 => if c.rank == 0 then c.count * memBytes c else 0
  | 4 | 5 | 7 => c.count * memBytes c
  | 6 => c.members.length * c.count * memBytes c
  | _ => 0

/-- The completion record's place can be written. -/
def cmplOk (d : Dev) (c : Coll) : Bool := c.cmpl % 32 == 0 && devReach d c.slotKey c.cmpl 32 true

/-- The addresses of a request are ones its slot reaches (R174), and a multicast dst lies in a writable export (R344). -/
def collAddrsOk (d : Dev) (j : Job) (c : Coll) : Bool :=
  cmplOk d c && (srcLen c == 0 || devReach d c.slotKey c.src (srcLen c) false) && (dstLen c == 0 || devReach d c.slotKey c.dst (dstLen c) true) &&
  (c.mcast.isNone || exportHolds j c.dst (dstLen c) 1) && (c.fabric != 0 || c.members.length == 1)

/-- A request that completes at once, with its record where that can be written. -/
def failColl (c : Coll) (st : Nat) (d : Dev) : Dev :=
  let d := { d with nextId := d.nextId + 1 }
  if cmplOk d c then finishColl c st c.rank Flags.none d else postOpt (c.slotKey / 2) c.replyQ (keepStatus c.slotKey st [c.cmpl] d)

/-- The smallest guard of a timed barrier (R318): 2 × (2 + 1.5 × max_hops). -/
def minGuard (d : Dev) : Nat := 4 + 3 * getF d kTimGm 8 8

/-- A timed barrier that comes after T − guard raises BARRIER_MISSED. -/
def barrierLate (c : Coll) (d : Dev) : Dev :=
  let late := nowNs d + c.guard_ - c.t
  if c.t < nowNs d + c.guard_ then
    raiseEvent 0x08 1 c.slotKey [c.group, c.seq, c.t % 2 ^ 32, c.t / 2 ^ 32, min late 0xFFFFFFFF] d
  else d

/-- Messages that came before the request are applied. -/
def applyEarly (j : Job) (c : Coll) (d : Dev) : Dev :=
  let mine (r : RxPkt) : Bool :=
    (pktOf r.bytes).job == j.fabric && (collHdr (pktOf r.bytes).data).group == c.group && (collHdr (pktOf r.bytes).data).seq == c.seq
  let l := d.crb.early.filter mine
  forEach l (fun r d => onColl j (pktOf r.bytes) d) { d with crb.early := d.crb.early.filter (fun r => !mine r) }

/-- No place for a further request: 64 wait, and this one would wait (R345). -/
def collFull (d : Dev) (c : Coll) : Bool :=
  decide (64 ≤ (d.crb.colls.filter (fun x => !x.running)).length) &&
  (decide (16 ≤ (d.crb.colls.filter (·.running)).length) || d.crb.colls.any (fun x => x.job == c.job && x.group == c.group))

/-- Queue a request whose number is its group's next. -/
def acceptColl (j : Job) (c : Coll) (d : Dev) : Dev :=
  let d := { d with
    nextId := d.nextId + 1
    crb.seqs := tset 0 d.crb.seqs (c.job * 16 + c.group) c.seq
    crb.colls := d.crb.colls ++ [c] }
  settle (applyEarly j c (if c.op == 2 then barrierLate c d else d))

/-- Take a number without queueing: the request completes at once. -/
def numberColl (c : Coll) (st : Nat) (d : Dev) : Dev :=
  failColl c st { d with crb.seqs := tset 0 d.crb.seqs (c.job * 16 + c.group) c.seq }

/-- A request that the collective port has taken (R341, R344, R345). -/
def requestColl (k : Nat) (bs : List Byte) (d : Dev) : Dev :=
  let ws := leWords 16 bs
  let none_ : Job := { uid := 0, tag := 0, ring := 0, fabric := 0, bundle := 0, bg := false }
  match slotJob d k with
  | none => failColl (collOf d k none_ [] ws) stInvalid d
  | some j =>
    match j.groups[fld (ws.getD 0 0) 12 4]? with
    | none => failColl (collOf d k j [] ws) stInvalid d
    | some g =>
      let c := collOf d k j g ws
      let semBad : Bool := match c.replyQ with | some q => !(slotAt d k).semMask.getLsbD q | none => false
      if !collFieldsOk ws || semBad then failColl { c with replyQ := if semBad then none else c.replyQ } stInvalid d
      else if c.seq != (lastSeq d j.uid c.group + 1) % 2 ^ 32 then failColl c stInvalid d
      else
        match d.crb.aborted.find? (fun a => a.1 == j.uid && a.2.1 == c.group && a.2.2.1 == c.seq) with
        | some a => numberColl c a.2.2.2 d
        | none =>
          if !collAddrsOk d j c then numberColl c stBadAddr d
          else if collFull d c then failColl c stConflict d
          else if c.op == 2 && decide (c.guard_ < minGuard d) then numberColl c stInvalid d
          else if c.op == 2 && decide (c.t * 65536 < d.time.ft) then numberColl c stMissed (barrierLate c d)
          else acceptColl j c d

/-- The COPY to the collective port that names an operation. -/
def collStep (core : Fin 32) (id : Nat) (r : ReqEnd) (mine : Nat → Bool) (s : State) : Host.Outcome State Fault Refusal :=
  portStep core id r isCollPort (fun bs => mine (copyOp bs)) (fun k bs d => (stSuccess, requestColl k bs d)) s

/-- BARRIER: a COPY of 64 bytes to the collective port; one with no operation of Table 13-10 is refused here. -/
def execBarrier (core : Fin 32) (id : Nat) (r : ReqEnd) (s : State) : Host.Outcome State Fault Refusal :=
  collStep core id r (fun op => op == 1 || !within 1 7 op) s

/-- TBARRIER. -/
def execTbarrier (core : Fin 32) (id : Nat) (r : ReqEnd) (s : State) : Host.Outcome State Fault Refusal := collStep core id r (· == 2) s

/-- REDUCE. -/
def execReduce (core : Fin 32) (id : Nat) (r : ReqEnd) (s : State) : Host.Outcome State Fault Refusal := collStep core id r (· == 3) s

/-- ALLREDUCE. -/
def execAllreduce (core : Fin 32) (id : Nat) (r : ReqEnd) (s : State) : Host.Outcome State Fault Refusal := collStep core id r (· == 4) s

/-- REDUCESCATTER. -/
def execReducescatter (core : Fin 32) (id : Nat) (r : ReqEnd) (s : State) : Host.Outcome State Fault Refusal := collStep core id r (· == 5) s

/-- ALLGATHER. -/
def execAllgather (core : Fin 32) (id : Nat) (r : ReqEnd) (s : State) : Host.Outcome State Fault Refusal := collStep core id r (· == 6) s

/-- BROADCAST. -/
def execBroadcast (core : Fin 32) (id : Nat) (r : ReqEnd) (s : State) : Host.Outcome State Fault Refusal := collStep core id r (· == 7) s

/-- A rank waits for a child or for its parent. -/
def collWaits (c : Coll) : Bool := c.op != 2 && (!(collChildren c).all (childWhole c) || c.rank != 0)

/-- COLLECTIVE_TIMEOUT: nothing heard within timeout_us. A rank that waits only for multicast data completes alone (R344). -/
def execCollectiveTimeout (uid : Nat) (s : State) : Host.Outcome State Fault Refusal :=
  let d := s.dev
  match collAt d uid with
  | some c =>
    whenDev (collWaits c && decide (c.startedAt + 1000 * c.timeoutUs ≤ nowNs d)) "the collective's time has not passed"
      (settle (if c.downEnd then finishColl c stTimeout c.rank c.flags d else abortColl c stTimeout stTimeout c.rank d)) s
  | none => whenDev false "no such collective" d s

/-- LAUNCH_FIRE: a descriptor in the gate fires, or a timed barrier releases (R314, R315, R318). -/
def execLaunchFire (uid : Nat) (s : State) : Host.Outcome State Fault Refusal :=
  let d := s.dev
  match findDesc d uid with
  | some x => whenDev (firesFirst d x) "the descriptor does not fire" (fireDesc x d) s
  | none =>
    match collAt d uid with
    | some c =>
      whenDev (c.op == 2 && c.running && decide (c.t ≤ nowNs d)) "the barrier does not release"
        (settle (if c.t + 10 ≤ nowNs d then finishColl c stMissed c.rank c.flags d else finishColl c stSuccess 0xFFFFFFFF c.flags d)) s
    | none => whenDev false "nothing of this number waits for its instant" d s

/-! Fabric reset. -/

/-- What a device does at the action instant of a reset (R457). -/
def actReset (d : Dev) : Dev :=
  let js := d.host.jobs.filter (fun j => j.fabric != 0)
  let mine (r : XReq) : Bool := r.job != 0 && js.any (fun j => j.fabric == r.job)
  let d := { d with
    crb.outstanding := d.crb.outstanding.filter (fun r => !mine r)
    crb.waiting := d.crb.waiting.filter (fun r => !mine r) }
  let d := forEach js (fun j d => completeJob j.uid stCancelled (endJobColls j.uid false d)) (startWaiting d)
  endReqs (fun r => r.job == 0) (fun r => .failed stUnreach r.addr) d

/-- RESET leaves on every Crebor-mode port that is up, but one. -/
def sendReset (id : Nat) (timed : Option Nat) (except_ : Nat) (d : Dev) : Dev :=
  let data := leBytes 2 id ++ leBytes 1 timed.isSome.toNat ++ leBytes 5 0 ++ leBytes 8 (timed.getD 0)
  forEach ((upFrom 0 8).filter (fun l => nativeUp d l && l != except_)) (fun l d => queuePkt l 0 (hopPkt d 0x28 data) d) d

/-- A device acts at once, or at T. -/
def planReset (id : Nat) (timed : Option Nat) (uid : Option Nat) (d : Dev) : Dev :=
  let finish (d : Dev) : Dev := match uid.bind (findDesc d) with | some x => finishDesc x stSuccess [] d | none => d
  match timed with
  | none => finish (actReset d)
  | some t => if t ≤ nowNs d then finish (actReset d) else { d with crb.timed := d.crb.timed ++ [(id, t, uid)] }

/-- A reset_id seen in the last second. -/
def resetSeen (d : Dev) (id : Nat) : Bool := d.crb.resets.any (fun r => r.1 == id && decide (nowNs d < r.2 + 1000000000))

def noteReset (id : Nat) (d : Dev) : Dev :=
  { d with crb.resets := d.crb.resets.filter (fun r => decide (nowNs d < r.2 + 1000000000)) ++ [(id, nowNs d)] }

/-- RESET: flooded on and acted on once; one with a nonzero reserved field is malformed. -/
def execReset (link : Fin 25) (s : State) : Host.Outcome State Fault Refusal :=
  pktStep link.val 0x28 (fun r p d =>
    let id := bytesNat p.data 0 2
    let timed := bytesNat p.data 2 1
    if decide (1 < timed) || bytesNat p.data 3 5 != 0 then violate link.val 8 (nakBad 8 r.bytes d)
    else if resetSeen d id then d
    else
      let t := if timed == 1 then some (bytesNat p.data 8 8) else none
      planReset id t none (sendReset id t link.val (noteReset id d))) s

/-- FABRIC_RESET (R456). -/
def execFabricReset (uid : Nat) (s : State) : Host.Outcome State Fault Refusal :=
  onDesc uid 0 0x09 (fun x d =>
    let id := ownId d % 256 * 256 + d.crb.resetCount % 256
    let t := if bitAt (x.w 4) 0 then some (x.w64 5) else none
    let d := { d with crb.resetCount := d.crb.resetCount + 1 }
    planReset id t (some uid) (sendReset id t 8 (noteReset id (beginDesc uid d)))) s

/-- FABRIC_RESET_ACT: the instant of a timed reset comes. -/
def execFabricResetAct (rid : Nat) (s : State) : Host.Outcome State Fault Refusal :=
  let d := s.dev
  match d.crb.timed.find? (fun e => e.1 == rid) with
  | some e =>
    whenDev (decide (e.2.1 ≤ nowNs d)) "the instant has not come"
      (planReset rid none e.2.2 { d with crb.timed := d.crb.timed.filter (fun x => x.1 != rid) }) s
  | none => whenDev false "no such reset waits" d s

/-! TIME (R306, R307, R310, R347). -/

/-- A TIME message keeps Table 13-12. -/
def timeMsgOk (p : Pkt) : Bool :=
  let b := p.data
  p.len == 32 && p.rsvd == 0 && decide (bytesNat b 0x0C 1 ≤ 2) && decide (bytesNat b 0x0E 1 ≤ 254) && decide (bytesNat b 0x0F 1 ≤ 254) &&
  decide (bytesNat b 0x10 1 ≤ 3) && decide (bytesNat b 0x11 1 ≤ 1) && zeroBytes (slice b 0x12 14)

/-- What a TIME message advertises. -/
def advertOf (now : Nat) (p : Pkt) : Advert :=
  let b := p.data
  { gmId := bytesNat b 0x0A 2, cls := bytesNat b 0x0C 1, prio := bytesNat b 0x0D 1, hops := bytesNat b 0x0E 1, maxHops := bytesNat b 0x0F 1,
    gmEn := bytesNat b 0x11 1 == 1, at_ := now }

/-- A TIME message from a port: the advertisement is noted, the rule of R306 applied, and from the parent, over a link whose delay is
known, it is a sample. -/
def onTime (port : Nat) (within_ : Bool) (p : Pkt) (d : Dev) : Dev :=
  let d := reselect { d with time.adverts := tset none d.time.adverts port (some (advertOf d.aclk p)) }
  let hop := regVal d (kTimHop port)
  let ft := bytesNat p.data 0 8 * 65536 + bytesNat p.data 8 2
  let off := ((ft + fld hop 0 24 * 16384 : Nat) - (d.time.ft : Int)).fdiv 16384
  if timeSource d == 3 && d.time.parent == some port && bitAt hop 31 then takeSample 3 off within_ d else d

/-- TIME: the oldest packet of a port; `within_` says what the servo decides of its sample. -/
def execTime (port : Fin 8) (within_ : Bool) (s : State) : Host.Outcome State Fault Refusal :=
  pktStep port.val 0x20 (fun _ p d => if timeMsgOk p then onTime port.val within_ p d else violate port.val 10 (badSample 3 0 false d)) s

end Sys2Proof.Machine
end

