-- ==== Sys2Proof/Machine/Power.lean ====
section
/-! DEFINITION. Power levels, thermal limits and shedding (R295, R460 to R462), the core voltage (R472), and the loss of all state that
the resets share (R453). -/

namespace Sys2Proof.Machine

/-! Levels (R460, R461). -/

/-- The level register is written. -/
def levelWrite (v : Nat) (d : Dev) : Dev := relevel (setF kPwrCtl 0 2 (v % 4) d)

/-- POWER_LEVEL_REQUEST: a write of PWR_CTL. -/
def execPowerLevelRequest (v : W32) (s : State) : Host.Outcome State Fault Refusal :=
  whenDev (bootDone s.dev) "the PWR block is not in use" (levelWrite v.toNat s.dev) s

/-- A core loses its power. -/
def gateCore (c : Nat) (d : Dev) : Dev := relevel { d with pwr.gated := d.pwr.gated ++ [c] }

/-- Both slots of a core are IDLE. -/
def coreIdle (d : Dev) (c : Nat) : Bool := (slotAt d (2 * c)).phase == .idle && (slotAt d (2 * c + 1)).phase == .idle

/-- CORE_GATE. -/
def execCoreGate (core : Fin 32) (s : State) : Host.Outcome State Fault Refusal :=
  let d := s.dev
  whenDev (d.pwr.chosen.contains core.val && coreIdle d core.val) "the core is not gated now" (gateCore core.val d) s

/-- CORE_POWER_UP: the core store is written with zeros. -/
def execCorePowerUp (core : Fin 32) (s : State) : Host.Outcome State Fault Refusal :=
  let d := s.dev
  let c := core.val
  whenDev (d.pwr.gated.contains c && !(levelCores d).contains c) "the core stays gated"
    (relevel (zeroMem (0x1000000 * c) 0x1000000 { d with pwr.gated := d.pwr.gated.filter (· != c) })) s

/-! Shedding (R295). -/

def shedStep (d : Dev) : Nat := getF d kPwrStat 28 2

/-- The condition under which work is shed, and that under which it is not. -/
def overLimit (d : Dev) : Bool := d.pwr.hotT || d.pwr.hotP
def underLimit (d : Dev) : Bool := d.pwr.coolT && d.pwr.coolP

/-- The sensor with the highest reading, the lowest on a tie: 0 CD0, 1 CD1, 2 IOD. -/
def hotSensor (cd0 cd1 iod : Nat) : Nat := if cd1 ≤ cd0 && iod ≤ cd0 then 0 else if iod ≤ cd1 then 1 else 2

/-- Raise THERMAL_LIMIT at a shedding step (Table 18-5). -/
def raiseLimit (step sensor : Nat) (d : Dev) : Dev :=
  let power : Bool := !d.pwr.hotT
  raiseEvent 0x09 (if power then 0 else 7) (if power then 0 else sensor)
    [getF d kPwrTemp 0 16, power.toNat + step * 2 + floorLevel d * 16] d

/-- Enter a shedding step. -/
def enterStep (n sensor : Nat) (d : Dev) : Dev :=
  let d := raiseLimit n sensor (setF kPwrStat 28 2 n d)
  { d with
    pwr.stepAt := d.aclk
    pwr.bgStop := true
    pwr.stdStop := d.pwr.stdStop || decide (2 ≤ n) }

/-- Note new conditions: a limit that is reached begins shedding, or is reported again at the step in force; calm is timed. -/
def noteLimits (was : Bool) (sensor : Nat) (d : Dev) : Dev :=
  let d := { d with pwr.calmAt := if underLimit d then (match d.pwr.calmAt with | some t => some t | none => some d.aclk) else none }
  if overLimit d && !was then enterStep (max 1 (shedStep d)) sensor d else d

/-- The sensor that the events of a persisting limit name: the one read last as hottest is not kept, so the first (log entry 13). -/
def limitSensor : Nat := 0

/-- SHED_STANDARD_PAUSE: the condition persists 1 ms after the first step. -/
def execShedStandardPause (s : State) : Host.Outcome State Fault Refusal :=
  let d := s.dev
  whenDev (shedStep d == 1 && overLimit d && decide (d.pwr.stepAt + 200000 ≤ d.aclk)) "the condition has not persisted" (enterStep 2 limitSensor d) s

/-- SHED_LEVEL_STEP: it persists 10 ms more; the power level deepens by one. -/
def execShedLevelStep (s : State) : Host.Outcome State Fault Refusal :=
  let d := s.dev
  whenDev (decide (2 ≤ shedStep d) && decide (d.pwr.shed < 3) && overLimit d && decide (d.pwr.stepAt + 2000000 ≤ d.aclk)) "the condition has not persisted"
    (let d := enterStep 3 limitSensor d
     relevel { d with pwr.shed := d.pwr.shed + 1 }) s

/-- Undo the last shedding step. -/
def undoStep (d : Dev) : Dev :=
  if shedStep d == 3 then
    let d := { d with pwr.shed := d.pwr.shed - 1 }
    relevel (if d.pwr.shed == 0 then setF kPwrStat 28 2 2 d else d)
  else if shedStep d == 2 then setF kPwrStat 28 2 1 { d with pwr.stdStop := false }
  else setF kPwrStat 28 2 0 { d with pwr.bgStop := false }

/-- SHED_UNDO_STEP: 10 ms below the limits. -/
def execShedUndoStep (s : State) : Host.Outcome State Fault Refusal :=
  let d := s.dev
  let calm : Bool := match d.pwr.calmAt with | some t => decide (t + 2000000 ≤ d.aclk) | none => false
  whenDev (shedStep d != 0 && calm && underLimit d) "the limits have not been kept for 10 ms" (undoStep { d with pwr.calmAt := some d.aclk }) s

/-! Temperature and power (R462). -/

/-- End the work of a slot of a core that loses its power (R462). -/
def failSlot (k : Nat) (d : Dev) : Dev :=
  if isRunning d k then
    let d := updSlot k (fun sl => { sl with phase := .stopped, hold := .none }) d
    faultWork k stEngine (cancelStreams (k / 2) (k % 2) (discardQueues (k / 2) (k % 2) d))
  else d

/-- THERMAL_CRITICAL: all dispatch stops and the device goes to P3, whatever the floor. -/
def goCritical (sensor tj : Nat) (d : Dev) : Dev :=
  let d := raiseEvent 0x0A 7 sensor [tj] d
  let d := setF kPwrStat 30 1 1 (setF kPwrStat 28 2 3 { d with
    pwr.allStop := true
    pwr.bgStop := true
    pwr.stdStop := true
    pwr.shed := 3
    pwr.cool95 := none })
  let d := relevel d
  let d := forEach d.pwr.chosen (fun c d => failSlot (2 * c + 1) (failSlot (2 * c) d)) d
  let d := forEach d.pwr.chosen (fun c d => updSlot (2 * c + 1) (fun _ => {}) (updSlot (2 * c) (fun _ => {}) d)) d
  relevel { d with pwr.gated := d.pwr.gated ++ d.pwr.chosen }

/-- THERMAL_CRITICAL ends: shedding goes on under R295. -/
def endCritical (d : Dev) : Dev := relevel (setF kPwrStat 30 1 0 { d with pwr.allStop := false, pwr.cool95 := none })

/-- The flash copy that a reset finds half written fails its check (R446): its first bytes are erased. -/
def copyBase (kind copy : Nat) : Nat :=
  match kind with
  | 1 => 0x10000 + 0x80000 * copy
  | 2 => 0x140000 + 0x1000000 * copy
  | 3 => 0x110000 + 0x8000 * copy
  | _ => 0x120000 + 0x10000 * copy

def tornFlash (d : Dev) : Tbl Byte :=
  match d.boot.mbox with
  | some m => tclear d.boot.flash (fun k => decide (copyBase m.kind m.copy ≤ k) && decide (k < copyBase m.kind m.copy + 64))
  | none => d.boot.flash

/-- The number of THERMTRIP_N and of VCMP_VID in what the device drives. -/
def pinThermtrip : Nat := 17
def pinVid : Nat := 18

/-- What GPIO pin n drives: its OUT bit, or 2 while it is an input. -/
def gpioLevel (d : Dev) (n : Nat) : Nat := if getF d kGpioDir n 1 == 1 then getF d kGpioOut n 1 else 2

/-- The GPIO pins that a change of registers has changed (R482). -/
def driveGpio (before d : Dev) : Dev :=
  forEach ((upFrom 0 16).filter (fun n => gpioLevel before n != gpioLevel d n)) (fun n e => emit (.pin n (gpioLevel d n)) e) d

/-- The pins that a reset has changed: GPIO, PPS_OUT and VCMP_VID. -/
def drivePins (before d : Dev) : Dev :=
  let d := driveGpio before d
  let d := if before.time.ppsHigh && !d.time.ppsHigh then emit (.pin pinPpsOut 0) d else d
  if getF before kPwrVdd 0 5 == getF d kPwrVdd 0 5 then d else emit (.pin pinVid (getF d kPwrVdd 0 5)) d

/-- Everything that cold reset resets (Table 18-2): the calendar clock, the flash with its counters, the retired-page list and the DDR4
training store stay. -/
def coldBase (d : Dev) : Dev :=
  { Dev.reset with
    aclk := d.aclk
    free := d.free
    nextId := d.nextId
    out := d.out
    ddr.retired := d.ddr.retired
    time.cal := d.time.cal
    time.calFrac := d.time.calFrac
    time.calSec := d.time.calSec
    time.calBad := d.time.calBad
    boot.flash := tornFlash d
    boot.rpmc := d.boot.rpmc
    boot.tag := d.boot.tag
    boot.hold := true
    pwr.auxOff := d.pwr.auxOff
    pwr.tripped := d.pwr.tripped }

/-- The device as a cold reset holds it. -/
def coldState (d : Dev) : Dev := drivePins d (coldBase d)

/-- TEMPERATURE_SAMPLE: the three sensors in 1/16 °C. -/
def execTemperatureSample (cd0 cd1 iod : BitVec 16) (s : State) : Host.Outcome State Fault Refusal :=
  let d := s.dev
  let tj := max cd0.toNat (max cd1.toNat iod.toNat)
  let sensor := hotSensor cd0.toNat cd1.toNat iod.toNat
  let due : Bool := match d.pwr.tempAt with | some t => decide (t + 20000 ≤ d.aclk) | none => true
  let was := overLimit d
  let d := setF kPwrTemp 0 16 tj { d with
    pwr.tempAt := some d.aclk
    pwr.hotT := decide (1520 ≤ tj)
    pwr.coolT := decide (tj ≤ 1440)
    pwr.cool95 := if tj ≤ 1520 then (match d.pwr.cool95 with | some t => some t | none => some d.aclk) else none }
  let rested : Bool := match d.pwr.cool95 with | some t => decide (t + 2000000 ≤ d.aclk) | none => false
  whenDev (due && !s.dev.boot.hold) "no reading is due"
    (if 1840 ≤ tj then emit (.pin pinThermtrip 0) (coldState { d with pwr.tripped := true })
     else
       let d := noteLimits was sensor d
       if 1680 ≤ tj && !critical d then goCritical sensor tj d
       else if critical d && rested then endCritical d else d) s

/-- POWER_WINDOW: the estimate of 1 ms in W, against the configured limit. -/
def execPowerWindow (w : BitVec 16) (s : State) : Host.Outcome State Fault Refusal :=
  let d := s.dev
  let due : Bool := match d.pwr.powAt with | some t => decide (t + 200000 ≤ d.aclk) | none => true
  let limit := getF d kPwrCtl 16 16
  let was := overLimit d
  let d := setF kPwrTemp 16 16 w.toNat { d with
    pwr.powAt := some d.aclk
    pwr.hotP := limit != 0 && decide (limit < w.toNat)
    pwr.coolP := decide (w.toNat < limit) }
  whenDev (due && !d.boot.hold) "the window has not ended" (noteLimits was 0 d) s

/-- The end of boot stage 0. -/
def afterRom (d : Dev) : Bool := getF d kBootStat 16 4 != 0 && getF d kBootStat 16 4 != 5

/-- VID_STEP: the path monitors move the code one step, up or down. -/
def execVidStep (up : Bool) (s : State) : Host.Outcome State Fault Refusal :=
  let d := s.dev
  let v := getF d kPwrVdd 0 5
  let due : Bool := match d.pwr.vidAt with | some t => decide (t + 2000 ≤ d.aclk) | none => true
  let w := if up then v + 1 else v - 1
  whenDev (afterRom d && due && (if up then decide (v < 30) else decide (0 < v))) "the code does not move"
    (emit (.pin pinVid w) (setF kPwrVdd 0 5 w { d with pwr.vidAt := some d.aclk })) s

/-! Supplies (R472, R477, R480, R304). -/

/-- VDD_AUX_IN_RANGE: VCMP_VID drives code 10. -/
def execVddAuxInRange (s : State) : Host.Outcome State Fault Refusal :=
  let d := s.dev
  whenDev d.pwr.auxOff "VDD_AUX is in range" (emit (.pin pinVid 10) { d with pwr.auxOff := false }) s

/-- VDD_AUX_REMOVED: power goes, and with it the hold of a thermal trip. -/
def execVddAuxRemoved (s : State) : Host.Outcome State Fault Refusal :=
  let d := s.dev
  let d := if d.pwr.tripped then emit (.pin pinThermtrip 1) d else d
  whenDev (!s.dev.pwr.auxOff) "VDD_AUX is not present" (coldState { d with pwr.auxOff := true, pwr.tripped := false }) s

/-- VBAT_RTC_LOW: while the device is unpowered the calendar's contents become invalid. -/
def execVbatRtcLow (s : State) : Host.Outcome State Fault Refusal :=
  whenDev s.dev.pwr.auxOff "the device is powered" { s.dev with time.calBad := true } s

end Sys2Proof.Machine
end

