-- ==== Sys2Proof/Machine/Mailbox.lean ====
section
/-! DEFINITION. The firmware mailbox (R444 to R446). -/

namespace Sys2Proof.Machine

/-! Boot status (Table 17-16). -/

def bootStage (d : Dev) : Nat := getF d kBootStat 16 4
def setStage (n : Nat) (d : Dev) : Dev := setF kBootStat 16 4 n d
def bootMode (d : Dev) : Nat := getF d kBootStat 30 2

/-- The bit of SEC_BOOT_STAT that names the copy of a kind in use. -/
def copyBit (kind : Nat) : Nat := if kind ≤ 1 then 29 else if kind == 2 then 28 else if kind == 3 then 27 else 26

def copyInUse (d : Dev) (kind : Nat) : Nat := getF d kBootStat (copyBit kind) 1

/-! The mailbox's state (Table 17-14). -/

def mboxState (d : Dev) : Nat := getF d kMboxStat 28 4
def setMbox (n : Nat) (d : Dev) : Dev := setF kMboxStat 28 4 n d

/-- The mailbox is verifying or writing. -/
def mboxBusy (d : Dev) : Bool := mboxState d == 2 || mboxState d == 3

/-- Where words are staged: 16 MiB of VAT0 (log entry 32). -/
def stagePlace : Nat := vatBase 0 + Config.stageBase % 0xC0001 * 64

/-- BEGIN: words are received; a ROM without its PUF takes none (R435). -/
def mboxBegin (d : Dev) : Dev :=
  if mboxBusy d || d.boot.wait == 10 then d else regPut kMboxCount 0 (regPut kMboxStat (2 ^ 28) d)

/-- A word: it is counted, and stored where the length has room for it. -/
def mboxWord (w : Nat) (d : Dev) : Dev :=
  if mboxState d == 1 then
    let n := regVal d kMboxCount
    let d := if 4 * n + 4 ≤ regVal d kMboxLen then wrMem (stagePlace + 4 * n) (leBytes 4 w) d else d
    regPut kMboxCount ((n + 1) % 2 ^ 32) d
  else d

/-- The kinds accepted now (R445). -/
def mboxKinds (d : Dev) : List Nat :=
  match d.boot.wait with
  | 0 => if bootDone d then [1, 2, 3, 4] else []
  | 5 => [1]
  | 6 => [3]
  | 7 => [4]
  | 8 => [2]
  | _ => []

def mboxFail (reason : Nat) (d : Dev) : Dev := setF kMboxStat 8 8 reason (setMbox 5 d)

/-- The flash copy a verified object goes to: not the one in use; in a waiting state none is in use, and the spec names none. -/
def mboxCopy (d : Dev) (kind : Nat) : Nat := if bootDone d then 1 - copyInUse d kind else Config.freeNat d.free 0 % 2

/-- Begin the flash write of a verified object. -/
def mboxWrite (kind : Nat) (obj : List Byte) (d : Dev) : Dev :=
  setMbox 3 { d with
    free := d.free + 1
    boot.mbox := some { kind := kind, copy := mboxCopy d kind, bytes := obj } }

/-- The staged object. -/
def stagedObj (d : Dev) : List Byte := rdMem d stagePlace (regVal d kMboxLen)

/-- END: the count, the kind and the object are checked, in this order, and the flash write begins. -/
def mboxFinish (d : Dev) : Dev :=
  if mboxState d != 1 then d
  else if 4 * regVal d kMboxCount != regVal d kMboxLen then mboxFail 8 d
  else
    let obj := stagedObj d
    let k := objKind obj
    let d := setF kMboxStat 24 4 k d
    if !(mboxKinds d).contains k then mboxFail 9 d
    else
      match verifyObj d k obj with
      | 0 => mboxWrite k obj d
      | r => mboxFail r d

/-- ABORT. -/
def mboxStop (d : Dev) : Dev := if mboxState d == 1 then setMbox 0 d else d

/-- A warm device reset is due at an instant, unless one is due before. -/
def dueWarm (cause at_ : Nat) (d : Dev) : Dev :=
  match d.boot.warm with
  | some w => if w.2 ≤ at_ then d else { d with boot.warm := some (cause, at_) }
  | none => { d with boot.warm := some (cause, at_) }

/-- A write of SEC_MBOX_CTL. -/
def mboxCtl (v : Nat) (d : Dev) : Dev :=
  match v % 16 with
  | 1 => mboxBegin d
  | 2 => mboxFinish d
  | 3 => mboxStop d
  | 4 => dueWarm 3 d.aclk d
  | _ => d

/-- A write of SEC_MBOX_LEN (Table 17-13). -/
def mboxLen (v : Nat) (d : Dev) : Dev := if v % 4 == 0 && within 64 0x1000000 v && !mboxBusy d then regPut kMboxLen v d else d

/-- An object written in a waiting state is used at once: the stage that waits goes on. -/
def useObj (m : MboxObj) (d : Dev) : Dev :=
  match d.boot.wait, m.kind with
  | 5, 1 => setStage 1 (setF kBootStat 29 1 m.copy { d with boot.wait := 0, boot.rootAt := d.aclk, boot.objs := tset [] d.boot.objs 1 m.bytes })
  | 6, 3 => setStage 1 { d with boot.wait := 0 }
  | 7, 4 => setStage 1 { d with boot.wait := 0 }
  | 8, 2 => setStage 3 { d with boot.wait := 0 }
  | _, _ => d

/-- The flash write has ended. -/
def endWrite (m : MboxObj) (d : Dev) : Dev :=
  let d := emit (.flashWrite (copyBase m.kind m.copy) m.bytes)
    { d with boot.flash := tsetRun 0xFF d.boot.flash (copyBase m.kind m.copy) m.bytes, boot.mbox := none }
  useObj m (setMbox 4 d)

/-! Commands. -/

/-- A write of a mailbox register: the device is not held in reset. -/
def mboxStep (f : Dev → Dev) (s : State) : Host.Outcome State Fault Refusal := whenDev (!s.dev.boot.hold) "the device is held in reset" (f s.dev) s

def execMboxBegin (s : State) : Host.Outcome State Fault Refusal := mboxStep (mboxCtl 1) s
def execMboxData (v : W32) (s : State) : Host.Outcome State Fault Refusal := mboxStep (mboxWord v.toNat) s
def execMboxEnd (s : State) : Host.Outcome State Fault Refusal := mboxStep (mboxCtl 2) s
def execMboxAbort (s : State) : Host.Outcome State Fault Refusal := mboxStep (mboxCtl 3) s
def execMboxWarmReset (s : State) : Host.Outcome State Fault Refusal := mboxStep (mboxCtl 4) s

/-- MBOX_WRITE_DONE. -/
def execMboxWriteDone (s : State) : Host.Outcome State Fault Refusal :=
  match s.dev.boot.mbox with
  | some m => whenDev true "" (endWrite m s.dev) s
  | none => whenDev false "no object is being written" s.dev s

end Sys2Proof.Machine
end

