-- ==== Sys2Proof/Machine/Registers.lean ====
section
/-! DEFINITION. Register accesses (R6 to R9, R358, R359, R383, R384, R487 to R492), the DDR4 window of PF2 (R360), the management buses
(R483), JTAG (R438), the PCI Express link (R355, R356) and bridge errors (R24, R25). -/

namespace Sys2Proof.Machine

def iniNo : Initiator → Nat
  | .root => 0
  | .mgmt => 1
  | .host => 2

/-- An access of 4 or 8 bytes at a multiple of its size (R359). -/
def accessOk (off size : Nat) : Bool := (size == 4 || size == 8) && off % size == 0

/-- The register's block is in use: before stage 6 only SEC is (R435, R487); the root core alone reaches the others then. -/
def regInUse (d : Dev) (ini : Initiator) (fn off : Nat) : Bool := bootDone d || ini == .root || (fn == 0 && off / 0x10000 == 3)

/-! Writes. -/

/-- The ring and its register that an offset of a function's BAR0 names. -/
def ringOf (fn off : Nat) : Option (Nat × Nat) :=
  let a := regKey fn off
  if ringBase fn ≤ a && a < ringBase fn + 0x40 * ringCount fn then some ((a - ringBase fn) / 0x40, (a - ringBase fn) % 0x40) else none

/-- A register is read-only to every initiator but the root core: a field of it resets to cfg (R426). -/
def rootOnly (fn off : Nat) : Bool :=
  fn == 0 && (off == kTimSrcCfg || off == kCrbDevId || (decide (0x50100 ≤ off) && decide (off < 0x50200) && off % 0x20 == 0))

/-- Any Crebor-mode port or tunnel is enabled (Table 13-16). -/
def fabricEnabled (d : Dev) : Bool :=
  (upFrom 0 8).any (fun p => getF d (kCrbPort p 0) 31 1 == 1 && (linkAt d p).mode == 0) ||
  (upFrom 0 16).any (fun t => getF d (kCrbTunnel t) 31 1 == 1)

/-- A write that only its fields' access codes and value sets govern (R6, R492). -/
def plainWrite (key v : Nat) (d : Dev) : Dev :=
  match regSpec key with
  | some sp => regPut key (writeFields sp.fields (regVal d key) v) d
  | none => d

/-- A write to a PF0 register. -/
def writePf0 (ini : Initiator) (off v : Nat) (d : Dev) : Dev :=
  if off == kTimSetLo then { d with time.setLo := v }
  else if off == kTimSetHi then armSecond v d
  else if off == kTimSrcCfg then reselect (plainWrite off v d)
  else if off == kMboxCtl then (if ini == .mgmt then d else mboxCtl v d)
  else if off == kMboxLen then (if ini == .mgmt then d else mboxLen v d)
  else if off == kMboxData then (if ini == .mgmt then d else mboxWord v d)
  else if off == kRetIdx then showRetired (plainWrite off v d)
  else if off == kCrbDevId then (if fabricEnabled d then d else plainWrite off v d)
  else if off == kCrbRoute && ini != .root then plainWrite off (putFld v 16 16 (getF d kCrbRoute 16 16)) d
  else if decide (0x50100 ≤ off) && decide (off < 0x50200) && off % 0x20 == 0 then portCfgWrite ((off - 0x50100) / 0x20) v d
  else if off == kPwrCtl then levelWrite v d
  else plainWrite off v d

/-- The base registers of an enabled ring ignore writes (R365). -/
def writeRing (fn r o v : Nat) (d : Dev) : Dev :=
  if o == 0x10 then ringCfgWrite fn r v d
  else if decide (o < 0x10) && getF d (kRing fn r 0x10) 31 1 == 1 then d
  else plainWrite (kRing fn r o) v d

/-- A write of 4 bytes. -/
def writeReg (ini : Initiator) (fn off v : Nat) (d : Dev) : Dev :=
  if !regInUse d ini fn off || (rootOnly fn off && ini != .root) then d
  else
    match ringOf fn off with
    | some (r, o) => writeRing fn r o v d
    | none => if fn == 0 then writePf0 ini off v d else d

/-- A write access. -/
def writeAccess (ini : Initiator) (fn off size v : Nat) (d : Dev) : Dev :=
  if !accessOk off size then d
  else driveGpio d (if size == 8 then writeReg ini fn (off + 4) (v / 2 ^ 32 % 2 ^ 32) (writeReg ini fn off (v % 2 ^ 32) d) else writeReg ini fn off (v % 2 ^ 32) d)

/-- REGISTER_WRITE. -/
def execRegisterWrite (ini : Initiator) (fn : Fin 4) (off size : Nat) (value : W64) (s : State) : Host.Outcome State Fault Refusal :=
  whenDev (!s.dev.boot.hold) "the device is held in reset" (writeAccess ini fn.val off size value.toNat s.dev) s

/-! Reads. -/

/-- Latch registers for an initiator class. -/
def latchRegs (ini : Initiator) (l : List (Nat × Nat)) (d : Dev) : Dev :=
  forEach l (fun e d => { d with latch := tset 0 d.latch (latchKey (iniNo ini) e.1) (BitVec.ofNat 32 e.2) }) d

def latched (d : Dev) (ini : Initiator) (key : Nat) : Nat := (tget 0 d.latch (latchKey (iniNo ini) key)).toNat

/-- LIV_PORT_LINES of a port: lines_in and lines_out (Table 08-6). -/
def portLines (d : Dev) (n : Nat) : Nat :=
  match tget none d.live.ports n with
  | some p => p.linesIn % 65536 * 65536 + p.linesOut % 65536
  | none => 0

/-- The port that an offset of LIV_PORT_FRAME_OUT or LIV_PORT_LINES names, and the engine of a PRS_ENG_BYTES offset. -/
def livIdx (o off : Nat) : Option Nat := strideIdx off (kLiv 0 o) 0x40 24
def prsIdx (o off : Nat) : Option Nat := strideIdx off (kPrs 0 o) 0x20 4

/-- A read of a PF0 register: what it returns and what it leaves. `pins` are the levels on GPIO pins that are inputs. -/
def readPf0 (ini : Initiator) (off : Nat) (pins : Nat) (d : Dev) : Nat × Dev :=
  if off == kTimNowLo then
    (nowNs d % 2 ^ 32, latchRegs ini [(kTimNowHi, nowNs d / 2 ^ 32 % 2 ^ 32), (kTimNowFrac, d.time.ft % 65536)] d)
  else if off == kTimNowHi || off == kTimNowFrac || (livIdx 8 off).isSome || (prsIdx 8 off).isSome then (latched d ini off, d)
  else if off == kGpioIn then (((upFrom 0 16).map (fun n => (if getF d kGpioDir n 1 == 1 then getF d kGpioOut n 1 else fld pins n 1) * 2 ^ n)).foldl (· + ·) 0, d)
  else
    let d := match livIdx 4 off with | some n => latchRegs ini [(kLiv n 8, portLines d n)] d | none => d
    let d := match prsIdx 4 off with | some e => latchRegs ini [(kPrs e 8, regVal d (kPrs e 8))] d | none => d
    match regSpec off with
    | some sp => (readFields sp.fields (regVal d off), regPut off (clearRc sp.fields (regVal d off)) d)
    | none => (0, d)

/-- A read of 4 bytes. -/
def readReg (ini : Initiator) (fn off pins : Nat) (d : Dev) : Nat × Dev :=
  if !regInUse d ini fn off then (0, d)
  else if fn == 0 then readPf0 ini off pins d
  else
    match regSpecAt fn off with
    | some sp =>
      let k := regKey fn off
      (readFields sp.fields (regVal d k), regPut k (clearRc sp.fields (regVal d k)) d)
    | none => (0, d)

/-- A read access; what it returns leaves the device. -/
def readAccess (ini : Initiator) (fn off size pins : Nat) (d : Dev) : Dev :=
  let out (v : Nat) (d : Dev) : Dev := emit (.regRead (iniNo ini) fn off v) d
  if !accessOk off size then out 0 d
  else
    let lo := readReg ini fn off pins d
    if size == 8 then
      let hi := readReg ini fn (off + 4) pins lo.2
      out (lo.1 + hi.1 * 2 ^ 32) hi.2
    else out lo.1 lo.2

/-- A read of registers: the device is not held in reset. -/
def readStep (ini : Initiator) (fn off size pins : Nat) (s : State) : Host.Outcome State Fault Refusal :=
  whenDev (!s.dev.boot.hold) "the device is held in reset" (readAccess ini fn off size pins s.dev) s

/-- RC_REGISTER_READ: a read of any register. -/
def execRcRegisterRead (ini : Initiator) (fn : Fin 4) (off size : Nat) (pins : BitVec 16) (s : State) : Host.Outcome State Fault Refusal :=
  readStep ini fn.val off size pins.toNat s

/-- TIM_NOW_LO_READ, of 4 or 8 bytes. -/
def execTimNowLoRead (ini : Initiator) (size : Nat) (s : State) : Host.Outcome State Fault Refusal := readStep ini 0 kTimNowLo size 0 s

/-- LIV_PORT_FRAME_OUT_READ. -/
def execLivPortFrameOutRead (ini : Initiator) (port : Fin 24) (s : State) : Host.Outcome State Fault Refusal := readStep ini 0 (kLiv port.val 4) 4 0 s

/-- PRS_ENG_BYTES_LO_READ. -/
def execPrsEngBytesLoRead (ini : Initiator) (engine : Fin 4) (s : State) : Host.Outcome State Fault Refusal := readStep ini 0 (kPrs engine.val 4) 4 0 s

/-! PF2 BAR4 (R360). -/

/-- A byte of the window that exists for the host: populated, trained and not in the live region. -/
def barByte (d : Dev) (x : Nat) : Bool := bootDone d && d.ddr.trained && decide (x < ddrSize d) && decide (liveBytes d ≤ x)

/-- A byte that a write through the window changes: it exists and lies in no locked region; a partial write leaves a marked line
(R399). -/
def barWrites (d : Dev) (x : Nat) : Bool := barByte d x && !lockedIn d (ddrBase + x) 1

/-- A write of `bs` at window offset x. -/
def barWrite (x : Nat) (bs : List Byte) (d : Dev) : Dev :=
  if (upFrom x bs.length).all (barWrites d) && (poisonPartial d (ddrBase + x) bs.length).isNone then devWrite (ddrBase + x) bs d
  else
    (bs.zip (upFrom x bs.length)).foldl (fun e p =>
      if barWrites d p.2 && (poisonIn d (ddrBase + p.2) 1).isNone then wrMem (ddrBase + p.2) [p.1] e else e) d

/-- What a read returns: a line that cannot be corrected completes it with Completer Abort. -/
def barRead (x n : Nat) (d : Dev) : Dev :=
  if (upFrom x n).any (fun i => barByte d i && (poisonIn d (ddrBase + i) 1).isSome) then emit .completerAbort d
  else emit (.barRead ((upFrom x n).map (fun i => if barByte d i then tget 0 d.mem (ddrBase + i) else 0))) d

/-- BAR4_WINDOW_ACCESS: a write of the bytes given, or a read of `len`. -/
def execBar4WindowAccess (off len : Nat) (data : Option (List Byte)) (s : State) : Host.Outcome State Fault Refusal :=
  whenDev (!s.dev.boot.hold) "the device is held in reset"
    (match data with
     | some bs => barWrite off bs s.dev
     | none => barRead off len s.dev) s

/-! The management buses (R483). -/

/-- The 16-byte status block. -/
def statusBytes (d : Dev) : List Byte := [kBootStat, kPwrStat, kPwrTemp, kTimStatus].flatMap (fun k => leBytes 4 (regVal d k))

/-- MGMT_STATUS_READ at index 0. -/
def execMgmtStatusRead (s : State) : Host.Outcome State Fault Refusal :=
  whenDev (!s.dev.boot.hold) "the device is held in reset" (emit (.mgmtRead (statusBytes s.dev)) s.dev) s

/-- The answer of the MCTP endpoint; ERROR_UNSUPPORTED_CMD is completion code 5 of DSP0236 (log entry 33). -/
def mctpAnswer (d : Dev) : MctpMsg → List Byte
  | .control r => Config.mctpControl r
  | .vendor vid => if vid == 0x4D6C then statusBytes d else [0x05]
  | .other => [0x05]

/-- MCTP_MESSAGE. -/
def execMctpMessage (m : MctpMsg) (s : State) : Host.Outcome State Fault Refusal :=
  whenDev (!s.dev.boot.hold) "the device is held in reset" (emit (.mctpResponse (mctpAnswer s.dev m)) s.dev) s

/-! JTAG (R438). -/

def debugEn (d : Dev) : Bool := getF d kBootStat 23 1 == 1

/-- The identity code (Table 19-5); the stepping is that of the manufacture record. -/
def idCode (d : Dev) : Nat := bytesNat (bodyOf (objAt d 3)) 0x0A 1 % 16 * 2 ^ 28 + 0x0960 * 4096 + 1

/-- What a debugger sees of a slot: its pc and its registers. -/
def slotWords (d : Dev) (k : Nat) : List Nat :=
  let sl := slotAt d k
  sl.pc.toNat :: (upFrom 0 32).map (fun i => (tget 0 sl.s i).toNat) ++ (upFrom 0 16).map (fun i => (getA sl i).toNat) ++ (upFrom 0 8).map (fun i => (getP sl i).toNat)

def haltCore (k : Nat) (d : Dev) : Dev := if d.boot.halted.contains k then d else { d with boot.halted := d.boot.halted ++ [k] }
def resumeCore (k : Nat) (d : Dev) : Dev := { d with boot.halted := d.boot.halted.filter (· != k) }

/-- An access of a debugger; without debug_en only the identity code answers. -/
def debugAccess (op : DebugOp) (d : Dev) : Dev :=
  match op with
  | .idcode => emit (.debug [idCode d]) d
  | .haltSlot x => if debugEn d then haltCore (siteKey x) d else d
  | .resumeSlot x => if debugEn d then resumeCore (siteKey x) d else d
  | .inspectSlot x => if debugEn d then emit (.debug (slotWords d (siteKey x))) d else d
  | .haltMgmt c => if debugEn d then haltCore (64 + c.val) d else d
  | .resumeMgmt c => if debugEn d then resumeCore (64 + c.val) d else d

/-- JTAG_DEBUG_ACCESS. -/
def execJtagDebugAccess (op : DebugOp) (s : State) : Host.Outcome State Fault Refusal :=
  whenDev (!s.dev.boot.hold) "the device is held in reset" (debugAccess op s.dev) s

/-! The PCI Express link (R355, R356). -/

/-- PCIE_LINK_TRAINING: the rate code, width and mode it trains to; Flit mode is required at 64 GT/s. -/
def execPcieLinkTraining (speed width : Nat) (flit : Bool) (s : State) : Host.Outcome State Fault Refusal :=
  let ok : Bool := within 1 6 speed && [1, 2, 4, 8].contains width && (speed != 6 || flit)
  whenDev (ok && !s.dev.boot.hold) "no such rate, width and mode"
    (regPut kLinkStat (2 ^ 9 + flit.toNat * 2 ^ 8 + width * 16 + speed) s.dev) s

/-! Bridge errors (R24, R25). -/

/-- The frame of a session that is not Live ends with a status; the session stays as it is between frames. -/
def failFrame (i st : Nat) (d : Dev) : Dev :=
  let d := dropSessLeases i (forEach (sessSlots d i) stopQuiet d)
  match sessAt d i with
  | some x =>
    let d := match x.frame with | some f => cplFrame i x f st d | none => d
    updSess i (fun y => { y with
      frame := none
      phase := if y.phase == .active then .parked else y.phase }) d
  | none => d

/-- The job or the session of a discarded packet. -/
def bridgeVictim (e : BridgeErr) (d : Dev) : Dev :=
  match e with
  | .lostJob uid => completeJob uid stInternal d
  | .lostSession i =>
    match sessAt d i.toNat with
    | some x => if x.cls == 0 then faultSession i.toNat stInternal d else failFrame i.toNat stInternal d
    | none => d
  | _ => d

/-- The victim named exists. -/
def victimOk (d : Dev) : BridgeErr → Bool
  | .lostJob uid => (jobAt d uid).isSome
  | .lostSession i => (sessAt d i.toNat).isSome
  | _ => true

/-- BRIDGE_TRANSFER_ERROR. -/
def execBridgeTransferError (bridge : Fin 3) (e : BridgeErr) (s : State) : Host.Outcome State Fault Refusal :=
  let d := s.dev
  whenDev (victimOk d e && !d.boot.hold) "no such job or session"
    (if e == .corrected then bumpF kBridgeErr 0 16 1 d
     else bridgeVictim e (setF kBridgeErr 30 2 bridge.val (bumpF kBridgeErr 16 8 1 d))) s

end Sys2Proof.Machine
end

