-- ==== Sys2Proof/Machine/Resets.lean ====
section
/-! DEFINITION. Resets (R385, R451 to R459, R478, Table 14-9, Table 20-15). -/

namespace Sys2Proof.Machine

/-! Function Level Reset (R385) and PCI Express hot reset. -/

/-- The ring table, the ring state, the MSI-X table, the page requests and the PRI capability of a function return to reset values; its
descriptors go without completions. -/
def clearFn (fn : Nat) (d : Dev) : Dev :=
  let mine (k : Nat) : Bool := decide (ringBase fn ≤ k) && decide (k < ringBase fn + 0x40 * ringCount fn)
  let other (p : PageReq) : Bool := match p.user with | .ring f _ => f != fn | .desc u => descFn d u != fn | _ => true
  let d := { regResetIf mine d with
    host.rings := tclear d.host.rings (fun k => k / 2048 == fn)
    host.msixOpen := tclear d.host.msixOpen (fun k => k / 4096 == fn)
    host.msixPend := tclear d.host.msixPend (fun k => k / 4096 == fn)
    strm.priFailed := tset false d.strm.priFailed fn false
    strm.priAlloc := tset 0 d.strm.priAlloc fn 0
    strm.pages := d.strm.pages.filter other }
  dropDescs (fun x => x.fn == fn) d

/-- What the FLR of each function ends (Table 14-9), once its rings are gone. -/
def endFn (fn : Nat) (d : Dev) : Dev :=
  match fn with
  | 0 =>
    let d := forEach d.sess.bundles (fun e d => match e.2 with | some b => if b.loading.isSome then dropBundle e.1 b d else d | none => d) d
    mboxStop d
  | 1 => forEach d.sess.sess (fun e d => freeSession e.1 (resetSess e.1 d)) d
  | 2 => forEach d.host.jobs (fun j d => completeJob j.uid stCancelled d) d
  | _ => forEach [0, 1, 2, 3] showPress { d with press := {} }

def flr (fn : Nat) (d : Dev) : Dev := endFn fn (clearFn fn d)

/-- FLR of one function; a cold reset in progress absorbs it (R454). -/
def execFlr (fn : Fin 4) (s : State) : Host.Outcome State Fault Refusal :=
  whenDev true "" (if s.dev.boot.hold then s.dev else flr fn.val s.dev) s

/-- PCIE_HOT_RESET: FLR of all four functions, and the link is down until it has trained again. -/
def execPcieHotReset (s : State) : Host.Outcome State Fault Refusal :=
  let d := s.dev
  whenDev true "" (if d.boot.hold then d else setF kLinkStat 9 1 0 (forEach [0, 1, 2, 3] flr d)) s

/-! Warm device reset (R455, R463). -/

/-- DEVICE_RESET: the completion is written, and the reset is due 1 ms later. -/
def execDeviceReset (uid : Nat) (s : State) : Host.Outcome State Fault Refusal :=
  onDesc uid 0 0x08 (fun x d => dueWarm 2 (d.aclk + 200000) (finishDesc x stSuccess [] d)) s

/-- A register that a warm device reset keeps (Table 20-15). -/
def warmKeeps (k : Nat) : Bool := (decide (0x10000 ≤ k) && decide (k < 0x20000) && k != kTimSrcCfg) || k == kLinkStat

/-- Everything but the items of Table 18-2 that a warm device reset keeps. -/
def warmBase (cause : Nat) (d : Dev) : Dev :=
  let e := { coldBase d with
    boot.hold := false
    time := d.time
    regs := d.regs.filter (fun r => warmKeeps r.1)
    latch := d.latch.filter (fun r => decide (kTimNowLo ≤ r.1 % 0x400000) && decide (r.1 % 0x400000 ≤ kTimNowFrac))
    strm.priFailed := d.strm.priFailed
    strm.priAlloc := d.strm.priAlloc }
  let e := setF kBootStat 30 2 (bootMode d) (setF kBootStat 8 8 (getF d kBootStat 8 8) e)
  setF kResetCause 0 3 cause (setF kResetCause 8 8 (satAdd 0xFF (getF d kResetCause 8 8) 1) e)

/-- A warm device reset: the Crebor links go down with DOWN_NOTICE, then the boot chain runs from stage 0. -/
def warmReset (cause : Nat) (d : Dev) : Dev :=
  let d := forEach (upFrom 0 8) sendNotice d
  drivePins d (warmBase cause d)

/-- WARM_DEVICE_RESET: one is due. -/
def execWarmDeviceReset (s : State) : Host.Outcome State Fault Refusal :=
  let d := s.dev
  match d.boot.warm with
  | some (cause, t) => whenDev (decide (t ≤ d.aclk) && !d.boot.hold) "the reset is not due" (warmReset cause d) s
  | none => whenDev false "no reset is due" d s

/-! Cold reset (R451, R478). -/

/-- RST_N_ASSERT: the device is held in cold reset. -/
def execRstNAssert (s : State) : Host.Outcome State Fault Refusal := whenDev true "" (coldState s.dev) s

/-- Fabric Time at power-up from the calendar clock, truncated to whole nanoseconds (R303). -/
def calendarNs (cal : Nat) : Nat := cal / 32768 * 1000000000 + cal % 32768 * 30517578125 / 1000000

/-- Step 1 of power-up: Fabric Time starts and BOOT_MODE is sampled. -/
def powerUp (mode : Nat) (d : Dev) : Dev :=
  let bad := d.time.calBad
  let d := { d with
    boot.hold := false
    time.ft := if bad then 0 else calendarNs d.time.cal * 65536 }
  setF kBootStat 30 2 mode (if bad then setF kTimStatus 31 1 1 d else d)

/-- COLD_RESET: RST_N is released with BOOT_MODE at `mode`; a thermal trip holds the device until power is removed (R462). -/
def execColdReset (mode : Fin 4) (s : State) : Host.Outcome State Fault Refusal :=
  let d := s.dev
  whenDev (d.boot.hold && !d.pwr.tripped && !d.pwr.auxOff) "the device is not held in reset by RST_N" (powerUp mode.val d) s

/-! Media-core reset (R458). -/

/-- The cause in a slot's exception report. -/
def stopCause (sl : SlotSt) : Nat := match sl.report with | some (w :: _) => w.toNat / 2 ^ 24 | _ => 0

/-- A slot of the core is STOPPED by its watchdog, or the core held ACTIVE work at a firmware restart. -/
def coreResetDue (d : Dev) (c : Nat) : Bool :=
  d.boot.cores.contains c || [2 * c, 2 * c + 1].any (fun k => (slotAt d k).phase == .stopped && stopCause (slotAt d k) == 5)

/-- Everything of a core returns to its state after reset, its core store to zeros. -/
def clearCore (c : Nat) (d : Dev) : Dev :=
  let two (k : Nat) : Bool := k / 2 == c
  zeroMem (0x1000000 * c) 0x1000000 { d with
    core.slots := tclear d.core.slots two
    core.looms := tclear d.core.looms two
    core.units := tclear d.core.units two
    core.sems := tclear d.core.sems (fun k => k / 64 == c)
    core.semovf := tset 0 d.core.semovf c 0
    strm.engines := tclear d.strm.engines (fun k => k / 8 == c)
    strm.quires := tset {} d.strm.quires c {}
    strm.marks := d.strm.marks.filter (fun m => m.slotKey / 2 != c)
    strm.kept := tclear d.strm.kept two
    felt.grants := tclear d.felt.grants two
    boot.cores := d.boot.cores.filter (· != c) }

/-- Stop a slot with cause 6, if it is RUNNING. -/
def resetSlot (k : Nat) (d : Dev) : Dev := if isRunning d k then stopSlot k 6 (headWord d k) 0 d else d

def resetCore (c : Nat) (d : Dev) : Dev := clearCore c (resetSlot (2 * c + 1) (resetSlot (2 * c) d))

/-- MEDIA_CORE_RESET. -/
def execMediaCoreReset (core : Fin 32) (s : State) : Host.Outcome State Fault Refusal :=
  whenDev (coreResetDue s.dev core.val && schedulerUp s.dev) "nothing calls for a reset of the core" (resetCore core.val s.dev) s

/-! Engine resets (R459). -/

/-- Entropy engine: every lease is FAILED with ENGINE_FAULT, both family slots are empty (R247). -/
def resetEe (e : Nat) (d : Dev) : Dev :=
  let d := forEach (engLeases d e) (fun p d =>
    let l := p.2.fail stEngine (0, 0, 0)
    leaseFailed stEngine p.2 (wrMem (feltWindow e p.1) (statusBlock l) (setLease e p.1 l d))) d
  showEng e (updEngSt e (fun x => { x with fam0 := none, fam1 := none }) (regPut (kEnt e 0x10) 0 (regPut (kEnt e 0x08) 0 d)))

/-- The bound ports that satisfy `p`, by number. -/
def portsWhere (d : Dev) (p : LivePort → Bool) : List (Nat × LivePort) :=
  d.live.ports.filterMap (fun e => match e.2 with | some q => if p q then some (e.1, q) else none | none => none)

/-- Motion search engine: unfinished bands go, the sessions of its ports are FAULTED. -/
def resetMse (e : Nat) (d : Dev) : Dev :=
  let d := showMse (regPut (kMse e) 0 d)
  forEach (portsWhere d (fun p => p.cfg.mseEn && p.mse == e)) (fun q d =>
    faultSession q.2.session stEngine (setPort q.1 { q.2 with mseJobs := [] } d)) d

/-- Deckle: the rows of frames that are not finished go, the sessions of its ports are FAULTED. -/
def resetDck (e : Nat) (d : Dev) : Dev :=
  forEach (portsWhere d (fun p => !p.cfg.audio && p.deckle == e)) (fun q d =>
    faultSession q.2.session stEngine (setPort q.1 { q.2 with frames := q.2.frames.map (fun f => { f with done := true }) } d)) d

/-- Press engine: its running command ends with ENGINE_FAULT, its registers but PRS_ENG_ERR are cleared (R410, R423). -/
def resetPrs (e : Nat) (d : Dev) : Dev :=
  let d := match pressQueue d e with
    | c :: cs => failPress e c stEngine 0 (setPressQueue e cs d)
    | [] => d
  showPress e (regPut (kPrs e 4) 0 (regPut (kPrs e 8) 0 d))

def resetEngine (x : EngineId) (d : Dev) : Dev :=
  match x with
  | .ee e => resetEe e.val d
  | .mse e => resetMse e.val d
  | .dck e => resetDck e.val d
  | .prs e => resetPrs e.val d

/-- ENGINE_RESET. -/
def execEngineReset (x : EngineId) (s : State) : Host.Outcome State Fault Refusal :=
  whenDev (schedulerUp s.dev) "the scheduler firmware is not in service" (resetEngine x s.dev) s

end Sys2Proof.Machine
end

