-- ==== Sys2Proof/Machine/Boot.lean ====
section
/-! DEFINITION. The boot chain (R432 to R441, R451), DDR4 training (R388 to R391), the scheduler firmware's service and restart (R427,
R447 to R449), the root watchdog (R463), and DOE with attestation (R363, R442, R443). -/

namespace Sys2Proof.Machine

/-! Flash (R432, R434). -/

def flashRd (d : Dev) (a n : Nat) : List Byte := tgetRun 0xFF d.boot.flash a n

/-- A copy of an object: the bytes its header names; one whose header cannot pass is read no further. -/
def flashObj (d : Dev) (kind copy : Nat) : List Byte :=
  let a := copyBase kind copy
  let h := flashRd d a 64
  let n := bytesNat h 0x18 8
  if bytesNat h 0 4 == kindMagic kind && decide (n ≤ kindLimit kind) then flashRd d a n else h

/-- The reason that a copy is not usable, 0 where it is. -/
def copyReason (d : Dev) (kind copy : Nat) (err : FlashErr) : Nat :=
  if (if copy == 0 then err.a else err.b) then 7 else verifyObj d kind (flashObj d kind copy)

/-- The copy that wins a tie; modes 2 and 3 name none (R433). -/
def tieCopy (d : Dev) : Nat := if bootMode d < 2 then bootMode d else Config.freeNat d.free 0 % 2

/-- The copy to use, or the reason of copy B where both fail (R434). -/
def selectCopy (d : Dev) (kind : Nat) (err : FlashErr) : Except Nat Nat :=
  let a := copyReason d kind 0 err
  let b := copyReason d kind 1 err
  let sa := objSvn (flashObj d kind 0)
  let sb := objSvn (flashObj d kind 1)
  if a == 0 && b == 0 then .ok (if sa == sb then tieCopy d else if sb < sa then 0 else 1)
  else if a == 0 then .ok 0
  else if b == 0 then .ok 1
  else .error b

/-- An object comes into use. -/
def useCopy (kind copy : Nat) (d : Dev) : Dev :=
  setF kBootStat (copyBit kind) 1 copy { d with
    free := d.free + 1
    boot.objs := tset [] d.boot.objs kind (flashObj d kind copy) }

/-- The device waits for an object (Table 17-8). -/
def awaitObj (w reason : Nat) (d : Dev) : Dev := setF kBootStat 0 8 reason (setStage w { d with boot.wait := w })

/-- Show a counter as read (Table 17-17). -/
def showCounter (n : Nat) (d : Dev) : Dev := regPut (kSvn n) (tget 0 d.boot.rpmc n) d

/-! Stage 0. -/

/-- The secret K: the first of the helper data copies that reconstructs it (R440). -/
def findSecret (d : Dev) : Option (List Byte) :=
  [0x0, 0x8000, copyBase 3 0 + 0x8E0, copyBase 3 1 + 0x8E0].findSome? (fun a => Config.pufSecret (flashRd d a 1024))

/-- The ROM with K: C0 is read, the root firmware selected and started; modes 2 and 3 wait for the mailbox. -/
def romRun (k : List Byte) (err : FlashErr) (d : Dev) : Dev :=
  let d := showCounter 0 (setF kBootStat 25 1 1 { d with boot.secret := k })
  if 2 ≤ bootMode d then setStage 5 { d with boot.wait := 5 }
  else
    match selectCopy d 1 err with
    | .ok c => setStage 1 (useCopy 1 c { d with boot.rootAt := d.aclk })
    | .error r => awaitObj 5 r d

/-- A boot stage runs now. -/
def atStage (d : Dev) (n : Nat) : Bool := bootStage d == n && d.boot.wait == 0 && !d.boot.hold

/-- ROM_BOOT: without K the ROM stays in stage 0 and takes no image. -/
def execRomBoot (err : FlashErr) (s : State) : Host.Outcome State Fault Refusal :=
  let d := s.dev
  whenDev (atStage d 0) "stage 0 does not run"
    (match findSecret d with
     | some k => romRun k err d
     | none => { d with boot.wait := 10 }) s

/-! Stage 1. -/

/-- TOP_LOOM_WIDTH from the bypass maps (R74, R438). -/
def setLooms (body : List Byte) (d : Dev) : Dev :=
  forEach (upFrom 0 64) (fun l d =>
    let n := bitCount (slice body (0xA0 + 32 * l) 32)
    regPut (kLoomWidth l) (n * 65536 + (256 - n)) d) d

/-- The seeds of the device's keys (R440). -/
def edSeed (d : Dev) : List Byte := shake256 32 (ascii "UZ960 identity ed25519" ++ d.boot.secret)
def mlSeed (d : Dev) : List Byte := shake256 32 (ascii "UZ960 identity ml-dsa-65" ++ d.boot.secret)

/-- The certificate passes R430 and carries the keys that K yields (R441). -/
def identityOk (d : Dev) : Bool :=
  let cert := certOf (bodyOf (objAt d 3))
  let b := bodyOf cert
  verifyObj d 5 cert == 0 && slice b 16 32 == Config.edPublic (edSeed d) && slice b 48 1952 == Config.mlPublic (mlSeed d)

/-- Every cfg field of the platform record (R437, R438); the ports are enabled at stage 6. -/
def applyPlatform (d : Dev) : Dev :=
  let b := bodyOf (objAt d 4)
  let f (o n : Nat) : Nat := bytesNat b o n
  let d := setF kBootStat 23 1 (f 5 1) (setF kPwrCtl 16 16 (f 0 2) (regPut kMemLive (f 4 1) d))
  let d := { d with ddr.seed := BitVec.ofNat 64 (f 8 8) }
  let d := setF kCrbRoute 16 16 (f 0x12 2) (regPut kCrbDevId (f 0x10 2) d)
  let d := reselect (plainWrite kTimSrcCfg (f 0x14 4) d)
  let d := forEach (upFrom 0 8) (fun p d => portCfgWrite p (f (0x18 + 4 * p) 4 % 2 ^ 31) d) d
  forEach (upFrom 0 (f 7 1)) (fun t d => setF (kCrbTunnel t) 31 1 1 d) d

/-- The platform record is selected and applied. -/
def stage1Platform (err : FlashErr) (d : Dev) : Dev :=
  match selectCopy d 4 err with
  | .ok c =>
    let d := applyPlatform (useCopy 4 c d)
    setStage 2 (setF kBootStat 24 1 (identityOk d).toNat d)
  | .error r => awaitObj 7 r d

/-- The manufacture record is selected and applied, then the platform record. -/
def stage1 (mfg plat : FlashErr) (d : Dev) : Dev :=
  let d := forEach [1, 2, 3] showCounter { d with boot.objs := tset [] d.boot.objs 3 [] }
  match selectCopy d 3 mfg with
  | .ok c =>
    let d := useCopy 3 c d
    stage1Platform plat (setLooms (bodyOf (objAt d 3)) d)
  | .error r => awaitObj 6 r d

/-- ROOT_STAGE1. -/
def execRootStage1 (mfg plat : FlashErr) (s : State) : Host.Outcome State Fault Refusal :=
  whenDev (atStage s.dev 1) "stage 1 does not run" (stage1 mfg plat s.dev) s

/-! Stage 2 (R388 to R391). -/

/-- The rate every channel runs at (R389). -/
def ddrRate (d : Dev) (m : Modules) : Nat := min (bytesNat (bodyOf (objAt d 4)) 2 2) (min (if m.dpc2 then 2933 else 3200) m.rate)

/-- The population is one of Table 15-1. -/
def modulesOk (d : Dev) (m : Modules) : Bool :=
  m.uniform && within 3 7 m.log2 && decide (m.type_ < 3) && [2400, 2666, 2933, 3200].contains (ddrRate d m)

/-- What the stored training values are tagged with: the configuration record's digests and the modules' serial numbers (R390). -/
def trainTag (d : Dev) (m : Modules) : List Byte := objDigest (objAt d 3) ++ objDigest (objAt d 4) ++ m.serials

/-- Every channel shows a state of training. -/
def showTrain (f : Nat → Nat) (d : Dev) : Dev := forEach (upFrom 0 16) (fun c d => setF (kChStat c) 30 2 (f c) d) d

/-- Fast path, or full training, or a failure that leaves DDR4 unused (R391). -/
def train (m : Modules) (d : Dev) : Dev :=
  let tag := trainTag d m
  let ok := modulesOk d m
  let d := if ok then regPut kMemCfg (m.log2 * 2 ^ 24 + m.dpc2.toNat * 2 ^ 23 + m.type_ * 2 ^ 21 + m.x4.toNat * 2 ^ 20 + ddrRate d m) d else d
  if ok && d.boot.tag == tag && m.fastFails.isEmpty then showTrain (fun _ => 2) { d with ddr.trained := true }
  else if ok && m.fails.isEmpty then
    showTrain (fun _ => 1) { d with
      ddr.trained := true
      boot.tag := tag }
  else
    setF kMemErr 0 1 1 (showTrain (fun c => if !ok || m.fails.any (fun x => x.val == c) then 3 else 1) { d with ddr.trained := false })

/-- DDR_TRAINING: the retired-page list is loaded after it. -/
def execDdrTraining (m : Modules) (s : State) : Host.Outcome State Fault Refusal :=
  whenDev (atStage s.dev 2) "stage 2 does not run"
    (let d := train m s.dev
     setStage 3 (showRetired (setF kRetIdx 0 13 d.ddr.retired.length d))) s

/-! Stages 3 to 6. -/

/-- The regions that the root firmware chooses, for the scheduler firmware's code and for itself, are free DDR4, and apart. -/
def rootPlanOk (d : Dev) (region n area areaLen : Nat) : Bool :=
  !d.ddr.trained || (regionFree d false region n && regionFree d false area areaLen && apart region n area areaLen)

/-- The scheduler firmware starts: its body lies in its locked region. -/
def startScheduler (region area areaLen c : Nat) (d : Dev) : Dev :=
  let d := useCopy 2 c d
  let body := bodyOf (objAt d 2)
  let d := if d.ddr.trained then { devWrite region body d with boot.locked := [(region, body.length), (area, areaLen)] } else d
  setStage 4 { d with boot.live := d.aclk }

/-- SCHEDULER_START (stage 3). -/
def execSchedulerStart (err : FlashErr) (region area areaLen : Nat) (s : State) : Host.Outcome State Fault Refusal :=
  let d := s.dev
  match selectCopy d 2 err with
  | .ok c =>
    whenDev (atStage d 3 && rootPlanOk d region (bodyOf (flashObj d 2 c)).length area areaLen) "stage 3 does not run, or the regions are not free"
      (startScheduler region area areaLen c d) s
  | .error r => whenDev (atStage d 3) "stage 3 does not run" (awaitObj 8 r d) s

/-- Raise the counter of a kind to the svn of the booted object whose commit flag is 1 (R439). -/
def commitCounter (kind : Nat) (d : Dev) : Dev :=
  let o := objAt d kind
  let n := if objCommit o then max (counterOf d kind) (objSvn o) else counterOf d kind
  showCounter (kind - 1) { d with boot.rpmc := tset 0 d.boot.rpmc (kind - 1) n }

/-- Stage 6: host functions come into use, counters are committed. -/
def enterService (d : Dev) : Dev := relevel (forEach [1, 2, 3, 4] commitCounter (setStage 6 { d with boot.live := d.aclk }))

/-- A load that the root firmware performs runs on (R448). -/
def loadRuns (d : Dev) (uid : Nat) : Bool := d.sess.bundles.any (fun e => match e.2 with | some b => b.loading == some uid | none => false)

/-- The end of a restart: commands taken and not completed end with INTERNAL_ERROR, but for loads under way and armed descriptors. -/
def endRestart (d : Dev) : Dev :=
  let d := { d with
    boot.restarting := false
    boot.live := d.aclk
    press.waiting := []
    press.engs := [] }
  let d := forEach [0, 1, 2, 3] showPress d
  let d := forEach d.host.jobs (fun j d => completeJob j.uid stInternal d) d
  forEach (d.host.descs.filter (fun x => x.phase != .armed && !loadRuns d x.uid)) (fun x d => finishDesc x stInternal [] d) d

/-- SCHEDULER_READY: the scheduler firmware reports ready, at stage 4 or after a restart. -/
def execSchedulerReady (s : State) : Host.Outcome State Fault Refusal :=
  let d := s.dev
  if bootDone d then whenDev d.boot.restarting "the scheduler firmware is in service" (endRestart d) s
  else whenDev (atStage d 4) "the scheduler firmware does not start" (enterService d) s

/-- The scheduler firmware runs. -/
def schedulerRuns (d : Dev) : Bool := !d.boot.hold && d.boot.wait == 0 && (bootStage d == 4 || schedulerUp d)

/-- SCHEDULER_LIVENESS. -/
def execSchedulerLiveness (s : State) : Host.Outcome State Fault Refusal :=
  whenDev (schedulerRuns s.dev) "the scheduler firmware does not run" { s.dev with boot.live := s.dev.aclk } s

/-! Restart (R447 to R449, R283). -/

/-- The management cores stop: ACTIVE sessions are FAULTED, the slots of jobs stop. -/
def stopService (d : Dev) : Dev :=
  let cores := (upFrom 0 32).filter (fun c => isRunning d (2 * c) || isRunning d (2 * c + 1))
  let d := { d with
    boot.restarting := true
    boot.cores := d.boot.cores ++ cores.filter (fun c => !d.boot.cores.contains c) }
  let d := forEach d.sess.sess (fun e d =>
    match e.2 with
    | some x => if x.phase == .active || x.phase == .draining then faultSession e.1 stInternal d else d
    | none => d) d
  forEach (slotsWhere d (fun sl => sl.fn == 2)) stopQuiet d

/-- Count a restart by its cause (0 liveness, 1 protection violation) and raise FIRMWARE_RESTART; `failed` is that of R449. -/
def noteRestart (cause : Nat) (failed : Bool) (d : Dev) : Dev :=
  let d := setF kBootStat 8 8 (satAdd 0xFF (getF d kBootStat 8 8) 1)
    { d with boot.restarts := d.boot.restarts.filter (fun t => decide (d.aclk < t + 12000000000)) ++ [d.aclk] }
  raiseEvent 0x0F 0 0 [getF d kBootStat 8 8 + failed.toNat * 256 + cause * 512] d

/-- Restart the scheduler firmware; the third time within 60 s its cores stay stopped in stage 9. -/
def restart (cause : Nat) (d : Dev) : Dev :=
  let failed : Bool := decide (2 ≤ (d.boot.restarts.filter (fun t => decide (d.aclk < t + 12000000000))).length)
  let d := noteRestart cause failed d
  let d := if bootDone d then stopService d else { d with boot.live := d.aclk }
  if failed then setStage 9 { d with boot.wait := 9 } else d

/-- SCHEDULER_LIVENESS_TIMEOUT: no report for 500 ms in service; none of readiness within 2 s at stage 4. -/
def execSchedulerLivenessTimeout (s : State) : Host.Outcome State Fault Refusal :=
  let d := s.dev
  if atStage d 4 then whenDev (decide (d.boot.live + 400000000 ≤ d.aclk)) "2 s have not passed" (setStage 9 { d with boot.wait := 9 }) s
  else whenDev (bootDone d && !d.boot.restarting && decide (d.boot.live + 100000000 ≤ d.aclk)) "500 ms have not passed" (restart 0 d) s

/-- PROTECTION_VIOLATION: the store is not performed. -/
def execProtectionViolation (s : State) : Host.Outcome State Fault Refusal :=
  whenDev (schedulerRuns s.dev) "the management cores do not run" (restart 1 (bumpF kProtViol 0 32 1 s.dev)) s

/-! The root watchdog (R463). -/

/-- ROOT_WATCHDOG_REPORT. -/
def execRootWatchdogReport (s : State) : Host.Outcome State Fault Refusal :=
  whenDev (afterRom s.dev && !s.dev.boot.hold) "the root firmware does not run" { s.dev with boot.rootAt := s.dev.aclk } s

/-- ROOT_WATCHDOG_EXPIRY. -/
def execRootWatchdogExpiry (s : State) : Host.Outcome State Fault Refusal :=
  let d := s.dev
  whenDev (afterRom d && !d.boot.hold && decide (d.boot.rootAt + 200000000 ≤ d.aclk)) "1 s has not passed" (warmReset 4 d) s

/-! DOE (R363, R442, R443). -/

/-- A data object: the DOE header and its content. -/
def doeObject (vendor type_ : Nat) (body : List Byte) : List Byte :=
  leBytes 2 vendor ++ leBytes 2 type_ ++ leBytes 4 (ceilDiv (8 + body.length) 4) ++ body

/-- The root firmware answers the mailbox. -/
def doeStep (f : Dev → Dev) (s : State) : Host.Outcome State Fault Refusal :=
  whenDev (afterRom s.dev && !s.dev.boot.hold) "the root firmware does not run" (f s.dev) s

/-- DOE_DISCOVERY: the data object types by index (log entry 33). -/
def execDoeDiscovery (index : BitVec 8) (s : State) : Host.Outcome State Fault Refusal :=
  doeStep (fun d =>
    let r := if index == 0 then leBytes 2 0x0001 ++ [0x00, 0x01] else if index == 1 then leBytes 2 0x4D6C ++ [0x01, 0x00] else leBytes 2 0xFFFF ++ [0x00, 0x00]
    emit (.doeResponse (doeObject 0x0001 0 r)) d) s

/-- DOE_UNKNOWN_TYPE. -/
def execDoeUnknownType (s : State) : Host.Outcome State Fault Refusal := doeStep (emit .doeError) s

/-- A field of the objects in use: zeros where none is. -/
def digestOf (d : Dev) (kind : Nat) : List Byte := if (objAt d kind).isEmpty then List.replicate 32 0 else objDigest (objAt d kind)

/-- The published bundles of an evidence object. -/
def bundleEntries (d : Dev) : List (List Byte) :=
  d.sess.bundles.filterMap (fun e =>
    match e.2 with
    | some b => if b.loading.isNone then some (leBytes 1 e.1 ++ leBytes 1 (bundleKind d b) ++ leBytes 6 0 ++ b.fp) else none
    | none => none)

/-- The evidence body before its signature block (Table 17-11). -/
def evidenceBody (d : Dev) (cert : Bool) (nonce : List Byte) : List Byte :=
  let id : Bool := getF d kBootStat 24 1 == 1
  let es := bundleEntries d
  leBytes 4 0x56455A55 ++ leBytes 2 1 ++ leBytes 1 (if id then stSuccess else stInternal) ++
  leBytes 1 ((debugEn d).toNat + cert.toNat * 2 + id.toNat * 4 + d.ddr.trained.toNat * 8) ++ nonce ++ leBytes 8 (ownSerial d) ++ leBytes 8 (nowNs d) ++
  leBytes 1 (timeState d) ++ leBytes 1 (bootMode d) ++ leBytes 2 es.length ++ leBytes 4 0 ++ digestOf d 1 ++
  [1, 2, 3, 4].flatMap (fun k => leBytes 4 (objSvn (objAt d k))) ++ digestOf d 2 ++ digestOf d 3 ++ digestOf d 4 ++
  [0, 1, 2, 3].flatMap (fun n => leBytes 4 (tget 0 d.boot.rpmc n)) ++ es.flatten ++ (if cert then certOf (bodyOf (objAt d 3)) else [])

/-- A signature block with the device keys (R429). -/
def deviceSign (d : Dev) (body : List Byte) : List Byte :=
  let m := tbs 7 body
  leBytes 4 0x42535A55 ++ leBytes 2 1 ++ leBytes 2 0 ++ Config.edPublic (edSeed d) ++ Config.mlPublic (mlSeed d) ++ Config.edSign (edSeed d) m ++
  Config.mlSign (mlSeed d) m ++ leBytes 11 0

/-- The request keeps R442. -/
def evidenceOk (b : List Byte) : Bool := b.length == 36 && bytesNat b 0 1 == 1 && decide (bytesNat b 1 1 < 2) && bytesNat b 2 2 == 0

/-- The evidence object's body, or the 16-byte answer to a request that breaks the rules. -/
def evidence (d : Dev) (b : List Byte) : List Byte :=
  if !evidenceOk b then leBytes 4 0x56455A55 ++ leBytes 2 1 ++ leBytes 1 stInvalid ++ leBytes 9 0
  else
    let body := evidenceBody d (bytesNat b 1 1 == 1) (slice b 4 32)
    if getF d kBootStat 24 1 == 1 then body ++ deviceSign d body else body

/-- DOE_EVIDENCE_REQUEST. -/
def execDoeEvidenceRequest (body : List Byte) (s : State) : Host.Outcome State Fault Refusal :=
  doeStep (fun d => emit (.doeResponse (doeObject 0x4D6C 1 (evidence d body))) d) s

end Sys2Proof.Machine
end

