-- ==== Sys2Proof/Machine/Ctl.lean ====
section
/-! DEFINITION. CTL.RD and CTL.WR over the per-slot control registers (R158, Table 06-12). -/

namespace Sys2Proof.Machine

/-- An index that Table 06-12 lists. -/
def ctlIdxOk (i : Nat) : Bool :=
  decide (i ≤ 6) || (decide (8 ≤ i) && decide (i ≤ 0xC)) || (decide (0x100 ≤ i) && decide (i ≤ 0x141))

/-- NUMCTL as read (Table 02-3). -/
def numctlVal (sl : SlotSt) : Nat := sl.flags.toNat * 256 + sl.rnd.toNat

/-- SLOT_INFO (Table 06-13). -/
def slotInfo (k : Nat) (sl : SlotSt) : Nat :=
  sl.live.toNat * 2 ^ 31 + sl.ident.toNat * 256 + (k % 2) * 32 + k / 2

/-- ACLK since launch (Table 06-12). -/
def slotCycles (d : Dev) (k : Nat) : Nat := d.aclk - (slotAt d k).launchAclk

/-- What CTL.RD returns, before any latch it sets. -/
def ctlRead (d : Dev) (k i : Nat) : Nat :=
  let sl := slotAt d k
  match i with
  | 0x000 => numctlVal sl
  | 0x001 => slotInfo k sl
  | 0x002 => regVal d (kLoomWidth (2 * (k / 2)))
  | 0x003 => regVal d (kLoomWidth (2 * (k / 2) + 1))
  | 0x004 => nowNs d % 2 ^ 32
  | 0x005 => sl.ftHi.toNat
  | 0x006 => sl.ftFrac.toNat
  | 0x008 => (tget 0 d.core.semovf (k / 2)).toNat % 2 ^ 32
  | 0x009 => (tget 0 d.core.semovf (k / 2)).toNat / 2 ^ 32
  | 0x00A => slotCycles d k % 2 ^ 32
  | 0x00B => sl.cyclesHi.toNat
  | 0x00C => winBase d k
  | 0x140 => sl.winStat
  | 0x141 => sl.winSkip.toNat
  | _ => monRead (monAt d k ((i - 0x100) / 8)) ((i - 0x100) % 8)

/-- The latches a read sets, and the settling of a monitor that is read (R298, R99). -/
def ctlLatch (k i : Nat) (d : Dev) : Dev :=
  let ns := nowNs d
  let fr := d.time.ft % 65536
  let cy := slotCycles d k
  if i == 0x004 then
    updSlot k (fun sl => { sl with ftHi := BitVec.ofNat 32 (ns / 2 ^ 32), ftFrac := BitVec.ofNat 16 fr }) d
  else if i == 0x00A then updSlot k (fun sl => { sl with cyclesHi := BitVec.ofNat 32 (cy / 2 ^ 32) }) d
  else d

/-- A monitor access first closes the windows that are due (R99). -/
def ctlSettle (k i : Nat) (d : Dev) : Dev :=
  if 0x100 ≤ i && i < 0x140 then monSettled k ((i - 0x100) / 8) d else d

/-- CTL.RD: s[rd] ← control register. -/
def execCtlRd (x : Site) (f : FmtC) (s : State) : Host.Outcome State Fault Refusal :=
  issue x f.g (wordC 0x3C f) (f.rsvd == 0 && ctlIdxOk f.idx.toNat)
    (fun d =>
      let k := siteKey x
      let d := ctlSettle k f.idx.toNat d
      let v := ctlRead d k f.idx.toNat
      .done (updSlot k (setS f.r (BitVec.ofNat 32 v)) (ctlLatch k f.idx.toNat d))) s

/-- Clear the flags of NUMCTL whose bits are written 1 (Table 02-3). -/
def clearFlags (v : Nat) (f : Flags) : Flags :=
  { invalid := f.invalid && !bitAt v 11, inexact := f.inexact && !bitAt v 10,
    underflow := f.underflow && !bitAt v 9, overflow := f.overflow && !bitAt v 8 }

/-- SEMOVF bits are cleared inside the slot's mask only (R155). -/
def clearSemovf (k : Nat) (bits : W64) (d : Dev) : Dev :=
  let m := (slotAt d k).semMask
  { d with core.semovf := tmod 0 d.core.semovf (k / 2) (fun b => b &&& ~~~(bits &&& m)) }

/-- What CTL.WR does under the access code of each field. -/
def ctlWrite (k i v : Nat) (d : Dev) : Dev :=
  match i with
  | 0x000 => updSlot k (fun sl => { sl with flags := clearFlags v sl.flags }) d
  | 0x008 => clearSemovf k (BitVec.ofNat 64 v) d
  | 0x009 => clearSemovf k (BitVec.ofNat 64 (v * 2 ^ 32)) d
  | 0x140 => updSlot k (fun sl => { sl with winStat := if bitAt v 0 then putFld sl.winStat 0 1 0 else sl.winStat }) d
  | _ =>
    if 0x100 ≤ i && i < 0x140 then
      let m := (i - 0x100) / 8
      match (i - 0x100) % 8 with
      | 0 => monCfgWrite k m v d
      | 1 => updMon k m (fun mn => { mn with satThr := fld v 16 16, vanThr := fld v 0 16 }) (monSettled k m d)
      | 2 => monCtlWrite k m v d
      | _ => d
    else d

/-- A MON_CFG write with win_exp outside 10 to 24 is an illegal instruction (Table 04-5). -/
def ctlWriteOk (i v : Nat) : Bool :=
  if 0x100 ≤ i && i < 0x140 && (i - 0x100) % 8 == 0 then decide (10 ≤ fld v 0 5) && decide (fld v 0 5 ≤ 24) else true

/-- The shared issue of CTL.WR and of its monitor rows. -/
def ctlWrIssue (x : Site) (f : FmtC) (s : State) : Host.Outcome State Fault Refusal :=
  issue x f.g (wordC 0x3D f) (f.rsvd == 0 && ctlIdxOk f.idx.toNat)
    (fun d =>
      let k := siteKey x
      let v := (getS (slotAt d k) f.r).toNat
      if ctlWriteOk f.idx.toNat v then .done (ctlWrite k f.idx.toNat v d) else .exc 1 0) s

/-- CTL.WR. -/
def execCtlWr (x : Site) (f : FmtC) (s : State) : Host.Outcome State Fault Refusal := ctlWrIssue x f s

/-- MON_CFG_WRITE: a CTL.WR of MON_CFG (R99). -/
def execMonCfgWrite (x : Site) (f : FmtCMon) (s : State) : Host.Outcome State Fault Refusal := ctlWrIssue x (monToC f 0) s

/-- MON_CLOSE: a CTL.WR of MON_CTL, whose close bit evaluates and resets the partial window (R99). -/
def execMonClose (x : Site) (f : FmtCMon) (s : State) : Host.Outcome State Fault Refusal := ctlWrIssue x (monToC f 2) s

/-- MON_CLEAR: a CTL.WR of MON_CTL, whose clear bit resets the window counts (R103). -/
def execMonClear (x : Site) (f : FmtCMon) (s : State) : Host.Outcome State Fault Refusal := ctlWrIssue x (monToC f 2) s

end Sys2Proof.Machine
end

