-- ==== Sys2Proof/Machine/Scalar.lean ====
section
/-! DEFINITION. The scalar, predicate and address-register instructions (R143, Table 06-3). -/

namespace Sys2Proof.Machine

/-- s[rd] ← s[rs1] op s[rs2]. -/
def aluR (op : BitVec 8) (fn : W32 → W32 → W32) (x : Site) (f : FmtR) (s : State) : Host.Outcome State Fault Refusal :=
  issue x f.g (wordR op f) (f.rsvd == 0)
    (fun d =>
      let sl := slotAt d (siteKey x)
      .done (updSlot (siteKey x) (setS f.rd (fn (getS sl f.rs1) (getS sl f.rs2))) d)) s

/-- s[rd] ← s[rs1] op imm. -/
def aluI (op : BitVec 8) (fn : W32 → W32 → W32) (x : Site) (f : FmtI) (s : State) : Host.Outcome State Fault Refusal :=
  issue x f.g (wordI op f) (f.rsvd == 0)
    (fun d =>
      let sl := slotAt d (siteKey x)
      .done (updSlot (siteKey x) (setS f.rd (fn (getS sl f.rs1) f.imm)) d)) s

/-- A 5-bit field that names a predicate has its high bits 0 (R142). -/
def namesP (r : BitVec 5) : Bool := r.toNat < 8

/-- A 5-bit field that names an a register has its high bit 0 (R142). -/
def namesA (r : BitVec 5) : Bool := r.toNat < 16

/-- p[rd] ← comparison of s[rs1] with s[rs2]. -/
def cmpR (op : BitVec 8) (fn : W32 → W32 → Bool) (x : Site) (f : FmtR) (s : State) : Host.Outcome State Fault Refusal :=
  issue x f.g (wordR op f) (f.rsvd == 0 && namesP f.rd)
    (fun d =>
      let sl := slotAt d (siteKey x)
      .done (updSlot (siteKey x) (setP f.rd.toNat (fn (getS sl f.rs1) (getS sl f.rs2))) d)) s

/-- p[rd] ← a function of p[rs1] and p[rs2]. -/
def predR (op : BitVec 8) (two : Bool) (fn : Bool → Bool → Bool) (x : Site) (f : FmtR) (s : State) :
    Host.Outcome State Fault Refusal :=
  issue x f.g (wordR op f) (f.rsvd == 0 && namesP f.rd && namesP f.rs1 && (!two || namesP f.rs2))
    (fun d =>
      let sl := slotAt d (siteKey x)
      .done (updSlot (siteKey x) (setP f.rd.toNat (fn (getP sl f.rs1.toNat) (getP sl f.rs2.toNat))) d)) s

/-- ADD: wraps modulo 2^32. -/
def execAdd (x : Site) (f : FmtR) (s : State) : Host.Outcome State Fault Refusal :=
  aluR 0x01 (fun a b => a + b) x f s

/-- SUB: wraps modulo 2^32. -/
def execSub (x : Site) (f : FmtR) (s : State) : Host.Outcome State Fault Refusal :=
  aluR 0x02 (fun a b => a - b) x f s

/-- MUL: the low 32 bits of the product. -/
def execMul (x : Site) (f : FmtR) (s : State) : Host.Outcome State Fault Refusal :=
  aluR 0x03 (fun a b => a * b) x f s

/-- MULHS: the high 32 bits of the signed product. -/
def execMulhs (x : Site) (f : FmtR) (s : State) : Host.Outcome State Fault Refusal :=
  aluR 0x04 (fun a b => BitVec.ofInt 32 ((a.toInt * b.toInt) / 2 ^ 32)) x f s

/-- AND: bitwise. -/
def execAnd (x : Site) (f : FmtR) (s : State) : Host.Outcome State Fault Refusal :=
  aluR 0x05 (fun a b => a &&& b) x f s

/-- OR: bitwise. -/
def execOr (x : Site) (f : FmtR) (s : State) : Host.Outcome State Fault Refusal :=
  aluR 0x06 (fun a b => a ||| b) x f s

/-- XOR: bitwise. -/
def execXor (x : Site) (f : FmtR) (s : State) : Host.Outcome State Fault Refusal :=
  aluR 0x07 (fun a b => a ^^^ b) x f s

/-- SHL: shifts by s[rs2] & 31. -/
def execShl (x : Site) (f : FmtR) (s : State) : Host.Outcome State Fault Refusal :=
  aluR 0x08 (fun a b => a <<< (b &&& 31).toNat) x f s

/-- SHR: shifts by s[rs2] & 31. -/
def execShr (x : Site) (f : FmtR) (s : State) : Host.Outcome State Fault Refusal :=
  aluR 0x09 (fun a b => a >>> (b &&& 31).toNat) x f s

/-- SRA: shifts by s[rs2] & 31. -/
def execSra (x : Site) (f : FmtR) (s : State) : Host.Outcome State Fault Refusal :=
  aluR 0x0A (fun a b => a.sshiftRight (b &&& 31).toNat) x f s

/-- MIN: signed. -/
def execMin (x : Site) (f : FmtR) (s : State) : Host.Outcome State Fault Refusal :=
  aluR 0x0B (fun a b => if a.slt b then a else b) x f s

/-- MAX: signed. -/
def execMax (x : Site) (f : FmtR) (s : State) : Host.Outcome State Fault Refusal :=
  aluR 0x0C (fun a b => if a.slt b then b else a) x f s

/-- ADDI. -/
def execAddi (x : Site) (f : FmtI) (s : State) : Host.Outcome State Fault Refusal :=
  aluI 0x10 (fun a b => a + b) x f s

/-- ANDI. -/
def execAndi (x : Site) (f : FmtI) (s : State) : Host.Outcome State Fault Refusal :=
  aluI 0x11 (fun a b => a &&& b) x f s

/-- ORI. -/
def execOri (x : Site) (f : FmtI) (s : State) : Host.Outcome State Fault Refusal :=
  aluI 0x12 (fun a b => a ||| b) x f s

/-- XORI. -/
def execXori (x : Site) (f : FmtI) (s : State) : Host.Outcome State Fault Refusal :=
  aluI 0x13 (fun a b => a ^^^ b) x f s

/-- SHLI. -/
def execShli (x : Site) (f : FmtI) (s : State) : Host.Outcome State Fault Refusal :=
  aluI 0x14 (fun a b => a <<< (b &&& 31).toNat) x f s

/-- SHRI. -/
def execShri (x : Site) (f : FmtI) (s : State) : Host.Outcome State Fault Refusal :=
  aluI 0x15 (fun a b => a >>> (b &&& 31).toNat) x f s

/-- SRAI. -/
def execSrai (x : Site) (f : FmtI) (s : State) : Host.Outcome State Fault Refusal :=
  aluI 0x16 (fun a b => a.sshiftRight (b &&& 31).toNat) x f s

/-- MOVI: s[rd] ← imm; rs1 must be 0. -/
def execMovi (x : Site) (f : FmtI) (s : State) : Host.Outcome State Fault Refusal :=
  issue x f.g (wordI 0x17 f) (f.rsvd == 0 && f.rs1 == 0)
    (fun d => .done (updSlot (siteKey x) (setS f.rd f.imm) d)) s

/-- CMP.EQ. -/
def execCmpEq (x : Site) (f : FmtR) (s : State) : Host.Outcome State Fault Refusal :=
  cmpR 0x18 (fun a b => a == b) x f s

/-- CMP.NE. -/
def execCmpNe (x : Site) (f : FmtR) (s : State) : Host.Outcome State Fault Refusal :=
  cmpR 0x19 (fun a b => a != b) x f s

/-- CMP.LT. -/
def execCmpLt (x : Site) (f : FmtR) (s : State) : Host.Outcome State Fault Refusal :=
  cmpR 0x1A (fun a b => a.slt b) x f s

/-- CMP.LTU. -/
def execCmpLtu (x : Site) (f : FmtR) (s : State) : Host.Outcome State Fault Refusal :=
  cmpR 0x1B (fun a b => a.ult b) x f s

/-- CMP.LE. -/
def execCmpLe (x : Site) (f : FmtR) (s : State) : Host.Outcome State Fault Refusal :=
  cmpR 0x1C (fun a b => a.sle b) x f s

/-- CMP.LEU. -/
def execCmpLeu (x : Site) (f : FmtR) (s : State) : Host.Outcome State Fault Refusal :=
  cmpR 0x1D (fun a b => a.ule b) x f s

/-- PAND. -/
def execPand (x : Site) (f : FmtR) (s : State) : Host.Outcome State Fault Refusal :=
  predR 0x1E true (fun a b => a && b) x f s

/-- POR. -/
def execPor (x : Site) (f : FmtR) (s : State) : Host.Outcome State Fault Refusal :=
  predR 0x1F true (fun a b => a || b) x f s

/-- PNOT. -/
def execPnot (x : Site) (f : FmtR) (s : State) : Host.Outcome State Fault Refusal :=
  predR 0x20 false (fun a _ => !a) x f s

/-- AADDI: a[rd] ← a[rs1] + sign-extended imm, modulo 2^48. -/
def execAaddi (x : Site) (f : FmtI) (s : State) : Host.Outcome State Fault Refusal :=
  issue x f.g (wordI 0x24 f) (f.rsvd == 0 && namesA f.rd && namesA f.rs1)
    (fun d =>
      let sl := slotAt d (siteKey x)
      .done (updSlot (siteKey x) (setA f.rd.toNat (getA sl f.rs1.toNat + f.imm.signExtend 48)) d)) s

/-- AADDS: a[rd] ← a[rs1] + sign-extended s[rs2], modulo 2^48. -/
def execAadds (x : Site) (f : FmtR) (s : State) : Host.Outcome State Fault Refusal :=
  issue x f.g (wordR 0x25 f) (f.rsvd == 0 && namesA f.rd && namesA f.rs1)
    (fun d =>
      let sl := slotAt d (siteKey x)
      .done (updSlot (siteKey x) (setA f.rd.toNat (getA sl f.rs1.toNat + (getS sl f.rs2).signExtend 48)) d)) s

/-- AMOVI: a[rd] ← imm, zero-extended; rs1 must be 0. -/
def execAmovi (x : Site) (f : FmtI) (s : State) : Host.Outcome State Fault Refusal :=
  issue x f.g (wordI 0x26 f) (f.rsvd == 0 && namesA f.rd && f.rs1 == 0)
    (fun d => .done (updSlot (siteKey x) (setA f.rd.toNat (f.imm.zeroExtend 48)) d)) s

/-- AHI: a[rd][47:32] ← imm[15:0]; imm[31:16] and rs1 must be 0. -/
def execAhi (x : Site) (f : FmtI) (s : State) : Host.Outcome State Fault Refusal :=
  issue x f.g (wordI 0x27 f) (f.rsvd == 0 && namesA f.rd && f.rs1 == 0 && f.imm.extractLsb' 16 16 == 0)
    (fun d =>
      let sl := slotAt d (siteKey x)
      .done (updSlot (siteKey x)
        (setA f.rd.toNat (f.imm.extractLsb' 0 16 ++ (getA sl f.rd.toNat).extractLsb' 0 32)) d)) s

/-- AMOVS: s[rd] ← a[rs1][31:0]. -/
def execAmovs (x : Site) (f : FmtR) (s : State) : Host.Outcome State Fault Refusal :=
  issue x f.g (wordR 0x28 f) (f.rsvd == 0 && namesA f.rs1)
    (fun d =>
      let sl := slotAt d (siteKey x)
      .done (updSlot (siteKey x) (setS f.rd ((getA sl f.rs1.toNat).extractLsb' 0 32)) d)) s

/-! Scalar loads and stores (R137, R138, R144, R150). -/

/-- The offset a[ra] + imm, modulo 2^48. -/
def memOffset (d : Dev) (x : Site) (f : FmtM) : Nat :=
  (getA (slotAt d (siteKey x)) f.ra.toNat + f.imm.signExtend 48).toNat

/-- The exception of a scalar access of n bytes at an offset: outside the window, or a store into the code region, gives
the bound exception, which precedes the misaligned access (R137, R138, R144, R159). -/
def accessExc (sl : SlotSt) (a n : Nat) (store : Bool) : Option Nat :=
  if decide (sl.winSize < a + n) || (store && decide (a < sl.codeSize)) then some 2
  else if a % n != 0 then some 3 else none

/-- The bytes an LD or ST size names; 0 for a size that is not listed (Table 06-3, R142). -/
def ldBytes (size : BitVec 3) : Nat :=
  if size == 0 || size == 1 then 1 else if size == 2 || size == 3 then 2 else if size == 4 then 4 else 0

def stBytes (size : BitVec 3) : Nat := if size == 0 then 1 else if size == 2 then 2 else if size == 4 then 4 else 0

/-- The value LD writes: sizes 0 and 2 are signed. -/
def ldValue (size : BitVec 3) (v : Nat) : W32 :=
  if size == 0 then (BitVec.ofNat 8 v).signExtend 32
  else if size == 2 then (BitVec.ofNat 16 v).signExtend 32 else BitVec.ofNat 32 v

/-- A scalar load of n bytes. -/
def loadBody (x : Site) (f : FmtM) (n : Nat) (wr : Nat → SlotSt → SlotSt) (d : Dev) : Issued :=
  let k := siteKey x
  let a := memOffset d x f
  match accessExc (slotAt d k) a n false with
  | some c => .exc c a
  | none => .done (updSlot k (wr (unitNat d (winBase d k + a) n)) (drawFree d))

/-- A scalar store of the low n bytes of a value. -/
def storeBody (x : Site) (f : FmtM) (n v : Nat) (d : Dev) : Issued :=
  let k := siteKey x
  let a := memOffset d x f
  match accessExc (slotAt d k) a n true with
  | some c => .exc c a
  | none => .done (wrMem (winBase d k + a) (leBytes n v) d)

/-- LD. -/
def execLd (x : Site) (f : FmtM) (s : State) : Host.Outcome State Fault Refusal :=
  issue x f.g (wordM 0x30 f) (f.rsvd == 0 && ldBytes f.size != 0)
    (loadBody x f (ldBytes f.size) (fun v => setS f.r (ldValue f.size v))) s

/-- ST. -/
def execSt (x : Site) (f : FmtM) (s : State) : Host.Outcome State Fault Refusal :=
  issue x f.g (wordM 0x31 f) (f.rsvd == 0 && stBytes f.size != 0)
    (fun d => storeBody x f (stBytes f.size) (getS (slotAt d (siteKey x)) f.r).toNat d) s

/-- LDA: bits [47:0] of the 8 bytes; size must be 6. -/
def execLda (x : Site) (f : FmtM) (s : State) : Host.Outcome State Fault Refusal :=
  issue x f.g (wordM 0x32 f) (f.rsvd == 0 && f.size == 6 && namesA f.r)
    (loadBody x f 8 (fun v => setA f.r.toNat (BitVec.ofNat 48 v))) s

/-- STA: 8 bytes, zero-extended; size must be 6. -/
def execSta (x : Site) (f : FmtM) (s : State) : Host.Outcome State Fault Refusal :=
  issue x f.g (wordM 0x33 f) (f.rsvd == 0 && f.size == 6 && namesA f.r)
    (fun d => storeBody x f 8 (getA (slotAt d (siteKey x)) f.r.toNat).toNat d) s

/-! Branches (R143, R144). -/

/-- A taken branch to an offset: outside the code region the bound exception, then the misaligned access. -/
def branchTo (k : Nat) (t : Int) (d : Dev) : Issued :=
  if t < 0 || ((slotAt d k).codeSize : Int) ≤ t then .exc 2 (codeOf 48 t)
  else if t % 8 != 0 then .exc 3 (codeOf 48 t) else .jump d (BitVec.ofInt 24 t)

/-- pc + 8 × imm, counted from the branch itself. -/
def branchTarget (d : Dev) (k : Nat) (f : FmtB) : Int := (slotAt d k).pc.toNat + 8 * f.imm.toInt

/-- B. -/
def execB (x : Site) (f : FmtB) (s : State) : Host.Outcome State Fault Refusal :=
  issue x f.g (wordB 0x38 f) (f.rsvd == 0)
    (fun d => branchTo (siteKey x) (branchTarget d (siteKey x) f) d) s

/-- BAL: s[rd] ← pc + 8, then the branch. A branch that raises an exception writes nothing (R159). -/
def execBal (x : Site) (f : FmtB) (s : State) : Host.Outcome State Fault Refusal :=
  issue x f.g (wordB 0x39 f) (f.rsvd == 0)
    (fun d =>
      let k := siteKey x
      branchTo k (branchTarget d k f) (updSlot k (setS f.r ((nextPc d k).zeroExtend 32)) d)) s

/-- BR: pc ← s[rs]; imm must be 0. -/
def execBr (x : Site) (f : FmtB) (s : State) : Host.Outcome State Fault Refusal :=
  issue x f.g (wordB 0x3A f) (f.rsvd == 0 && f.imm == 0)
    (fun d => branchTo (siteKey x) (getS (slotAt d (siteKey x)) f.r).toNat d) s

/-- NOP. -/
def execNop (x : Site) (f : FmtN) (s : State) : Host.Outcome State Fault Refusal :=
  issue x f.g (wordN 0x7E f) (f.rsvd == 0) (fun d => .done d) s

end Sys2Proof.Machine
end

