-- ==== Sys2Proof/Machine/Vector.lean ====
section
/-! DEFINITION. The vector unit (R44 to R50, R130, R147, R148): VEC.* and VEC.POOL, and the completion of a unit
operation. -/

namespace Sys2Proof.Machine

/-! Elements (Table 06-4). -/

def vtBytes (t : Nat) : Nat :=
  match t with
  | 0 | 3 => 4
  | 1 | 2 => 2
  | _ => 1

/-- The exact value of an element. -/
def vtVal (t c : Nat) : XR :=
  match t with
  | 0 => val32 c
  | 1 => valBf16 c
  | 2 => val16 c
  | 3 => xrInt (signedOf 32 c)
  | 4 => xrInt (signedOf 8 c)
  | _ => xrInt (c % 256 : Nat)

/-- One rounding into an element type (R148). -/
def vtRound (md : Mode) (t : Nat) (v : XR) : NumM Nat :=
  match t with
  | 0 => do let r ← round32 md v; pure (code32 r)
  | 1 => do let r ← roundBf16 md v; pure (codeBf16 r)
  | 2 => do let r ← round16 md v; pure (code16 r)
  | 3 => do let r ← cvtInt md v (-2147483648) 2147483647; pure (codeOf 32 r)
  | 4 => do let r ← cvtInt md v (-128) 127; pure (codeOf 8 r)
  | _ => do let r ← cvtInt md v 0 255; pure (codeOf 8 r)

/-- An operand of a floating-point arithmetic or elementary function: INT32 converts with round32 (R148). -/
def vtOperand (md : Mode) (t : Nat) (v : XR) : NumM XR := if t == 3 then round32 md v else pure v

/-- An element function on exact operands (Table 06-9). Negation and absolute value change only the sign and raise no flag but
for a conversion into type_d (R44; log entry 78); a NaN that VEC.SEL copies is canonical and raises INVALID (R36). -/
def vecScalar (md : Mode) (f : VecFn) (ta tb tc td : Nat) (a b c : XR) : NumM Nat := do
  let fp2 (op : XR → XR → XR) : NumM Nat := do
    let x ← vtOperand md ta a
    let y ← vtOperand md tb b
    vtRound md td (op x y)
  let cmp (r : Bool) : NumM Nat := pure r.toNat
  let elem (op : XR → NumM XR) : NumM Nat := do
    let x ← vtOperand md ta a
    let r ← op x
    if td == 0 then pure (code32 r) else vtRound md td r
  let allInt : Bool := ta == 3 && tb == 3 && td == 3
  match f with
  | .add => if allInt then do let r ← sat32 (xrToInt a + xrToInt b); pure (codeOf 32 r) else fp2 xrAdd
  | .sub => if allInt then do let r ← sat32 (xrToInt a - xrToInt b); pure (codeOf 32 r) else fp2 xrSub
  | .mul => fp2 xrMul
  | .fma => do
    let x ← vtOperand md ta a
    let y ← vtOperand md tb b
    let z ← vtOperand md tc c
    vtRound md td (xrAdd (xrMul x y) z)
  | .neg => vtRound md td (xrNeg a)
  | .abs => vtRound md td (xrAbs a)
  | .min =>
    if allInt then pure (codeOf 32 (min (xrToInt a) (xrToInt b)))
    else do
      let x ← vtOperand md ta a
      let y ← vtOperand md tb b
      let r ← numMin x y
      vtRound md td r
  | .max =>
    if allInt then pure (codeOf 32 (max (xrToInt a) (xrToInt b)))
    else do
      let x ← vtOperand md ta a
      let y ← vtOperand md tb b
      let r ← numMax x y
      vtRound md td r
  | .ceq => cmp (xrEq a b)
  | .cne => cmp (!xrEq a b)
  | .clt => cmp (xrLt a b)
  | .cle => cmp (xrLe a b)
  | .sel => if xrIsZero c then vtRound md td b else vtRound md td a
  | .cvt => vtRound md td a
  | .rcp => elem (elemRecip md)
  | .rsq => elem (elemRsqrt md)
  | .exp2 => elem (elemExp2 md)
  | .log2 => elem (elemLog2 md)
  | .tanh => elem (elemTanh md)
  | .erf => elem (elemErf md)
  | .gdn => pure 0
  | .igdn => pure 0

def isGdn (f : VecFn) : Bool := f == .gdn || f == .igdn

/-- The function has an operand b, and c. -/
def usesB (f : VecFn) : Bool :=
  match f with
  | .add | .sub | .mul | .fma | .min | .max | .ceq | .cne | .clt | .cle | .sel => true
  | _ => false

def usesC (f : VecFn) : Bool := f == .fma || f == .sel

def isCmp (f : VecFn) : Bool := f == .ceq || f == .cne || f == .clt || f == .cle

/-- Element i of operand a, b or c: the type it is taken as, and its exact value. An immediate is binary32, and an
immediate c of VEC.SEL is INT32 (R147). -/
def opA (d : Dev) (base : Nat) (b : VecBlk) (i : Nat) : Nat × XR :=
  (b.typeA, vtVal b.typeA (unitNat d (base + b.srcA + i * vtBytes b.typeA) (vtBytes b.typeA)))

def opB (d : Dev) (base : Nat) (b : VecBlk) (i : Nat) : Nat × XR :=
  if b.bImm then (0, val32 b.immB)
  else (b.typeB, vtVal b.typeB (unitNat d (base + b.srcB + i / 2 ^ b.repB * vtBytes b.typeB) (vtBytes b.typeB)))

def opC (d : Dev) (base : Nat) (f : VecFn) (b : VecBlk) (i : Nat) : Nat × XR :=
  if b.cImm then (if f == .sel then (3, vtVal 3 b.immC) else (0, val32 b.immC))
  else (b.typeC, vtVal b.typeC (unitNat d (base + b.srcC + i / 2 ^ b.repC * vtBytes b.typeC) (vtBytes b.typeC)))

/-- One element: read, compute, write. -/
def vecElem (k base : Nat) (md : Mode) (f : VecFn) (b : VecBlk) (i : Nat) (d : Dev) : Dev :=
  let a := opA d base b i
  let y := if usesB f then opB d base b i else (0, .fin false 0 1)
  let z := if usesC f then opC d base f b i else (0, .fin false 0 1)
  let (r, fl) := runNum (vecScalar md f a.1 y.1 z.1 b.typeD a.2 y.2 z.2)
  raiseSlot k fl (wrMem (base + b.dst + i * vtBytes b.typeD) (leBytes (vtBytes b.typeD) r) d)

/-- Channels of GDN and IGDN. -/
def gdnC (b : VecBlk) : Nat := fld b.immB 0 16

/-- One position of GDN or IGDN (R50). -/
def gdnPos (k base : Nat) (md : Mode) (inv : Bool) (b : VecBlk) (i : Nat) (d : Dev) : Dev :=
  let c := gdnC b
  let xs := readB32 d (base + b.srcA + 4 * c * i) c
  let gamma := (upFrom 0 c).map (fun r => readB32 d (base + b.srcB + 4 * c * r) c)
  let (ys, fl) := runNum (gdnAll md inv xs xs (readB32 d (base + b.srcC) c) gamma)
  raiseSlot k fl (wrMem (base + b.dst + 4 * c * i) (ys.flatMap (fun y => leBytes 4 (code32 y))) d)

def runVec (k base : Nat) (md : Mode) (f : VecFn) (b : VecBlk) (d : Dev) : Dev :=
  forEach (upFrom 0 b.count) (fun i d =>
    if isGdn f then gdnPos k base md (f == .igdn) b i d else vecElem k base md f b i d) d

/-! Pooling (R130). -/

/-- The maximum of the values that take part: integer order for codes, R45 for floating point. -/
def poolMax (code : Bool) : List XR → NumM XR
  | [] => pure .nan
  | v :: vs => do
    let m ← vs.foldlM (fun m x => if code then pure (if xrLt m x then x else m) else numMax m x) v
    passNan m

/-- Sum with one rounding at each step. -/
def poolSum (md : Mode) (vs : List XR) : NumM XR := vs.foldlM (fun s v => round32 md (xrAdd s v)) (.fin false 0 1)

def poolAvg (md : Mode) (code : Bool) (zp : XR) (vs : List XR) : NumM XR := do
  if vs.isEmpty then pure (.fin false 0 1)
  else if code then round32 md (xrDiv (vs.foldl (fun s v => xrAdd s (xrSub v zp)) (.fin false 0 1)) (xrInt vs.length))
  else do
    let s ← poolSum md vs
    round32 md (if xrIsFin s then xrDiv s (xrInt vs.length) else s)

/-- The code of one pooled element. -/
def poolElem (md : Mode) (w : WinDesc) (vals : List XR) : NumM Nat := do
  if w.mode == 2 then do
    let r ← poolAvg md (winIsCode w) (winFill w) vals
    pure (code32 r)
  else do
    let m ← if vals.isEmpty then pure (winFill w) else poolMax (winIsCode w) vals
    match w.fmt with
    | 4 => do let r ← roundBf16 md m; pure (codeBf16 r)
    | 5 => do let r ← round16 md m; pure (code16 r)
    | 6 => pure (code32 m)
    | _ => pure (codeOf 8 (xrToInt m))

/-- The storage format of pooled rows, as a qcode dst (Table 04-1). -/
def poolDst (w : WinDesc) : Nat :=
  if w.mode == 2 then 4 else if w.fmt < 4 then w.fmt else if w.fmt == 6 then 4 else w.fmt + 1

def poolRow (k base : Nat) (md : Mode) (b : PoolBlk) (w : WinDesc) (i : Nat) (d : Dev) : Dev :=
  let (cs, fl) := runNum ((upFrom w.kBase w.kLen).mapM (fun c =>
    poolElem md w ((poolTaps w (b.oFirst + i) c).map (tapVal d base w))))
  raiseSlot k fl (wrMem (base + b.dst + i * b.pitch) (packRow (poolDst w) cs) d)

def runPool (k base ws : Nat) (md : Mode) (b : PoolBlk) (w : WinDesc) (d : Dev) : Dev :=
  if winEmpty w then drawEmpty k ws d else forEach (upFrom 0 b.m) (poolRow k base md b w) d

/-! Issue. -/

def vecParse (ws : List Nat) : VecBlk :=
  let w (i : Nat) : Nat := ws.getD i 0
  { dst := fld (w 0) 0 24
    srcA := fld (w 1) 0 24
    srcB := fld (w 2) 0 24
    srcC := fld (w 3) 0 24
    count := fld (w 4) 0 22
    repC := fld (w 5) 17 3
    repB := fld (w 5) 14 3
    cImm := bitAt (w 5) 13
    bImm := bitAt (w 5) 12
    typeD := fld (w 5) 9 3
    typeC := fld (w 5) 6 3
    typeB := fld (w 5) 3 3
    typeA := fld (w 5) 0 3
    immB := fld (w 6) 0 32
    immC := fld (w 7) 0 32 }

def vecRsvdOk (ws : List Nat) : Bool :=
  let w (i : Nat) : Nat := ws.getD i 0
  (ws.take 4).all (fun v => fld v 24 8 == 0) && fld (w 4) 22 10 == 0 && fld (w 5) 20 12 == 0

/-- The block rules of R147 and the type combinations of Table 06-9. -/
def vecOk (f : VecFn) (b : VecBlk) : Bool :=
  b.count != 0 &&
  (if isGdn f then
    b.typeA == 0 && b.typeB == 0 && b.typeC == 0 && b.typeD == 0 && !b.bImm && !b.cImm && b.repB == 0 && b.repC == 0 &&
    within 1 1024 (gdnC b) && fld b.immB 16 16 == 0
  else
    decide (b.typeA ≤ 5) && decide (b.typeD ≤ 5) && (!usesB f || b.bImm || decide (b.typeB ≤ 5)) &&
    (!usesC f || b.cImm || decide (b.typeC ≤ 5)) && (!isCmp f || b.typeD == 3) && (f != .sel || b.typeC == 3))

/-- Operand ranges with the element size each is aligned to. -/
def vecRanges (f : VecFn) (b : VecBlk) : List (Rng × Nat) :=
  if isGdn f then
    let c := gdnC b
    [(wr b.dst (4 * c * b.count), 4), (rd b.srcA (4 * c * b.count), 4), (rd b.srcB (4 * c * c), 4), (rd b.srcC (4 * c), 4)]
  else
    let es (t : Nat) : Nat := vtBytes t
    [(wr b.dst (b.count * es b.typeD), es b.typeD), (rd b.srcA (b.count * es b.typeA), es b.typeA)] ++
    (if usesB f && !b.bImm then [(rd b.srcB (((b.count - 1) / 2 ^ b.repB + 1) * es b.typeB), es b.typeB)] else []) ++
    (if usesC f && !b.cImm then [(rd b.srcC (((b.count - 1) / 2 ^ b.repC + 1) * es b.typeC), es b.typeC)] else [])

/-- The function code in sel (Table 06-9). -/
def vecSel (f : VecFn) : BitVec 8 :=
  match f with
  | .add => 0x00
  | .sub => 0x01
  | .mul => 0x02
  | .fma => 0x03
  | .neg => 0x04
  | .abs => 0x05
  | .min => 0x06
  | .max => 0x07
  | .ceq => 0x08
  | .cne => 0x09
  | .clt => 0x0A
  | .cle => 0x0B
  | .sel => 0x0C
  | .cvt => 0x0D
  | .rcp => 0x10
  | .rsq => 0x11
  | .exp2 => 0x12
  | .log2 => 0x13
  | .tanh => 0x14
  | .erf => 0x15
  | .gdn => 0x18
  | .igdn => 0x19

/-- The issue of a VEC row. -/
def vecIssue (fn : VecFn) (x : Site) (f : FmtV) (s : State) : Host.Outcome State Fault Refusal :=
  let u := vecToU f (vecSel fn)
  issue x f.g (wordU 0x58 u) (uOk s.dev x u true)
    (withBlock x u 8 (fun ws d =>
      let b := vecParse ws
      vet (slotAt d (siteKey x)) (vecRsvdOk ws && vecOk fn b) ((vecRanges fn b).map (·.1))
        ((vecRanges fn b).map (fun r => (r.1.at_, r.2)))
        (unitQueue x 1 (qOpt u) (.vec fn b) d))) s

def poolParse (ws : List Nat) : PoolBlk :=
  let w (i : Nat) : Nat := ws.getD i 0
  { oFirst := fld (w 0) 0 32, m := fld (w 1) 0 13, dst := fld (w 2) 0 24, pitch := fld (w 3) 0 24 }

/-- The checks of VEC.POOL against its window set, and its queueing. -/
def poolBody (x : Site) (f : FmtU) (ws : List Nat) (d : Dev) : Issued :=
  let sl := slotAt d (siteKey x)
  let b := poolParse ws
  let rsvd : Bool := fld (ws.getD 1 0) 13 19 == 0 && fld (ws.getD 2 0) 24 8 == 0 && fld (ws.getD 3 0) 24 8 == 0
  match getWin sl f.sel.toNat with
  | none => .exc 1 0
  | some w =>
    let m := if winEmpty w then 0 else b.m
    let legal := rsvd && w.mode != 0 && decide (b.m ≤ 4096) && b.pitch % 64 == 0 &&
      (winEmpty w || decide (b.oFirst + b.m ≤ winPositions w))
    if !legal then .exc 1 0
    else
      match firstOutside w (drawTaps w b.oFirst m) with
      | some a => .exc 2 (codeOf 48 a)
      | none =>
        vet sl true (rowsOf true b.dst b.pitch (rowBytes (poolDst w) w.kLen) m)
          [(b.dst, max 1 (dstBytes (poolDst w)))] (unitQueue x 1 (qOpt f) (.pool b w f.sel.toNat) d)

/-- VEC.POOL (R130). -/
def execVecPool (x : Site) (f : FmtU) (s : State) : Host.Outcome State Fault Refusal :=
  issue x f.g (wordU 0x59 f) (uOk s.dev x f (decide (f.sel.toNat < 4))) (withBlock x f 4 (poolBody x f)) s

/-- VEC.ADD. -/
def execVecAdd (x : Site) (f : FmtV) (s : State) : Host.Outcome State Fault Refusal := vecIssue .add x f s

/-- VEC.SUB. -/
def execVecSub (x : Site) (f : FmtV) (s : State) : Host.Outcome State Fault Refusal := vecIssue .sub x f s

/-- VEC.MUL. -/
def execVecMul (x : Site) (f : FmtV) (s : State) : Host.Outcome State Fault Refusal := vecIssue .mul x f s

/-- VEC.FMA. -/
def execVecFma (x : Site) (f : FmtV) (s : State) : Host.Outcome State Fault Refusal := vecIssue .fma x f s

/-- VEC.NEG. -/
def execVecNeg (x : Site) (f : FmtV) (s : State) : Host.Outcome State Fault Refusal := vecIssue .neg x f s

/-- VEC.ABS. -/
def execVecAbs (x : Site) (f : FmtV) (s : State) : Host.Outcome State Fault Refusal := vecIssue .abs x f s

/-- VEC.MIN. -/
def execVecMin (x : Site) (f : FmtV) (s : State) : Host.Outcome State Fault Refusal := vecIssue .min x f s

/-- VEC.MAX. -/
def execVecMax (x : Site) (f : FmtV) (s : State) : Host.Outcome State Fault Refusal := vecIssue .max x f s

/-- VEC.CEQ. -/
def execVecCeq (x : Site) (f : FmtV) (s : State) : Host.Outcome State Fault Refusal := vecIssue .ceq x f s

/-- VEC.CNE. -/
def execVecCne (x : Site) (f : FmtV) (s : State) : Host.Outcome State Fault Refusal := vecIssue .cne x f s

/-- VEC.CLT. -/
def execVecClt (x : Site) (f : FmtV) (s : State) : Host.Outcome State Fault Refusal := vecIssue .clt x f s

/-- VEC.CLE. -/
def execVecCle (x : Site) (f : FmtV) (s : State) : Host.Outcome State Fault Refusal := vecIssue .cle x f s

/-- VEC.SEL. -/
def execVecSel (x : Site) (f : FmtV) (s : State) : Host.Outcome State Fault Refusal := vecIssue .sel x f s

/-- VEC.CVT. -/
def execVecCvt (x : Site) (f : FmtV) (s : State) : Host.Outcome State Fault Refusal := vecIssue .cvt x f s

/-- VEC.RCP. -/
def execVecRcp (x : Site) (f : FmtV) (s : State) : Host.Outcome State Fault Refusal := vecIssue .rcp x f s

/-- VEC.RSQ. -/
def execVecRsq (x : Site) (f : FmtV) (s : State) : Host.Outcome State Fault Refusal := vecIssue .rsq x f s

/-- VEC.EXP2. -/
def execVecExp2 (x : Site) (f : FmtV) (s : State) : Host.Outcome State Fault Refusal := vecIssue .exp2 x f s

/-- VEC.LOG2. -/
def execVecLog2 (x : Site) (f : FmtV) (s : State) : Host.Outcome State Fault Refusal := vecIssue .log2 x f s

/-- VEC.TANH. -/
def execVecTanh (x : Site) (f : FmtV) (s : State) : Host.Outcome State Fault Refusal := vecIssue .tanh x f s

/-- VEC.ERF. -/
def execVecErf (x : Site) (f : FmtV) (s : State) : Host.Outcome State Fault Refusal := vecIssue .erf x f s

/-- VEC.GDN. -/
def execVecGdn (x : Site) (f : FmtV) (s : State) : Host.Outcome State Fault Refusal := vecIssue .gdn x f s

/-- VEC.IGDN. -/
def execVecIgdn (x : Site) (f : FmtV) (s : State) : Host.Outcome State Fault Refusal := vecIssue .igdn x f s

/-! Completion (R145, R152). -/

/-- What a unit operation does when it completes, but its post. -/
def runUnit (core : Nat) (o : UnitOp) (d : Dev) : Dev :=
  let k := slotKey core o.slot
  match o.work with
  | .quant b => runQuant k o.base o.mode b d
  | .rot b => runRot k o.base o.mode b d
  | .vec f b => runVec k o.base o.mode f b d
  | .pool b w ws => runPool k o.base ws o.mode b w d

/-- UNIT_OPERATION_COMPLETE: the operation that the Sizing or the vector unit runs completes, posts its q, and the unit
goes on: with a suspended operation or the next one of its queues (R152). -/
def execUnitOperationComplete (core : Fin 32) (vector : Bool) (s : State) : Host.Outcome State Fault Refusal :=
  let v := vector.toNat
  let key := 2 * core.val + v
  let d := s.dev
  match (unitAt d key).begun with
  | o :: rest =>
    whenDev true ""
      (unitKick core.val v (postOpt core.val o.q (drawFree (runUnit core.val o (updUnit key (fun u => { u with begun := rest }) d))))) s
  | [] => whenDev false "the unit is idle" d s

end Sys2Proof.Machine
end

