-- ==== Sys2Proof/Machine/Dispatch.lean ====
section
/-! DEFINITION. The dispatch of every command to its meaning. -/

namespace Sys2Proof.Machine

def exec (i : Instr) (s : State) : Host.Outcome State Fault Refusal :=
  match i with
  | .add x f => Sys2Proof.Machine.execAdd x f s
  | .sub x f => Sys2Proof.Machine.execSub x f s
  | .mul x f => Sys2Proof.Machine.execMul x f s
  | .mulhs x f => Sys2Proof.Machine.execMulhs x f s
  | .and x f => Sys2Proof.Machine.execAnd x f s
  | .or x f => Sys2Proof.Machine.execOr x f s
  | .xor x f => Sys2Proof.Machine.execXor x f s
  | .shl x f => Sys2Proof.Machine.execShl x f s
  | .shr x f => Sys2Proof.Machine.execShr x f s
  | .sra x f => Sys2Proof.Machine.execSra x f s
  | .min x f => Sys2Proof.Machine.execMin x f s
  | .max x f => Sys2Proof.Machine.execMax x f s
  | .addi x f => Sys2Proof.Machine.execAddi x f s
  | .andi x f => Sys2Proof.Machine.execAndi x f s
  | .ori x f => Sys2Proof.Machine.execOri x f s
  | .xori x f => Sys2Proof.Machine.execXori x f s
  | .shli x f => Sys2Proof.Machine.execShli x f s
  | .shri x f => Sys2Proof.Machine.execShri x f s
  | .srai x f => Sys2Proof.Machine.execSrai x f s
  | .movi x f => Sys2Proof.Machine.execMovi x f s
  | .cmpEq x f => Sys2Proof.Machine.execCmpEq x f s
  | .cmpNe x f => Sys2Proof.Machine.execCmpNe x f s
  | .cmpLt x f => Sys2Proof.Machine.execCmpLt x f s
  | .cmpLtu x f => Sys2Proof.Machine.execCmpLtu x f s
  | .cmpLe x f => Sys2Proof.Machine.execCmpLe x f s
  | .cmpLeu x f => Sys2Proof.Machine.execCmpLeu x f s
  | .pand x f => Sys2Proof.Machine.execPand x f s
  | .por x f => Sys2Proof.Machine.execPor x f s
  | .pnot x f => Sys2Proof.Machine.execPnot x f s
  | .aaddi x f => Sys2Proof.Machine.execAaddi x f s
  | .aadds x f => Sys2Proof.Machine.execAadds x f s
  | .amovi x f => Sys2Proof.Machine.execAmovi x f s
  | .ahi x f => Sys2Proof.Machine.execAhi x f s
  | .amovs x f => Sys2Proof.Machine.execAmovs x f s
  | .ld x f => Sys2Proof.Machine.execLd x f s
  | .st x f => Sys2Proof.Machine.execSt x f s
  | .lda x f => Sys2Proof.Machine.execLda x f s
  | .sta x f => Sys2Proof.Machine.execSta x f s
  | .b x f => Sys2Proof.Machine.execB x f s
  | .bal x f => Sys2Proof.Machine.execBal x f s
  | .br x f => Sys2Proof.Machine.execBr x f s
  | .ctlRd x f => Sys2Proof.Machine.execCtlRd x f s
  | .ctlWr x f => Sys2Proof.Machine.execCtlWr x f s
  | .monCfgWrite x f => Sys2Proof.Machine.execMonCfgWrite x f s
  | .monClose x f => Sys2Proof.Machine.execMonClose x f s
  | .monClear x f => Sys2Proof.Machine.execMonClear x f s
  | .warpLoad x f => Sys2Proof.Machine.execWarpLoad x f s
  | .weftPass x f => Sys2Proof.Machine.execWeftPass x f s
  | .sizeSet x f => Sys2Proof.Machine.execSizeSet x f s
  | .sizeQuant x f => Sys2Proof.Machine.execSizeQuant x f s
  | .calRot x f => Sys2Proof.Machine.execCalRot x f s
  | .winSet x f => Sys2Proof.Machine.execWinSet x f s
  | .vecAdd x f => Sys2Proof.Machine.execVecAdd x f s
  | .vecSub x f => Sys2Proof.Machine.execVecSub x f s
  | .vecMul x f => Sys2Proof.Machine.execVecMul x f s
  | .vecFma x f => Sys2Proof.Machine.execVecFma x f s
  | .vecNeg x f => Sys2Proof.Machine.execVecNeg x f s
  | .vecAbs x f => Sys2Proof.Machine.execVecAbs x f s
  | .vecMin x f => Sys2Proof.Machine.execVecMin x f s
  | .vecMax x f => Sys2Proof.Machine.execVecMax x f s
  | .vecCeq x f => Sys2Proof.Machine.execVecCeq x f s
  | .vecCne x f => Sys2Proof.Machine.execVecCne x f s
  | .vecClt x f => Sys2Proof.Machine.execVecClt x f s
  | .vecCle x f => Sys2Proof.Machine.execVecCle x f s
  | .vecSel x f => Sys2Proof.Machine.execVecSel x f s
  | .vecCvt x f => Sys2Proof.Machine.execVecCvt x f s
  | .vecRcp x f => Sys2Proof.Machine.execVecRcp x f s
  | .vecRsq x f => Sys2Proof.Machine.execVecRsq x f s
  | .vecExp2 x f => Sys2Proof.Machine.execVecExp2 x f s
  | .vecLog2 x f => Sys2Proof.Machine.execVecLog2 x f s
  | .vecTanh x f => Sys2Proof.Machine.execVecTanh x f s
  | .vecErf x f => Sys2Proof.Machine.execVecErf x f s
  | .vecGdn x f => Sys2Proof.Machine.execVecGdn x f s
  | .vecIgdn x f => Sys2Proof.Machine.execVecIgdn x f s
  | .vecPool x f => Sys2Proof.Machine.execVecPool x f s
  | .strmGo x f => Sys2Proof.Machine.execStrmGo x f s
  | .strmRearm x f => Sys2Proof.Machine.execStrmRearm x f s
  | .quireCopy x f => Sys2Proof.Machine.execQuireCopy x f s
  | .quireSignal x f => Sys2Proof.Machine.execQuireSignal x f s
  | .strmWait x f => Sys2Proof.Machine.execStrmWait x f s
  | .strmCancel x f => Sys2Proof.Machine.execStrmCancel x f s
  | .semPost x f => Sys2Proof.Machine.execSemPost x f s
  | .semWait x f => Sys2Proof.Machine.execSemWait x f s
  | .timeWait x f => Sys2Proof.Machine.execTimeWait x f s
  | .lineWait x f => Sys2Proof.Machine.execLineWait x f s
  | .fence x f => Sys2Proof.Machine.execFence x f s
  | .nop x f => Sys2Proof.Machine.execNop x f s
  | .halt x f => Sys2Proof.Machine.execHalt x f s
  | .semWaitGrant x => Sys2Proof.Machine.execSemWaitGrant x s
  | .timeWaitEnd x => Sys2Proof.Machine.execTimeWaitEnd x s
  | .lineWaitEnd x => Sys2Proof.Machine.execLineWaitEnd x s
  | .fenceRelease x => Sys2Proof.Machine.execFenceRelease x s
  | .strmWaitRelease x => Sys2Proof.Machine.execStrmWaitRelease x s
  | .haltComplete x => Sys2Proof.Machine.execHaltComplete x s
  | .watchdogExpiry x => Sys2Proof.Machine.execWatchdogExpiry x s
  | .programLaunch x r => Sys2Proof.Machine.execProgramLaunch x r s
  | .slotReturnIdle x => Sys2Proof.Machine.execSlotReturnIdle x s
  | .unitOperationComplete core vector => Sys2Proof.Machine.execUnitOperationComplete core vector s
  | .loomPassStart core loom => Sys2Proof.Machine.execLoomPassStart core loom s
  | .warpFillStart core loom slot => Sys2Proof.Machine.execWarpFillStart core loom slot s
  | .warpLoadComplete core loom => Sys2Proof.Machine.execWarpLoadComplete core loom s
  | .warpReload core loom slot => Sys2Proof.Machine.execWarpReload core loom slot s
  | .passComplete core loom empty => Sys2Proof.Machine.execPassComplete core loom empty s
  | .truncationTokenReceived core loom => Sys2Proof.Machine.execTruncationTokenReceived core loom s
  | .monitorWindowClose x mon => Sys2Proof.Machine.execMonitorWindowClose x mon s
  | .streamStart x engine => Sys2Proof.Machine.execStreamStart x engine s
  | .tileCreditTaken x engine pattern => Sys2Proof.Machine.execTileCreditTaken x engine pattern s
  | .streamRequestIssue core engine => Sys2Proof.Machine.execStreamRequestIssue core engine s
  | .streamRequestComplete x engine id r => Sys2Proof.Machine.execStreamRequestComplete x engine id r s
  | .streamComplete x engine => Sys2Proof.Machine.execStreamComplete x engine s
  | .cancelAbandon x engine => Sys2Proof.Machine.execCancelAbandon x engine s
  | .hostPageAbsent u page => Sys2Proof.Machine.execHostPageAbsent u page s
  | .pageRequestSuccess fn page => Sys2Proof.Machine.execPageRequestSuccess fn page s
  | .pageRequestFailure fn page => Sys2Proof.Machine.execPageRequestFailure fn page s
  | .pageResponseFailure fn page => Sys2Proof.Machine.execPageResponseFailure fn page s
  | .quireWaitGrant core id => Sys2Proof.Machine.execQuireWaitGrant core id s
  | .quireComplete core id r => Sys2Proof.Machine.execQuireComplete core id r s
  | .st2110Packet p => Sys2Proof.Machine.execSt2110Packet p s
  | .livePortDoorbell off value => Sys2Proof.Machine.execLivePortDoorbell off value s
  | .deckleRow port img => Sys2Proof.Machine.execDeckleRow port img s
  | .audioBlockWrite port img => Sys2Proof.Machine.execAudioBlockWrite port img s
  | .mseBand port => Sys2Proof.Machine.execMseBand port s
  | .leaseGrant => Sys2Proof.Machine.execLeaseGrant s
  | .familyCopy engine fs r => Sys2Proof.Machine.execFamilyCopy engine fs r s
  | .step engine window => Sys2Proof.Machine.execStep engine window s
  | .load engine window => Sys2Proof.Machine.execLoad engine window s
  | .close engine window => Sys2Proof.Machine.execClose engine window s
  | .release engine window => Sys2Proof.Machine.execRelease engine window s
  | .leaseForceRelease engine window => Sys2Proof.Machine.execLeaseForceRelease engine window s
  | .sequenceHeader sess => Sys2Proof.Machine.execSequenceHeader sess s
  | .frameHeader sess => Sys2Proof.Machine.execFrameHeader sess s
  | .slice sess lease => Sys2Proof.Machine.execSlice sess lease s
  | .audioFrame sess lease => Sys2Proof.Machine.execAudioFrame sess lease s
  | .timeAnchor sess => Sys2Proof.Machine.execTimeAnchor sess s
  | .padding sess => Sys2Proof.Machine.execPadding sess s
  | .endOfSequence sess => Sys2Proof.Machine.execEndOfSequence sess s
  | .userData sess => Sys2Proof.Machine.execUserData sess s
  | .discardedUnit sess => Sys2Proof.Machine.execDiscardedUnit sess s
  | .bundleLoad uid region => Sys2Proof.Machine.execBundleLoad uid region s
  | .bundleCopyComplete handle r => Sys2Proof.Machine.execBundleCopyComplete handle r s
  | .bundleUnload uid => Sys2Proof.Machine.execBundleUnload uid s
  | .sessOpen uid ctx => Sys2Proof.Machine.execSessOpen uid ctx s
  | .portBind uid port r plan => Sys2Proof.Machine.execPortBind uid port r plan s
  | .portUnbind uid => Sys2Proof.Machine.execPortUnbind uid s
  | .sessStart uid => Sys2Proof.Machine.execSessStart uid s
  | .frameSubmit uid ops => Sys2Proof.Machine.execFrameSubmit uid ops s
  | .outbufPost uid addr len tag => Sys2Proof.Machine.execOutbufPost uid addr len tag s
  | .intraRefresh uid => Sys2Proof.Machine.execIntraRefresh uid s
  | .sessAdapt uid steps reset => Sys2Proof.Machine.execSessAdapt uid steps reset s
  | .sessCheckpoint uid addr len => Sys2Proof.Machine.execSessCheckpoint uid addr len s
  | .sessRestore uid bundle ctx r => Sys2Proof.Machine.execSessRestore uid bundle ctx r s
  | .sessReset uid => Sys2Proof.Machine.execSessReset uid s
  | .sessClose uid => Sys2Proof.Machine.execSessClose uid s
  | .sessQuery uid => Sys2Proof.Machine.execSessQuery uid s
  | .frameDispatch w intra img => Sys2Proof.Machine.execFrameDispatch w intra img s
  | .frameBoundary sess => Sys2Proof.Machine.execFrameBoundary sess s
  | .sessionDrainEnd sess => Sys2Proof.Machine.execSessionDrainEnd sess s
  | .shedStandardPause => Sys2Proof.Machine.execShedStandardPause s
  | .shedLevelStep => Sys2Proof.Machine.execShedLevelStep s
  | .shedUndoStep => Sys2Proof.Machine.execShedUndoStep s
  | .timeSample off within_ => Sys2Proof.Machine.execTimeSample off within_ s
  | .timeSampleTimeout => Sys2Proof.Machine.execTimeSampleTimeout s
  | .calendarWrite => Sys2Proof.Machine.execCalendarWrite s
  | .ppsInEdge within_ => Sys2Proof.Machine.execPpsInEdge within_ s
  | .ppsInLoss => Sys2Proof.Machine.execPpsInLoss s
  | .freqInWindow hz => Sys2Proof.Machine.execFreqInWindow hz s
  | .timSetSecArm v => Sys2Proof.Machine.execTimSetSecArm v s
  | .ptpMessage dom profile locked => Sys2Proof.Machine.execPtpMessage dom profile locked s
  | .ppsOutEdge => Sys2Proof.Machine.execPpsOutEdge s
  | .launchFire uid => Sys2Proof.Machine.execLaunchFire uid s
  | .snapshotCapture t uid ranges region len => Sys2Proof.Machine.execSnapshotCapture t uid ranges region len s
  | .snapshotCopyDone => Sys2Proof.Machine.execSnapshotCopyDone s
  | .portEnable port v => Sys2Proof.Machine.execPortEnable port v s
  | .portLinkUp port => Sys2Proof.Machine.execPortLinkUp port s
  | .laneLockLoss port => Sys2Proof.Machine.execLaneLockLoss port s
  | .portRetrain port => Sys2Proof.Machine.execPortRetrain port s
  | .flitReceive port f => Sys2Proof.Machine.execFlitReceive port f s
  | .flitTransmit link => Sys2Proof.Machine.execFlitTransmit link s
  | .replayTimeout link => Sys2Proof.Machine.execReplayTimeout link s
  | .credInit port f => Sys2Proof.Machine.execCredInit port f s
  | .credInitResend link => Sys2Proof.Machine.execCredInitResend link s
  | .credSync port f => Sys2Proof.Machine.execCredSync port f s
  | .replayReq port f => Sys2Proof.Machine.execReplayReq port f s
  | .ctrlResendTimeout link => Sys2Proof.Machine.execCtrlResendTimeout link s
  | .timeProbeSend port => Sys2Proof.Machine.execTimeProbeSend port s
  | .timeProbe port f => Sys2Proof.Machine.execTimeProbe port f s
  | .timeProbeRsp port f => Sys2Proof.Machine.execTimeProbeRsp port f s
  | .downNotice port f => Sys2Proof.Machine.execDownNotice port f s
  | .timeMessageSend port => Sys2Proof.Machine.execTimeMessageSend port s
  | .time port within_ => Sys2Proof.Machine.execTime port within_ s
  | .put link => Sys2Proof.Machine.execPut link s
  | .get link => Sys2Proof.Machine.execGet link s
  | .signal link => Sys2Proof.Machine.execSignal link s
  | .ack link => Sys2Proof.Machine.execAck link s
  | .nak link => Sys2Proof.Machine.execNak link s
  | .getRsp link => Sys2Proof.Machine.execGetRsp link s
  | .mcast link => Sys2Proof.Machine.execMcast link s
  | .xportTimeout dst tag => Sys2Proof.Machine.execXportTimeout dst tag s
  | .recvWindowOpen core id r => Sys2Proof.Machine.execRecvWindowOpen core id r s
  | .recvWindowClose core id r => Sys2Proof.Machine.execRecvWindowClose core id r s
  | .barrier core id r => Sys2Proof.Machine.execBarrier core id r s
  | .tbarrier core id r => Sys2Proof.Machine.execTbarrier core id r s
  | .reduce core id r => Sys2Proof.Machine.execReduce core id r s
  | .allreduce core id r => Sys2Proof.Machine.execAllreduce core id r s
  | .reducescatter core id r => Sys2Proof.Machine.execReducescatter core id r s
  | .allgather core id r => Sys2Proof.Machine.execAllgather core id r s
  | .broadcast core id r => Sys2Proof.Machine.execBroadcast core id r s
  | .collUp link => Sys2Proof.Machine.execCollUp link s
  | .collDown link => Sys2Proof.Machine.execCollDown link s
  | .collAbort link => Sys2Proof.Machine.execCollAbort link s
  | .collectiveTimeout uid => Sys2Proof.Machine.execCollectiveTimeout uid s
  | .reset link => Sys2Proof.Machine.execReset link s
  | .hotspotWindow port => Sys2Proof.Machine.execHotspotWindow port s
  | .ethFrameReceive port f => Sys2Proof.Machine.execEthFrameReceive port f s
  | .tunnelDatagram tunnel good b => Sys2Proof.Machine.execTunnelDatagram tunnel good b s
  | .tunnelTimeout tunnel => Sys2Proof.Machine.execTunnelTimeout tunnel s
  | .ringEnable fn ring v => Sys2Proof.Machine.execRingEnable fn ring v s
  | .ringDisable fn ring v => Sys2Proof.Machine.execRingDisable fn ring v s
  | .sqTailDoorbell fn off size value => Sys2Proof.Machine.execSqTailDoorbell fn off size value s
  | .cqHeadDoorbell fn off size value => Sys2Proof.Machine.execCqHeadDoorbell fn off size value s
  | .sqEntryTake fn ring r => Sys2Proof.Machine.execSqEntryTake fn ring r s
  | .descriptorEligible uid => Sys2Proof.Machine.execDescriptorEligible uid s
  | .msixModerationTimeout fn ring => Sys2Proof.Machine.execMsixModerationTimeout fn ring s
  | .msixUnmask fn vector => Sys2Proof.Machine.execMsixUnmask fn vector s
  | .jobRun uid r => Sys2Proof.Machine.execJobRun uid r s
  | .jobAbort uid => Sys2Proof.Machine.execJobAbort uid s
  | .cancel uid => Sys2Proof.Machine.execCancel uid s
  | .nopCmd uid => Sys2Proof.Machine.execNopCmd uid s
  | .deviceReset uid => Sys2Proof.Machine.execDeviceReset uid s
  | .fabricReset uid => Sys2Proof.Machine.execFabricReset uid s
  | .fabricResetAct rid => Sys2Proof.Machine.execFabricResetAct rid s
  | .atsInvalidate fn page => Sys2Proof.Machine.execAtsInvalidate fn page s
  | .priEnable fn alloc => Sys2Proof.Machine.execPriEnable fn alloc s
  | .doeDiscovery index => Sys2Proof.Machine.execDoeDiscovery index s
  | .doeEvidenceRequest body => Sys2Proof.Machine.execDoeEvidenceRequest body s
  | .flr fn => Sys2Proof.Machine.execFlr fn s
  | .pcieHotReset => Sys2Proof.Machine.execPcieHotReset s
  | .ddrRecalibrate ch => Sys2Proof.Machine.execDdrRecalibrate ch s
  | .skewWindow sums => Sys2Proof.Machine.execSkewWindow sums s
  | .scrubRead off r => Sys2Proof.Machine.execScrubRead off r s
  | .scrubReport ch => Sys2Proof.Machine.execScrubReport ch s
  | .dimmThermalRead ch hottest => Sys2Proof.Machine.execDimmThermalRead ch hottest s
  | .pressDeflate uid => Sys2Proof.Machine.execPressDeflate uid s
  | .pressInflate uid => Sys2Proof.Machine.execPressInflate uid s
  | .pressFlush uid => Sys2Proof.Machine.execPressFlush uid s
  | .pressDispatch => Sys2Proof.Machine.execPressDispatch s
  | .pressCommandComplete engine r => Sys2Proof.Machine.execPressCommandComplete engine r s
  | .engineReset x => Sys2Proof.Machine.execEngineReset x s
  | .mediaCoreReset core => Sys2Proof.Machine.execMediaCoreReset core s
  | .coldReset mode => Sys2Proof.Machine.execColdReset mode s
  | .rstNAssert => Sys2Proof.Machine.execRstNAssert s
  | .warmDeviceReset => Sys2Proof.Machine.execWarmDeviceReset s
  | .romBoot err => Sys2Proof.Machine.execRomBoot err s
  | .rootStage1 mfg plat => Sys2Proof.Machine.execRootStage1 mfg plat s
  | .ddrTraining m => Sys2Proof.Machine.execDdrTraining m s
  | .schedulerStart err region area areaLen => Sys2Proof.Machine.execSchedulerStart err region area areaLen s
  | .schedulerReady => Sys2Proof.Machine.execSchedulerReady s
  | .schedulerLiveness => Sys2Proof.Machine.execSchedulerLiveness s
  | .schedulerLivenessTimeout => Sys2Proof.Machine.execSchedulerLivenessTimeout s
  | .protectionViolation => Sys2Proof.Machine.execProtectionViolation s
  | .rootWatchdogExpiry => Sys2Proof.Machine.execRootWatchdogExpiry s
  | .mboxBegin => Sys2Proof.Machine.execMboxBegin s
  | .mboxData v => Sys2Proof.Machine.execMboxData v s
  | .mboxEnd => Sys2Proof.Machine.execMboxEnd s
  | .mboxWriteDone => Sys2Proof.Machine.execMboxWriteDone s
  | .mboxAbort => Sys2Proof.Machine.execMboxAbort s
  | .mboxWarmReset => Sys2Proof.Machine.execMboxWarmReset s
  | .powerLevelRequest v => Sys2Proof.Machine.execPowerLevelRequest v s
  | .coreGate core => Sys2Proof.Machine.execCoreGate core s
  | .corePowerUp core => Sys2Proof.Machine.execCorePowerUp core s
  | .temperatureSample cd0 cd1 iod => Sys2Proof.Machine.execTemperatureSample cd0 cd1 iod s
  | .powerWindow w => Sys2Proof.Machine.execPowerWindow w s
  | .vidStep up => Sys2Proof.Machine.execVidStep up s
  | .mgmtStatusRead => Sys2Proof.Machine.execMgmtStatusRead s
  | .mctpMessage m => Sys2Proof.Machine.execMctpMessage m s
  | .timNowLoRead ini size => Sys2Proof.Machine.execTimNowLoRead ini size s
  | .livPortFrameOutRead ini port => Sys2Proof.Machine.execLivPortFrameOutRead ini port s
  | .prsEngBytesLoRead ini engine => Sys2Proof.Machine.execPrsEngBytesLoRead ini engine s
  | .registerWrite ini fn off size value => Sys2Proof.Machine.execRegisterWrite ini fn off size value s
  | .bridgeTransferError bridge e => Sys2Proof.Machine.execBridgeTransferError bridge e s
  | .rcRegisterRead ini fn off size pins => Sys2Proof.Machine.execRcRegisterRead ini fn off size pins s
  | .bar4WindowAccess off len data => Sys2Proof.Machine.execBar4WindowAccess off len data s
  | .doeUnknownType => Sys2Proof.Machine.execDoeUnknownType s
  | .rootWatchdogReport => Sys2Proof.Machine.execRootWatchdogReport s
  | .vddAuxInRange => Sys2Proof.Machine.execVddAuxInRange s
  | .vddAuxRemoved => Sys2Proof.Machine.execVddAuxRemoved s
  | .vbatRtcLow => Sys2Proof.Machine.execVbatRtcLow s
  | .pcieLinkTraining speed width flit => Sys2Proof.Machine.execPcieLinkTraining speed width flit s
  | .jtagDebugAccess op => Sys2Proof.Machine.execJtagDebugAccess op s

end Sys2Proof.Machine
end

