-- ==== Sys2Proof/Machine/Tick.lean ====
section
/-! DEFINITION. What one ACLK period does by itself, which is what the block does while no command waits (log entry 1). -/

namespace Sys2Proof.Machine

/-- The slot waits on an instant that has not come. -/
def waitsTime (now : Nat) : Hold → Bool
  | .timeWait t => decide (now < t)
  | _ => false

/-- A slot's watchdog count advances while its program runs, but not in a TIME.WAIT whose instant has not come (R160). -/
def tickSlot (now : Nat) (sl : SlotSt) : SlotSt :=
  if sl.phase == .running && !waitsTime now sl.hold then { sl with wdCount := sl.wdCount + 1 } else sl

/-- The part of an offset that one ACLK removes: at most 100 ppm of its 5 ns (R301). -/
def slewStep (s : Int) : Int := if s < -32 then -32 else if 32 < s then 32 else s

/-- Fabric Time advances by 5 ns plus its correction, the calendar clock at 32,768 Hz (R297, R301, R302). -/
def tickTime (t : TimeGrp) : TimeGrp :=
  let c := t.calFrac + 32768
  { t with
    ft := t.ft + (327680 + t.freq + slewStep t.slew).toNat
    slew := t.slew - slewStep t.slew
    cal := if 200000000 ≤ c then t.cal + 1 else t.cal
    calFrac := c % 200000000 }

/-- One ACLK period. -/
def tick (d : Dev) : Dev :=
  { d with
    aclk := d.aclk + 1
    time := tickTime d.time
    core.slots := d.core.slots.map (fun e => (e.1, tickSlot (nowNs d) e.2)) }

end Sys2Proof.Machine
end

