-- ==== Sys2Proof/Machine/Step.lean ====
section
/-! DEFINITION. The step of the block: the command at the front of the queue, or one clock period when none waits. -/

namespace Sys2Proof.Machine

/-- One step: the oldest waiting command takes effect on the block and leaves the queue; with no command waiting, one ACLK
period passes (log entry 1). -/
def step (s : State) : Host.Outcome State Fault Refusal :=
  match s.pending with
  | [] => .next { s with dev := tick s.dev }
  | c :: rest => exec c { s with pending := rest }

/-- The state with the command that a table word spells at the front of the queue. -/
def State.withFetchWord (s : State) (nbits w : Nat) : State :=
  match decodeTableWord nbits w with
  | some c => { s with pending := c :: s.pending }
  | none => s

end Sys2Proof.Machine
end

