-- ==== Sys2Proof/WellFormed.lean ====
section
/-! DEFINITION. What a command's operands must be for the command to exist at all: the lengths and alignments that the
specification gives the things they stand for. A value that the specification answers with a status or an exception is
well formed; the command's meaning gives the answer. -/

namespace Sys2Proof

/-- A host page starts at a multiple of 4 KiB (R361). -/
def pageAligned (page : BitVec 64) : Bool := page.toNat % 4096 == 0

/-- A flit has 256 bytes (R326). -/
def isFlit (f : List Byte) : Bool := f.length == 256

/-- A bus access has 1, 2, 4 or 8 bytes. -/
def accessSize (n : Nat) : Bool := [1, 2, 4, 8].contains n

/-- The operands of a command have the shape of what they stand for: launch arguments for s0 to s7 and a0 to a3 (R139), aligned pages,
whole flits, a 64-byte submission entry (R367), an access size, the 16 channels of a queue-depth window (R397), a PCI Express rate and width (R356), a window access of its length. -/
def Instr.wf (i : Instr) : Bool :=
  match i with
  | .programLaunch _ r => decide (r.sArgs.length ≤ 8) && decide (r.aArgs.length ≤ 4)
  | .hostPageAbsent _ page => pageAligned page
  | .pageRequestSuccess _ page => pageAligned page
  | .pageRequestFailure _ page => pageAligned page
  | .pageResponseFailure _ page => pageAligned page
  | .atsInvalidate _ page => pageAligned page
  | .flitReceive _ f => isFlit f
  | .credInit _ f => isFlit f
  | .credSync _ f => isFlit f
  | .replayReq _ f => isFlit f
  | .timeProbe _ f => isFlit f
  | .timeProbeRsp _ f => isFlit f
  | .downNotice _ f => isFlit f
  | .sqEntryTake _ _ r => match r with | .ok bs => bs.length == 64 | .failed _ _ => true
  | .sqTailDoorbell _ _ size _ => accessSize size
  | .cqHeadDoorbell _ _ size _ => accessSize size
  | .registerWrite _ _ _ size _ => accessSize size
  | .rcRegisterRead _ _ _ size _ => accessSize size
  | .timNowLoRead _ size => accessSize size
  | .skewWindow sums => sums.length == 16
  | .pcieLinkTraining speed width flit =>
    decide (1 ≤ speed) && decide (speed ≤ 6) && [1, 2, 4, 8].contains width && (speed != 6 || flit)
  | .bar4WindowAccess _ len data => match data with | some bs => bs.length == len | none => true
  | .add .. | .sub .. | .mul .. | .mulhs .. | .and .. | .or .. | .xor .. | .shl .. | .shr .. | .sra .. | .min .. | .max ..
  | .addi .. | .andi .. | .ori .. | .xori .. | .shli .. | .shri .. | .srai .. | .movi .. | .cmpEq .. | .cmpNe .. | .cmpLt ..
  | .cmpLtu .. | .cmpLe .. | .cmpLeu .. | .pand .. | .por .. | .pnot .. | .aaddi .. | .aadds .. | .amovi .. | .ahi ..
  | .amovs .. | .ld .. | .st .. | .lda .. | .sta .. | .b .. | .bal .. | .br .. | .ctlRd .. | .ctlWr .. | .monCfgWrite ..
  | .monClose .. | .monClear .. | .warpLoad .. | .weftPass .. | .sizeSet .. | .sizeQuant .. | .calRot .. | .winSet ..
  | .vecAdd .. | .vecSub .. | .vecMul .. | .vecFma .. | .vecNeg .. | .vecAbs .. | .vecMin .. | .vecMax .. | .vecCeq ..
  | .vecCne .. | .vecClt .. | .vecCle .. | .vecSel .. | .vecCvt .. | .vecRcp .. | .vecRsq .. | .vecExp2 .. | .vecLog2 ..
  | .vecTanh .. | .vecErf .. | .vecGdn .. | .vecIgdn .. | .vecPool .. | .strmGo .. | .strmRearm .. | .quireCopy ..
  | .quireSignal .. | .strmWait .. | .strmCancel .. | .semPost .. | .semWait .. | .timeWait .. | .lineWait .. | .fence ..
  | .nop .. | .halt .. | .semWaitGrant .. | .timeWaitEnd .. | .lineWaitEnd .. | .fenceRelease .. | .strmWaitRelease ..
  | .haltComplete .. | .watchdogExpiry .. | .slotReturnIdle .. | .unitOperationComplete .. | .loomPassStart ..
  | .warpFillStart .. | .warpLoadComplete .. | .warpReload .. | .passComplete .. | .truncationTokenReceived ..
  | .monitorWindowClose .. | .streamStart .. | .tileCreditTaken .. | .streamRequestIssue .. | .streamRequestComplete ..
  | .streamComplete .. | .cancelAbandon .. | .quireWaitGrant .. | .quireComplete .. | .st2110Packet ..
  | .livePortDoorbell .. | .deckleRow .. | .audioBlockWrite .. | .mseBand .. | .leaseGrant | .familyCopy .. | .step ..
  | .load .. | .close .. | .release .. | .leaseForceRelease .. | .sequenceHeader .. | .frameHeader .. | .slice ..
  | .audioFrame .. | .timeAnchor .. | .padding .. | .endOfSequence .. | .userData .. | .discardedUnit .. | .bundleLoad ..
  | .bundleCopyComplete .. | .bundleUnload .. | .sessOpen .. | .portBind .. | .portUnbind .. | .sessStart ..
  | .frameSubmit .. | .outbufPost .. | .intraRefresh .. | .sessAdapt .. | .sessCheckpoint .. | .sessRestore ..
  | .sessReset .. | .sessClose .. | .sessQuery .. | .frameDispatch .. | .frameBoundary .. | .sessionDrainEnd ..
  | .shedStandardPause | .shedLevelStep | .shedUndoStep | .timeSample .. | .timeSampleTimeout | .calendarWrite
  | .ppsInEdge .. | .ppsInLoss | .freqInWindow .. | .timSetSecArm .. | .ptpMessage .. | .ppsOutEdge | .launchFire ..
  | .snapshotCapture .. | .snapshotCopyDone | .portEnable .. | .portLinkUp .. | .laneLockLoss .. | .portRetrain ..
  | .flitTransmit .. | .replayTimeout .. | .credInitResend .. | .ctrlResendTimeout .. | .timeProbeSend ..
  | .timeMessageSend .. | .time .. | .put .. | .get .. | .signal .. | .ack .. | .nak .. | .getRsp .. | .mcast ..
  | .xportTimeout .. | .recvWindowOpen .. | .recvWindowClose .. | .barrier .. | .tbarrier .. | .reduce .. | .allreduce ..
  | .reducescatter .. | .allgather .. | .broadcast .. | .collUp .. | .collDown .. | .collAbort .. | .collectiveTimeout ..
  | .reset .. | .hotspotWindow .. | .ethFrameReceive .. | .tunnelDatagram .. | .tunnelTimeout .. | .ringEnable ..
  | .ringDisable .. | .descriptorEligible .. | .msixModerationTimeout .. | .msixUnmask .. | .jobRun .. | .jobAbort ..
  | .cancel .. | .nopCmd .. | .deviceReset .. | .fabricReset .. | .fabricResetAct .. | .priEnable .. | .doeDiscovery ..
  | .doeEvidenceRequest .. | .flr .. | .pcieHotReset | .ddrRecalibrate .. | .scrubRead .. | .scrubReport ..
  | .dimmThermalRead .. | .pressDeflate .. | .pressInflate .. | .pressFlush .. | .pressDispatch | .pressCommandComplete ..
  | .engineReset .. | .mediaCoreReset .. | .coldReset .. | .rstNAssert | .warmDeviceReset | .romBoot .. | .rootStage1 ..
  | .ddrTraining .. | .schedulerStart .. | .schedulerReady | .schedulerLiveness | .schedulerLivenessTimeout
  | .protectionViolation | .rootWatchdogExpiry | .mboxBegin | .mboxData .. | .mboxEnd | .mboxWriteDone | .mboxAbort
  | .mboxWarmReset | .powerLevelRequest .. | .coreGate .. | .corePowerUp .. | .temperatureSample .. | .powerWindow ..
  | .vidStep .. | .mgmtStatusRead | .mctpMessage .. | .livPortFrameOutRead .. | .prsEngBytesLoRead ..
  | .bridgeTransferError .. | .doeUnknownType | .rootWatchdogReport | .vddAuxInRange | .vddAuxRemoved | .vbatRtcLow
  | .jtagDebugAccess .. => true

end Sys2Proof
end

