-- ==== Sys2Proof/Safety.lean ====
section
/-! DEFINITION. What claims about the block say: the form every state has, how one command leaves the block, and how a
media-core instruction leaves its slot. -/

namespace Sys2Proof.Machine

/-! The form of a state. -/

/-- The canonical form of the device map: addresses rise, and no entry is 0, which an unlisted address reads as. -/
def Memory.wf (m : Tbl Byte) : Bool := twf 0 m

/-- Every semaphore holds 0 to 65,535 (Table 06-1, R154), listed in canonical form. -/
def semsOk (t : Tbl Nat) : Bool := twf 0 t && t.all (fun e => decide (e.2 ≤ 65535))

/-- The retired-page list holds up to 4,096 pages, none twice (R400). -/
def retiredOk (l : List Nat) : Bool := decide l.Nodup && decide (l.length ≤ 4096)

/-- The form of a device that every step keeps: memory and the register file in canonical form, semaphores of 16 bits, a
retired-page list as R400 has it. -/
def Dev.inv (d : Dev) : Bool := Memory.wf d.mem && twf none d.regs && semsOk d.core.sems && retiredOk d.ddr.retired

/-- What one command keeps, from `b` to `d`: the parts of the form; the flash counters, which never fall (R432, R439); the
retired-page list, which only grows (R400); what the device has emitted, which stays emitted; and the count of ACLK. -/
structure Kept (b d : Dev) : Prop where
  mem : Memory.wf b.mem = true → Memory.wf d.mem = true
  regs : twf none b.regs = true → twf none d.regs = true
  sems : semsOk b.core.sems = true → semsOk d.core.sems = true
  retOk : retiredOk b.ddr.retired = true → retiredOk d.ddr.retired = true
  ret : b.ddr.retired <+: d.ddr.retired
  counters : ∀ n, tget 0 b.boot.rpmc n ≤ tget 0 d.boot.rpmc n
  out : b.out <+: d.out
  aclk : d.aclk = b.aclk

/-- `d` is `b` but for the registers, the host interface and the emissions. -/
def HostOnly (b d : Dev) : Prop := d = { b with regs := d.regs, host := d.host, out := d.out }

/-! Instructions of a media core. -/

/-- The slot that an instruction comes from. -/
abbrev State.slot (s : State) (x : Site) : SlotSt := slotAt s.dev (siteKey x)

/-- The slot takes an instruction of guard `g` and executes it: it can issue, its pc lies in its code, and the guard holds (R138, R141). -/
def takes (d : Dev) (x : Site) (g : Guard) : Bool :=
  canIssue d (siteKey x) && decide ((slotAt d (siteKey x)).pc.toNat < (slotAt d (siteKey x)).codeSize) &&
    guardHolds (slotAt d (siteKey x)) g

/-- The slot and the guard of a media-core instruction; none for the other commands. -/
def issuedBy (i : Instr) : Option (Site × Guard) :=
  match i with
  | .add x f => some (x, f.g)
  | .sub x f => some (x, f.g)
  | .mul x f => some (x, f.g)
  | .mulhs x f => some (x, f.g)
  | .and x f => some (x, f.g)
  | .or x f => some (x, f.g)
  | .xor x f => some (x, f.g)
  | .shl x f => some (x, f.g)
  | .shr x f => some (x, f.g)
  | .sra x f => some (x, f.g)
  | .min x f => some (x, f.g)
  | .max x f => some (x, f.g)
  | .addi x f => some (x, f.g)
  | .andi x f => some (x, f.g)
  | .ori x f => some (x, f.g)
  | .xori x f => some (x, f.g)
  | .shli x f => some (x, f.g)
  | .shri x f => some (x, f.g)
  | .srai x f => some (x, f.g)
  | .movi x f => some (x, f.g)
  | .cmpEq x f => some (x, f.g)
  | .cmpNe x f => some (x, f.g)
  | .cmpLt x f => some (x, f.g)
  | .cmpLtu x f => some (x, f.g)
  | .cmpLe x f => some (x, f.g)
  | .cmpLeu x f => some (x, f.g)
  | .pand x f => some (x, f.g)
  | .por x f => some (x, f.g)
  | .pnot x f => some (x, f.g)
  | .aaddi x f => some (x, f.g)
  | .aadds x f => some (x, f.g)
  | .amovi x f => some (x, f.g)
  | .ahi x f => some (x, f.g)
  | .amovs x f => some (x, f.g)
  | .ld x f => some (x, f.g)
  | .st x f => some (x, f.g)
  | .lda x f => some (x, f.g)
  | .sta x f => some (x, f.g)
  | .b x f => some (x, f.g)
  | .bal x f => some (x, f.g)
  | .br x f => some (x, f.g)
  | .ctlRd x f => some (x, f.g)
  | .ctlWr x f => some (x, f.g)
  | .monCfgWrite x f => some (x, f.g)
  | .monClose x f => some (x, f.g)
  | .monClear x f => some (x, f.g)
  | .warpLoad x f => some (x, f.g)
  | .weftPass x f => some (x, f.g)
  | .sizeSet x f => some (x, f.g)
  | .sizeQuant x f => some (x, f.g)
  | .calRot x f => some (x, f.g)
  | .winSet x f => some (x, f.g)
  | .vecAdd x f => some (x, f.g)
  | .vecSub x f => some (x, f.g)
  | .vecMul x f => some (x, f.g)
  | .vecFma x f => some (x, f.g)
  | .vecNeg x f => some (x, f.g)
  | .vecAbs x f => some (x, f.g)
  | .vecMin x f => some (x, f.g)
  | .vecMax x f => some (x, f.g)
  | .vecCeq x f => some (x, f.g)
  | .vecCne x f => some (x, f.g)
  | .vecClt x f => some (x, f.g)
  | .vecCle x f => some (x, f.g)
  | .vecSel x f => some (x, f.g)
  | .vecCvt x f => some (x, f.g)
  | .vecRcp x f => some (x, f.g)
  | .vecRsq x f => some (x, f.g)
  | .vecExp2 x f => some (x, f.g)
  | .vecLog2 x f => some (x, f.g)
  | .vecTanh x f => some (x, f.g)
  | .vecErf x f => some (x, f.g)
  | .vecGdn x f => some (x, f.g)
  | .vecIgdn x f => some (x, f.g)
  | .vecPool x f => some (x, f.g)
  | .strmGo x f => some (x, f.g)
  | .strmRearm x f => some (x, f.g)
  | .quireCopy x f => some (x, f.g)
  | .quireSignal x f => some (x, f.g)
  | .strmWait x f => some (x, f.g)
  | .strmCancel x f => some (x, f.g)
  | .semPost x f => some (x, f.g)
  | .semWait x f => some (x, f.g)
  | .timeWait x f => some (x, f.g)
  | .lineWait x f => some (x, f.g)
  | .fence x f => some (x, f.g)
  | .nop x f => some (x, f.g)
  | .halt x f => some (x, f.g)
  | .semWaitGrant .. | .timeWaitEnd .. | .lineWaitEnd .. | .fenceRelease .. | .strmWaitRelease .. | .haltComplete ..
  | .watchdogExpiry .. | .programLaunch .. | .slotReturnIdle .. | .unitOperationComplete .. | .loomPassStart ..
  | .warpFillStart .. | .warpLoadComplete .. | .warpReload .. | .passComplete .. | .truncationTokenReceived ..
  | .monitorWindowClose .. | .streamStart .. | .tileCreditTaken .. | .streamRequestIssue .. | .streamRequestComplete ..
  | .streamComplete .. | .cancelAbandon .. | .hostPageAbsent .. | .pageRequestSuccess .. | .pageRequestFailure ..
  | .pageResponseFailure .. | .quireWaitGrant .. | .quireComplete .. | .st2110Packet .. | .livePortDoorbell .. | .deckleRow ..
  | .audioBlockWrite .. | .mseBand .. | .leaseGrant | .familyCopy .. | .step .. | .load .. | .close .. | .release ..
  | .leaseForceRelease .. | .sequenceHeader .. | .frameHeader .. | .slice .. | .audioFrame .. | .timeAnchor .. | .padding ..
  | .endOfSequence .. | .userData .. | .discardedUnit .. | .bundleLoad .. | .bundleCopyComplete .. | .bundleUnload ..
  | .sessOpen .. | .portBind .. | .portUnbind .. | .sessStart .. | .frameSubmit .. | .outbufPost .. | .intraRefresh ..
  | .sessAdapt .. | .sessCheckpoint .. | .sessRestore .. | .sessReset .. | .sessClose .. | .sessQuery .. | .frameDispatch ..
  | .frameBoundary .. | .sessionDrainEnd .. | .shedStandardPause | .shedLevelStep | .shedUndoStep | .timeSample ..
  | .timeSampleTimeout | .calendarWrite | .ppsInEdge .. | .ppsInLoss | .freqInWindow .. | .timSetSecArm .. | .ptpMessage ..
  | .ppsOutEdge | .launchFire .. | .snapshotCapture .. | .snapshotCopyDone | .portEnable .. | .portLinkUp .. | .laneLockLoss ..
  | .portRetrain .. | .flitReceive .. | .flitTransmit .. | .replayTimeout .. | .credInit .. | .credInitResend .. | .credSync ..
  | .replayReq .. | .ctrlResendTimeout .. | .timeProbeSend .. | .timeProbe .. | .timeProbeRsp .. | .downNotice ..
  | .timeMessageSend .. | .time .. | .put .. | .get .. | .signal .. | .ack .. | .nak .. | .getRsp .. | .mcast ..
  | .xportTimeout .. | .recvWindowOpen .. | .recvWindowClose .. | .barrier .. | .tbarrier .. | .reduce .. | .allreduce ..
  | .reducescatter .. | .allgather .. | .broadcast .. | .collUp .. | .collDown .. | .collAbort .. | .collectiveTimeout ..
  | .reset .. | .hotspotWindow .. | .ethFrameReceive .. | .tunnelDatagram .. | .tunnelTimeout .. | .ringEnable ..
  | .ringDisable .. | .sqTailDoorbell .. | .cqHeadDoorbell .. | .sqEntryTake .. | .descriptorEligible ..
  | .msixModerationTimeout .. | .msixUnmask .. | .jobRun .. | .jobAbort .. | .cancel .. | .nopCmd .. | .deviceReset ..
  | .fabricReset .. | .fabricResetAct .. | .atsInvalidate .. | .priEnable .. | .doeDiscovery .. | .doeEvidenceRequest ..
  | .flr .. | .pcieHotReset | .ddrRecalibrate .. | .skewWindow .. | .scrubRead .. | .scrubReport .. | .dimmThermalRead ..
  | .pressDeflate .. | .pressInflate .. | .pressFlush .. | .pressDispatch | .pressCommandComplete .. | .engineReset ..
  | .mediaCoreReset .. | .coldReset .. | .rstNAssert | .warmDeviceReset | .romBoot .. | .rootStage1 .. | .ddrTraining ..
  | .schedulerStart .. | .schedulerReady | .schedulerLiveness | .schedulerLivenessTimeout | .protectionViolation
  | .rootWatchdogExpiry | .mboxBegin | .mboxData .. | .mboxEnd | .mboxWriteDone | .mboxAbort | .mboxWarmReset
  | .powerLevelRequest .. | .coreGate .. | .corePowerUp .. | .temperatureSample .. | .powerWindow .. | .vidStep ..
  | .mgmtStatusRead | .mctpMessage .. | .timNowLoRead .. | .livPortFrameOutRead .. | .prsEngBytesLoRead .. | .registerWrite ..
  | .bridgeTransferError .. | .rcRegisterRead .. | .bar4WindowAccess .. | .doeUnknownType | .rootWatchdogReport | .vddAuxInRange
  | .vddAuxRemoved | .vbatRtcLow | .pcieLinkTraining .. | .jtagDebugAccess .. => none

/-- The slot state after an instruction retires without a branch (R139, R160). -/
def retired (sl : SlotSt) : SlotSt :=
  { sl with
    pc := sl.pc + 8
    hold := .none
    wdCount := 0 }

/-- `t` is `s` but for the state of slot `k`, which is `sl`. -/
structure SlotOnly (s t : State) (k : Nat) (sl : SlotSt) : Prop where
  slot : slotAt t.dev k = sl
  others : ∀ j, j ≠ k → slotAt t.dev j = slotAt s.dev j
  rest : t = { s with dev := { s.dev with core := { s.dev.core with slots := t.dev.core.slots } } }

/-- The parameter block of a U-format instruction lies in the window and is aligned (R145). -/
def paramOk (d : Dev) (x : Site) (f : FmtU) (n : Nat) : Bool :=
  decide (blockOff d x f + 4 * n ≤ (slotAt d (siteKey x)).winSize) && blockOff d x f % 8 == 0

/-- The words of the parameter block (R145). -/
def paramWords (d : Dev) (x : Site) (f : FmtU) (n : Nat) : List Nat :=
  leWords n (unitBytes d (winBase d (siteKey x) + blockOff d x f) (4 * n))

/-- A unit instruction passes its checks: the owning chapter's rules, its ranges inside the window and its writes outside the
code, its addresses aligned (R137, R138, R146). -/
def vetted (sl : SlotSt) (legal : Bool) (ranges : List Rng) (aligned : List (Nat × Nat)) : Bool :=
  legal && ranges.all (rngOk sl) && aligned.all (fun p => p.1 % p.2 == 0)

/-- The unit operation that a slot's instruction queues (R146, R149). -/
def unitOpOf (s : State) (x : Site) (q : Option Nat) (w : UnitWork) : UnitOp :=
  { slot := x.slot.val
    q := q
    base := winBase s.dev (siteKey x)
    mode := slotMode (s.slot x)
    work := w }

/-- An operation of a slot joins the queue of a unit (R149): the unit then holds it last in that queue, or has moved the head of one
of its queues to the operations begun; a unit that had nothing begins it. Only the slot, the unit and the count of free values change. -/
structure UnitGains (s t : State) (x : Site) (v : Nat) (o : UnitOp) : Prop where
  slot : slotAt t.dev (siteKey x) = retired (s.slot x)
  others : ∀ j, j ≠ siteKey x → slotAt t.dev j = slotAt s.dev j
  queued : let u := unitAt s.dev (2 * x.core.val + v)
    let u1 := u.setQueue x.slot.val (u.queue x.slot.val ++ [o])
    unitAt t.dev (2 * x.core.val + v) = u1 ∨ ∃ sl, unitAt t.dev (2 * x.core.val + v) = unitBegin u1 sl
  idle : (unitAt s.dev (2 * x.core.val + v)).begun = [] → (unitAt s.dev (2 * x.core.val + v)).queue0 = [] →
    (unitAt s.dev (2 * x.core.val + v)).queue1 = [] → (unitAt t.dev (2 * x.core.val + v)).begun = [o]
  units : ∀ j, j ≠ 2 * x.core.val + v → unitAt t.dev j = unitAt s.dev j
  rest : t = { s with dev := { s.dev with
    free := t.dev.free, core := { s.dev.core with slots := t.dev.core.slots, units := t.dev.core.units } } }

/-- A re-arm: the persistent descriptor with the bases of the new block (R180). -/
def rearmed (a b : StrmBlk) : StrmBlk := { a with patBase := b.patBase, patSpace := b.patSpace, pkBase := b.pkBase, rearm := true }

/-- A descriptor joins its slot's queue of a stream engine; only the slot, that queue, the armed descriptor, the slot's marks that its
packed range overlaps and the count of free values change. -/
structure StreamGains (s t : State) (x : Site) (e : Nat) (r : StrmRun) : Prop where
  slot : slotAt t.dev (siteKey x) = retired (s.slot x)
  others : ∀ j, j ≠ siteKey x → slotAt t.dev j = slotAt s.dev j
  queued : (engAt t.dev (engKey x.core.val e)).queue x.slot.val = (engAt s.dev (engKey x.core.val e)).queue x.slot.val ++ [.desc r]
  other : (engAt t.dev (engKey x.core.val e)).queue (1 - x.slot.val) = (engAt s.dev (engKey x.core.val e)).queue (1 - x.slot.val)
  engines : ∀ j, j ≠ engKey x.core.val e → engAt t.dev j = engAt s.dev j
  marks : t.dev.strm.marks = s.dev.strm.marks.filter (fun m =>
    !(m.slotKey == siteKey x && decide (m.lo < r.base + r.blk.pkBase + pkSpan r.blk r.tileBase) && decide (r.base + r.blk.pkBase ≤ m.hi)))
  rest : t = { s with dev := { s.dev with
    free := t.dev.free
    core := { s.dev.core with slots := t.dev.core.slots }
    strm := { s.dev.strm with engines := t.dev.strm.engines, marks := t.dev.strm.marks } } }

/-- The transfer that a slot's Quire instruction makes (R186). -/
def transferOf (s : State) (x : Site) (q : Option Nat) (b : QuireBlk) : QuireOp :=
  { id := s.dev.nextId
    slot := x.slot.val
    q := q
    blk := b
    base := winBase s.dev (siteKey x)
    winSize := (s.slot x).winSize
    ident := (s.slot x).ident
    started := !b.waitEn }

/-- The step answers a next state: the block holds `d`, and the commands that wait stay as they were. -/
abbrev State.goes (s : State) (d : Dev) : Host.Outcome State Fault Refusal := .next { s with dev := d }

/-- Only loom `k` changes. -/
structure LoomOnly (s t : State) (k : Nat) : Prop where
  others : ∀ j, j ≠ k → loomAt t.dev j = loomAt s.dev j
  rest : t = { s with dev := { s.dev with core := { s.dev.core with looms := t.dev.core.looms } } }

end Sys2Proof.Machine
end

