-- ==== Sys2Proof/Certificates/Slice0/Obligations.lean ====
section
/-! DEFINITION. The statements about the model, for the provers. -/

open Sys2Proof Sys2Proof.Machine

/-! ### Media-core instructions (R139 to R146, Table 06-3) -/

/-- Table 06-3, the R-format arithmetic: each instruction that executes writes its result to s[rd], moves pc on by 8, and changes
nothing else: no other register, no flag, no slot, no byte of memory, no register of the device. -/
def Obligations.ScalarArithmetic : Prop :=
  ∀ e ∈ ([(.add, fun a b => a + b), (.sub, fun a b => a - b), (.mul, fun a b => a * b),
      (.mulhs, fun a b => BitVec.ofInt 32 ((a.toInt * b.toInt) / 2 ^ 32)), (.and, fun a b => a &&& b), (.or, fun a b => a ||| b),
      (.xor, fun a b => a ^^^ b), (.shl, fun a b => a <<< (b &&& 31).toNat), (.shr, fun a b => a >>> (b &&& 31).toNat),
      (.sra, fun a b => a.sshiftRight (b &&& 31).toNat), (.min, fun a b => if a.toInt < b.toInt then a else b),
      (.max, fun a b => if a.toInt < b.toInt then b else a)] : List ((Site → FmtR → Instr) × (W32 → W32 → W32))),
    ∀ (x : Site) (f : FmtR) (s : State), takes s.dev x f.g = true → f.rsvd = 0 →
      ∃ t, exec (e.1 x f) s = .next t ∧
        SlotOnly s t (siteKey x) (retired (setS f.rd (e.2 (getS (slotAt s.dev (siteKey x)) f.rs1) (getS (slotAt s.dev (siteKey x)) f.rs2))
          (slotAt s.dev (siteKey x))))

/-- Table 06-3, the I-format arithmetic, and MOVI, whose rs1 must be 0: the result goes to s[rd]; nothing else changes but pc. -/
def Obligations.ScalarImmediates : Prop :=
  (∀ e ∈ ([(.addi, fun a b => a + b), (.andi, fun a b => a &&& b), (.ori, fun a b => a ||| b), (.xori, fun a b => a ^^^ b),
      (.shli, fun a b => a <<< (b &&& 31).toNat), (.shri, fun a b => a >>> (b &&& 31).toNat),
      (.srai, fun a b => a.sshiftRight (b &&& 31).toNat)] : List ((Site → FmtI → Instr) × (W32 → W32 → W32))),
    ∀ (x : Site) (f : FmtI) (s : State), takes s.dev x f.g = true → f.rsvd = 0 →
      ∃ t, exec (e.1 x f) s = .next t ∧
        SlotOnly s t (siteKey x) (retired (setS f.rd (e.2 (getS (slotAt s.dev (siteKey x)) f.rs1) f.imm) (slotAt s.dev (siteKey x))))) ∧
  (∀ (x : Site) (f : FmtI) (s : State), takes s.dev x f.g = true → f.rsvd = 0 → f.rs1 = 0 →
    ∃ t, exec (.movi x f) s = .next t ∧ SlotOnly s t (siteKey x) (retired (setS f.rd f.imm (slotAt s.dev (siteKey x)))))

/-- Table 06-3, comparisons and predicate logic: the result goes to p[rd] (a write of p0 has no effect, R139); nothing else changes
but pc. -/
def Obligations.ComparesAndPredicates : Prop :=
  (∀ e ∈ ([(.cmpEq, fun a b => a == b), (.cmpNe, fun a b => a != b), (.cmpLt, fun a b => decide (a.toInt < b.toInt)),
      (.cmpLtu, fun a b => decide (a.toNat < b.toNat)), (.cmpLe, fun a b => decide (a.toInt ≤ b.toInt)),
      (.cmpLeu, fun a b => decide (a.toNat ≤ b.toNat))] : List ((Site → FmtR → Instr) × (W32 → W32 → Bool))),
    ∀ (x : Site) (f : FmtR) (s : State), takes s.dev x f.g = true → f.rsvd = 0 → f.rd.toNat < 8 →
      ∃ t, exec (e.1 x f) s = .next t ∧
        SlotOnly s t (siteKey x) (retired (setP f.rd.toNat (e.2 (getS (slotAt s.dev (siteKey x)) f.rs1)
          (getS (slotAt s.dev (siteKey x)) f.rs2)) (slotAt s.dev (siteKey x))))) ∧
  (∀ e ∈ ([(.pand, fun a b => a && b), (.por, fun a b => a || b)] : List ((Site → FmtR → Instr) × (Bool → Bool → Bool))),
    ∀ (x : Site) (f : FmtR) (s : State), takes s.dev x f.g = true → f.rsvd = 0 → f.rd.toNat < 8 → f.rs1.toNat < 8 → f.rs2.toNat < 8 →
      ∃ t, exec (e.1 x f) s = .next t ∧
        SlotOnly s t (siteKey x) (retired (setP f.rd.toNat (e.2 (getP (slotAt s.dev (siteKey x)) f.rs1.toNat)
          (getP (slotAt s.dev (siteKey x)) f.rs2.toNat)) (slotAt s.dev (siteKey x))))) ∧
  (∀ (x : Site) (f : FmtR) (s : State), takes s.dev x f.g = true → f.rsvd = 0 → f.rd.toNat < 8 → f.rs1.toNat < 8 →
    ∃ t, exec (.pnot x f) s = .next t ∧
      SlotOnly s t (siteKey x) (retired (setP f.rd.toNat (!getP (slotAt s.dev (siteKey x)) f.rs1.toNat) (slotAt s.dev (siteKey x)))))

/-- Table 06-3, the address registers: arithmetic wraps modulo 2^48 (R139); a register number is 0 to 15 (R142). -/
def Obligations.AddressRegisters : Prop :=
  (∀ (x : Site) (f : FmtI) (s : State), takes s.dev x f.g = true → f.rsvd = 0 → f.rd.toNat < 16 → f.rs1.toNat < 16 →
    ∃ t, exec (.aaddi x f) s = .next t ∧ SlotOnly s t (siteKey x)
      (retired (setA f.rd.toNat (getA (slotAt s.dev (siteKey x)) f.rs1.toNat + f.imm.signExtend 48) (slotAt s.dev (siteKey x))))) ∧
  (∀ (x : Site) (f : FmtR) (s : State), takes s.dev x f.g = true → f.rsvd = 0 → f.rd.toNat < 16 → f.rs1.toNat < 16 →
    ∃ t, exec (.aadds x f) s = .next t ∧ SlotOnly s t (siteKey x)
      (retired (setA f.rd.toNat (getA (slotAt s.dev (siteKey x)) f.rs1.toNat + (getS (slotAt s.dev (siteKey x)) f.rs2).signExtend 48)
        (slotAt s.dev (siteKey x))))) ∧
  (∀ (x : Site) (f : FmtI) (s : State), takes s.dev x f.g = true → f.rsvd = 0 → f.rd.toNat < 16 → f.rs1 = 0 →
    ∃ t, exec (.amovi x f) s = .next t ∧ SlotOnly s t (siteKey x)
      (retired (setA f.rd.toNat (f.imm.zeroExtend 48) (slotAt s.dev (siteKey x))))) ∧
  (∀ (x : Site) (f : FmtI) (s : State), takes s.dev x f.g = true → f.rsvd = 0 → f.rd.toNat < 16 → f.rs1 = 0 → f.imm.extractLsb' 16 16 = 0 →
    ∃ t, exec (.ahi x f) s = .next t ∧ SlotOnly s t (siteKey x)
      (retired (setA f.rd.toNat (f.imm.extractLsb' 0 16 ++ (getA (slotAt s.dev (siteKey x)) f.rd.toNat).extractLsb' 0 32)
        (slotAt s.dev (siteKey x))))) ∧
  (∀ (x : Site) (f : FmtR) (s : State), takes s.dev x f.g = true → f.rsvd = 0 → f.rs1.toNat < 16 →
    ∃ t, exec (.amovs x f) s = .next t ∧ SlotOnly s t (siteKey x)
      (retired (setS f.rd ((getA (slotAt s.dev (siteKey x)) f.rs1.toNat).extractLsb' 0 32) (slotAt s.dev (siteKey x)))))

/-- LD, LDA, ST and STA: an aligned access inside the window is at cs_base + a[ra] + imm of core store (R137, R144). LD extends by its size,
LDA takes 48 bits of 8 bytes, and only the register, pc and the count of free values may change. Outside the code, ST stores the low bytes of
s[rs] and STA the 48 bits of a[rs] in 8 bytes (R138); every other byte reads as before, and only pc changes beside. -/
def Obligations.LoadsAndStores : Prop :=
  (∀ (x : Site) (f : FmtM) (s : State) (n : Nat), takes s.dev x f.g = true → f.rsvd = 0 →
    (f.size, n) ∈ [(0, 1), (1, 1), (2, 2), (3, 2), (4, 4)] →
    memOffset s.dev x f + n ≤ (slotAt s.dev (siteKey x)).winSize → memOffset s.dev x f % n = 0 →
    ∃ t, exec (.ld x f) s = .next t ∧
      SlotOnly { s with dev := drawFree s.dev } t (siteKey x)
        (retired (setS f.r (let v := unitNat s.dev (winBase s.dev (siteKey x) + memOffset s.dev x f) n
            if f.size = 0 then (BitVec.ofNat 8 v).signExtend 32 else if f.size = 2 then (BitVec.ofNat 16 v).signExtend 32
            else BitVec.ofNat 32 v) (slotAt s.dev (siteKey x))))) ∧
  (∀ (x : Site) (f : FmtM) (s : State), takes s.dev x f.g = true → f.rsvd = 0 → f.size = 6 → f.r.toNat < 16 →
    memOffset s.dev x f + 8 ≤ (slotAt s.dev (siteKey x)).winSize → memOffset s.dev x f % 8 = 0 →
    ∃ t, exec (.lda x f) s = .next t ∧
      SlotOnly { s with dev := drawFree s.dev } t (siteKey x)
        (retired (setA f.r.toNat (BitVec.ofNat 48 (unitNat s.dev (winBase s.dev (siteKey x) + memOffset s.dev x f) 8))
          (slotAt s.dev (siteKey x))))) ∧
  (∀ (x : Site) (f : FmtM) (s : State) (n : Nat), takes s.dev x f.g = true → f.rsvd = 0 →
    (f.size, n) ∈ [(0, 1), (2, 2), (4, 4)] → (slotAt s.dev (siteKey x)).codeSize ≤ memOffset s.dev x f →
    memOffset s.dev x f + n ≤ (slotAt s.dev (siteKey x)).winSize → memOffset s.dev x f % n = 0 →
    ∃ t, exec (.st x f) s = .next t ∧
      SlotOnly { s with dev := { s.dev with mem := t.dev.mem } } t (siteKey x) (retired (slotAt s.dev (siteKey x))) ∧
      ∀ j, tget 0 t.dev.mem j =
        if winBase s.dev (siteKey x) + memOffset s.dev x f ≤ j ∧ j < winBase s.dev (siteKey x) + memOffset s.dev x f + n
        then (leBytes n (getS (slotAt s.dev (siteKey x)) f.r).toNat).getD (j - (winBase s.dev (siteKey x) + memOffset s.dev x f)) 0
        else tget 0 s.dev.mem j) ∧
  (∀ (x : Site) (f : FmtM) (s : State), takes s.dev x f.g = true → f.rsvd = 0 → f.size = 6 → f.r.toNat < 16 →
    (slotAt s.dev (siteKey x)).codeSize ≤ memOffset s.dev x f →
    memOffset s.dev x f + 8 ≤ (slotAt s.dev (siteKey x)).winSize → memOffset s.dev x f % 8 = 0 →
    ∃ t, exec (.sta x f) s = .next t ∧
      SlotOnly { s with dev := { s.dev with mem := t.dev.mem } } t (siteKey x) (retired (slotAt s.dev (siteKey x))) ∧
      ∀ j, tget 0 t.dev.mem j =
        if winBase s.dev (siteKey x) + memOffset s.dev x f ≤ j ∧ j < winBase s.dev (siteKey x) + memOffset s.dev x f + 8
        then (leBytes 8 (getA (slotAt s.dev (siteKey x)) f.r.toNat).toNat).getD (j - (winBase s.dev (siteKey x) + memOffset s.dev x f)) 0
        else tget 0 s.dev.mem j)

/-- B, BAL and BR go to a target that is a multiple of 8 inside the code (R144): pc + 8 × imm counted from the branch itself, or s[rs];
BAL also sets s[rd] to pc + 8. NOP only moves pc on. -/
def Obligations.Branches : Prop :=
  (∀ (x : Site) (f : FmtB) (s : State) (p : Nat), takes s.dev x f.g = true → f.rsvd = 0 →
    ((slotAt s.dev (siteKey x)).pc.toNat : Int) + 8 * f.imm.toInt = p → p < (slotAt s.dev (siteKey x)).codeSize → p % 8 = 0 → p < 2 ^ 24 →
    (∃ t, exec (.b x f) s = .next t ∧
      SlotOnly s t (siteKey x) { retired (slotAt s.dev (siteKey x)) with pc := BitVec.ofNat 24 p }) ∧
    ∃ t, exec (.bal x f) s = .next t ∧
      SlotOnly s t (siteKey x) { retired (setS f.r (((slotAt s.dev (siteKey x)).pc + 8).zeroExtend 32) (slotAt s.dev (siteKey x))) with
        pc := BitVec.ofNat 24 p }) ∧
  (∀ (x : Site) (f : FmtB) (s : State), takes s.dev x f.g = true → f.rsvd = 0 → f.imm = 0 →
    (getS (slotAt s.dev (siteKey x)) f.r).toNat < (slotAt s.dev (siteKey x)).codeSize →
    (getS (slotAt s.dev (siteKey x)) f.r).toNat % 8 = 0 →
    ∃ t, exec (.br x f) s = .next t ∧
      SlotOnly s t (siteKey x) { retired (slotAt s.dev (siteKey x)) with
        pc := BitVec.ofNat 24 (getS (slotAt s.dev (siteKey x)) f.r).toNat }) ∧
  (∀ (x : Site) (f : FmtN) (s : State), takes s.dev x f.g = true → f.rsvd = 0 →
    ∃ t, exec (.nop x f) s = .next t ∧ SlotOnly s t (siteKey x) (retired (slotAt s.dev (siteKey x))))

/-- From R141: an instruction of any format whose guard is false retires with no effect and raises no exception. -/
def Obligations.FalseGuardRetires : Prop :=
  ∀ (i : Instr) (x : Site) (g : Guard) (s : State), issuedBy i = some (x, g) → canIssue s.dev (siteKey x) = true →
    (slotAt s.dev (siteKey x)).pc.toNat < (slotAt s.dev (siteKey x)).codeSize → guardHolds (slotAt s.dev (siteKey x)) g = false →
    ∃ t, exec i s = .next t ∧ SlotOnly s t (siteKey x) (retired (slotAt s.dev (siteKey x)))

/-- Table 06-12: CTL.RD of a register that is no monitor's puts its value in s[rd]; FT_LO (0x004) also latches FT_HI and FT_FRAC, and
CYCLES_LO (0x00A) CYCLES_HI. Nothing else changes but pc. -/
def Obligations.ControlRegisterReads : Prop :=
  (∀ e ∈ ([(0x000, fun d k => (slotAt d k).flags.toNat * 256 + (slotAt d k).rnd.toNat),
      (0x001, fun d k => (slotAt d k).live.toNat * 2 ^ 31 + (slotAt d k).ident.toNat * 256 + k % 2 * 32 + k / 2),
      (0x002, fun d k => regVal d (kLoomWidth (2 * (k / 2)))), (0x003, fun d k => regVal d (kLoomWidth (2 * (k / 2) + 1))),
      (0x005, fun d k => (slotAt d k).ftHi.toNat), (0x006, fun d k => (slotAt d k).ftFrac.toNat),
      (0x008, fun d k => (tget 0 d.core.semovf (k / 2)).toNat % 2 ^ 32), (0x009, fun d k => (tget 0 d.core.semovf (k / 2)).toNat / 2 ^ 32),
      (0x00B, fun d k => (slotAt d k).cyclesHi.toNat), (0x00C, fun d k => 0x1000000 * (k / 2) + (slotAt d k).csBase),
      (0x140, fun d k => (slotAt d k).winStat), (0x141, fun d k => (slotAt d k).winSkip.toNat)] : List (Nat × (Dev → Nat → Nat))),
    ∀ (x : Site) (f : FmtC) (s : State), takes s.dev x f.g = true → f.rsvd = 0 → f.idx.toNat = e.1 →
      ∃ t, exec (.ctlRd x f) s = .next t ∧
        SlotOnly s t (siteKey x) (retired (setS f.r (BitVec.ofNat 32 (e.2 s.dev (siteKey x))) (s.slot x)))) ∧
  (∀ (x : Site) (f : FmtC) (s : State), takes s.dev x f.g = true → f.rsvd = 0 → f.idx = 0x004 →
    ∃ t, exec (.ctlRd x f) s = .next t ∧
      SlotOnly s t (siteKey x) (retired (setS f.r (BitVec.ofNat 32 (s.dev.time.ft / 65536 % 2 ^ 32)) { s.slot x with
        ftHi := BitVec.ofNat 32 (s.dev.time.ft / 65536 / 2 ^ 32), ftFrac := BitVec.ofNat 16 (s.dev.time.ft % 65536) }))) ∧
  (∀ (x : Site) (f : FmtC) (s : State), takes s.dev x f.g = true → f.rsvd = 0 → f.idx = 0x00A →
    ∃ t, exec (.ctlRd x f) s = .next t ∧
      SlotOnly s t (siteKey x) (retired (setS f.r (BitVec.ofNat 32 ((s.dev.aclk - (s.slot x).launchAclk) % 2 ^ 32)) { s.slot x with
        cyclesHi := BitVec.ofNat 32 ((s.dev.aclk - (s.slot x).launchAclk) / 2 ^ 32) })))

/-- Tables 02-3, 06-12 and R155: CTL.WR clears the NUMCTL flags written 1, the SEMOVF bits written 1 that lie in the slot's mask, and
WIN_STAT.empty; a write of a read-only register changes nothing; pc moves on. -/
def Obligations.ControlRegisterWrites : Prop :=
  ∀ (x : Site) (f : FmtC) (s : State), takes s.dev x f.g = true → f.rsvd = 0 →
    (f.idx = 0x000 → ∃ t, exec (.ctlWr x f) s = .next t ∧
      SlotOnly s t (siteKey x) (retired { s.slot x with flags :=
        { invalid := (s.slot x).flags.invalid && !(getS (s.slot x) f.r).getLsbD 11,
          inexact := (s.slot x).flags.inexact && !(getS (s.slot x) f.r).getLsbD 10,
          underflow := (s.slot x).flags.underflow && !(getS (s.slot x) f.r).getLsbD 9,
          overflow := (s.slot x).flags.overflow && !(getS (s.slot x) f.r).getLsbD 8 } })) ∧
    (f.idx = 0x008 ∨ f.idx = 0x009 → ∃ t, exec (.ctlWr x f) s = .next t ∧
      (∀ c, tget 0 t.dev.core.semovf c = if c = x.core.val then tget 0 s.dev.core.semovf c &&&
          ~~~((if f.idx = 0x008 then (getS (s.slot x) f.r).zeroExtend 64 else (getS (s.slot x) f.r).zeroExtend 64 <<< 32) &&&
            (s.slot x).semMask) else tget 0 s.dev.core.semovf c) ∧
      SlotOnly { s with dev := { s.dev with core := { s.dev.core with semovf := t.dev.core.semovf } } } t (siteKey x) (retired (s.slot x))) ∧
    (f.idx = 0x140 → (getS (s.slot x) f.r).getLsbD 0 = true → ∃ t, exec (.ctlWr x f) s = .next t ∧
      SlotOnly s t (siteKey x) (retired { s.slot x with winStat := putFld (s.slot x).winStat 0 1 0 })) ∧
    (f.idx.toNat ∈ [0x001, 0x002, 0x003, 0x004, 0x005, 0x006, 0x00A, 0x00B, 0x00C, 0x141] →
      ∃ t, exec (.ctlWr x f) s = .next t ∧ SlotOnly s t (siteKey x) (retired (s.slot x)))

/-- From R99, R103, Table 04-4: a write of MON_CFG gives the monitor its enables and window; a write of MON_CTL with close evaluates and
resets the partial window, with clear alone resets it without evaluation; MON_WIN and the counters read as they are. A window that is
full closes first (`monSettled`, which does nothing when none is). A MON_CFG write of a window outside 10 to 24 is an illegal instruction. -/
def Obligations.MonitorRegisters : Prop :=
  (∀ (k m : Nat) (d : Dev), monDue (monAt d k m) = false → monSettled k m d = d) ∧
  (∀ (x : Site) (f : FmtCMon) (s : State), takes s.dev x f.g = true → f.rsvd = 0 → monDue (monAt s.dev (siteKey x) f.mon.val) = false →
    10 ≤ (getS (s.slot x) f.r).toNat % 32 → (getS (s.slot x) f.r).toNat % 32 ≤ 24 →
    (monAt s.dev (siteKey x) f.mon.val).elem < 2 ^ ((getS (s.slot x) f.r).toNat % 32) →
    ∃ t, exec (.monCfgWrite x f) s = .next t ∧
      monAt t.dev (siteKey x) f.mon.val = { monAt s.dev (siteKey x) f.mon.val with
        vanEvtEn := (getS (s.slot x) f.r).getLsbD 7, satEvtEn := (getS (s.slot x) f.r).getLsbD 6,
        enable := (getS (s.slot x) f.r).getLsbD 5, winExp := (getS (s.slot x) f.r).toNat % 32 } ∧
      SlotOnly s t (siteKey x) (retired { s.slot x with mons := (slotAt t.dev (siteKey x)).mons })) ∧
  (∀ (x : Site) (f : FmtCMon) (s : State), takes s.dev x f.g = true → f.rsvd = 0 →
    (getS (s.slot x) f.r).toNat % 32 < 10 ∨ 24 < (getS (s.slot x) f.r).toNat % 32 →
    ∃ t, exec (.monCfgWrite x f) s = .next t ∧ t.dev = stopSlot (siteKey x) 1 (wordC 0x3D (monToC f 0)) 0 s.dev) ∧
  (∀ (x : Site) (f : FmtCMon) (s : State), takes s.dev x f.g = true → f.rsvd = 0 → (getS (s.slot x) f.r).getLsbD 1 = true →
    ∃ t, exec (.monClose x f) s = .next t ∧
      t.dev = retireAt (siteKey x) (nextPc s.dev (siteKey x)) (monEvaluate (siteKey x) f.mon.val (monSettled (siteKey x) f.mon.val s.dev)) ∧
      (monAt t.dev (siteKey x) f.mon.val).elem = 0 ∧ (monAt t.dev (siteKey x) f.mon.val).sat = 0 ∧
      (monAt t.dev (siteKey x) f.mon.val).van = 0) ∧
  (∀ (x : Site) (f : FmtCMon) (s : State), takes s.dev x f.g = true → f.rsvd = 0 → monDue (monAt s.dev (siteKey x) f.mon.val) = false →
    (getS (s.slot x) f.r).getLsbD 1 = false → (getS (s.slot x) f.r).getLsbD 0 = true →
    ∃ t, exec (.monClear x f) s = .next t ∧
      monAt t.dev (siteKey x) f.mon.val = { monAt s.dev (siteKey x) f.mon.val with elem := 0, sat := 0, van := 0 } ∧
      SlotOnly s t (siteKey x) (retired { s.slot x with mons := (slotAt t.dev (siteKey x)).mons })) ∧
  (∀ e ∈ ([(3, fun m => m.elem), (4, fun m => m.sat), (5, fun m => m.van), (6, fun m => m.totSat), (7, fun m => m.totVan)] :
      List (Nat × (Mon → Nat))), ∀ (x : Site) (f : FmtC) (m : Fin 8) (s : State), takes s.dev x f.g = true → f.rsvd = 0 →
    f.idx.toNat = 0x100 + 8 * m.val + e.1 → monDue (monAt s.dev (siteKey x) m.val) = false →
    ∃ t, exec (.ctlRd x f) s = .next t ∧
      SlotOnly s t (siteKey x) (retired (setS f.r (BitVec.ofNat 32 (e.2 (monAt s.dev (siteKey x) m.val))) (s.slot x))))

/-- From R99, R100: the close of a full window evaluates it against both thresholds and starts its counts again; the totals stay. A window
over a threshold is counted, unless its event is enabled and none was raised in the last 200,000 ACLK: then the event is raised and the
count of windows starts again. -/
def Obligations.MonitorWindowCloses : Prop :=
  ∀ (x : Site) (m : Fin 8) (s : State), monDue (monAt s.dev (siteKey x) m.val) = true → (monAt s.dev (siteKey x) m.val).waiting = [] →
    ∃ t, exec (.monitorWindowClose x m) s = .next t ∧ t.pending = s.pending ∧
      (let a := monAt s.dev (siteKey x) m.val
       let b := monAt t.dev (siteKey x) m.val
       b.elem = 0 ∧ b.sat = 0 ∧ b.van = 0 ∧ b.totSat = a.totSat ∧ b.totVan = a.totVan ∧
       (a.sat * 65536 ≤ a.satThr * a.elem → b.overSat = a.overSat ∧ b.lastSatEvt = a.lastSatEvt) ∧
       (a.satThr * a.elem < a.sat * 65536 → a.satEvtEn = false → b.overSat = a.overSat + 1 ∧ b.lastSatEvt = a.lastSatEvt) ∧
       (a.satThr * a.elem < a.sat * 65536 → a.satEvtEn = true → monEvtFree s.dev.aclk a.lastSatEvt = true →
         b.overSat = 0 ∧ b.lastSatEvt = some s.dev.aclk) ∧
       (a.van * 65536 ≤ a.vanThr * a.elem → b.overVan = a.overVan ∧ b.lastVanEvt = a.lastVanEvt) ∧
       (a.vanThr * a.elem < a.van * 65536 → a.vanEvtEn = false → b.overVan = a.overVan + 1 ∧ b.lastVanEvt = a.lastVanEvt) ∧
       (a.vanThr * a.elem < a.van * 65536 → a.vanEvtEn = true → monEvtFree s.dev.aclk a.lastVanEvt = true →
         b.overVan = 0 ∧ b.lastVanEvt = some s.dev.aclk))

/-- From R161, R138, R142: an instruction fetched outside the code, or one whose guard holds and whose rsvd field is not 0, stops its slot
with cause 2 or 1: STOPPED, nothing held, the report of Table 06-14 kept, no register written. Where the slot serves no session and no
job, every other slot and every byte of memory stays. -/
def Obligations.ExceptionsStopTheSlot : Prop :=
  ∀ (x : Site) (f : FmtR) (s : State) (c a : Nat), canIssue s.dev (siteKey x) = true →
    ((s.slot x).codeSize ≤ (s.slot x).pc.toNat ∧ c = 2 ∧ a = (s.slot x).pc.toNat) ∨ (takes s.dev x f.g = true ∧ f.rsvd ≠ 0 ∧ c = 1 ∧ a = 0) →
    (s.slot x).ident.toNat < 65536 → (s.slot x).fn ≠ 2 →
      ∃ t, exec (.add x f) s = .next t ∧ t.pending = s.pending ∧
        slotAt t.dev (siteKey x) = { s.slot x with
          phase := .stopped, hold := .none, report := some (excReport (siteKey x) c (s.slot x) (wordR 0x01 f) a) } ∧
        (∀ j, j ≠ siteKey x → slotAt t.dev j = slotAt s.dev j) ∧ t.dev.mem = s.dev.mem

/-! ### Unit instructions (R104, R113, R145 to R152) -/

/-- WIN.SET and SIZE.SET take effect at issue (R104, R113): a legal descriptor at a legal place becomes the slot's window set or store
configuration; nothing else changes but pc (and the count of free values). q_en must be 0. -/
def Obligations.SlotConfiguration : Prop :=
  (∀ (x : Site) (f : FmtU) (s : State), takes s.dev x f.g = true → f.rsvd = 0 → f.sel.toNat < 4 → f.qEn = 0 → paramOk s.dev x f 16 = true →
    winRsvdOk (paramWords s.dev x f 16) = true → winOk (winParse (paramWords s.dev x f 16)) = true →
    winEnd (winParse (paramWords s.dev x f 16)) ≤ (s.slot x).winSize →
    ∃ t, exec (.winSet x f) s = .next t ∧ SlotOnly { s with dev := drawFree s.dev } t (siteKey x)
      (retired (setWin f.sel.toNat (winParse (paramWords s.dev x f 16)) (s.slot x)))) ∧
  (∀ (x : Site) (f : FmtU) (s : State), takes s.dev x f.g = true → f.rsvd = 0 → f.sel = 0 → f.qEn = 0 → paramOk s.dev x f 16 = true →
    vetted (s.slot x) (sizeRsvdOk (paramWords s.dev x f 16) && sizeOk (sizeParse (paramWords s.dev x f 16)) &&
        (sizeParse (paramWords s.dev x f 16)).act != 3 && (paramWords s.dev x f 16).getD 9 0 == 0 &&
        (paramWords s.dev x f 16).getD 10 0 == 0 && (paramWords s.dev x f 16).getD 11 0 == 0)
      (sizeNamed (sizeParse (paramWords s.dev x f 16))) (sizeAligned (sizeParse (paramWords s.dev x f 16)) true) = true →
    ∃ t, exec (.sizeSet x f) s = .next t ∧ SlotOnly { s with dev := drawFree s.dev } t (siteKey x)
      (retired { s.slot x with store := some (sizeParse (paramWords s.dev x f 16)) }))

/-- From R145 to R149, Table 06-9: each VEC instruction that passes its checks joins its slot's queue of the vector unit with its function,
its block, its window and its rounding mode, where the queue holds fewer than 16; its slot goes on. -/
def Obligations.VectorIssue : Prop :=
  ∀ e ∈ ([(.vecAdd, .add), (.vecSub, .sub), (.vecMul, .mul), (.vecFma, .fma), (.vecNeg, .neg), (.vecAbs, .abs), (.vecMin, .min),
      (.vecMax, .max), (.vecCeq, .ceq), (.vecCne, .cne), (.vecClt, .clt), (.vecCle, .cle), (.vecSel, .sel), (.vecCvt, .cvt),
      (.vecRcp, .rcp), (.vecRsq, .rsq), (.vecExp2, .exp2), (.vecLog2, .log2), (.vecTanh, .tanh), (.vecErf, .erf), (.vecGdn, .gdn),
      (.vecIgdn, .igdn)] : List ((Site → FmtV → Instr) × VecFn)),
    ∀ (x : Site) (f : FmtV) (s : State), takes s.dev x f.g = true → uOk s.dev x (vecToU f (vecSel e.2)) true = true →
      paramOk s.dev x (vecToU f (vecSel e.2)) 8 = true →
      (let ws := paramWords s.dev x (vecToU f (vecSel e.2)) 8
       vetted (s.slot x) (vecRsvdOk ws && vecOk e.2 (vecParse ws)) ((vecRanges e.2 (vecParse ws)).map (·.1))
         ((vecRanges e.2 (vecParse ws)).map (fun r => (r.1.at_, r.2))) = true) →
      ((unitAt s.dev (2 * x.core.val + 1)).queue x.slot.val).length < 16 →
      ∃ t, exec (e.1 x f) s = .next t ∧
        UnitGains s t x 1 (unitOpOf s x (if f.qEn = 1 then some f.q.toNat else none) (.vec e.2 (vecParse (paramWords s.dev x (vecToU f (vecSel e.2)) 8))))

/-- The same of SIZE.QUANT and CAL.ROT on the Sizing unit and of VEC.POOL on the vector unit; and a full queue holds issue (R149). -/
def Obligations.SizingAndPoolIssue : Prop :=
  (∀ (x : Site) (f : FmtU) (s : State), takes s.dev x f.g = true → uOk s.dev x f (f.sel == 0) = true → paramOk s.dev x f 16 = true →
    (let ws := paramWords s.dev x f 16
     let b := sizeParse ws
     vetted (s.slot x) (sizeRsvdOk ws && sizeOk b && b.regroup == 0 && b.qPitch % 64 == 0 && b.qLen != 0 && b.qRows != 0 &&
         (b.calH == 0 || b.qLen % calSize b.calH == 0))
       (sizeSide b false b.qLen b.qRows ++ sizeRows b b.qLen b.qRows ++ rowsOf false b.qSrc b.qPitch (4 * b.qLen) b.qRows)
       (sizeAligned b false ++ [(b.qSrc, 64)]) = true) →
    (((unitAt s.dev (2 * x.core.val)).queue x.slot.val).length < 16 → ∃ t, exec (.sizeQuant x f) s = .next t ∧
      UnitGains s t x 0 (unitOpOf s x (qOpt f) (.quant (sizeParse (paramWords s.dev x f 16))))) ∧
    (16 ≤ ((unitAt s.dev (2 * x.core.val)).queue x.slot.val).length → ∃ t, exec (.sizeQuant x f) s = .next t ∧
      SlotOnly s t (siteKey x) { s.slot x with hold := .fullQueue, headInsn := wordU 0x49 f })) ∧
  (∀ (x : Site) (f : FmtU) (s : State), takes s.dev x f.g = true → uOk s.dev x f (f.sel == 0) = true → paramOk s.dev x f 4 = true →
    (let ws := paramWords s.dev x f 4
     let b := rotParse ws
     vetted (s.slot x) ((ws.take 3).all (fun w => fld w 24 8 == 0) && b.calH != 0 && b.len != 0 && b.rows != 0 && b.pitch % 64 == 0 &&
         b.len % calSize b.calH == 0)
       (rowsOf false b.src b.pitch (4 * b.len) b.rows ++ rowsOf true b.dst b.pitch (4 * b.len) b.rows) [(b.src, 64), (b.dst, 64)] = true) →
    ((unitAt s.dev (2 * x.core.val)).queue x.slot.val).length < 16 → ∃ t, exec (.calRot x f) s = .next t ∧
      UnitGains s t x 0 (unitOpOf s x (qOpt f) (.rot (rotParse (paramWords s.dev x f 4))))) ∧
  (∀ (x : Site) (f : FmtU) (s : State) (w : WinDesc), takes s.dev x f.g = true → uOk s.dev x f (decide (f.sel.toNat < 4)) = true →
    paramOk s.dev x f 4 = true → getWin (s.slot x) f.sel.toNat = some w → w.mode ≠ 0 →
    (let ws := paramWords s.dev x f 4
     let b := poolParse ws
     fld (ws.getD 1 0) 13 19 = 0 ∧ fld (ws.getD 2 0) 24 8 = 0 ∧ fld (ws.getD 3 0) 24 8 = 0 ∧ b.m ≤ 4096 ∧ b.pitch % 64 = 0 ∧
     winEmpty w = false ∧ b.oFirst + b.m ≤ winPositions w ∧ firstOutside w (drawTaps w b.oFirst b.m) = none ∧
     vetted (s.slot x) true (rowsOf true b.dst b.pitch (rowBytes (poolDst w) w.kLen) b.m) [(b.dst, max 1 (dstBytes (poolDst w)))] = true) →
    ((unitAt s.dev (2 * x.core.val + 1)).queue x.slot.val).length < 16 → ∃ t, exec (.vecPool x f) s = .next t ∧
      UnitGains s t x 1 (unitOpOf s x (qOpt f) (.pool (poolParse (paramWords s.dev x f 4)) w f.sel.toNat)))

/-- From R64, R78, R146, R149: WARP.LOAD and WEFT.PASS that pass their checks join their slot's queue of the loom, with everything a pass uses
captured at issue; a WARP.LOAD is also the slot's last one on that loom. Nothing else changes. -/
def Obligations.LoomIssue : Prop :=
  (∀ (x : Site) (f : FmtU) (s : State), takes s.dev x f.g = true → uOk s.dev x f (decide (f.sel.toNat < 2)) = true → paramOk s.dev x f 4 = true →
    (let ws := paramWords s.dev x f 4
     let b := warpParse ws
     vetted (s.slot x) (warpRsvdOk ws && warpOk (loomWidth s.dev x.core.val f.sel.toNat) b)
       (rowsOf false b.src b.pitch b.n (tileRows b) ++ [rd b.scaleSrc (2 * b.n * ceilDiv b.kLen (gSize b.g))])
       [(b.src, 64), (b.scaleSrc, 64)] = true) →
    ((loomAt s.dev (2 * x.core.val + f.sel.toNat)).queue x.slot.val).length < 16 →
    ∃ t, exec (.warpLoad x f) s = .next t ∧
      slotAt t.dev (siteKey x) = retired (setSlotLoad f.sel.toNat (warpParse (paramWords s.dev x f 4)) (s.slot x)) ∧
      (∀ j, j ≠ siteKey x → slotAt t.dev j = slotAt s.dev j) ∧
      (∀ j, loomAt t.dev j = if j = 2 * x.core.val + f.sel.toNat then (loomAt s.dev j).setQueue x.slot.val ((loomAt s.dev j).queue x.slot.val ++
        [.load { slot := x.slot.val, q := qOpt f, base := winBase s.dev (siteKey x), blk := warpParse (paramWords s.dev x f 4) }])
        else loomAt s.dev j) ∧
      t = { s with dev := { s.dev with
        free := t.dev.free, core := { s.dev.core with slots := t.dev.core.slots, looms := t.dev.core.looms } } }) ∧
  (∀ (x : Site) (f : FmtU) (s : State) (ld : WarpBlk) (w : Option WinDesc) (st : Option SizeBlk) (rg : Option RegroupRec),
    takes s.dev x f.g = true → uOk s.dev x f (decide (f.sel.toNat < 2)) = true → paramOk s.dev x f 8 = true →
    slotLoad (s.slot x) f.sel.toNat = some ld →
    (let ws := paramWords s.dev x f 8
     let b := weftParse ws
     weftRsvdOk ws b = true ∧ weftOk b ld = true ∧
     (b.selvedge = false ∧ w = none ∨ b.selvedge = true ∧ getWin (s.slot x) b.ws = w ∧ ∃ v, w = some v ∧ weftWinOk b v = true) ∧
     (b.partialOut = true ∧ st = none ∨ b.partialOut = false ∧ (s.slot x).store = st ∧
       ∃ c, st = some c ∧ (c.calH = 0 ∨ ld.n % calSize c.calH = 0) ∧ (c.regroup = 0 ∨ b.selvedge = true)) ∧
     (rg = none ∧ (∀ c, st = some c → c.regroup = 0) ∨ ∃ c r, rg = some r ∧ st = some c ∧ c.regroup ≠ 0 ∧ c.rgLayout + 16 ≤ (s.slot x).winSize ∧
       (let rs := leWords 4 (unitBytes (drawFree s.dev) (winBase s.dev (siteKey x) + c.rgLayout) 16)
        r = rgParse rs ∧ rgOk rs r = true)) ∧
     (∀ v, w = some v → firstOutside v (drawTaps v b.src (drawRows b w)) = none) ∧
     (∀ c r v, st = some c → rg = some r → w = some v → rgOutside (s.slot x) c r v b.src ld.n (drawRows b w) = none) ∧
     vetted (s.slot x) true (weftRanges b ld w st) (weftAligned b) = true) →
    ((loomAt s.dev (2 * x.core.val + f.sel.toNat)).queue x.slot.val).length < 16 →
    ∃ t, exec (.weftPass x f) s = .next t ∧
      slotAt t.dev (siteKey x) = retired (s.slot x) ∧ (∀ j, j ≠ siteKey x → slotAt t.dev j = slotAt s.dev j) ∧
      (∀ j, loomAt t.dev j = if j = 2 * x.core.val + f.sel.toNat then (loomAt s.dev j).setQueue x.slot.val ((loomAt s.dev j).queue x.slot.val ++
        [.pass { slot := x.slot.val, q := qOpt f, base := winBase s.dev (siteKey x), mode := slotMode (s.slot x),
                 blk := weftParse (paramWords s.dev x f 8), store := st, rg := rg, win := w }]) else loomAt s.dev j) ∧
      t = { s with dev := { s.dev with
        free := t.dev.free, core := { s.dev.core with slots := t.dev.core.slots, looms := t.dev.core.looms } } })

/-! ### Streams, the Quire path, semaphores and waits (R149 to R189) -/

/-- From R167, R169, R173, R180, R189, R193: a STRM.GO that passes its checks joins its slot's queue of engine sel where it holds fewer than 8;
truncation marks of the slot that its packed range overlaps end; STRM.REARM joins with the fields of its slot's persistent descriptor and
its own bases; STRM.CANCEL cancels every descriptor of the slot on the engine and joins behind them. The slot goes on. -/
def Obligations.StreamIssue : Prop :=
  (∀ (x : Site) (f : FmtU) (s : State), takes s.dev x f.g = true → uOk s.dev x f (decide (f.sel.toNat < 4)) = true →
    paramOk s.dev x f 16 = true → (strmParse (paramWords s.dev x f 16)).rearm = false →
    vetted (s.slot x) (strmRsvdOk (paramWords s.dev x f 16) && strmOk (s.slot x) x.core.val (strmParse (paramWords s.dev x f 16)))
      (strmRanges (strmParse (paramWords s.dev x f 16)) 0) [] = true →
    ((engAt s.dev (engKey x.core.val f.sel.toNat)).queue x.slot.val).length < 8 →
    ∃ t, exec (.strmGo x f) s = .next t ∧
      StreamGains s t x f.sel.toNat (newRun s.dev (siteKey x) (qOpt f) (strmParse (paramWords s.dev x f 16)) 0)) ∧
  (∀ (x : Site) (f : FmtU) (s : State) (a : Armed), takes s.dev x f.g = true → uOk s.dev x f (decide (f.sel.toNat < 4)) = true →
    paramOk s.dev x f 16 = true → (strmParse (paramWords s.dev x f 16)).rearm = true →
    persistent (engAt s.dev (engKey x.core.val f.sel.toNat)) x.slot.val = some a →
    (let b := strmParse (paramWords s.dev x f 16)
     let n := rearmed a.blk b
     vetted (s.slot x) (!b.persist && fld ((paramWords s.dev x f 16).getD 2 0) 24 6 == 0 && (n.patSpace == 2 || decide (n.patBase < 2 ^ 48)) &&
         n.pkBase % 64 == 0 && (n.patSpace == 3 || n.patDev == 0) && (!n.mcast || n.patSpace == 1) && strmSemsOk (s.slot x) x.core.val n)
       (strmRanges n a.tiles) [] = true) →
    ((engAt s.dev (engKey x.core.val f.sel.toNat)).queue x.slot.val).length < 8 →
    ∃ t, exec (.strmRearm x f) s = .next t ∧ StreamGains s t x f.sel.toNat
      (newRun s.dev (siteKey x) (qOpt f) (rearmed a.blk (strmParse (paramWords s.dev x f 16))) a.tiles)) ∧
  (∀ (x : Site) (f : FmtU) (s : State), takes s.dev x f.g = true → uOk s.dev x f (decide (f.sel.toNat < 5)) = true → f.ra = 0 → f.off = 0 →
    (f.sel.toNat < 4 → ((engAt s.dev (engKey x.core.val f.sel.toNat)).queue x.slot.val).length < 8 →
      ∃ t, exec (.strmCancel x f) s = .next t ∧ slotAt t.dev (siteKey x) = retired (s.slot x) ∧
        (engAt t.dev (engKey x.core.val f.sel.toNat)).queue x.slot.val =
          ((engAt s.dev (engKey x.core.val f.sel.toNat)).queue x.slot.val).map (cancelEntry s.dev.aclk) ++ [.cancel (qOpt f)] ∧
        (engAt t.dev (engKey x.core.val f.sel.toNat)).armed x.slot.val = none ∧ t.dev.mem = s.dev.mem) ∧
    (f.sel.toNat = 4 → ∃ t, exec (.strmCancel x f) s = .next t ∧ slotAt t.dev (siteKey x) = retired (s.slot x) ∧
        quireAt t.dev x.core.val = { quireAt s.dev x.core.val with
          ops := (quireAt s.dev x.core.val).ops.filter (fun o => !(o.slot == x.slot.val && (!o.started || o.page.isSome)))
          cancels := (quireAt s.dev x.core.val).cancels ++ [(x.slot.val, s.dev.nextId, qOpt f)] } ∧ t.dev.mem = s.dev.mem))

/-- From R149, R186: a QUIRE_COPY or QUIRE_SIGNAL that passes its checks joins its core's transfers with the next number; one without a wait
starts at once, and one that reads from or signals another device sends its request. The slot goes on. -/
def Obligations.QuireIssue : Prop :=
  ∀ e ∈ ([(.quireCopy, false), (.quireSignal, true)] : List ((Site → FmtU → Instr) × Bool)),
    ∀ (x : Site) (f : FmtU) (s : State), takes s.dev x f.g = true → uOk s.dev x f (f.sel == 4) = true → paramOk s.dev x f 8 = true →
      (quireParse (paramWords s.dev x f 8)).signal = e.2 →
      (let b := quireParse (paramWords s.dev x f 8)
       vetted (s.slot x) (quireRsvdOk (paramWords s.dev x f 8) && quireCommonOk b && (if b.signal then quireSignalOk b else quireCopyOk b) &&
         quireSemsOk (s.slot x) x.core.val b) (quireRanges b) [] = true) →
      (quireAt s.dev x.core.val).ops.length < 64 →
      (liveSlot s.dev x.core.val (1 - x.slot.val) = false ∨ liveSlot s.dev x.core.val x.slot.val = true ∨
        ((quireAt s.dev x.core.val).ops.filter (fun o => o.slot == x.slot.val)).length < 32) →
      ∃ t, exec (e.1 x f) s = .next t ∧
        (let b := quireParse (paramWords s.dev x f 8)
         let o := transferOf s x (qOpt f) b
         (b.waitEn = true ∨ (b.srcSpace ≠ 3 ∧ b.dstSpace ≠ 3) →
           quireAt t.dev x.core.val = { quireAt s.dev x.core.val with ops := (quireAt s.dev x.core.val).ops ++ [o] } ∧
           t.dev.nextId = s.dev.nextId + 1 ∧
           SlotOnly { s with dev := { s.dev with free := t.dev.free, nextId := t.dev.nextId, strm := t.dev.strm } } t (siteKey x)
             (retired (s.slot x))) ∧
         ∃ d, (quireAt d x.core.val).ops = (quireAt s.dev x.core.val).ops ++ [o] ∧
           t.dev = retireAt (siteKey x) (nextPc s.dev (siteKey x)) (if b.waitEn then d else quireStart (siteKey x) o d))

/-- From R153, R154, Table 06-1: SEM.POST adds a signed count to semaphore q; a sum past 65,535 leaves 65,535 and sets q's overflow bit; a
decrease below 0 is the semaphore underflow exception (cause 4). Every other semaphore keeps its count. -/
def Obligations.SemaphorePost : Prop :=
  ∀ (x : Site) (f : FmtS) (s : State), takes s.dev x f.g = true → f.rsvd = 0 → semOk (s.slot x) f.q.toNat = true →
    semGet s.dev x.core.val f.q.toNat ≤ 65535 →
    (0 ≤ (semGet s.dev x.core.val f.q.toNat : Int) + f.count.toInt → ∃ t, exec (.semPost x f) s = .next t ∧
      semGet t.dev x.core.val f.q.toNat = min 65535 ((semGet s.dev x.core.val f.q.toNat : Int) + f.count.toInt).toNat ∧
      (∀ c q, q < 64 → (c, q) ≠ (x.core.val, f.q.toNat) → semGet t.dev c q = semGet s.dev c q) ∧
      (∀ c, tget 0 t.dev.core.semovf c = if c = x.core.val ∧ 65535 < (semGet s.dev x.core.val f.q.toNat : Int) + f.count.toInt
        then tget 0 s.dev.core.semovf c ||| (1 <<< f.q.toNat) else tget 0 s.dev.core.semovf c) ∧
      SlotOnly { s with dev := { s.dev with core := { s.dev.core with sems := t.dev.core.sems, semovf := t.dev.core.semovf } } } t (siteKey x)
        (retired (s.slot x))) ∧
    ((semGet s.dev x.core.val f.q.toNat : Int) + f.count.toInt < 0 → ∃ t, exec (.semPost x f) s = .next t ∧
      t.dev = stopSlot (siteKey x) 4 (wordS 0x68 f) (f.q.toNat * 65536 + semGet s.dev x.core.val f.q.toNat) s.dev)

/-- From R151, R153, R156, R157, R162, R188: SEM.WAIT, TIME.WAIT for an instant to come, LINE.WAIT, FENCE, STRM.WAIT and HALT hold their slot's
issue and change nothing else (TIME.WAIT sets p[pd]); a TIME.WAIT whose instant has come goes on with p[pd] = 0, and one more than
2^40 ns ahead is an illegal instruction. -/
def Obligations.WaitsHoldIssue : Prop :=
  (∀ (x : Site) (f : FmtS) (s : State), takes s.dev x f.g = true → f.rsvd = 0 → f.count ≠ 0 → semOk (s.slot x) f.q.toNat = true →
    ∃ t, exec (.semWait x f) s = .next t ∧
      SlotOnly s t (siteKey x) { s.slot x with hold := .semWait f.q.toNat f.count.toNat, headInsn := wordS 0x69 f }) ∧
  (∀ (x : Site) (f : FmtL) (s : State), takes s.dev x f.g = true → f.rsvd = 0 → f.lp.toNat ∈ (s.slot x).ports →
    ∃ t, exec (.lineWait x f) s = .next t ∧
      SlotOnly s t (siteKey x) { s.slot x with
        hold := .lineWait f.lp.toNat (getS (s.slot x) f.rf).toNat (getS (s.slot x) f.rl).toNat f.pd.toNat, headInsn := wordL 0x71 f }) ∧
  (∀ (x : Site) (f : FmtF) (s : State), takes s.dev x f.g = true → f.rsvd = 0 → f.mask.toNat < 512 →
    ∃ t, exec (.fence x f) s = .next t ∧ SlotOnly s t (siteKey x) { s.slot x with hold := .fence f.mask, headInsn := wordF 0x78 f }) ∧
  (∀ (x : Site) (f : FmtU) (s : State), takes s.dev x f.g = true → f.rsvd = 0 → f.sel.toNat < 5 → f.qEn = 0 → f.ra = 0 → f.off = 0 →
    ∃ t, exec (.strmWait x f) s = .next t ∧
      SlotOnly s t (siteKey x) { s.slot x with hold := .strmWait f.sel.toNat, headInsn := wordU 0x61 f }) ∧
  (∀ (x : Site) (f : FmtN) (s : State), takes s.dev x f.g = true → f.rsvd = 0 →
    ∃ t, exec (.halt x f) s = .next t ∧ SlotOnly s t (siteKey x) { s.slot x with hold := .halt, headInsn := wordN 0x7F f }) ∧
  (∀ (x : Site) (f : FmtT) (s : State), takes s.dev x f.g = true → f.rsvd = 0 → f.rs.toNat % 2 = 0 →
    (let i := (getS (s.slot x) f.rs).toNat + (getS (s.slot x) (f.rs + 1)).toNat * 2 ^ 32
     (i ≤ s.dev.time.ft / 65536 → ∃ t, exec (.timeWait x f) s = .next t ∧ SlotOnly s t (siteKey x) (retired (setP f.pd.toNat false (s.slot x)))) ∧
     (s.dev.time.ft / 65536 < i → i ≤ s.dev.time.ft / 65536 + 2 ^ 40 → ∃ t, exec (.timeWait x f) s = .next t ∧
       SlotOnly s t (siteKey x) { setP f.pd.toNat true (s.slot x) with hold := .timeWait i, headInsn := wordT 0x70 f }) ∧
     (s.dev.time.ft / 65536 + 2 ^ 40 < i → ∃ t, exec (.timeWait x f) s = .next t ∧
       t.dev = stopSlot (siteKey x) 1 (wordT 0x70 f) 0 s.dev)))

/-- From R151, R153, R154, R156, R157, R188: a slot that waits goes on when its condition holds: a SEM.WAIT whose semaphore has its count, which
it takes; a TIME.WAIT whose instant has come; a LINE.WAIT whose line is reached (p[pd] = 1) or whose port is unbound (p[pd] = 0); a FENCE
and a STRM.WAIT whose queues are clear. -/
def Obligations.WaitsEnd : Prop :=
  (∀ (x : Site) (s : State) (q n : Nat), (s.slot x).phase = .running → (s.slot x).hold = .semWait q n → n ≤ semGet s.dev x.core.val q →
    ∃ t, exec (.semWaitGrant x) s = .next t ∧
      (∀ c p, p < 64 → q < 64 → semGet s.dev x.core.val q ≤ 65535 →
        semGet t.dev c p = if (c, p) = (x.core.val, q) then semGet s.dev c p - n else semGet s.dev c p) ∧
      SlotOnly { s with dev := { s.dev with core := { s.dev.core with sems := t.dev.core.sems } } } t (siteKey x) (retired (s.slot x))) ∧
  (∀ (x : Site) (s : State) (i : Nat), (s.slot x).phase = .running → (s.slot x).hold = .timeWait i → i ≤ s.dev.time.ft / 65536 →
    ∃ t, exec (.timeWaitEnd x) s = .next t ∧ SlotOnly s t (siteKey x) (retired (s.slot x))) ∧
  (∀ (x : Site) (s : State) (lp f l pd : Nat) (p : LivePort), (s.slot x).phase = .running → (s.slot x).hold = .lineWait lp f l pd →
    tget none s.dev.live.ports lp = some p → lineReached p f l = true →
    ∃ t, exec (.lineWaitEnd x) s = .next t ∧ SlotOnly s t (siteKey x) (retired (setP pd true (s.slot x)))) ∧
  (∀ (x : Site) (s : State) (lp f l pd : Nat), (s.slot x).phase = .running → (s.slot x).hold = .lineWait lp f l pd →
    tget none s.dev.live.ports lp = none →
    ∃ t, exec (.lineWaitEnd x) s = .next t ∧ SlotOnly s t (siteKey x) (retired (setP pd false (s.slot x)))) ∧
  (∀ (x : Site) (s : State) (m : BitVec 16), (s.slot x).phase = .running → (s.slot x).hold = .fence m →
    (∀ b, b < 9 → m = 0 ∨ m.getLsbD b = true → queueClear s.dev x.core.val x.slot.val b = true) →
    ∃ t, exec (.fenceRelease x) s = .next t ∧ SlotOnly s t (siteKey x) (retired (s.slot x))) ∧
  (∀ (x : Site) (s : State) (e : Nat), (s.slot x).phase = .running → (s.slot x).hold = .strmWait e →
    strmClear s.dev x.core.val e x.slot.val = true →
    ∃ t, exec (.strmWaitRelease x) s = .next t ∧ SlotOnly s t (siteKey x) (retired (s.slot x)))

/-! ### The life of a slot, and the events of units, looms, streams and the Quire path -/

/-- From R134, R139, R155, R163 to R166: a launch whose image keeps the rules and fits starts the slot at its entry with the launch arguments in
its first registers and every other register 0; its semaphores and their overflow bits are 0; the code stands at the window's base, and
no byte outside the window changes. An image or a static scale that breaks a rule changes no slot and no byte of a session's launch. -/
def Obligations.ProgramLaunch : Prop :=
  (∀ (x : Site) (r : LaunchReq) (s : State), (s.slot x).phase = .idle → schedulerUp s.dev = true → launchOk r = true →
    launchFits s.dev (siteKey x) r (imgHdr r.image) = true → launchArgsOk s.dev r = true →
    x.core.val ∉ s.dev.pwr.gated → x.core.val ∉ s.dev.pwr.chosen →
    ∃ t, exec (.programLaunch x r) s = .next t ∧ t.pending = s.pending ∧
      slotAt t.dev (siteKey x) = launched s.dev r (imgHdr r.image) ∧ (∀ j, j ≠ siteKey x → slotAt t.dev j = slotAt s.dev j) ∧
      (∀ q, q < 64 → (BitVec.ofNat 64 (imgHdr r.image).semMask).getLsbD q = true →
        semGet t.dev x.core.val q = 0 ∧ (tget 0 t.dev.core.semovf x.core.val).getLsbD q = false) ∧
      (∀ j, j < 0x1000000 * x.core.val + r.csBase.toNat ∨ 0x1000000 * x.core.val + r.csBase.toNat + (imgHdr r.image).windowSize ≤ j →
        tget 0 t.dev.mem j = tget 0 s.dev.mem j) ∧
      (∀ i, i < (imgHdr r.image).codeSize →
        tget 0 t.dev.mem (0x1000000 * x.core.val + r.csBase.toNat + i) = r.image.getD ((imgHdr r.image).codePtr + i) 0)) ∧
  (∀ (x : Site) (r : LaunchReq) (s : State), (s.slot x).phase = .idle → schedulerUp s.dev = true → launchOk r = false →
    ∃ t, exec (.programLaunch x r) s = .next t ∧ t.dev = launchRefused r.fn.val r.ident s.dev ∧
      (65536 ≤ r.ident.toNat → t.dev.core = s.dev.core ∧ t.dev.mem = s.dev.mem))

/-- From R134, R160, R161, R162, R180: a HALT whose work has ended makes its slot HALTED and disarms its descriptors; a slot that has retired
nothing for 2^wd_exp ACLK stops with cause 5 and the watchdog event; a HALTED or STOPPED slot returns to IDLE. Stated in full where the
slot serves no session and no job; else the firmware's completion of that work follows. -/
def Obligations.SlotEnds : Prop :=
  (∀ (x : Site) (s : State), (s.slot x).phase = .running → (s.slot x).hold = .halt →
    (∀ b, b < 9 → queueClear s.dev x.core.val x.slot.val b = true) →
    ∃ t, exec (.haltComplete x) s = .next t ∧
      t.dev = haltWork (siteKey x) (disarm x.core.val x.slot.val
        (updSlot (siteKey x) (fun sl => { sl with phase := .halted, hold := .none, wdCount := 0 }) s.dev)) ∧
      ((s.slot x).ident.toNat < 65536 → (s.slot x).fn ≠ 2 →
        slotAt t.dev (siteKey x) = { s.slot x with phase := .halted, hold := .none, wdCount := 0 } ∧
        (∀ j, j ≠ siteKey x → slotAt t.dev j = slotAt s.dev j) ∧ t.dev.mem = s.dev.mem)) ∧
  (∀ (x : Site) (s : State), (s.slot x).phase = .running → 2 ^ (s.slot x).wdExp ≤ (s.slot x).wdCount →
    ∃ t, exec (.watchdogExpiry x) s = .next t ∧
      t.dev = stopSlot (siteKey x) 5 (headWord s.dev (siteKey x)) (holdKind (s.slot x).hold)
        (raiseEvent 0x0E 1 (siteKey x) [(s.slot x).ident.toNat, (s.slot x).pc.toNat] s.dev) ∧
      ((s.slot x).ident.toNat < 65536 → (s.slot x).fn ≠ 2 → (slotAt t.dev (siteKey x)).phase = .stopped ∧
        (∀ j, j ≠ siteKey x → slotAt t.dev j = slotAt s.dev j) ∧ t.dev.mem = s.dev.mem)) ∧
  (∀ (x : Site) (s : State), (s.slot x).phase = .halted ∨ (s.slot x).phase = .stopped →
    ∃ t, exec (.slotReturnIdle x) s = .next t ∧
      SlotOnly s t (siteKey x) { s.slot x with phase := .idle, live := false, report := none })

/-- From R68 to R73, R80, R82: the loom's own events. A WARP.LOAD at the head of its slot's queue begins to fill free standby registers; a
complete fill is the standby warp and posts; a warp that was overwritten is loaded again; a pass starts with its warp, which moves from
the standby to the active registers; an empty pass ends with its post alone. -/
def Obligations.LoomEvents : Prop :=
  (∀ (c : Fin 32) (l sl : Fin 2) (s : State) (o : LoadOp) (rest : List LoomOp),
    (loomAt s.dev (2 * c.val + l.val)).queue sl.val = .load o :: rest → standbyFree s.dev c.val (loomAt s.dev (2 * c.val + l.val)) sl.val = true →
    ∃ t, exec (.warpFillStart c l sl) s = .next t ∧ LoomOnly s t (2 * c.val + l.val) ∧
      (loomAt t.dev (2 * c.val + l.val)).fill = some (o, false) ∧ (loomAt t.dev (2 * c.val + l.val)).queue sl.val = rest ∧
      (loomAt t.dev (2 * c.val + l.val)).standby = none ∧
      (loomAt t.dev (2 * c.val + l.val)).active = (loomAt s.dev (2 * c.val + l.val)).active) ∧
  (∀ (c : Fin 32) (l : Fin 2) (s : State) (o : LoadOp) (rep : Bool), (loomAt s.dev (2 * c.val + l.val)).fill = some (o, rep) →
    ∃ t, exec (.warpLoadComplete c l) s = .next t ∧ (loomAt t.dev (2 * c.val + l.val)).fill = none ∧
      (loomAt t.dev (2 * c.val + l.val)).standby = some (readWarp s.dev o) ∧
      (loomAt t.dev (2 * c.val + l.val)).queue0 = (loomAt s.dev (2 * c.val + l.val)).queue0 ∧
      (loomAt t.dev (2 * c.val + l.val)).queue1 = (loomAt s.dev (2 * c.val + l.val)).queue1 ∧
      t.dev.core.sems = (postOpt c.val (if rep then none else o.q) s.dev).core.sems ∧
      t.dev.core.slots = s.dev.core.slots ∧ t.dev.mem = s.dev.mem) ∧
  (∀ (c : Fin 32) (l sl : Fin 2) (s : State) (o : LoadOp), (loomAt s.dev (2 * c.val + l.val)).lost sl.val = true →
    headIsPass (loomAt s.dev (2 * c.val + l.val)) sl.val = true → (loomAt s.dev (2 * c.val + l.val)).lastLoad sl.val = some o →
    standbyFree s.dev c.val (loomAt s.dev (2 * c.val + l.val)) sl.val = true →
    ∃ t, exec (.warpReload c l sl) s = .next t ∧ LoomOnly s t (2 * c.val + l.val) ∧
      (loomAt t.dev (2 * c.val + l.val)).fill = some (o, true) ∧ (loomAt t.dev (2 * c.val + l.val)).lost sl.val = false ∧
      (loomAt t.dev (2 * c.val + l.val)).queue sl.val = (loomAt s.dev (2 * c.val + l.val)).queue sl.val) ∧
  (∀ (c : Fin 32) (l : Fin 2) (s : State) (sl : Nat) (o : PassOp) (rest : List LoomOp) (w : Warp),
    loomPick s.dev c.val (loomAt s.dev (2 * c.val + l.val)) = some sl →
    (loomAt s.dev (2 * c.val + l.val)).queue sl = .pass o :: rest → passWarp (loomAt s.dev (2 * c.val + l.val)) sl = some w →
    ∃ t, exec (.loomPassStart c l) s = .next t ∧ LoomOnly s t (2 * c.val + l.val) ∧
      (loomAt t.dev (2 * c.val + l.val)).flights = (loomAt s.dev (2 * c.val + l.val)).flights ++
        [{ op := o, warp := w, rows := drawRows o.blk o.win }] ∧
      (loomAt t.dev (2 * c.val + l.val)).active = some w ∧ (loomAt t.dev (2 * c.val + l.val)).served = sl ∧
      (loomAt t.dev (2 * c.val + l.val)).queue sl = rest) ∧
  (∀ (c : Fin 32) (l : Fin 2) (s : State), (loomAt s.dev (2 * c.val + l.val)).flights.any (fun f => decide (rowsBeforeMark s.dev f < f.rows)) = true →
    ∃ t, exec (.truncationTokenReceived c l) s = .next t ∧ LoomOnly s t (2 * c.val + l.val) ∧
      loomAt t.dev (2 * c.val + l.val) = { loomAt s.dev (2 * c.val + l.val) with
        flights := cutFlight s.dev (loomAt s.dev (2 * c.val + l.val)).flights }) ∧
  (∀ (c : Fin 32) (l : Fin 2) (e : Bool) (s : State) (f : Flight) (rest : List Flight),
    takeFirst (fun f => f.empty == e) (loomAt s.dev (2 * c.val + l.val)).flights = some (f, rest) → rowsBeforeMark s.dev f = f.rows →
    ∃ t, exec (.passComplete c l e) s = .next t ∧
      (e = true → f.op.win = none → (loomAt t.dev (2 * c.val + l.val)).flights = rest ∧ t.dev.mem = s.dev.mem ∧
        t.dev.core.slots = s.dev.core.slots ∧ t.dev.core.sems = (postOpt c.val f.op.q s.dev).core.sems) ∧
      t.dev = postOpt c.val f.op.q
        (let d := updLoom (2 * c.val + l.val) (fun u => { u with flights := rest }) s.dev
         let d := match f.op.win with
           | some w => if winEmpty w then drawEmpty (slotKey c.val f.op.slot) f.op.blk.ws d else d
           | none => d
         if e then d else drawFree (runPass c.val f d)))

/-- From R145, R152: the operation that the Sizing or the vector unit runs completes: its results, its post, and the unit goes on with a
suspended operation or the next of its queues. An INT32 sum of VEC.ADD and VEC.SUB saturates (Table 06-9), a comparison is 1 or 0. -/
def Obligations.UnitCompletes : Prop :=
  (∀ (c : Fin 32) (v : Bool) (s : State) (o : UnitOp) (rest : List UnitOp), (unitAt s.dev (2 * c.val + v.toNat)).begun = o :: rest →
    ∃ t, exec (.unitOperationComplete c v) s = .next t ∧ t.pending = s.pending ∧
      t.dev = unitKick c.val v.toNat (postOpt c.val o.q
        (drawFree (runUnit c.val o (updUnit (2 * c.val + v.toNat) (fun u => { u with begun := rest }) s.dev))))) ∧
  (∀ (md : Mode) (a b : W32) (tc : Nat) (z : XR),
    (runNum (vecScalar md .add 3 3 tc 3 (xrInt a.toInt) (xrInt b.toInt) z)).1 =
      codeOf 32 (max (-2147483648) (min 2147483647 (a.toInt + b.toInt))) ∧
    (runNum (vecScalar md .sub 3 3 tc 3 (xrInt a.toInt) (xrInt b.toInt) z)).1 =
      codeOf 32 (max (-2147483648) (min 2147483647 (a.toInt - b.toInt))) ∧
    (runNum (vecScalar md .clt 3 3 tc 3 (xrInt a.toInt) (xrInt b.toInt) z)).1 = if a.toInt < b.toInt then 1 else 0)

/-- From R167, R174, R176, R181, R184, R189: the events of a stream descriptor. Once the previous descriptor has issued its last request the
engine checks and begins the next; a tile's credit is taken from its semaphore; a request of the chosen slot is issued and later ends; a
descriptor with nothing left to do completes with its record, post and kept status; a cancelled one abandons its requests after 4,000
ACLK (the model's reading of R189). -/
def Obligations.StreamEvents : Prop :=
  (∀ (x : Site) (e : Fin 5) (s : State) (r : StrmRun), e.val < 4 →
    currentRun ((engAt s.dev (engKey x.core.val e.val)).queue x.slot.val) = some r → r.started = false →
    ∃ t, exec (.streamStart x e) s = .next t ∧
      t = { s with dev := { s.dev with strm := { s.dev.strm with engines := t.dev.strm.engines } } } ∧
      (∀ j, j ≠ engKey x.core.val e.val → engAt t.dev j = engAt s.dev j) ∧
      (startFault s.dev (siteKey x) r = none → r.next < totalElems r.blk →
        currentRun ((engAt t.dev (engKey x.core.val e.val)).queue x.slot.val) = some { r with started := true }) ∧
      (∀ a, startFault s.dev (siteKey x) r = some a →
        (engAt t.dev (engKey x.core.val e.val)).queue x.slot.val = mapRun (fun r => !runIssued r)
          (fun r => match startFault s.dev (siteKey x) r with
            | some a => { r with term := some (0x12, a) }
            | none => { r with started := true }) ((engAt s.dev (engKey x.core.val e.val)).queue x.slot.val))) ∧
  (∀ (x : Site) (e : Fin 4) (pt : Bool) (s : State) (r : StrmRun) (q n : Nat),
    currentRun ((engAt s.dev (engKey x.core.val e.val)).queue x.slot.val) = some r → creditNeed r pt = some (q, n) →
    n ≤ semGet s.dev x.core.val q → semGet s.dev x.core.val q ≤ 65535 →
    (∀ c ∈ claims s.dev x.core.val q, c.1 < e.val + 1 → semGet s.dev x.core.val q < c.2) →
    ∃ t, exec (.tileCreditTaken x e pt) s = .next t ∧ semGet t.dev x.core.val q = semGet s.dev x.core.val q - n ∧
      (∀ j, j ≠ semKey x.core.val q → tget 0 t.dev.core.sems j = tget 0 s.dev.core.sems j) ∧
      t = { s with dev := { s.dev with
        core := { s.dev.core with sems := t.dev.core.sems }
        strm := { s.dev.strm with engines := t.dev.strm.engines } } }) ∧
  (∀ (c : Fin 32) (e : Fin 4) (s : State) (sl : Nat) (r : StrmRun), requestSlot s.dev c.val e.val = some sl →
    currentRun ((engAt s.dev (engKey c.val e.val)).queue sl) = some r →
    ∃ t, exec (.streamRequestIssue c e) s = .next t ∧ t.pending = s.pending ∧
      (r.blk.patSpace ≠ 3 →
        let n := requestLen r.blk (totalElems r.blk - r.next) r.next
        t.dev = updRun (engKey c.val e.val) sl (fun r => !runIssued r)
          (fun y => { y with next := y.next + n, reqs := y.reqs ++ [{ id := s.dev.nextId, first := r.next, count := n, ended := none }] })
          (updEng (engKey c.val e.val) (fun st => { st with served := sl }) { s.dev with nextId := s.dev.nextId + 1 }))) ∧
  (∀ (x : Site) (e : Fin 4) (id : Nat) (bs : List Byte) (s : State) (p : StrmRun) (q : StrmReq),
    findRun (fun p => p.reqs.any (fun o => o.id == id)) ((engAt s.dev (engKey x.core.val e.val)).queue x.slot.val) = some p →
    p.reqs.find? (fun o => o.id == id) = some q → p.blk.patSpace ≠ 3 →
    bs.length = (if !p.blk.dirOut && p.blk.patSpace == 2 then q.count * p.blk.esize else 0) →
    exec (.streamRequestComplete x e id (.ok bs)) s = s.goes (endRequest (siteKey x) (engKey x.core.val e.val) p q (.ok bs) s.dev)) ∧
  (∀ (x : Site) (e : Fin 4) (id : Nat) (r a : ReqEnd) (s : State) (p : StrmRun) (q : StrmReq),
    findRun (fun p => p.reqs.any (fun o => o.id == id)) ((engAt s.dev (engKey x.core.val e.val)).queue x.slot.val) = some p →
    p.reqs.find? (fun o => o.id == id) = some q → p.blk.patSpace = 3 → q.ended = some a →
    exec (.streamRequestComplete x e id r) s = s.goes (endRequest (siteKey x) (engKey x.core.val e.val) p q a s.dev)) ∧
  (∀ (x : Site) (e : Fin 5) (s : State) (r : StrmRun) (rest : List StrmEntry), e.val < 4 →
    (engAt s.dev (engKey x.core.val e.val)).queue x.slot.val = .desc r :: rest → runDone r = true →
    ∃ t, exec (.streamComplete x e) s = .next t ∧ (engAt t.dev (engKey x.core.val e.val)).queue x.slot.val = rest ∧
      (r.blk.cmplEn = true → rdMem t.dev (r.base + r.blk.cmpl) 32 = (strmRecord r).flatMap (leBytes 4)) ∧
      t.dev = finishRun (siteKey x) (engKey x.core.val e.val) r rest s.dev) ∧
  (∀ (x : Site) (e : Fin 5) (s : State) (q : Option Nat) (rest : List StrmEntry), e.val < 4 →
    (engAt s.dev (engKey x.core.val e.val)).queue x.slot.val = .cancel q :: rest →
    exec (.streamComplete x e) s =
      s.goes (postOpt x.core.val q (updEng (engKey x.core.val e.val) (fun st => st.setQueue x.slot.val rest) s.dev))) ∧
  (∀ (x : Site) (e : Fin 5) (s : State) (c : Nat × Nat × Option Nat), e.val = 4 →
    (quireAt s.dev x.core.val).cancels.find? (fun c => c.1 == x.slot.val) = some c →
    (∀ o ∈ (quireAt s.dev x.core.val).ops, o.slot = x.slot.val → c.2.1 ≤ o.id) →
    exec (.streamComplete x e) s = s.goes (postOpt x.core.val c.2.2
      (updQuire x.core.val (fun q => { q with cancels := q.cancels.filter (fun e => e != c) }) s.dev))) ∧
  (∀ (x : Site) (e : Fin 5) (s : State) (r : StrmRun) (rest : List StrmEntry), e.val < 4 →
    (engAt s.dev (engKey x.core.val e.val)).queue x.slot.val = .desc r :: rest → r.cancelled = true → r.reqs ≠ [] →
    r.cancelAt + 4000 ≤ s.dev.aclk →
    exec (.cancelAbandon x e) s = s.goes (updEng (engKey x.core.val e.val)
      (fun st => st.setQueue x.slot.val (.desc { r with reqs := [] } :: rest)) s.dev))

/-- From R154, R186, R187: a Quire transfer takes its wait decrement and starts; a SIGNAL posts its count and a COPY writes its bytes, and
then each ends, posts its q and keeps its status; a transfer to another device ends with that device's answer. -/
def Obligations.QuireEvents : Prop :=
  (∀ (c : Fin 32) (id : Nat) (s : State) (o : QuireOp), (quireAt s.dev c.val).ops.find? (fun o => o.id == id) = some o →
    o.started = false → o.blk.waitCount ≤ semGet s.dev c.val o.blk.waitQ →
    (∀ w ∈ claims s.dev c.val o.blk.waitQ, w.1 < 5 → semGet s.dev c.val o.blk.waitQ < w.2) →
    exec (.quireWaitGrant c id) s = s.goes (quireStart (slotKey c.val o.slot) o (semTake c.val o.blk.waitQ o.blk.waitCount
      (updQuire c.val (fun q => { q with ops := q.ops.map (fun p => if p.id == id then { p with started := true } else p) }) s.dev)))) ∧
  (∀ (c : Fin 32) (id : Nat) (r : ReqEnd) (s : State) (o : QuireOp) (k : Nat),
    (quireAt s.dev c.val).ops.find? (fun o => o.id == id) = some o → o.started = true → o.page = none →
    quireOrdered c.val (quireAt s.dev c.val).ops o = true → o.blk.signal = true → o.blk.dstSpace ≠ 3 →
    quirePostCore c.val o.blk = some k → semReach s.dev (slotKey c.val o.slot) k o.blk.postQ = true → o.slot < 2 →
    exec (.quireComplete c id r) s = s.goes (quireEnd (slotKey c.val o.slot) 0x00 0 o (if o.blk.postEn then semPost k o.blk.postQ o.blk.count s.dev else s.dev))) ∧
  (∀ (c : Fin 32) (id : Nat) (r e : ReqEnd) (s : State) (o : QuireOp),
    (quireAt s.dev c.val).ops.find? (fun o => o.id == id) = some o → o.started = true → o.page = none →
    quireOrdered c.val (quireAt s.dev c.val).ops o = true → o.blk.signal = false → o.data = none → quireData s.dev o r = some e →
    isRecvPort c.val o.blk = false → isCollPort o.blk = false →
    exec (.quireComplete c id r) s = s.goes (quireCopyData (slotKey c.val o.slot) o e s.dev)) ∧
  (∀ (k : Nat) (o : QuireOp) (bs : List Byte) (d : Dev), quireFault d k o = none → isEntPort o.blk = false → o.blk.dstSpace = 2 →
    quireCopyData k o (.ok bs) d = quireEnd k 0x00 0 o (quirePost k o.blk (emit (.hostWrite (slotAt d k).fn o.blk.dst bs) d))) ∧
  (∀ (k : Nat) (o : QuireOp) (bs : List Byte) (d : Dev), quireFault d k o = none → isEntPort o.blk = false →
    entWindow d k o.blk = none → o.blk.dstSpace ≠ 2 → o.blk.dstSpace ≠ 3 →
    quireCopyData k o (.ok bs) d = quireEnd k 0x00 0 o (quirePost k o.blk (devWrite (quireAddr o o.blk.dstSpace o.blk.dst) bs d))) ∧
  (∀ (c : Fin 32) (id : Nat) (r e : ReqEnd) (s : State) (o : QuireOp),
    (quireAt s.dev c.val).ops.find? (fun o => o.id == id) = some o → o.started = true → o.page = none →
    quireOrdered c.val (quireAt s.dev c.val).ops o = true → o.ended = some e →
    (o.blk.signal = true ∧ o.blk.dstSpace = 3) ∨ (o.blk.signal = false ∧ o.data.isSome = true) →
    exec (.quireComplete c id r) s = s.goes (quireAnswer (slotKey c.val o.slot) o e s.dev))

/-- From R191 to R193, R361, R362: work that meets an absent host page is suspended and a request made, or waits for its turn; the answer
resumes it, an Invalid Request fails it, a Response Failure fails every request of the function and stops its requests until PRI Enable.
An invalidation completes once no request that used the translation is outstanding. -/
def Obligations.HostPages : Prop :=
  (∀ (u : PageUser) (page : BitVec 64) (fn : Nat) (s : State), pageFn s.dev u page.toNat = some fn → page.toNat % 4096 = 0 →
    exec (.hostPageAbsent u page) s = s.goes
      (if tget false (suspendUser u page.toNat s.dev).strm.priFailed fn then
        answerPage false { fn := fn, page := page.toNat, user := u, sent := false, dead := false } (suspendUser u page.toNat s.dev)
       else addPage fn page.toNat u (suspendUser u page.toNat s.dev))) ∧
  (∀ (fn : Fin 4) (page : BitVec 64) (s : State), pageSent s.dev fn.val page.toNat = true →
    exec (.pageRequestSuccess fn page) s = s.goes (answerPages true (onPage fn.val page.toNat) fn.val s.dev) ∧
    exec (.pageRequestFailure fn page) s = s.goes (answerPages false (onPage fn.val page.toNat) fn.val s.dev) ∧
    exec (.pageResponseFailure fn page) s = s.goes
      (answerPages false (fun q => onPage fn.val page.toNat q || (q.fn == fn.val && !q.sent)) fn.val
        { s.dev with strm.priFailed := tset false s.dev.strm.priFailed fn.val true })) ∧
  (∀ (fn : Fin 4) (alloc : Nat) (s : State), ∃ t, exec (.priEnable fn alloc) s = .next t ∧
    tget false t.dev.strm.priFailed fn.val = false ∧ tget 0 t.dev.strm.priAlloc fn.val = alloc ∧ t.dev.mem = s.dev.mem ∧
    t.dev.core = s.dev.core ∧ t.dev.host = s.dev.host ∧ t.dev.regs = s.dev.regs) ∧
  (∀ (fn : Fin 4) (page : BitVec 64) (s : State), pageInUse s.dev fn.val page.toNat = false →
    exec (.atsInvalidate fn page) s = s.goes { s.dev with out := s.dev.out ++ [.invalidateDone fn.val page.toNat] })

/-- From R195, R198, R200 to R202, R204, R206, R209, R210, R216: Live ingress. A doorbell of a bound host port announces lines of the current
frame, or begins a later one; elsewhere it is a DOORBELL_RANGE event. A packet of a bound flow joins its port's frames. A conditioned row,
or an audio block, goes to the ring once its lines have arrived and the release word lets it; the frame's last row or block ends it. A
motion-search engine writes the next band of a picture once its rows are conditioned. -/
def Obligations.LivePorts : Prop :=
  (∀ (n : Nat) (v : W64) (s : State) (p : LivePort), n < 24 → portAt s.dev n = some p → p.cfg.st2110 = false →
    v.toNat / 2 ^ 48 = 0 → v.toNat % 2 ^ 32 = p.frameIn → p.linesIn < v.toNat / 2 ^ 32 → v.toNat / 2 ^ 32 ≤ p.cfg.inH →
    p.frameIn < 2 ^ 32 →
    ∃ t, exec (.livePortDoorbell (0x30000 + 16 * n) v) s = .next t ∧ t.pending = s.pending ∧
      (∃ q, portAt t.dev n = some q ∧ q.linesIn = v.toNat / 2 ^ 32 ∧ q.frameIn = p.frameIn ∧ q.cfg = p.cfg) ∧
      (∀ m, m ≠ n → portAt t.dev m = portAt s.dev m) ∧ t.dev.mem = s.dev.mem ∧ t.dev.core = s.dev.core ∧ t.dev.sess = s.dev.sess) ∧
  (∀ (n : Nat) (v : W64) (s : State), n < 24 → portAt s.dev n = none →
    exec (.livePortDoorbell (0x30000 + 16 * n) v) s =
      s.goes (raiseEvent 0x0D 4 1 [n + 65536, 0x30000 + 16 * n, v.toNat % 2 ^ 32] s.dev)) ∧
  (∀ (off : Nat) (v : W64) (s : State) (p : LivePort), 0x30000 ≤ off → off < 0x30180 → portAt s.dev ((off - 0x30000) / 16) = some p →
    p.cfg.st2110 = true ∨ off % 16 ≠ 0 ∨ v.toNat / 2 ^ 48 ≠ 0 → exec (.livePortDoorbell off v) s = s.goes (liveRange off v s.dev)) ∧
  (∀ (k : St2110Pkt) (s : State) (n : Nat) (p : LivePort), flowPort s.dev k = some (n, p) →
    exec (.st2110Packet k) s = s.goes (if p.cfg.audio then audioPkt n k p s.dev else videoPkt n k p s.dev)) ∧
  (∀ (n : Fin 24) (img : HostImg) (s : State) (p : LivePort) (f : FrameIn), portAt s.dev n.val = some p → p.cfg.audio = false →
    outFrame p = some f → linesNeeded p.cfg (if p.running then p.linesOut else 0) ≤ f.lines → released s.dev p p.rows = true →
    ∃ t q, exec (.deckleRow n img) s = .next t ∧ t.pending = s.pending ∧ portAt t.dev n.val = some q ∧
      q.linesOut = (if p.running then p.linesOut else 0) + 1 ∧
      q.rows = (if ((if p.running then p.linesOut else 0) + 1) % rgFactor p.cfg = 0 then p.rows + 1 else p.rows) ∧
      q.running = decide ((if p.running then p.linesOut else 0) + 1 ≠ condH p.cfg) ∧
      (∀ m, m ≠ n.val → portAt t.dev m = portAt s.dev m) ∧ t.dev.core = s.dev.core ∧ t.dev.sess = s.dev.sess ∧
      (p.running = true → p.linesOut + 1 ≠ condH p.cfg → t.dev.mem = (writeRow img p f p.linesOut s.dev s.dev).mem)) ∧
  (∀ (n : Fin 24) (img : HostImg) (s : State) (p : LivePort) (f : FrameIn), portAt s.dev n.val = some p → p.cfg.audio = true →
    outFrame p = some f → (if p.running then p.linesOut else 0) < f.lines → released s.dev p p.rows = true →
    ∃ t q, exec (.audioBlockWrite n img) s = .next t ∧ t.pending = s.pending ∧ portAt t.dev n.val = some q ∧
      q.linesOut = (if p.running then p.linesOut else 0) + 1 ∧ q.rows = p.rows + 1 ∧
      q.running = decide ((if p.running then p.linesOut else 0) + 1 ≠ p.cfg.inH) ∧
      (∀ m, m ≠ n.val → portAt t.dev m = portAt s.dev m) ∧ t.dev.core = s.dev.core ∧ t.dev.sess = s.dev.sess ∧
      (p.running = true → p.linesOut + 1 ≠ p.cfg.inH → t.dev.mem = (wrMem (p.areaBase + p.cfg.ringBase + p.rows % p.cfg.ringRows * p.cfg.yPitch)
        ((audioBlock s.dev img p f p.linesOut).flatMap (audioWord p.cfg)) s.dev).mem)) ∧
  (∀ (n : Fin 24) (s : State) (p : LivePort) (j : MseJob) (js : List MseJob), portAt s.dev n.val = some p → p.mseJobs = j :: js →
    p.frameOut ≠ j.frame ∨ min (32 * (j.bands + 1)) (condH p.cfg) ≤ p.linesOut →
    ∃ t q, exec (.mseBand n) s = .next t ∧ t.pending = s.pending ∧ portAt t.dev n.val = some q ∧
      q.mseJobs = (if condH p.cfg ≤ 32 * (j.bands + 1) then js else { j with bands := j.bands + 1 } :: js) ∧
      t.dev.mem = (writeBand p j s.dev).mem ∧ (∀ m, m ≠ n.val → portAt t.dev m = portAt (writeBand p j s.dev) m))

/-- From R222, R225, R234 to R239, R243, R247: the Felt. The request examined first that can be granted becomes the lease of the chosen window,
leaves the queue and gets its reply record; a family copy ends; the engine runs the head command of the window whose turn it is, and the
command leaves the lease's queue; a released lease's window becomes free. -/
def Obligations.FeltLeases : Prop :=
  (∀ (s : State) (o : OpenReq) (e w fs : Nat) (load : Bool), nextGrant s.dev = some (o, e, w, fs, load) →
    ∃ t, exec .leaseGrant s = .next t ∧ t.dev = grantLease o e w fs load s.dev ∧
      t.dev.felt.opens = s.dev.felt.opens.filter (fun x => x.slotKey != o.slotKey) ∧
      (∃ l, leaseAt t.dev (leaseKey e w) = some l ∧ l.slotKey = o.slotKey ∧ l.phase = .opened ∧ l.cmds = [] ∧ l.famSlot = fs) ∧
      (∀ j, j ≠ leaseKey e w → leaseAt t.dev j = leaseAt s.dev j) ∧
      rdMem t.dev (dispatchReply + 32 * o.slotKey) 32 =
        leBytes 4 (0x00 + e * 256 + w * 4096 + (tget 0 s.dev.felt.grants o.slotKey + 1) % 65536 * 65536) ++ leBytes 4 0 ++
          leBytes 8 (feltWindow e w) ++ leBytes 16 0 ∧
      t.dev.core.slots = s.dev.core.slots) ∧
  (∀ (e : Fin 16) (fs : Fin 2) (bs : List Byte) (s : State) (f : FamSlot) (b : Bundle) (img : Nat), (engStAt s.dev e.val).fam fs.val = some f →
    f.ready = false → bundleAt s.dev f.bundle = some b → familyAt s.dev b f.family = some img → poisonIn s.dev b.lo b.len = none →
    exec (.familyCopy e fs (.ok bs)) s = s.goes (copyFamily e.val fs.val f b.lo img s.dev)) ∧
  (∀ (e : Fin 16) (fs : Fin 2) (a : Nat) (s : State) (f : FamSlot) (b : Bundle) (img : Nat), (engStAt s.dev e.val).fam fs.val = some f →
    f.ready = false → bundleAt s.dev f.bundle = some b → familyAt s.dev b f.family = some img → b.lo ≤ a → a + 1 ≤ b.lo + b.len →
    exec (.familyCopy e fs (.failed 0x41 a)) s =
      s.goes (failFamily e.val fs.val (if (poisonIn s.dev a 1).isSome then s.dev else ddrUncorrectable a s.dev))) ∧
  (∀ (e : Fin 16) (w : Fin 5) (s : State) (l : Lease) (cs : List EntCmd), leaseAt s.dev (leaseKey e.val w.val) = some l →
    nextServed s.dev e.val = some w.val →
    let l' := { l with cmds := cs }
    let d' := updEngSt e.val (fun x => if l.live then { x with servedLive := w.val } else { x with served := w.val }) s.dev
    (∀ ok st last param count base, l.cmds = .step ok st last param count base :: cs →
      exec (.step e w) s = s.goes (runStep e.val w.val ok st last param count base l' d')) ∧
    (∀ ok n off len, l.cmds = .load ok n off len :: cs → exec (.load e w) s = s.goes (runLoad e.val w.val ok n off len l' d')) ∧
    (∀ ok n, l.cmds = .close ok n :: cs → exec (.close e w) s = s.goes (runClose e.val w.val ok n l' d')) ∧
    (l.cmds = .release true :: cs → ∃ t, exec (.release e w) s = .next t ∧ leaseAt t.dev (leaseKey e.val w.val) = none ∧
      t.dev = freeWindow e.val w.val (completeCmd e.val w.val 0x00 l' d')) ∧
    (l.cmds = .release false :: cs → exec (.release e w) s = s.goes (completeCmd e.val w.val 0x10 l' d'))) ∧
  (∀ (e w st : Nat) (l : Lease) (d : Dev), l.dropped = false → l.cmdCount < 2 ^ 32 - 1 →
    leaseAt (completeCmd e w st l d) (leaseKey e w) = some { l with cmdStatus := st, cmdCount := l.cmdCount + 1 } ∧
    rdMem (completeCmd e w st l d) (feltWindow e w) 32 = statusBlock { l with cmdStatus := st, cmdCount := l.cmdCount + 1 } ∧
    semGet (completeCmd e w st l d) (l.slotKey / 2) l.doneQ = min 65535 (semGet d (l.slotKey / 2) l.doneQ + 1)) ∧
  (∀ (e : Fin 16) (w : Fin 5) (s : State) (l : Lease), leaseAt s.dev (leaseKey e.val w.val) = some l → l.dropped = true →
    exec (.leaseForceRelease e w) s = s.goes (freeWindow e.val w.val s.dev))

/-- From R252, R254, R262 to R268: the decoder handles the head unit of the dispatched frame of a decode session: the unit leaves the frame's
list, and its type, the decoder's state and its body decide the effect. An accepted sequence header puts the decoder in SEQ, a refused
one in REFUSED; a unit that the rules do not let through is discarded and counted. -/
def Obligations.DecoderUnits : Prop :=
  ∀ (i : BitVec 16) (s : State) (x : Sess) (u : List Byte), headUnit s.dev i.toNat = some (x, u) →
    let d := updFrame i.toNat (fun g => { g with units := g.units.tail }) s.dev
    (∀ b, unitBody u = some b → u ≠ [] →
      (unitType u = 1 → exec (.sequenceHeader i) s = s.goes
        (if seqStatus d x b = 0x00 then
           if x.dec.phase != .noSeq && x.dec.phase != .refused && x.dec.body == b then closeOpen i.toNat d
           else updDec i.toNat (fun c => { c with phase := .seq, body := b, last := none, refOk := false, ref := [], stillDone := false })
             (closeOpen i.toNat d)
         else updDec i.toNat (fun c => { c with phase := .refused, refOk := false, ref := [] })
           (updFrame i.toNat (fun f => { f with status := if f.status == 0 then seqStatus d x b else f.status }) (closeOpen i.toNat d)))) ∧
      (unitType u = 2 → (x.dec.phase = .noSeq ∨ x.dec.phase = .refused → exec (.frameHeader i) s = s.goes (discardUnit i.toNat d)) ∧
        (x.dec.phase = .seq ∨ x.dec.phase = .frame → exec (.frameHeader i) s = s.goes
          (if !x.dec.audio && frameHeaderOk (closeOpen i.toNat d) x b then
             openFrame i.toNat (beAt b 2 4) (fld (beAt b 6 2) 6 8) (beAt b 6 2 / 2 ^ 14 == 0) (closeOpen i.toNat d)
           else discardUnit i.toNat (closeOpen i.toNat d)))) ∧
      (unitType u = 3 → (sliceDecodes s.dev x b = false → exec (.slice i none) s = s.goes (discardUnit i.toNat d)) ∧
        (∀ e w r f, sliceDecodes s.dev x b = true → endedLease s.dev i.toNat 3 (some (e, w)) = some r → x.dec.open_ = some f →
          exec (.slice i (some (e, w))) s = s.goes
            (let d1 := takeLease i.toNat r (concealRun i.toNat f.next (beAt b 1 2) d)
             if r.2.2.phase = .failed then concealSlice i.toNat (beAt b 1 2) d1
             else updDec i.toNat (fun c => { c with
               open_ := c.open_.map (fun f => { f with lat := tset 0 f.lat (beAt b 1 2) (d1.nextId + 1), next := beAt b 1 2 + 1 }) })
               { d1 with nextId := d1.nextId + 1 }))) ∧
      (unitType u = 4 →
        (audioDecodes s.dev x b = false → exec (.audioFrame i none) s = s.goes (discardUnit i.toNat (closeOpen i.toNat d))) ∧
        (∀ e w r, audioDecodes s.dev x b = true → endedLease s.dev i.toNat 4 (some (e, w)) = some r →
          exec (.audioFrame i (some (e, w))) s = s.goes (decodeAudio i.toNat (beAt b 0 4) r d))) ∧
      (unitType u = 5 →
        (b.length ≠ 17 ∨ crcOk b = false ∨ beAt b 12 1 % 128 ≠ 0 ∨ x.dec.phase = .noSeq ∨ x.dec.phase = .refused →
          exec (.timeAnchor i) s = s.goes (discardUnit i.toNat d)) ∧
        (b.length = 17 → crcOk b = true → beAt b 12 1 % 128 = 0 → x.dec.phase = .seq → x.dec.anchor = none → x.dec.open_ = none →
          exec (.timeAnchor i) s = s.goes (updDec i.toNat (fun c => { c with
            anchor := some { num := beAt b 0 4, capture := beAt b 4 8, locked := beAt b 12 1 == 128 } }) d))) ∧
      (unitType u = 6 → exec (.padding i) s = s.goes
        (if b.all (· == 0xFF) && decide (b.length ≤ 65535) && (x.dec.phase == .seq || x.dec.phase == .frame) then d else discardUnit i.toNat d)) ∧
      (unitType u = 7 → (b ≠ [] → exec (.endOfSequence i) s = s.goes (discardUnit i.toNat d)) ∧
        (b = [] → x.dec.phase = .noSeq → exec (.endOfSequence i) s = s.goes d) ∧
        (b = [] → x.dec.phase = .refused → exec (.endOfSequence i) s = s.goes (updDec i.toNat (fun c => { c with phase := .noSeq }) d)) ∧
        (b = [] → x.dec.phase = .seq ∨ x.dec.phase = .frame → exec (.endOfSequence i) s = s.goes
          (updDec i.toNat (fun c => { c with phase := .noSeq, refOk := false, ref := [] }) (closeOpen i.toNat d)))) ∧
      (unitType u = 8 → exec (.userData i) s = s.goes
        (if within 16 65535 b.length && (x.dec.phase == .seq || x.dec.phase == .frame) then d else discardUnit i.toNat d))) ∧
    (u = [] ∨ unitBody u = none ∨ unitType u = 0 ∨ 9 ≤ unitType u → exec (.discardedUnit i) s = s.goes (discardUnit i.toNat d))

/-- From R277, R278, R279, R391: a load takes the lowest free handle and a locked region, or fails for want of either; the bytes that arrive are
published, or the load fails and leaves nothing; an unload forgets a bundle that nothing uses. -/
def Obligations.Bundles : Prop :=
  (∀ (uid region : Nat) (s : State) (x : Desc) (h : Nat), cmdDesc s.dev uid 0 0x01 = some x → s.dev.ddr.trained = true →
    (upFrom 0 256).find? (fun h => (bundleAt s.dev h).isNone) = some h → regionExists s.dev false (x.w64 6) = true →
    regionFree s.dev false region (x.w64 6) = true →
    ∃ t, exec (.bundleLoad uid region) s = .next t ∧
      bundleAt t.dev h = some { lo := region, len := x.w64 6, loading := some uid, fp := [] } ∧
      (∀ j, j ≠ h → bundleAt t.dev j = bundleAt s.dev j) ∧ t.dev.mem = s.dev.mem ∧ t.dev.regs = s.dev.regs) ∧
  (∀ (uid region : Nat) (s : State) (x : Desc), cmdDesc s.dev uid 0 0x01 = some x → s.dev.ddr.trained = false →
    exec (.bundleLoad uid region) s = s.goes (finishDesc x 0x7F [] s.dev)) ∧
  (∀ (uid region : Nat) (s : State) (x : Desc), cmdDesc s.dev uid 0 0x01 = some x → s.dev.ddr.trained = true →
    (upFrom 0 256).find? (fun h => (bundleAt s.dev h).isNone) = none ∨ regionExists s.dev false (x.w64 6) = false →
    exec (.bundleLoad uid region) s = s.goes (finishDesc x 0x42 [] s.dev)) ∧
  (∀ (h : Fin 256) (bs : List Byte) (s : State) (b : Bundle) (uid : Nat), bundleAt s.dev h.val = some b → b.loading = some uid →
    bs.length = b.len → descPaged s.dev uid = false → s.dev.boot.restarting = false →
    exec (.bundleCopyComplete h (.ok bs)) s = s.goes (publishBundle h.val b uid bs s.dev)) ∧
  (∀ (h : Fin 256) (st a : Nat) (s : State) (b : Bundle) (uid : Nat), bundleAt s.dev h.val = some b → b.loading = some uid →
    st = 0x41 ∨ st = 0x12 → descPaged s.dev uid = false → s.dev.boot.restarting = false →
    exec (.bundleCopyComplete h (.failed st a)) s = s.goes (endLoad uid st [0] (dropBundle h.val b s.dev))) ∧
  (∀ (uid : Nat) (s : State) (x : Desc), cmdDesc s.dev uid 0 0x02 = some x →
    exec (.bundleUnload uid) s = s.goes
      (match loadedBundle s.dev (fld (x.w 4) 0 8) with
       | some b => if bundleUsed s.dev (fld (x.w 4) 0 8) then finishDesc x 0x20 [] s.dev
         else finishDesc x 0x00 [] (dropBundle (fld (x.w 4) 0 8) b s.dev)
       | none => finishDesc x 0x20 [] s.dev))

/-- From R280, R282, R284 to R286, R272, R296, Table 14-7: the commands on a session that exists. In the states the rules give each command has
its effect and completes with SUCCESS; in the others it completes with STATE_CONFLICT, and on a FREE session with UNKNOWN_SESSION. -/
def Obligations.SessionCommands : Prop :=
  ∀ (uid : Nat) (s : State) (x : Desc) (y : Sess), sessAt s.dev x.ident = some y →
    (cmdDesc s.dev uid 1 0x13 = some x → y.phase = .opened →
      (y.cls = 0 → y.port = none → exec (.sessStart uid) s = s.goes (finishDesc x 0x20 [] s.dev)) ∧
      (y.cls = 0 → y.port ≠ none → exec (.sessStart uid) s =
        s.goes (finishDesc x 0x00 [] (setSess x.ident { y with phase := .active } s.dev))) ∧
      (y.cls ≠ 0 → exec (.sessStart uid) s = s.goes (finishDesc x 0x00 [] (setSess x.ident { y with phase := .parked } s.dev)))) ∧
    (cmdDesc s.dev uid 1 0x13 = some x → y.phase ≠ .opened → exec (.sessStart uid) s = s.goes (finishDesc x 0x20 [] s.dev)) ∧
    (∀ o, cmdDesc s.dev uid 1 0x14 = some x → y.phase = .active ∨ y.phase = .parked →
      (submitOk s.dev y o = true → y.queue.length < 64 → exec (.frameSubmit uid o) s = s.goes (finishDesc x 0x00 []
        (setSess x.ident { y with queue := y.queue ++
          [{ tag := x.tag, serial := s.dev.nextId, deadline := o.deadline.toNat, addr := o.addr.toNat, len := o.len, picAddr := o.picAddr.toNat,
             reportAddr := o.reportAddr.toNat, qIndex := o.qIndex.toNat }] } { s.dev with nextId := s.dev.nextId + 1 }))) ∧
      (submitOk s.dev y o = true → 64 ≤ y.queue.length → exec (.frameSubmit uid o) s = s.goes (finishDesc x 0x20 [] s.dev)) ∧
      (submitOk s.dev y o = false → exec (.frameSubmit uid o) s = s.goes (finishDesc x 0x10 [] s.dev))) ∧
    (∀ addr len tag, cmdDesc s.dev uid 1 0x15 = some x →
      (4096 ≤ len → len ≤ 16777216 → y.bufs.length < 16 → exec (.outbufPost uid addr len tag) s = s.goes (finishDesc x 0x00 []
        (setSess x.ident { y with bufs := y.bufs ++ [{ tag := tag, addr := addr, len := len, used := 0 }] } s.dev))) ∧
      (4096 ≤ len → len ≤ 16777216 → 16 ≤ y.bufs.length → exec (.outbufPost uid addr len tag) s = s.goes (finishDesc x 0x20 [] s.dev)) ∧
      (len < 4096 ∨ 16777216 < len → exec (.outbufPost uid addr len tag) s = s.goes (finishDesc x 0x10 [] s.dev))) ∧
    (cmdDesc s.dev uid 1 0x16 = some x → y.phase = .active ∨ y.phase = .parked →
      (y.decode = false → exec (.intraRefresh uid) s =
        s.goes (finishDesc x 0x00 [] (setSess x.ident { y with intraReq := y.media != 1 } s.dev))) ∧
      (y.decode = true → exec (.intraRefresh uid) s = s.goes (finishDesc x 0x10 [] s.dev))) ∧
    (∀ n re, cmdDesc s.dev uid 1 0x17 = some x →
      (y.phase = .opened → y.cls ≠ 0 → y.decode = false → adapts s.dev y.bundle = true → n ≤ 16 → exec (.sessAdapt uid n re) s =
        s.goes (finishDesc x 0x00 [] (setSess x.ident { y with adaptSteps := n, adaptT := if re then 0 else y.adaptT } s.dev))) ∧
      (y.phase = .active ∨ y.phase = .parked → y.cls ≠ 0 → y.decode = false → adapts s.dev y.bundle = true → n ≤ 16 →
        exec (.sessAdapt uid n re) s =
          s.goes (finishDesc x 0x00 [] (setSess x.ident { y with adaptNext := some n, adaptReset := re || y.adaptReset } s.dev))) ∧
      (y.phase = .opened ∨ y.phase = .active ∨ y.phase = .parked → y.cls = 0 ∨ y.decode = true ∨ adapts s.dev y.bundle = false ∨ 16 < n →
        exec (.sessAdapt uid n re) s = s.goes (finishDesc x 0x10 [] s.dev))) ∧
    (cmdDesc s.dev uid 1 0x1A = some x →
      (y.phase = .opened → exec (.sessReset uid) s = s.goes (finishDesc x 0x00 [] s.dev)) ∧
      (y.phase ≠ .opened → y.closing = none → exec (.sessReset uid) s = s.goes (finishDesc x 0x00 [] (resetSess x.ident s.dev)))) ∧
    (cmdDesc s.dev uid 1 0x1B = some x →
      (y.phase = .opened ∨ y.phase = .faulted → exec (.sessClose uid) s = s.goes (finishDesc x 0x00 [] (freeSession x.ident s.dev))) ∧
      (y.phase = .active ∨ y.phase = .parked → ∃ t, exec (.sessClose uid) s = .next t ∧ t.pending = s.pending ∧
        sessAt t.dev x.ident = some { y with phase := .draining, queue := [], checkpoints := [], closing := some uid } ∧
        (∀ j, j ≠ x.ident → sessAt t.dev j = sessAt s.dev j) ∧ t.dev.mem = s.dev.mem ∧ t.dev.core = s.dev.core ∧ t.dev.live = s.dev.live) ∧
      (y.phase = .draining → exec (.sessClose uid) s = s.goes (finishDesc x 0x20 [] s.dev))) ∧
    (cmdDesc s.dev uid 1 0x1C = some x → exec (.sessQuery uid) s = s.goes (finishDesc x 0x00
      [(match y.phase with | .opened => 1 | .active => 2 | .parked => 3 | .faulted => 4 | .draining => 5) + 8 * y.cls +
        32 * y.port.isSome.toNat + 64 * y.port.getD 0, y.queue.length, y.bufs.length] s.dev))

/-- From R280, R281, R289, R218, R391, R422: the commands that place something. SESS_OPEN opens a FREE session with a context of its own, or
completes with the first reason why not; PORT_BIND on an OPEN Live session is admitted or refused by Table 11-9; PORT_UNBIND releases the
port; SESS_CHECKPOINT writes a PARKED session's checkpoint at once; SESS_RESTORE opens a session from one. -/
def Obligations.SessionPlaces : Prop :=
  (∀ (uid ctx : Nat) (s : State) (x : Desc), cmdDesc s.dev uid 1 0x10 = some x → s.dev.ddr.trained = true → sessAt s.dev x.ident = none →
    openOk s.dev (openedSess s.dev x ctx) = true →
    regionExists s.dev ((openedSess s.dev x ctx).cls == 0) (openedSess s.dev x ctx).ctxLen = true →
    regionFree s.dev ((openedSess s.dev x ctx).cls == 0) ctx (openedSess s.dev x ctx).ctxLen = true →
    ∃ t, exec (.sessOpen uid ctx) s = .next t ∧ sessAt t.dev x.ident = some (openedSess s.dev x ctx) ∧
      (openedSess s.dev x ctx).phase = .opened ∧ (∀ j, j ≠ x.ident → sessAt t.dev j = sessAt s.dev j) ∧ t.dev.mem = s.dev.mem ∧
      t.dev.core = s.dev.core ∧ t.dev.live = s.dev.live) ∧
  (∀ (uid ctx : Nat) (s : State) (x : Desc), cmdDesc s.dev uid 1 0x10 = some x →
    (s.dev.ddr.trained = false → exec (.sessOpen uid ctx) s = s.goes (finishDesc x 0x7F [] s.dev)) ∧
    (s.dev.ddr.trained = true → sessAt s.dev x.ident ≠ none → exec (.sessOpen uid ctx) s = s.goes (finishDesc x 0x20 [] s.dev)) ∧
    (s.dev.ddr.trained = true → sessAt s.dev x.ident = none → openOk s.dev (openedSess s.dev x ctx) = false →
      exec (.sessOpen uid ctx) s = s.goes (finishDesc x 0x10 [] s.dev))) ∧
  (∀ (uid port : Nat) (r : ReqEnd) (plan : BindPlan) (s : State) (x : Desc) (y : Sess), cmdDesc s.dev uid 1 0x11 = some x →
    sessAt s.dev x.ident = some y →
    (y.phase ≠ .opened ∨ y.cls ≠ 0 ∨ y.port ≠ none → exec (.portBind uid port r plan) s = s.goes (finishDesc x 0x20 [] s.dev)) ∧
    (y.phase = .opened → y.cls = 0 → y.port = none → bindPlanOk s.dev y port r plan = true →
      exec (.portBind uid port r plan) s = s.goes (runPortBind x y port r plan s.dev) ∧
      (∀ bs die dck mse cores, r = .ok bs → recOk s.dev y bs = true → port < 24 → allow s.dev y port (recOf bs) = .fits die dck mse cores →
        exec (.portBind uid port r plan) s = s.goes (finishDesc x 0x00
          [die + dck * 16 + mse * 256, plan.area % 2 ^ 32, plan.area / 2 ^ 32] (bindPort x.ident port y (recOf bs) die dck mse cores plan s.dev))) ∧
      (∀ bs row, r = .ok bs → recOk s.dev y bs = true → port < 24 → allow s.dev y port (recOf bs) = .refused row →
        exec (.portBind uid port r plan) s = s.goes (finishDesc x 0x23 [row] s.dev)))) ∧
  (∀ (uid : Nat) (s : State) (x : Desc) (y : Sess), cmdDesc s.dev uid 1 0x12 = some x → sessAt s.dev x.ident = some y →
    (y.phase = .opened ∨ y.phase = .faulted → y.port ≠ none → exec (.portUnbind uid) s = s.goes (finishDesc x 0x00 [] (releasePort x.ident s.dev))) ∧
    ((y.phase ≠ .opened ∧ y.phase ≠ .faulted) ∨ y.port = none → exec (.portUnbind uid) s = s.goes (finishDesc x 0x20 [] s.dev))) ∧
  (∀ (uid addr len : Nat) (s : State) (x : Desc) (y : Sess), cmdDesc s.dev uid 1 0x18 = some x → sessAt s.dev x.ident = some y →
    y.decode = false → y.cls ≠ 0 →
    (y.phase = .parked → exec (.sessCheckpoint uid addr len) s = s.goes (writeCheckpoint x y addr len s.dev)) ∧
    (y.phase = .active → exec (.sessCheckpoint uid addr len) s = s.goes (beginDesc uid
      (setSess x.ident { y with checkpoints := y.checkpoints ++ [(uid, addr, len)] } s.dev)))) ∧
  (∀ (uid bundle ctx : Nat) (bs : List Byte) (s : State) (x : Desc), cmdDesc s.dev uid 1 0x19 = some x → s.dev.ddr.trained = true →
    (sessAt s.dev x.ident = none → restorePlaceOk s.dev bundle ctx bs = true →
      exec (.sessRestore uid bundle ctx (.ok bs)) s = s.goes (runRestore x bundle ctx bs s.dev)) ∧
    (sessAt s.dev x.ident ≠ none → exec (.sessRestore uid bundle ctx (.ok bs)) s = s.goes (finishDesc x 0x20 [] s.dev)) ∧
    (sessAt s.dev x.ident = none → exec (.sessRestore uid bundle ctx (.failed 0x12 0)) s = s.goes (finishDesc x 0x12 [] s.dev)))

/-- From R285, R287, R288, R295, R448: frames and jobs. The work dispatched next is the next frame of a session, or a PF2 job that then runs; a
Live session's frame is dispatched when its port has begun it. A frame whose programs, leases and units are done completes and the
session goes on at its boundary; a drained session is freed and its close completes. -/
def Obligations.FrameFlow : Prop :=
  (∀ (uid : Nat) (intra : Bool) (img : HostImg) (s : State), schedulerUp s.dev = true → (nextWork s.dev).map (·.id) = some (.job uid) →
    ∃ t, exec (.frameDispatch (.job uid) intra img) s = .next t ∧
      t = { s with dev := { s.dev with host.jobs := s.dev.host.jobs.map (fun j => if j.uid == uid then { j with running := true } else j) } }) ∧
  (∀ (i : BitVec 16) (intra : Bool) (img : HostImg) (s : State) (x : Sess) (r : FrameReq) (rest : List FrameReq),
    schedulerUp s.dev = true → (nextWork s.dev).map (·.id) = some (.frame i) → sessAt s.dev i.toNat = some x → liveFrame s.dev x = none →
    x.queue = r :: rest →
    (x.decode = true → ∃ t, exec (.frameDispatch (.frame i) intra img) s = .next t ∧ t.pending = s.pending ∧
      sessAt t.dev i.toNat = some { x with
        phase := .active
        queue := rest
        frame := some { req := r, num := 0, intra := false, units := splitUnits (imgBytes s.dev img r.addr r.len) } } ∧
      (∀ j, j ≠ i.toNat → sessAt t.dev j = sessAt s.dev j) ∧ t.dev.mem = s.dev.mem ∧ t.dev.core = s.dev.core) ∧
    (x.decode = false → exec (.frameDispatch (.frame i) intra img) s = s.goes (startEncode i.toNat x r (nextNum x) intra s.dev))) ∧
  (∀ (i : BitVec 16) (intra : Bool) (img : HostImg) (s : State) (x : Sess) (n : Nat),
    schedulerUp s.dev = true → s.dev.pwr.allStop = false → sessAt s.dev i.toNat = some x → liveFrame s.dev x = some n →
    exec (.frameDispatch (.frame i) intra img) s = s.goes (startEncode i.toNat x
      { tag := 0, serial := 0, deadline := 0, addr := 0, len := 0, picAddr := 0, reportAddr := 0, qIndex := x.qIndex } n intra s.dev)) ∧
  (∀ (i : BitVec 16) (s : State) (x : Sess) (f : Frame), sessAt s.dev i.toNat = some x → x.frame = some f →
    frameDone s.dev i.toNat x f = true →
    exec (.frameBoundary i) s = s.goes (writeWaiting i.toNat (setSess i.toNat (boundarySess s.dev f x) (cplFrame i.toNat x f 0 s.dev)))) ∧
  (∀ (i : BitVec 16) (s : State) (x : Sess), sessAt s.dev i.toNat = some x → x.phase = .draining → x.frame = none →
    exec (.sessionDrainEnd i) s = s.goes
      (let d := freeSession i.toNat (putEnd i.toNat x (dropSessLeases i.toNat (forEach (sessSlots s.dev i.toNat) stopQuiet s.dev)))
       match x.closing.bind (findDesc d) with
       | some c => finishDesc c x.closeStatus [] d
       | none => d))

/-- From R295, R460 to R462, R472: power. The level register moves the floor; a chosen idle core is gated, and comes back with its core store
zero; a limit that persists sheds Standard work after 1 ms and deepens the level every 10 ms, and 10 ms of calm undo one step; a
temperature reading is published, and at 115 °C trips the device; the core voltage moves one code at a time. -/
def Obligations.PowerAndShedding : Prop :=
  (∀ (v : W32) (s : State), bootDone s.dev = true →
    exec (.powerLevelRequest v) s = s.goes (relevel (setF kPwrCtl 0 2 (v.toNat % 4) s.dev))) ∧
  (∀ (c : Fin 32) (s : State), c.val ∈ s.dev.pwr.chosen → coreIdle s.dev c.val = true →
    exec (.coreGate c) s = s.goes (relevel { s.dev with pwr.gated := s.dev.pwr.gated ++ [c.val] })) ∧
  (∀ (c : Fin 32) (s : State), c.val ∈ s.dev.pwr.gated → c.val ∉ levelCores s.dev →
    ∃ t, exec (.corePowerUp c) s = .next t ∧
      (∀ j, tget 0 t.dev.mem j = if 0x1000000 * c.val ≤ j ∧ j < 0x1000000 * c.val + 0x1000000 then 0 else tget 0 s.dev.mem j) ∧
      t.dev = relevel (zeroMem (0x1000000 * c.val) 0x1000000 { s.dev with pwr.gated := s.dev.pwr.gated.filter (· != c.val) })) ∧
  (∀ s : State, shedStep s.dev = 1 → overLimit s.dev = true → s.dev.pwr.stepAt + 200000 ≤ s.dev.aclk →
    ∃ t, exec .shedStandardPause s = .next t ∧ t.dev = enterStep 2 limitSensor s.dev ∧ t.dev.pwr.stdStop = true ∧ t.dev.pwr.bgStop = true ∧
      t.dev.core = s.dev.core ∧ t.dev.mem = s.dev.mem ∧ t.dev.sess = s.dev.sess) ∧
  (∀ s : State, 2 ≤ shedStep s.dev → s.dev.pwr.shed < 3 → overLimit s.dev = true → s.dev.pwr.stepAt + 2000000 ≤ s.dev.aclk →
    exec .shedLevelStep s = s.goes (relevel
      { enterStep 3 limitSensor s.dev with pwr.shed := (enterStep 3 limitSensor s.dev).pwr.shed + 1 })) ∧
  (∀ (s : State) (t : Nat), shedStep s.dev ≠ 0 → s.dev.pwr.calmAt = some t → t + 2000000 ≤ s.dev.aclk → underLimit s.dev = true →
    exec .shedUndoStep s = s.goes (undoStep { s.dev with pwr.calmAt := some s.dev.aclk })) ∧
  (∀ (a b c : BitVec 16) (s : State), s.dev.pwr.tempAt = none → s.dev.boot.hold = false →
    max a.toNat (max b.toNat c.toNat) < 1840 →
    let tj := max a.toNat (max b.toNat c.toNat)
    let cool : Option Nat := if tj ≤ 1520 then (match s.dev.pwr.cool95 with | some t => some t | none => some s.dev.aclk) else none
    let d := noteLimits (overLimit s.dev) (hotSensor a.toNat b.toNat c.toNat)
      (setF kPwrTemp 0 16 tj { s.dev with
        pwr.tempAt := some s.dev.aclk
        pwr.hotT := decide (1520 ≤ tj)
        pwr.coolT := decide (tj ≤ 1440)
        pwr.cool95 := cool })
    exec (.temperatureSample a b c) s = s.goes
      (if 1680 ≤ tj && !critical d then goCritical (hotSensor a.toNat b.toNat c.toNat) tj d
       else if critical d && (match cool with | some t => decide (t + 2000000 ≤ s.dev.aclk) | none => false) then endCritical d else d)) ∧
  (∀ (a b c : BitVec 16) (s : State), s.dev.pwr.tempAt = none → s.dev.boot.hold = false → 1840 ≤ max a.toNat (max b.toNat c.toNat) →
    ∃ t, exec (.temperatureSample a b c) s = .next t ∧ t.dev.boot.hold = true ∧ t.dev.pwr.tripped = true ∧
      t.dev.mem = [] ∧ t.dev.out.getLast? = some (.pin pinThermtrip 0)) ∧
  (∀ (w : BitVec 16) (s : State), s.dev.pwr.powAt = none → s.dev.boot.hold = false →
    exec (.powerWindow w) s = s.goes (noteLimits (overLimit s.dev) 0 (setF kPwrTemp 16 16 w.toNat { s.dev with
      pwr.powAt := some s.dev.aclk
      pwr.hotP := getF s.dev kPwrCtl 16 16 != 0 && decide (getF s.dev kPwrCtl 16 16 < w.toNat)
      pwr.coolP := decide (w.toNat < getF s.dev kPwrCtl 16 16) }))) ∧
  (∀ (up : Bool) (s : State), afterRom s.dev = true → s.dev.pwr.vidAt = none →
    (if up then getF s.dev kPwrVdd 0 5 < 30 else 0 < getF s.dev kPwrVdd 0 5) →
    let v := getF s.dev kPwrVdd 0 5
    exec (.vidStep up) s = s.goes (emit (.pin pinVid (if up then v + 1 else v - 1))
      (setF kPwrVdd 0 5 (if up then v + 1 else v - 1) { s.dev with pwr.vidAt := some s.dev.aclk }))) ∧
  (∀ s : State, s.dev.pwr.auxOff = true →
    exec .vddAuxInRange s = s.goes (emit (.pin pinVid 10) { s.dev with pwr.auxOff := false }) ∧
    exec .vbatRtcLow s = s.goes { s.dev with time.calBad := true }) ∧
  (∀ s : State, s.dev.pwr.auxOff = false → ∃ t, exec .vddAuxRemoved s = .next t ∧ t.dev.pwr.auxOff = true ∧ t.dev.pwr.tripped = false ∧
    t.dev.boot.hold = true ∧ t.dev.mem = [] ∧ t.dev.core = {})

/-- From R297, R299 to R309, R312, R476: Fabric Time. A valid sample of the selected source corrects time and leads from UNSYNC to ACQUIRING and
after sixteen in a row to LOCKED; overdue samples lose the source; whole seconds go to the calendar clock and to PPS_OUT; PPS_IN, FREQ_IN
and the IEEE 1588 slave report their presence, and the source is chosen again. -/
def Obligations.FabricTime : Prop :=
  (∀ (off : Int) (w : Bool) (s : State), timeSource s.dev = 2 → ¬ (timeState s.dev = 2 ∧ 4000 < off.natAbs) →
    exec (.timeSample off w) s = s.goes (goodSample off w s.dev)) ∧
  (∀ (off : Int) (w : Bool) (s : State), timeSource s.dev = 2 → timeState s.dev = 2 → 4000 < off.natAbs →
    exec (.timeSample off w) s = s.goes (badSample 2 off true s.dev)) ∧
  (∀ s : State, timeState s.dev = 1 ∨ timeState s.dev = 2 → timeSource s.dev ≠ 0 → s.dev.time.valid + sampleTimeout s.dev ≤ s.dev.aclk →
    exec .timeSampleTimeout s = s.goes (reselect { loseSource s.dev with
      time.adverts := (loseSource s.dev).time.adverts.filter (fun e =>
        !(match e.2 with | some a => decide (a.at_ + 800000 ≤ (loseSource s.dev).aclk) | none => true)) })) ∧
  (∀ s : State, timeState s.dev = 2 → nowNs s.dev / 1000000000 ≠ s.dev.time.calSec →
    ∃ t, exec .calendarWrite s = .next t ∧ t.dev.time = { s.dev.time with
        cal := nowNs s.dev / 1000000000 % 2 ^ 40 * 32768
        calBad := false
        calFrac := 0
        calSec := nowNs s.dev / 1000000000 } ∧
      t = { s with dev := { s.dev with time := t.dev.time, regs := (setF kTimStatus 31 1 0 s.dev).regs } }) ∧
  (∀ s : State, s.dev.time.ppsHigh = false → nowNs s.dev % 1000000000 / 1000000 = 0 → nowNs s.dev / 1000000000 ≠ s.dev.time.ppsSec →
    exec .ppsOutEdge s = s.goes (emit (.pin pinPpsOut 1) { s.dev with time.ppsHigh := true, time.ppsSec := nowNs s.dev / 1000000000 })) ∧
  (∀ s : State, s.dev.time.ppsHigh = true → nowNs s.dev % 1000000000 / 1000000 ≠ 0 →
    exec .ppsOutEdge s = s.goes (emit (.pin pinPpsOut 0) { s.dev with time.ppsHigh := false })) ∧
  (∀ (w : Bool) (s : State), timeSource s.dev ≠ 1 → s.dev.time.ppsAt = none →
    exec (.ppsInEdge w) s = s.goes (reselect { s.dev with
      time.armed := none
      time.ppsRun := 1
      time.ppsAt := some s.dev.aclk
      time.ppsOk := s.dev.time.ppsOk })) ∧
  (∀ (s : State) (t : Nat), s.dev.time.ppsOk = true → s.dev.time.ppsAt = some t → t + 220000000 ≤ s.dev.aclk →
    exec .ppsInLoss s = s.goes (reselect { s.dev with time.ppsOk := false, time.ppsRun := 0 })) ∧
  (∀ (hz : Nat) (s : State), exec (.freqInWindow hz) s =
    s.goes (reselect { s.dev with time.freqOk := decide (9999500 ≤ hz) && decide (hz ≤ 10000500) })) ∧
  (∀ (v : W32) (s : State), bootDone s.dev = true →
    exec (.timSetSecArm v) s = s.goes { s.dev with time.armed := some (fld v.toNat 0 8 * 2 ^ 32 + s.dev.time.setLo) }) ∧
  (∀ (dom : BitVec 8) (p : Fin 4) (l : Bool) (s : State), getF s.dev kTimSrcCfg 2 1 = 1 →
    (linkAt s.dev (getF s.dev kTimSrcCfg 13 3)).mode = 1 → linkUp s.dev (getF s.dev kTimSrcCfg 13 3) = true →
    (dom.toNat = getF s.dev kTimSrcCfg 16 8 → p.val = getF s.dev kTimSrcCfg 11 2 → p.val ≠ 3 → ptpDomainOk p.val dom.toNat = true →
      exec (.ptpMessage dom p l) s = s.goes (reselect { s.dev with time.ptpLocked := l })) ∧
    (dom.toNat ≠ getF s.dev kTimSrcCfg 16 8 ∨ p.val ≠ getF s.dev kTimSrcCfg 11 2 → exec (.ptpMessage dom p l) s = s.goes s.dev))

/-- From R365, R366, R372, R373, R381: rings. Enabling an aligned ring makes it run empty with phase 1; disabling an idle ring returns it to
state 0; a valid tail doorbell is the new tail and a valid head doorbell frees entries, and a bad one changes no ring index; a moderation
time that has passed sends the ring's message, and a masked vector's pending message goes out at its unmasking. -/
def Obligations.RingCommands : Prop :=
  (∀ (fn : Fin 4) (r : Nat) (v : W32) (s : State), r < ringCount fn.val → bitAt v.toNat 31 = true →
    getF s.dev (kRing fn.val r 0x10) 31 1 = 0 → bootDone s.dev = true → basesAligned s.dev fn.val r = true →
    fld v.toNat 16 11 < msixCount fn.val →
    ∃ t, exec (.ringEnable fn r v) s = .next t ∧ t.pending = s.pending ∧ ringRunning t.dev fn.val r = true ∧
      getF t.dev (kRing fn.val r 0x1C) 29 1 = 1 ∧ regVal t.dev (kRing fn.val r 0x18) = 0 ∧ ringAt t.dev fn.val r = {} ∧
      (∀ k, k ≠ kRing fn.val r 0x10 → k ≠ kRing fn.val r 0x18 → k ≠ kRing fn.val r 0x1C → regVal t.dev k = regVal s.dev k) ∧
      HostOnly s.dev t.dev) ∧
  (∀ (fn : Fin 4) (r : Nat) (v : W32) (s : State), r < ringCount fn.val → bitAt v.toNat 31 = false →
    getF s.dev (kRing fn.val r 0x10) 31 1 = 1 →
    (s.dev.host.descs.any (fun x => x.fn == fn.val && x.ring == r) || namedAsCplRing s.dev fn.val r) = false →
    ∃ t, exec (.ringDisable fn r v) s = .next t ∧ getF t.dev (kRing fn.val r 0x10) 31 1 = 0 ∧ ringRunning t.dev fn.val r = false ∧
      ringAt t.dev fn.val r = {} ∧ t.dev.host.descs = s.dev.host.descs ∧ t.dev.out = s.dev.out ∧ HostOnly s.dev t.dev) ∧
  (∀ (fn : Fin 4) (r : Nat) (v : W32) (s : State), r < ringCount fn.val → bitAt v.toNat 31 = false →
    getF s.dev (kRing fn.val r 0x10) 31 1 = 1 →
    (s.dev.host.descs.any (fun x => x.fn == fn.val && x.ring == r) || namedAsCplRing s.dev fn.val r) = true →
    ∃ t, exec (.ringDisable fn r v) s = .next t ∧ getF t.dev (kRing fn.val r 0x10) 31 1 = 1 ∧
      getF t.dev (kRing fn.val r 0x1C) 1 1 = 1 ∧ t.dev.host = s.dev.host ∧ HostOnly s.dev t.dev) ∧
  (∀ (fn : Fin 4) (r : Nat) (v : W64) (s : State), ringDoorbell fn.val (16 * r) = true → ringRunning s.dev fn.val r = true →
    ¬(fn.val = 0 ∧ r = 8) → v.toNat < sqDepth s.dev fn.val r →
    exec (.sqTailDoorbell fn (16 * r) 8 v) s = s.goes (updRing fn.val r (fun rs => { rs with sqTail := v.toNat }) s.dev)) ∧
  (∀ (fn : Fin 4) (off size : Nat) (v : W64) (s : State), ringDoorbell fn.val off = true → off % 16 < 8 →
    (size ≠ 8 ∨ off % 8 ≠ 0 ∨ ringRunning s.dev fn.val (off / 16) = false ∨ sqDepth s.dev fn.val (off / 16) ≤ v.toNat) →
    ∃ t, exec (.sqTailDoorbell fn off size v) s = .next t ∧ HostOnly s.dev t.dev ∧ getF t.dev kEvtPending 0x0D 1 = 1 ∧
      (∀ r, (ringAt t.dev fn.val r).sqTail = (ringAt s.dev fn.val r).sqTail) ∧
      ∀ r, (ringAt t.dev fn.val r).cqHead = (ringAt s.dev fn.val r).cqHead) ∧
  (∀ (fn : Fin 4) (r : Nat) (v : W64) (s : State), ringDoorbell fn.val (16 * r + 8) = true → ringRunning s.dev fn.val r = true →
    v.toNat < cqDepth s.dev fn.val r →
    (v.toNat + cqDepth s.dev fn.val r - (ringAt s.dev fn.val r).cqHead) % cqDepth s.dev fn.val r ≤
      (cqTail s.dev fn.val r + cqDepth s.dev fn.val r - (ringAt s.dev fn.val r).cqHead) % cqDepth s.dev fn.val r →
    exec (.cqHeadDoorbell fn (16 * r + 8) 8 v) s = s.goes (flushHeld fn.val r (ringAt s.dev fn.val r).held
      (updRing fn.val r (fun rs => { rs with cqHead := v.toNat }) s.dev)) ∧
    ((ringAt s.dev fn.val r).held = [] → ∃ t, exec (.cqHeadDoorbell fn (16 * r + 8) 8 v) s = .next t ∧
      ringAt t.dev fn.val r = { ringAt s.dev fn.val r with cqHead := v.toNat } ∧ t.dev.out = s.dev.out ∧ t.dev.regs = s.dev.regs)) ∧
  (∀ (fn : Fin 4) (r : Nat) (s : State), ringRunning s.dev fn.val r = true → getF s.dev (kRing fn.val r 0x10) 15 1 = 1 →
    getF s.dev (kRing fn.val r 0x14) 16 16 ≠ 0 → (ringAt s.dev fn.val r).unsignalled ≠ 0 →
    (ringAt s.dev fn.val r).oldest + 1000 * getF s.dev (kRing fn.val r 0x14) 16 16 ≤ nowNs s.dev →
    ∃ t, exec (.msixModerationTimeout fn r) s = .next t ∧ HostOnly s.dev t.dev ∧ t.dev.regs = s.dev.regs ∧
      (tget false s.dev.host.msixOpen (4096 * fn.val + getF s.dev (kRing fn.val r 0x10) 16 11) = true →
        t.dev.out = s.dev.out ++ [.msix fn.val (getF s.dev (kRing fn.val r 0x10) 16 11)]) ∧
      (tget false s.dev.host.msixOpen (4096 * fn.val + getF s.dev (kRing fn.val r 0x10) 16 11) = false → t.dev.out = s.dev.out ∧
        tget false t.dev.host.msixPend (4096 * fn.val + getF s.dev (kRing fn.val r 0x10) 16 11) = true)) ∧
  (∀ (fn : Fin 4) (v : Nat) (s : State), v < msixCount fn.val → ∃ t, exec (.msixUnmask fn v) s = .next t ∧ HostOnly s.dev t.dev ∧
    tget false t.dev.host.msixOpen (4096 * fn.val + v) = true ∧ tget false t.dev.host.msixPend (4096 * fn.val + v) = false ∧
    t.dev.out = s.dev.out ++ (if tget false s.dev.host.msixPend (4096 * fn.val + v) then [.msix fn.val v] else []))

/-- From R369, R371, R375, R376, R455, R457: entries and the commands of every function. An entry that breaks a rule completes with the status of
the first check that fails; one with no condition is eligible at once, one with an instant is armed, any other waits. A condition that
holds makes its descriptor eligible. NOP and DEVICE_RESET complete with SUCCESS; CANCEL completes what it names; a job that keeps the
rules waits for dispatch, one whose bundle is not loaded or whose fabric job ID is in use conflicts, and JOB_ABORT ends the job that its operand names. -/
def Obligations.DescriptorCommands : Prop :=
  (∀ (fn : Fin 4) (r : Nat) (bs : List Byte) (s : State), schedulerUp s.dev = true → nextRing s.dev = some (fn.val, r) → bs.length = 64 →
    armedCount s.dev < 4096 →
    let x : Desc := { uid := s.dev.nextId, fn := fn.val, ring := r, words := leWords 16 bs, phase := .waiting, after := [] }
    let named (y : Desc) : Bool := y.fn == fn.val && y.ring == fld (x.w 3) 0 16 && y.tag == fld (x.w 2) 0 16
    let after := if x.launch = 3 then (s.dev.host.descs.filter named).map (·.uid) else []
    let y : Desc := { x with after := after, phase := if x.launch = 1 then .armed else .waiting }
    let d := setF (kRing fn.val r 0x18) 16 16 ((sqHead s.dev fn.val r + 1) % sqDepth s.dev fn.val r) s.dev
    let e : Dev := { d with
      nextId := s.dev.nextId + 1
      host.lastFn := fn.val
      host.lastRing := tset 2047 d.host.lastRing fn.val r
      host.descs := s.dev.host.descs ++ [y] }
    ∃ c, exec (.sqEntryTake fn r (.ok bs)) s = s.goes c ∧
      (opDefined fn.val x.op = false → c = finishDesc x stUnsupported [] e) ∧
      (opDefined fn.val x.op = true → takeCheck s.dev x = 0 → (x.launch = 0 ∨ x.launch = 3 ∧ after = []) → c = makeEligible x.uid e) ∧
      (opDefined fn.val x.op = true → takeCheck s.dev x = 0 → ¬(x.launch = 0 ∨ x.launch = 3 ∧ after = []) → c = e) ∧
      (takeCheck s.dev x ≠ 0 → c = finishDesc x (takeCheck s.dev x) [] e)) ∧
  (∀ (fn : Fin 4) (r st info : Nat) (s : State), schedulerUp s.dev = true → nextRing s.dev = some (fn.val, r) →
    ∃ t, exec (.sqEntryTake fn r (.failed st info)) s = .next t ∧ HostOnly s.dev t.dev ∧ ringRunning t.dev fn.val r = false ∧
      getF t.dev (kRing fn.val r 0x1C) 3 1 = 1 ∧ (ringAt t.dev fn.val r).held = [] ∧ t.dev.host.descs = s.dev.host.descs ∧ t.dev.out = s.dev.out) ∧
  (∀ (uid : Nat) (s : State) (x : Desc), findDesc s.dev uid = some x → x.phase = .waiting → conditionHolds s.dev x = true →
    ∃ t, exec (.descriptorEligible uid) s = .next t ∧ t = { s with dev := { s.dev with
        nextId := s.dev.nextId + 1
        host.descs := s.dev.host.descs.map (fun y => if y.uid == uid then { y with phase := .eligible s.dev.nextId } else y) } }) ∧
  (∀ (uid : Nat) (s : State) (x : Desc), findDesc s.dev uid = some x → firesFirst s.dev x = true →
    exec (.launchFire uid) s = s.goes
      (if x.strict && decide (x.w64 2 + 10 ≤ nowNs s.dev) then finishDesc x stMissed [] s.dev else freeGate (makeEligible x.uid s.dev))) ∧
  (∀ (uid : Nat) (s : State) (x : Desc), cmdDesc s.dev uid x.fn 0x7F = some x → findDesc s.dev uid = some x →
    ∃ t, exec (.nopCmd uid) s = .next t ∧ t.dev = finishDesc x stSuccess [] s.dev ∧ HostOnly s.dev t.dev ∧ findDesc t.dev x.uid = none) ∧
  (∀ (uid : Nat) (s : State) (x : Desc), cmdDesc s.dev uid x.fn 0x7E = some x → findDesc s.dev uid = some x →
    exec (.cancel uid) s = s.goes
      (if s.dev.host.descs.any (cancelled x) then finishDesc x stSuccess [] (cancelWaiting (cancelled x) s.dev)
       else finishDesc x stConflict [] s.dev)) ∧
  (∀ (uid : Nat) (s : State) (x : Desc), cmdDesc s.dev uid 0 0x08 = some x → s.dev.boot.warm = none →
    ∃ t, exec (.deviceReset uid) s = .next t ∧ t.dev = { finishDesc x stSuccess [] s.dev with boot := t.dev.boot } ∧
      t.dev.boot = { s.dev.boot with warm := some (2, s.dev.aclk + 200000) }) ∧
  (∀ (uid : Nat) (s : State) (x : Desc), cmdDesc s.dev uid 0 0x09 = some x →
    let id := ownId s.dev % 256 * 256 + s.dev.crb.resetCount % 256
    let t := if bitAt (x.w 4) 0 then some (x.w64 5) else none
    exec (.fabricReset uid) s = s.goes (planReset id t (some uid) (sendReset id t 8 (noteReset id (beginDesc uid
      { s.dev with crb.resetCount := s.dev.crb.resetCount + 1 }))))) ∧
  (∀ (rid t : Nat) (u : Option Nat) (s : State), s.dev.crb.timed.find? (fun e => e.1 == rid) = some (rid, t, u) → t ≤ nowNs s.dev →
    exec (.fabricResetAct rid) s = s.goes (planReset rid none u { s.dev with crb.timed := s.dev.crb.timed.filter (fun x => x.1 != rid) })) ∧
  (∀ (uid : Nat) (bs : List Byte) (s : State) (x : Desc) (j : Job), cmdDesc s.dev uid 2 0x20 = some x → s.dev.ddr.trained = true →
    bs.length = x.w 8 → jobOf s.dev x bs = some j → jobTargetOk s.dev x = true →
    ∃ t, exec (.jobRun uid (.ok bs)) s = .next t ∧ t = { s with dev := { s.dev with
        host.jobs := s.dev.host.jobs ++ [j]
        host.descs := s.dev.host.descs.map (fun y => if y.uid == x.uid then { y with phase := .begun } else y) } }) ∧
  (∀ (uid : Nat) (bs : List Byte) (s : State) (x : Desc), cmdDesc s.dev uid 2 0x20 = some x → s.dev.ddr.trained = true →
    bs.length = x.w 8 → jobOf s.dev x bs = none → jobTargetOk s.dev x = true →
    exec (.jobRun uid (.ok bs)) s = s.goes (finishDesc x stInvalid [] s.dev)) ∧
  (∀ (uid : Nat) (r : ReqEnd) (s : State) (x : Desc), cmdDesc s.dev uid 2 0x20 = some x → s.dev.ddr.trained = true →
    (bundleAt s.dev (fld (x.w 4) 0 8) = none ∨ (fld (x.w 4) 16 16 ≠ 0 ∧ ∃ y ∈ s.dev.host.jobs, y.fabric = fld (x.w 4) 16 16)) →
    exec (.jobRun uid r) s = s.goes (finishDesc x stConflict [] s.dev)) ∧
  (∀ (uid : Nat) (s : State) (x : Desc), cmdDesc s.dev uid 2 0x21 = some x →
    (∀ j, jobByTag s.dev x.ring (fld (x.w 4) 0 16) = some j →
      exec (.jobAbort uid) s = s.goes (finishDesc x stSuccess [] (completeJob j.uid stCancelled s.dev))) ∧
    (jobByTag s.dev x.ring (fld (x.w 4) 0 16) = none → exec (.jobAbort uid) s = s.goes (finishDesc x stConflict [] s.dev)))

/-- From R407, R409, R410, R421, R424: the Press. A command whose ranges and stream state allow it waits for an engine and one that they forbid
ends with the status of the first rule broken; the next command goes to the engine with the fewest queued bytes; a command that ends
well writes its output, leaves its stream's context (IDLE after the last command of the stream) and counts its bytes; one that ends badly
leaves the context as it was. -/
def Obligations.PressCommands : Prop :=
  (∀ (uid op : Nat) (s : State) (x : Desc) (i : Instr), (op, i) ∈ [(0x30, .pressDeflate uid), (0x31, .pressInflate uid), (0x32, .pressFlush uid)] →
    cmdDesc s.dev uid 3 op = some x →
    let c := pressOf x
    (((c.srcDdr = false ∧ c.dstDdr = false) ∨ s.dev.ddr.trained = true) → pressRangesOk s.dev c = true →
      (pressBusy s.dev c.stream = true ∨ pressStateOk c (pressCtx s.dev c.stream) = true) →
      ∃ t, exec i s = .next t ∧ t = { s with dev := { s.dev with
        press.waiting := s.dev.press.waiting ++ [c]
        host.descs := s.dev.host.descs.map (fun y => if y.uid == x.uid then { y with phase := .begun } else y) } }) ∧
    ((c.srcDdr = true ∨ c.dstDdr = true) → s.dev.ddr.trained = false → exec i s = s.goes (finishDesc x stInternal [] s.dev)) ∧
    (((c.srcDdr = false ∧ c.dstDdr = false) ∨ s.dev.ddr.trained = true) → pressRangesOk s.dev c = false →
      exec i s = s.goes (finishDesc x stBadAddr [] s.dev)) ∧
    (((c.srcDdr = false ∧ c.dstDdr = false) ∨ s.dev.ddr.trained = true) → pressRangesOk s.dev c = true →
      pressBusy s.dev c.stream = false → pressStateOk c (pressCtx s.dev c.stream) = false →
      exec i s = s.goes (finishDesc x stConflict [] s.dev))) ∧
  (∀ (s : State) (c : PressCmd), schedulerUp s.dev = true → nextPress s.dev = some c → pressStateOk c (pressCtx s.dev c.stream) = true →
    ∃ t e, exec .pressDispatch s = .next t ∧ e < 4 ∧ (∀ j, j < 4 → pressLoad s.dev e ≤ pressLoad s.dev j) ∧
      pressQueue t.dev e = pressQueue s.dev e ++ [c] ∧ (∀ j, j ≠ e → pressQueue t.dev j = pressQueue s.dev j) ∧
      t.dev.press.waiting = s.dev.press.waiting.filter (fun y => y.uid != c.uid) ∧ t.dev.press.ctxs = s.dev.press.ctxs ∧
      t.dev.mem = s.dev.mem ∧ t.dev.out = s.dev.out ∧ t.dev.host = s.dev.host) ∧
  (∀ (e : Fin 4) (bs : List Byte) (s : State) (c : PressCmd) (cs : List PressCmd) (x : PressCtx) (out : List Byte) (n m : Nat),
    pressQueue s.dev e.val = c :: cs → c.srcDdr = false → c.dstDdr = false → bs.length = c.srcLen → descPaged s.dev c.uid = false →
    runPress c (pressStart c (pressCtx s.dev c.stream)) bs = .good x out n m →
    ∃ t d, exec (.pressCommandComplete e (.ok bs)) s = .next t ∧ t.dev = endPress c stSuccess [n, out.length] d ∧
      d.out = s.dev.out ++ (if out = [] then [] else [.hostWrite 3 c.dst out]) ∧
      pressQueue t.dev e.val = cs ∧ (∀ j, j ≠ e.val → pressQueue t.dev j = pressQueue s.dev j) ∧
      pressCtx t.dev c.stream = (if c.ends = true ∧ c.op ≠ 0x32 then none else some x) ∧
      (∀ j, j ≠ c.stream → pressCtx t.dev j = pressCtx s.dev j) ∧ t.dev.mem = s.dev.mem ∧ t.dev.core = s.dev.core) ∧
  (∀ (e : Fin 4) (bs : List Byte) (s : State) (c : PressCmd) (cs : List PressCmd) (st p : Nat),
    pressQueue s.dev e.val = c :: cs → c.srcDdr = false → bs.length = c.srcLen → descPaged s.dev c.uid = false →
    runPress c (pressStart c (pressCtx s.dev c.stream)) bs = .bad st p →
    ∃ t, exec (.pressCommandComplete e (.ok bs)) s = .next t ∧ t.dev = failPress e.val c st p (setPressQueue e.val cs s.dev) ∧
      pressQueue t.dev e.val = cs ∧ t.dev.press.ctxs = s.dev.press.ctxs ∧ t.dev.mem = s.dev.mem ∧ t.dev.core = s.dev.core)

/-- From R391, R397, R399 to R401, R403: DDR4 in service. Recalibration changes timing only; a channel that carries more than four times its
share raises INTERLEAVE_SKEW; a corrected line is counted, an uncorrectable one reads 0, is marked, and its page is retired; a report
restarts the count of corrections; the refresh rate doubles above 85 °C and comes back below 83 °C. -/
def Obligations.MemoryReliability : Prop :=
  (∀ (c : Fin 16) (s : State), s.dev.ddr.trained = true → exec (.ddrRecalibrate c) s = .next s) ∧
  (∀ (sums : List Nat) (s : State), sums.length = 16 → s.dev.ddr.trained = true →
    ((∀ c, c < 16 → 16 * sums.getD c 0 ≤ 4 * sums.foldl (· + ·) 0) → exec (.skewWindow sums) s = .next s) ∧
    (∀ c, c < 16 → 4 * sums.foldl (· + ·) 0 < 16 * sums.getD c 0 → (∀ j, j < c → 16 * sums.getD j 0 ≤ 4 * sums.foldl (· + ·) 0) →
      ∃ t, exec (.skewWindow sums) s = .next t ∧ HostOnly s.dev t.dev ∧ getF t.dev kMemErr 1 1 = 1 ∧ getF t.dev kEvtPending 0x03 1 = 1 ∧
        getF t.dev kMemSkew 28 4 = c)) ∧
  (∀ (off : BitVec 42) (r : LineRead) (s : State), s.dev.ddr.trained = true → off.toNat < ddrSize s.dev →
    s.dev.ddr.retired.contains ((ddrBase + off.toNat / 64 * 64) / 4096 * 4096) = false →
    let a := ddrBase + off.toNat / 64 * 64
    let page := a / 4096 * 4096
    let ch := ddrChannel s.dev off.toNat
    match r with
    | .good => exec (.scrubRead off r) s = .next s
    | .corrected => ∃ t, exec (.scrubRead off r) s = .next t ∧ t.dev.mem = s.dev.mem ∧ t.dev.ddr.poison = s.dev.ddr.poison ∧
        t.dev.ddr.retired = s.dev.ddr.retired ∧ t.dev.core = s.dev.core ∧
        tget 0 t.dev.ddr.scrubCorr ch = (if (tget none s.dev.ddr.scrubTime ch).isNone then 0 else tget 0 s.dev.ddr.scrubCorr ch + 1)
    | .uncorrectable => ∃ t, exec (.scrubRead off r) s = .next t ∧
        (∀ j, tget 0 t.dev.mem j = if a ≤ j ∧ j < a + 64 then 0 else tget 0 s.dev.mem j) ∧
        tget false t.dev.ddr.poison (a / 64) = true ∧ (∀ l, l ≠ a / 64 → tget false t.dev.ddr.poison l = tget false s.dev.ddr.poison l) ∧
        getF t.dev kEvtPending 0x0C 1 = 1 ∧
        t.dev.ddr.retired = (if s.dev.ddr.retired.length < 4096 then s.dev.ddr.retired ++ [page] else s.dev.ddr.retired) ∧
        t.dev.core = s.dev.core) ∧
  (∀ (c : Fin 16) (s : State), scrubDue s.dev c.val = true → ∃ t, exec (.scrubReport c) s = .next t ∧
    getF t.dev kEvtPending 0x0B 1 = 1 ∧ tget 0 t.dev.ddr.scrubCorr c.val = 0 ∧ tget none t.dev.ddr.scrubTime c.val = some s.dev.aclk ∧
    t.dev.ddr.retired = s.dev.ddr.retired ∧ t.dev.mem = s.dev.mem) ∧
  (∀ (c : Fin 16) (h : Int) (s : State), s.dev.ddr.trained = true → ∃ t, exec (.dimmThermalRead c h) s = .next t ∧
    getF t.dev (kChStat c.val) 29 1 = (if 85 < h then 1 else if h < 83 then 0 else getF s.dev (kChStat c.val) 29 1) ∧
    (∀ k, k ≠ kChStat c.val → regVal t.dev k = regVal s.dev k) ∧ t = { s with dev := { s.dev with regs := t.dev.regs } })

/-- R9: a read from an offset inside a block base range that no register occupies returns 0, and a write to such an offset is
ignored. No event is raised and no other state changes. -/
def Obligations.UnoccupiedOffsets : Prop :=
  (∀ (ini : Initiator) (fn : Fin 4) (off size : Nat) (pins : BitVec 16) (s : State), s.dev.boot.hold = false → off < 0x100000 → size = 4 ∨ size = 8 →
    off % size = 0 → regSpecAt fn.val off = none → (size = 8 → regSpecAt fn.val (off + 4) = none) →
    exec (.rcRegisterRead ini fn off size pins) s = s.goes (emit (.regRead (iniNo ini) fn.val off 0) s.dev)) ∧
  (∀ (ini : Initiator) (fn : Fin 4) (off size : Nat) (v : W64) (s : State), s.dev.boot.hold = false → off < 0x100000 → size = 4 ∨ size = 8 →
    off % size = 0 → regSpecAt fn.val off = none → (size = 8 → regSpecAt fn.val (off + 4) = none) →
    exec (.registerWrite ini fn off size v) s = .next s)

/-- From R6, R24, R25, R355, R358 to R360, R383, R426, R438, R482, R483, R488 to R492: accesses. An access that is not aligned, or not of 4 or 8
bytes, changes nothing and reads 0; a write acts on the registers, the lower address first, and moves the GPIO pins; a field written with a
value that its description does not admit keeps its value; a read of TIM_NOW_LO returns Fabric Time and latches its other words; a read of
a counter that clears returns it and clears it. -/
def Obligations.RegisterAccesses : Prop :=
  (∀ (ini : Initiator) (fn : Fin 4) (off size : Nat) (v : W64) (s : State), s.dev.boot.hold = false → accessOk off size = false →
    exec (.registerWrite ini fn off size v) s = .next s) ∧
  (∀ (ini : Initiator) (fn : Fin 4) (off size : Nat) (pins : BitVec 16) (s : State), s.dev.boot.hold = false → accessOk off size = false →
    exec (.rcRegisterRead ini fn off size pins) s = s.goes (emit (.regRead (iniNo ini) fn.val off 0) s.dev)) ∧
  (∀ (ini : Initiator) (fn : Fin 4) (off : Nat) (v : W64) (s : State), s.dev.boot.hold = false → off % 8 = 0 →
    exec (.registerWrite ini fn off 8 v) s = s.goes (driveGpio s.dev
      (writeReg ini fn.val (off + 4) (v.toNat / 2 ^ 32 % 2 ^ 32) (writeReg ini fn.val off (v.toNat % 2 ^ 32) s.dev)))) ∧
  (∀ (ini : Initiator) (v : W64) (s : State), s.dev.boot.hold = false → bootDone s.dev = true → v.toNat < 2 ^ 32 →
    ∃ t, exec (.registerWrite ini 0 kEvtMask 4 v) s = .next t ∧ getF t.dev kEvtMask 1 16 = fld v.toNat 1 16 ∧
      (∀ k, k ≠ kEvtMask → regVal t.dev k = regVal s.dev k) ∧ t = { s with dev := { s.dev with regs := t.dev.regs, out := t.dev.out } }) ∧
  (∀ (ini : Initiator) (v : W64) (s : State), s.dev.boot.hold = false → bootDone s.dev = true → v.toNat < 2 ^ 32 →
    ∃ t, exec (.registerWrite ini 0 kCrbXport 4 v) s = .next t ∧ getF t.dev kCrbXport 28 3 = fld v.toNat 28 3 ∧
      getF t.dev kCrbXport 0 5 = (if 4 ≤ fld v.toNat 0 5 ∧ fld v.toNat 0 5 ≤ 20 then fld v.toNat 0 5 else getF s.dev kCrbXport 0 5)) ∧
  (∀ (ini : Initiator) (s : State), s.dev.boot.hold = false → bootDone s.dev = true →
    ∃ t, exec (.timNowLoRead ini 4) s = .next t ∧ t.dev.out = s.dev.out ++ [.regRead (iniNo ini) 0 kTimNowLo (nowNs s.dev % 2 ^ 32)] ∧
      latched t.dev ini kTimNowHi = nowNs s.dev / 2 ^ 32 % 2 ^ 32 ∧ latched t.dev ini kTimNowFrac = s.dev.time.ft % 65536 ∧
      t = { s with dev := { s.dev with latch := t.dev.latch, out := t.dev.out } }) ∧
  (∀ (ini : Initiator) (p : Fin 24) (s : State), s.dev.boot.hold = false → bootDone s.dev = true →
    ∃ t, exec (.livPortFrameOutRead ini p) s = .next t ∧
      t.dev.out = s.dev.out ++ [.regRead (iniNo ini) 0 (kLiv p.val 4) (regVal s.dev (kLiv p.val 4))] ∧
      latched t.dev ini (kLiv p.val 8) = portLines s.dev p.val) ∧
  (∀ (ini : Initiator) (e : Fin 4) (s : State), s.dev.boot.hold = false → bootDone s.dev = true →
    ∃ t, exec (.prsEngBytesLoRead ini e) s = .next t ∧
      t.dev.out = s.dev.out ++ [.regRead (iniNo ini) 0 (kPrs e.val 4) (regVal s.dev (kPrs e.val 4))] ∧
      latched t.dev ini (kPrs e.val 8) = regVal s.dev (kPrs e.val 8)) ∧
  (∀ (ini : Initiator) (c : Nat) (pins : BitVec 16) (s : State), 1 ≤ c → c ≤ 16 → s.dev.boot.hold = false → bootDone s.dev = true →
    regVal s.dev (kEvtCount c) < 65536 →
    ∃ t, exec (.rcRegisterRead ini 0 (kEvtCount c) 4 pins) s = .next t ∧
      t.dev.out = s.dev.out ++ [.regRead (iniNo ini) 0 (kEvtCount c) (regVal s.dev (kEvtCount c))] ∧ regVal t.dev (kEvtCount c) = 0 ∧
      ∀ k, k ≠ kEvtCount c → regVal t.dev k = regVal s.dev k)

/-- From R24, R25, R355, R360, R438, R483: the other ways in. The DDR4 window of PF2 writes and reads the bytes that exist for the host; the
management buses answer with the status block; a debugger acts only while debug is enabled; the link shows what it trained to; a
bridge error is counted by its kind, and an uncorrectable one ends the work that it hit. -/
def Obligations.ManagementAndDebug : Prop :=
  (∀ (off len : Nat) (bs : List Byte) (s : State), s.dev.boot.hold = false → (∀ x ∈ upFrom off bs.length, barWrites s.dev x = true) →
    s.dev.ddr.poison = [] → ∃ t, exec (.bar4WindowAccess off len (some bs)) s = .next t ∧
      rdMem t.dev (ddrBase + off) bs.length = bs ∧
      (∀ j, j < ddrBase + off ∨ ddrBase + off + bs.length ≤ j → tget 0 t.dev.mem j = tget 0 s.dev.mem j) ∧
      t = { s with dev := { s.dev with mem := t.dev.mem } }) ∧
  (∀ (off len : Nat) (s : State), s.dev.boot.hold = false → (∀ x ∈ upFrom off len, barByte s.dev x = true) →
    (∀ x ∈ upFrom off len, poisonIn s.dev (ddrBase + x) 1 = none) →
    exec (.bar4WindowAccess off len none) s = s.goes (emit (.barRead (rdMem s.dev (ddrBase + off) len)) s.dev)) ∧
  (∀ s : State, s.dev.boot.hold = false → exec .mgmtStatusRead s = s.goes (emit (.mgmtRead
    (leBytes 4 (regVal s.dev kBootStat) ++ leBytes 4 (regVal s.dev kPwrStat) ++ leBytes 4 (regVal s.dev kPwrTemp) ++
      leBytes 4 (regVal s.dev kTimStatus))) s.dev)) ∧
  (∀ (m : MctpMsg) (s : State), s.dev.boot.hold = false → ∃ bs, exec (.mctpMessage m) s = s.goes (emit (.mctpResponse bs) s.dev) ∧
    (m = .vendor 0x4D6C → bs = statusBytes s.dev)) ∧
  (∀ s : State, s.dev.boot.hold = false → exec (.jtagDebugAccess .idcode) s = s.goes (emit (.debug [idCode s.dev]) s.dev)) ∧
  (∀ (op : DebugOp) (s : State), s.dev.boot.hold = false → op ≠ .idcode → debugEn s.dev = false → exec (.jtagDebugAccess op) s = .next s) ∧
  (∀ (x : Site) (s : State), s.dev.boot.hold = false → debugEn s.dev = true →
    (∃ t, exec (.jtagDebugAccess (.haltSlot x)) s = .next t ∧ canIssue t.dev (siteKey x) = false ∧ t.dev.core = s.dev.core) ∧
    (∃ t, exec (.jtagDebugAccess (.resumeSlot x)) s = .next t ∧ siteKey x ∉ t.dev.boot.halted ∧ t.dev.core = s.dev.core) ∧
    exec (.jtagDebugAccess (.inspectSlot x)) s = s.goes (emit (.debug (slotWords s.dev (siteKey x))) s.dev)) ∧
  (∀ (c : Fin 4) (s : State), s.dev.boot.hold = false → debugEn s.dev = true →
    (∃ t, exec (.jtagDebugAccess (.haltMgmt c)) s = .next t ∧ schedulerUp t.dev = false) ∧
    (∃ t, exec (.jtagDebugAccess (.resumeMgmt c)) s = .next t ∧ 64 + c.val ∉ t.dev.boot.halted)) ∧
  (∀ (speed width : Nat) (flit : Bool) (s : State), s.dev.boot.hold = false → 1 ≤ speed → speed ≤ 6 → width ∈ [1, 2, 4, 8] → (speed = 6 → flit = true) →
    ∃ t, exec (.pcieLinkTraining speed width flit) s = .next t ∧ regVal t.dev kLinkStat = 512 + flit.toNat * 256 + width * 16 + speed ∧
      (∀ k, k ≠ kLinkStat → regVal t.dev k = regVal s.dev k) ∧ t = { s with dev := { s.dev with regs := t.dev.regs } }) ∧
  (∀ (b : Fin 3) (s : State), s.dev.boot.hold = false →
    (∃ t, exec (.bridgeTransferError b .corrected) s = .next t ∧ getF t.dev kBridgeErr 0 16 = min 65535 (getF s.dev kBridgeErr 0 16 + 1) ∧
      t = { s with dev := { s.dev with regs := t.dev.regs } }) ∧
    (∃ t, exec (.bridgeTransferError b .lost) s = .next t ∧ getF t.dev kBridgeErr 16 8 = min 255 (getF s.dev kBridgeErr 16 8 + 1) ∧
      getF t.dev kBridgeErr 30 2 = b.val ∧ t = { s with dev := { s.dev with regs := t.dev.regs } }) ∧
    (∀ (uid : Nat) (j : Job), jobAt s.dev uid = some j → exec (.bridgeTransferError b (.lostJob uid)) s = s.goes (completeJob uid stInternal
      (setF kBridgeErr 30 2 b.val (bumpF kBridgeErr 16 8 1 s.dev)))))

/-- From R385, R451, R453 to R455, R458, R459, R462, R478: resets. A Function Level Reset ends what its function runs and a hot reset those of all
functions, with the link down; while RST_N holds the device, what Table 18-2 keeps is all that stays; a warm device reset keeps Fabric
Time and the TIM block as well, and says its cause; a core reset clears the core and its core store; an engine reset acts on its engine. -/
def Obligations.Resets : Prop :=
  (∀ (fn : Fin 4) (s : State), s.dev.boot.hold = false → ∃ c, exec (.flr fn) s = s.goes (endFn fn.val c) ∧
    (∀ x ∈ c.host.descs, x.fn ≠ fn.val) ∧ (∀ r, r < 2048 → ringAt c fn.val r = {}) ∧
    (∀ k, ringBase fn.val ≤ k → k < ringBase fn.val + 0x40 * ringCount fn.val → regVal c k = regReset k) ∧
    (∀ k, k < ringBase fn.val ∨ ringBase fn.val + 0x40 * ringCount fn.val ≤ k → regVal c k = regVal s.dev k) ∧
    c.mem = s.dev.mem ∧ c.core = s.dev.core ∧ c.out = s.dev.out ∧
    (∀ x ∈ s.dev.host.descs, x.fn ≠ fn.val → x ∈ c.host.descs)) ∧
  (∀ (fn : Fin 4) (s : State), s.dev.boot.hold = true → exec (.flr fn) s = .next s ∧ exec .pcieHotReset s = .next s) ∧
  (∀ s : State, s.dev.boot.hold = false → ∃ t, exec .pcieHotReset s = .next t ∧ getF t.dev kLinkStat 9 1 = 0 ∧
    t.dev.mem = (flr 3 (flr 2 (flr 1 (flr 0 s.dev)))).mem ∧ t.dev.out = (flr 3 (flr 2 (flr 1 (flr 0 s.dev)))).out) ∧
  (∀ s : State, ∃ t, exec .rstNAssert s = .next t ∧ t.dev.boot.hold = true ∧ t.dev.mem = [] ∧ t.dev.core = {} ∧ t.dev.regs = [] ∧
    t.dev.host = {} ∧ t.dev.sess = {} ∧ t.dev.ddr.retired = s.dev.ddr.retired ∧ t.dev.boot.rpmc = s.dev.boot.rpmc ∧
    t.dev.time.cal = s.dev.time.cal ∧ t.dev.boot.tag = s.dev.boot.tag ∧ t.dev.aclk = s.dev.aclk ∧ s.dev.out <+: t.dev.out ∧
    (s.dev.boot.mbox = none → t.dev.boot.flash = s.dev.boot.flash)) ∧
  (∀ (m : Fin 4) (s : State), s.dev.boot.hold = true → s.dev.pwr.tripped = false → s.dev.pwr.auxOff = false →
    ∃ t, exec (.coldReset m) s = .next t ∧ t.dev.boot.hold = false ∧ bootMode t.dev = m.val ∧ t.dev.mem = s.dev.mem ∧
      t.dev.time.ft = (if s.dev.time.calBad then 0 else calendarNs s.dev.time.cal * 65536) ∧
      (s.dev.time.calBad = true → getF t.dev kTimStatus 31 1 = 1)) ∧
  (∀ (c t : Nat) (s : State), s.dev.boot.warm = some (c, t) → t ≤ s.dev.aclk → s.dev.boot.hold = false →
    exec .warmDeviceReset s = s.goes (warmReset c s.dev)) ∧
  (∀ (cause : Nat) (d : Dev), cause < 8 → (warmReset cause d).mem = [] ∧ (warmReset cause d).core = {} ∧ (warmReset cause d).host = {} ∧
    (warmReset cause d).sess = {} ∧ (warmReset cause d).time = d.time ∧ (warmReset cause d).ddr.retired = d.ddr.retired ∧
    (warmReset cause d).boot.rpmc = d.boot.rpmc ∧ (warmReset cause d).boot.hold = false ∧ (warmReset cause d).aclk = d.aclk ∧
    getF (warmReset cause d) kResetCause 0 3 = cause ∧
    getF (warmReset cause d) kResetCause 8 8 = min 255 (getF d kResetCause 8 8 + 1) ∧ bootStage (warmReset cause d) = 0 ∧
    bootMode (warmReset cause d) = bootMode d) ∧
  (∀ (c : Fin 32) (s : State), coreResetDue s.dev c.val = true → schedulerUp s.dev = true → ∃ t, exec (.mediaCoreReset c) s = .next t ∧
    (∀ a, 0x1000000 * c.val ≤ a → a < 0x1000000 * c.val + 0x1000000 → tget 0 t.dev.mem a = 0) ∧
    slotAt t.dev (2 * c.val) = {} ∧ slotAt t.dev (2 * c.val + 1) = {} ∧ (∀ q, q < 64 → semGet t.dev c.val q = 0) ∧
    (∀ l, l < 2 → loomAt t.dev (2 * c.val + l) = {} ∧ unitAt t.dev (2 * c.val + l) = {}) ∧
    (∀ e, e < 8 → engAt t.dev (engKey c.val e) = {}) ∧ quireAt t.dev c.val = {}) ∧
  (∀ (x : EngineId) (s : State), schedulerUp s.dev = true → exec (.engineReset x) s = s.goes (resetEngine x s.dev)) ∧
  (∀ (e : Fin 4) (s : State) (c : PressCmd) (cs : List PressCmd), schedulerUp s.dev = true → pressQueue s.dev e.val = c :: cs →
    ∃ t d, exec (.engineReset (.prs e)) s = .next t ∧ pressQueue t.dev e.val = cs ∧ t.dev.press.ctxs = s.dev.press.ctxs ∧
      regVal t.dev (kPrs e.val 4) = 0 ∧ regVal t.dev (kPrs e.val 8) = 0 ∧ t.dev.out = (endPress c stEngine [0, 0, 0, 0] d).out ∧
      d.out = s.dev.out ∧ t.dev.mem = s.dev.mem)

/-- R463: the root firmware must report to a hardware watchdog at least once every 1 s. If it does not, the device performs a warm device
reset and records cause 4 in TOP_RESET_CAUSE. -/
def Obligations.RootWatchdog : Prop :=
  (∀ s : State, afterRom s.dev = true → s.dev.boot.hold = false → ∃ t, exec .rootWatchdogReport s = .next t ∧ t.dev.boot.rootAt = s.dev.aclk ∧
    t = { s with dev := { s.dev with boot := t.dev.boot } }) ∧
  (∀ s : State, s.dev.aclk < s.dev.boot.rootAt + 200000000 → ∃ r, exec .rootWatchdogExpiry s = .refused r) ∧
  (∀ s : State, afterRom s.dev = true → s.dev.boot.hold = false → s.dev.boot.rootAt + 200000000 ≤ s.dev.aclk →
    exec .rootWatchdogExpiry s = s.goes (warmReset 4 s.dev) ∧ getF (warmReset 4 s.dev) kResetCause 0 3 = 4)

/-- From R390, R391, R427, R433 to R441, R447 to R449: the boot chain and the scheduler firmware. Each stage selects a copy of its object and goes to
the next stage, or waits with the reason; training shows its outcome and leaves DDR4 unused where it fails; the scheduler firmware reports
ready, and then that it lives; a missing report or a protection violation restarts it, and the third time within 60 s its cores
stay stopped and no ring entry is taken. -/
def Obligations.BootChain : Prop :=
  (∀ (err : FlashErr) (s : State), atStage s.dev 0 = true →
    (findSecret s.dev = none → ∃ t, exec (.romBoot err) s = .next t ∧ t = { s with dev := { s.dev with boot.wait := 10 } }) ∧
    (∀ k, findSecret s.dev = some k → 2 ≤ bootMode s.dev → ∃ t, exec (.romBoot err) s = .next t ∧ bootStage t.dev = 5 ∧ t.dev.boot.wait = 5 ∧
      t.dev.boot.objs = s.dev.boot.objs) ∧
    (∀ k, findSecret s.dev = some k → bootMode s.dev < 2 →
      let d := showCounter 0 (setF kBootStat 25 1 1 { s.dev with boot.secret := k })
      (∀ c, selectCopy d 1 err = .ok c → ∃ t, exec (.romBoot err) s = .next t ∧ bootStage t.dev = 1 ∧ t.dev.boot.wait = 0 ∧
        t.dev.boot.rootAt = s.dev.aclk ∧ objAt t.dev 1 = flashObj s.dev 1 c) ∧
      (∀ r, selectCopy d 1 err = .error r → ∃ t, exec (.romBoot err) s = .next t ∧ bootStage t.dev = 5 ∧ t.dev.boot.wait = 5 ∧
        getF t.dev kBootStat 0 8 = r % 256))) ∧
  (∀ (m p : FlashErr) (s : State), atStage s.dev 1 = true →
    let d := forEach [1, 2, 3] showCounter { s.dev with boot.objs := tset [] s.dev.boot.objs 3 [] }
    (∀ r, selectCopy d 3 m = .error r → ∃ t, exec (.rootStage1 m p) s = .next t ∧ bootStage t.dev = 6 ∧ t.dev.boot.wait = 6) ∧
    (∀ c, selectCopy d 3 m = .ok c →
      let e := setLooms (bodyOf (objAt (useCopy 3 c d) 3)) (useCopy 3 c d)
      (∀ r, selectCopy e 4 p = .error r → ∃ t, exec (.rootStage1 m p) s = .next t ∧ bootStage t.dev = 7 ∧ t.dev.boot.wait = 7) ∧
      (∀ c', selectCopy e 4 p = .ok c' → ∃ t, exec (.rootStage1 m p) s = .next t ∧ bootStage t.dev = 2 ∧
        getF t.dev kBootStat 24 1 = (identityOk (applyPlatform (useCopy 4 c' e))).toNat))) ∧
  (∀ (m : Modules) (s : State), atStage s.dev 2 = true → ∃ t, exec (.ddrTraining m) s = .next t ∧ bootStage t.dev = 3 ∧
    t.dev.ddr.trained = (modulesOk s.dev m && ((s.dev.boot.tag == trainTag s.dev m && m.fastFails.isEmpty) || m.fails.isEmpty)) ∧
    t.dev.ddr.retired = s.dev.ddr.retired ∧ t.dev.mem = s.dev.mem ∧
    (t.dev.ddr.trained = false → getF t.dev kMemErr 0 1 = 1)) ∧
  (∀ (err : FlashErr) (region area n : Nat) (s : State), atStage s.dev 3 = true →
    (∀ c, selectCopy s.dev 2 err = .ok c → s.dev.ddr.trained = true → s.dev.ddr.poison = [] →
      rootPlanOk s.dev region (bodyOf (flashObj s.dev 2 c)).length area n = true →
      ∃ t, exec (.schedulerStart err region area n) s = .next t ∧ bootStage t.dev = 4 ∧ t.dev.boot.live = s.dev.aclk ∧
        rdMem t.dev region (bodyOf (flashObj s.dev 2 c)).length = bodyOf (flashObj s.dev 2 c) ∧
        t.dev.boot.locked = [(region, (bodyOf (flashObj s.dev 2 c)).length), (area, n)]) ∧
    (∀ r, selectCopy s.dev 2 err = .error r → ∃ t, exec (.schedulerStart err region area n) s = .next t ∧ bootStage t.dev = 8 ∧
      t.dev.boot.wait = 8)) ∧
  (∀ s : State, atStage s.dev 4 = true → ∃ t, exec .schedulerReady s = .next t ∧ bootDone t.dev = true ∧
    (∀ k, k ∈ [1, 2, 3, 4] → objCommit (objAt s.dev k) = true →
      tget 0 t.dev.boot.rpmc (k - 1) = max (counterOf s.dev k) (objSvn (objAt s.dev k))) ∧
    (∀ k, k ∈ [1, 2, 3, 4] → objCommit (objAt s.dev k) = false → tget 0 t.dev.boot.rpmc (k - 1) = counterOf s.dev k)) ∧
  (∀ s : State, bootDone s.dev = true → s.dev.boot.restarting = true → exec .schedulerReady s = s.goes (endRestart s.dev)) ∧
  (∀ s : State, schedulerRuns s.dev = true → exec .schedulerLiveness s = s.goes { s.dev with boot.live := s.dev.aclk }) ∧
  (∀ s : State, atStage s.dev 4 = true → s.dev.boot.live + 400000000 ≤ s.dev.aclk → ∃ t, exec .schedulerLivenessTimeout s = .next t ∧
    bootStage t.dev = 9 ∧ t.dev.boot.wait = 9) ∧
  (∀ s : State, bootDone s.dev = true → s.dev.boot.hold = false → s.dev.boot.restarting = false → s.dev.boot.live + 100000000 ≤ s.dev.aclk →
    exec .schedulerLivenessTimeout s = s.goes (restart 0 s.dev)) ∧
  (∀ s : State, schedulerRuns s.dev = true → exec .protectionViolation s = s.goes (restart 1 (bumpF kProtViol 0 32 1 s.dev))) ∧
  (∀ (cause : Nat) (d : Dev), (d.boot.restarts.filter (fun t => decide (d.aclk < t + 12000000000))).length ≥ 2 →
    bootStage (restart cause d) = 9 ∧ (restart cause d).boot.wait = 9 ∧ schedulerUp (restart cause d) = false)

/-- From R363, R439, R442 to R446: the firmware mailbox and DOE. BEGIN clears the count and takes words; a word is counted, and stored where the
length has room; END checks the count, the kind and the object, and begins the flash write or fails with the reason; the write's end
puts the object into flash; ABORT drops what was received; WARM_RESET makes a warm device reset due at once. A discovery request, an
evidence request and an unknown type are answered. -/
def Obligations.MailboxAndEvidence : Prop :=
  (∀ s : State, s.dev.boot.hold = false → mboxBusy s.dev = false → s.dev.boot.wait ≠ 10 → ∃ t, exec .mboxBegin s = .next t ∧
    mboxState t.dev = 1 ∧ regVal t.dev kMboxCount = 0 ∧ t = { s with dev := { s.dev with regs := t.dev.regs } }) ∧
  (∀ s : State, s.dev.boot.hold = false → mboxBusy s.dev = true → exec .mboxBegin s = .next s) ∧
  (∀ (v : W32) (s : State), s.dev.boot.hold = false → mboxState s.dev = 1 → regVal s.dev kMboxCount < 2 ^ 32 - 1 →
    ∃ t, exec (.mboxData v) s = .next t ∧ regVal t.dev kMboxCount = regVal s.dev kMboxCount + 1 ∧ mboxState t.dev = 1 ∧
      (4 * regVal s.dev kMboxCount + 4 ≤ regVal s.dev kMboxLen →
        rdMem t.dev (stagePlace + 4 * regVal s.dev kMboxCount) 4 = leBytes 4 v.toNat) ∧
      (regVal s.dev kMboxLen < 4 * regVal s.dev kMboxCount + 4 → t.dev.mem = s.dev.mem) ∧
      (∀ a, a < stagePlace + 4 * regVal s.dev kMboxCount ∨ stagePlace + 4 * regVal s.dev kMboxCount + 4 ≤ a →
        tget 0 t.dev.mem a = tget 0 s.dev.mem a)) ∧
  (∀ (v : W32) (s : State), s.dev.boot.hold = false → mboxState s.dev ≠ 1 → exec (.mboxData v) s = .next s ∧ exec .mboxEnd s = .next s ∧
    exec .mboxAbort s = .next s) ∧
  (∀ s : State, s.dev.boot.hold = false → mboxState s.dev = 1 →
    (4 * regVal s.dev kMboxCount ≠ regVal s.dev kMboxLen → ∃ t, exec .mboxEnd s = .next t ∧ mboxState t.dev = 5 ∧ getF t.dev kMboxStat 8 8 = 8) ∧
    (4 * regVal s.dev kMboxCount = regVal s.dev kMboxLen → (mboxKinds s.dev).contains (objKind (stagedObj s.dev)) = false →
      ∃ t, exec .mboxEnd s = .next t ∧ mboxState t.dev = 5 ∧ getF t.dev kMboxStat 8 8 = 9) ∧
    (4 * regVal s.dev kMboxCount = regVal s.dev kMboxLen → (mboxKinds s.dev).contains (objKind (stagedObj s.dev)) = true →
      verifyObj s.dev (objKind (stagedObj s.dev)) (stagedObj s.dev) = 0 →
      ∃ t, exec .mboxEnd s = .next t ∧ mboxState t.dev = 3 ∧
        (t.dev.boot.mbox.map (fun m => (m.kind, m.bytes))) = some (objKind (stagedObj s.dev), stagedObj s.dev) ∧
        (bootDone s.dev = true → t.dev.boot.mbox.map (·.copy) = some (1 - copyInUse s.dev (objKind (stagedObj s.dev))))) ∧
    (∃ t, exec .mboxAbort s = .next t ∧ mboxState t.dev = 0 ∧ t = { s with dev := { s.dev with regs := t.dev.regs } })) ∧
  (∀ (s : State) (m : MboxObj), s.dev.boot.mbox = some m → ∃ t, exec .mboxWriteDone s = .next t ∧ mboxState t.dev = 4 ∧ t.dev.boot.mbox = none ∧
    t.dev.boot.flash = tsetRun 0xFF s.dev.boot.flash (copyBase m.kind m.copy) m.bytes ∧
    t.dev.out = s.dev.out ++ [.flashWrite (copyBase m.kind m.copy) m.bytes] ∧ t.dev.boot.rpmc = s.dev.boot.rpmc ∧ t.dev.mem = s.dev.mem) ∧
  (∀ s : State, s.dev.boot.hold = false → s.dev.boot.warm = none → ∃ t, exec .mboxWarmReset s = .next t ∧
    t = { s with dev := { s.dev with boot.warm := some (3, s.dev.aclk) } }) ∧
  (∀ (i : BitVec 8) (b : List Byte) (s : State), afterRom s.dev = true → s.dev.boot.hold = false →
    (∃ r, exec (.doeDiscovery i) s = s.goes (emit (.doeResponse (doeObject 0x0001 0 r)) s.dev)) ∧
    exec .doeUnknownType s = s.goes (emit .doeError s.dev) ∧
    exec (.doeEvidenceRequest b) s = s.goes (emit (.doeResponse (doeObject 0x4D6C 1 (evidence s.dev b))) s.dev) ∧
    (evidenceOk b = true → getF s.dev kBootStat 24 1 = 1 → evidence s.dev b =
      evidenceBody s.dev (bytesNat b 1 1 == 1) (slice b 4 32) ++ deviceSign s.dev (evidenceBody s.dev (bytesNat b 1 1 == 1) (slice b 4 32))))

/-- From R324, R325, R350, R351: ports. Enabling a port takes its mode and media and starts training; it comes up with `seq` at 0 and a CRED_INIT to
send. A port that goes down sets `down_event`, discards its replay buffer and queued flits and raises LINK_PROTOCOL, and waits 1 ms to train
again. The stall window of a port ends with its fraction shown. An Ethernet frame that is not kept is counted. -/
def Obligations.FabricPorts : Prop :=
  (∀ (p : Fin 8) (v : W32) (s : State), bootDone s.dev = true → getF s.dev (kCrbPort p.val 0) 31 1 = 0 → bitAt v.toNat 31 = true →
    ∃ t, exec (.portEnable p v) s = .next t ∧ getF t.dev (kCrbPort p.val 4) 29 3 = 1 ∧ getF t.dev (kCrbPort p.val 0) 31 1 = 1 ∧
      (linkAt t.dev p.val).mode = fld v.toNat 30 1 ∧ (fld v.toNat 28 2 ≤ 2 → (linkAt t.dev p.val).media = fld v.toNat 28 2) ∧
      t.dev.out = s.dev.out ++ [.trainPort p.val] ∧ (∀ l, l ≠ p.val → linkAt t.dev l = linkAt s.dev l) ∧
      t = { s with dev := { s.dev with regs := t.dev.regs, out := t.dev.out, crb := { s.dev.crb with links := t.dev.crb.links } } }) ∧
  (∀ (p : Fin 8) (s : State), getF s.dev (kCrbPort p.val 4) 29 3 = 1 →
    ∃ t, exec (.portLinkUp p) s = .next t ∧ getF t.dev (kCrbPort p.val 4) 29 3 = 2 ∧
      ((linkAt s.dev p.val).mode = 0 → (linkAt t.dev p.val).seq = 0 ∧ (linkAt t.dev p.val).expect = 0 ∧ (linkAt t.dev p.val).replay = [] ∧
        (linkAt t.dev p.val).ctrl = [credPayload 1 (bufSizes p.val)] ∧ (linkAt t.dev p.val).initAt = some s.dev.aclk) ∧
      ((linkAt s.dev p.val).mode ≠ 0 → t.dev.crb = s.dev.crb) ∧ (∀ l, l ≠ p.val → linkAt t.dev l = linkAt s.dev l) ∧
      (∀ k, k ≠ kCrbPort p.val 4 → regVal t.dev k = regVal s.dev k) ∧
      t = { s with dev := { s.dev with regs := t.dev.regs, crb := { s.dev.crb with links := t.dev.crb.links } } }) ∧
  (∀ (p : Fin 8) (s : State), linkUp s.dev p.val = true →
    ∃ t, exec (.laneLockLoss p) s = .next t ∧ getF t.dev (kCrbPort p.val 4) 29 3 = 3 ∧ getF t.dev (kCrbPort p.val 4) 28 1 = 1 ∧
      getF t.dev kEvtPending 5 1 = 1 ∧ (linkAt t.dev p.val).tx = [] ∧ (linkAt t.dev p.val).replay = [] ∧
      (linkAt t.dev p.val).downAt = s.dev.aclk ∧ (linkAt t.dev p.val).rx.map (·.bytes) = (linkAt s.dev p.val).rx.map (·.bytes) ∧
      t.dev.core = s.dev.core ∧ t.dev.mem = s.dev.mem) ∧
  (∀ (p : Fin 8) (s : State), getF s.dev (kCrbPort p.val 4) 29 3 = 3 → (linkAt s.dev p.val).downAt + 200000 ≤ s.dev.aclk →
    ∃ t, exec (.portRetrain p) s = .next t ∧ getF t.dev (kCrbPort p.val 4) 29 3 = 1 ∧ t.dev.out = s.dev.out ++ [.trainPort p.val] ∧
      (∀ k, k ≠ kCrbPort p.val 4 → regVal t.dev k = regVal s.dev k) ∧
      t = { s with dev := { s.dev with regs := t.dev.regs, out := t.dev.out } }) ∧
  (∀ (p row : Nat) (d : Dev), p < 8 → linkUp d p = true →
    15 ≤ ((linkAt d p).viol.filter (fun t => decide (d.aclk < t + 200000))).length →
    getF (violate p row d) (kCrbPort p 4) 29 3 = 3 ∧ getF (violate p row d) (kCrbPort p 4) 28 1 = 1 ∧ (linkAt (violate p row d) p).tx = [] ∧
      (linkAt (violate p row d) p).replay = []) ∧
  (∀ (p row : Nat) (d : Dev), p < 8 → getF (violate p row d) (kCrbPort p 0xC) 24 8 = row % 256 ∧
    getF (violate p row d) (kCrbPort p 0xC) 0 16 = min 65535 (getF d (kCrbPort p 0xC) 0 16 + 1)) ∧
  (∀ (p : Fin 8) (s : State), nativeUp s.dev p.val = true → (linkAt s.dev p.val).winAt + 200000 ≤ s.dev.aclk →
    let st := linkAt s.dev p.val
    let hot : Prop := st.slots ≠ 0 ∧ getF s.dev kCrbHot 0 16 * st.slots < st.stalled * 65536
    ∃ t, exec (.hotspotWindow p) s = .next t ∧ linkAt t.dev p.val = { st with slots := 0, stalled := 0, stalls := [], winAt := s.dev.aclk } ∧
      getF t.dev (kCrbPort p.val 0x10) 16 16 = (if st.slots = 0 then 0 else min 65535 (st.stalled * 65536 / st.slots)) ∧
      getF t.dev (kCrbPort p.val 0x10) 8 3 = hotLane st.stalls % 8 ∧
      (hot → getF s.dev kCrbHot 31 1 = 1 → getF t.dev kEvtPending 4 1 = 1) ∧
      (hot → getF t.dev (kCrbPort p.val 0x10) 0 8 = min 255 (getF s.dev (kCrbPort p.val 0x10) 0 8 + 1)) ∧
      (¬(hot ∧ getF s.dev kCrbHot 31 1 = 1) → ∀ k, k ≠ kCrbPort p.val 0x10 → regVal t.dev k = regVal s.dev k) ∧
      (∀ l, l ≠ p.val → linkAt t.dev l = linkAt s.dev l)) ∧
  (∀ (p : Fin 8) (f : EthFrame) (s : State), ethUp s.dev p.val = true →
    (frameOk s.dev p.val f = true → frameKept s.dev p.val f = true → exec (.ethFrameReceive p f) s = .next s) ∧
    (frameOk s.dev p.val f = false ∨ frameKept s.dev p.val f = false → ∃ t, exec (.ethFrameReceive p f) s = .next t ∧
      getF t.dev (kCrbPort p.val 8) 0 8 = min 255 (getF s.dev (kCrbPort p.val 8) 0 8 + 1) ∧
      (∀ k, k ≠ kCrbPort p.val 8 → regVal t.dev k = regVal s.dev k) ∧ t = { s with dev := { s.dev with regs := t.dev.regs } }))

/-- From R326 to R328, R349: flits. A flit with a bad CRC or an unexpected number adds nothing to what has arrived, and the expected number is
asked for once for each gap; one in order with credit is accepted. A port sends a control flit first, then what is to be sent again, then new
DATA that has credit and replay space, and keeps each DATA flit until an ack covers it. Control codes and timeouts act as Table 13-5 says. -/
def Obligations.LinkLayer : Prop :=
  (∀ (p : Fin 8) (f : List Byte) (s : State), nativeUp s.dev p.val = true → f.length = 256 → flitGood f = false →
    ∃ t, exec (.flitReceive p f) s = .next t ∧ (∀ l, l < 8 → (linkAt t.dev l).rx.map (·.bytes) = (linkAt s.dev l).rx.map (·.bytes)) ∧
      getF t.dev (kCrbPort p.val 8) 16 16 = min 65535 (getF s.dev (kCrbPort p.val 8) 16 16 + 1) ∧ t.dev.core = s.dev.core ∧ t.dev.mem = s.dev.mem) ∧
  (∀ (p : Fin 8) (f : List Byte) (s : State), nativeUp s.dev p.val = true → f.length = 256 → flitGood f = true → flitKind f = 1 →
    let st := linkAt s.dev p.val
    let h := flitHead f
    ackUnsent st (fld h 24 12) = false →
    (fld h 36 12 ≠ st.expect → ∃ t, exec (.flitReceive p f) s = .next t ∧
      (∀ l, l < 8 → (linkAt t.dev l).rx.map (·.bytes) = (linkAt s.dev l).rx.map (·.bytes)) ∧ t.dev.mem = s.dev.mem ∧
      (st.viol = [] → (linkAt t.dev p.val).expect = st.expect ∧ (linkAt t.dev p.val).ctrl =
        (if st.gap.map (·.1) = some st.expect then st.ctrl else st.ctrl ++ [leBytes 1 3 ++ leBytes 2 st.expect]))) ∧
    (fld h 36 12 = st.expect → 0 < tget 0 st.partner (fld h 57 3) → tget [] st.part (fld h 57 3) = [] → fld h 56 1 = 1 → fld h 55 1 = 1 →
      pktRow p.val (fld h 57 3) 1 (flitPayload f) = none →
      ∃ t, exec (.flitReceive p f) s = .next t ∧ (linkAt t.dev p.val).expect = (st.expect + 1) % 4096 ∧
        (linkAt t.dev p.val).rx = st.rx ++ [{ vl := fld h 57 3, flits := 1, bytes := (flitPayload f).take (32 + (pktOf (flitPayload f)).data.length) }] ∧
        tget 0 (linkAt t.dev p.val).partner (fld h 57 3) = tget 0 st.partner (fld h 57 3) - 1 ∧ t.dev.regs = s.dev.regs ∧
        (∀ l, l ≠ p.val → linkAt t.dev l = linkAt s.dev l))) ∧
  (∀ (l : Fin 24) (s : State), linkLive s.dev l.val = true →
    let st := linkAt s.dev l.val
    ∃ t, exec (.flitTransmit l) s = .next t ∧
      t.dev.out = s.dev.out ++ [if l.val < 8 then .flit l.val (nextFlit s.dev.aclk s.dev.time.ft l.val st).1
        else .datagram (l.val - 8) (nextFlit s.dev.aclk s.dev.time.ft l.val st).1] ∧
      (∀ j, j ≠ l.val → linkAt t.dev j = linkAt s.dev j) ∧
      (∀ c cs, st.ctrl = c :: cs → (linkAt t.dev l.val).ctrl = cs ∧ (linkAt t.dev l.val).tx = st.tx ∧ (linkAt t.dev l.val).replay = st.replay ∧
        (linkAt t.dev l.val).seq = st.seq) ∧
      (st.ctrl = [] → 0 < st.resend → st.resend ≤ st.replay.length → (linkAt t.dev l.val).resend = st.resend - 1 ∧
        (linkAt t.dev l.val).replay.map (fun f => (f.seq, f.payload)) = st.replay.map (fun f => (f.seq, f.payload)) ∧
        (linkAt t.dev l.val).tx = st.tx ∧ (linkAt t.dev l.val).seq = st.seq) ∧
      (st.ctrl = [] → st.resend = 0 → replayMax l.val ≤ st.replay.length → (linkAt t.dev l.val).tx = st.tx ∧
        (linkAt t.dev l.val).replay = st.replay ∧ (linkAt t.dev l.val).seq = st.seq) ∧
      (st.ctrl = [] → st.resend = 0 → (∀ f ∈ st.tx, tget 0 st.credits f.vl = 0) → (linkAt t.dev l.val).tx = st.tx ∧
        (linkAt t.dev l.val).replay = st.replay ∧ (linkAt t.dev l.val).credits = st.credits) ∧
      (∀ f fs, st.ctrl = [] → st.resend = 0 → st.sizes = true → st.replay.length < replayMax l.val → st.tx = f :: fs → 0 < tget 0 st.credits f.vl →
        (linkAt t.dev l.val).tx = fs ∧ (linkAt t.dev l.val).seq = (st.seq + 1) % 4096 ∧
        tget 0 (linkAt t.dev l.val).credits f.vl = tget 0 st.credits f.vl - 1 ∧
        ∃ g, (linkAt t.dev l.val).replay = st.replay ++ [g] ∧ g.seq = st.seq ∧ g.vl = f.vl ∧ g.sentAt = s.dev.aclk)) ∧
  (∀ (p : Fin 8) (f : List Byte) (s : State), nativeUp s.dev p.val = true →
    let st := linkAt s.dev p.val
    let n := ctrlNat f 0 2 % 4096
    ackUnsent st (fld (flitHead f) 24 12) = false →
    (ctrlCode f = some 1 → ∃ t, exec (.credInit p f) s = .next t ∧ (linkAt t.dev p.val).sizes = true ∧ t.dev.regs = s.dev.regs ∧
      (st.sizes = false → (linkAt t.dev p.val).credits = ctrlCounts f)) ∧
    (ctrlCode f = some 2 → ∃ t, exec (.credSync p f) s = .next t ∧ (linkAt t.dev p.val).credits = ctrlCounts f ∧ t.dev.regs = s.dev.regs) ∧
    (ctrlCode f = some 3 → n ≠ st.seq → (ackLink (fld (flitHead f) 24 12) st).replay.any (fun x => x.seq == n) = true →
      ∃ t, exec (.replayReq p f) s = .next t ∧ (linkAt t.dev p.val).replay = (ackLink (fld (flitHead f) 24 12) st).replay ∧
        (((linkAt t.dev p.val).replay.drop ((linkAt t.dev p.val).replay.length - (linkAt t.dev p.val).resend)).head?.map (·.seq)) = some n ∧
        getF t.dev (kCrbPort p.val 8) 8 8 = min 255 (getF s.dev (kCrbPort p.val 8) 8 8 + 1)) ∧
    (ctrlCode f = some 4 → ctrlClean f 10 = true → ∃ t, exec (.timeProbe p f) s = .next t ∧
      (linkAt t.dev p.val).ctrl = st.ctrl ++ [leBytes 1 5 ++ slice f 9 10 ++ timeBytes s.dev.time.ft] ∧ t.dev.regs = s.dev.regs) ∧
    (∀ q : Nat, ctrlCode f = some 5 → ctrlClean f 30 = true → q / 32768 < 2 ^ 24 →
      ((s.dev.time.ft : Int) - (timeNat f 0 : Int)) - ((timeNat f 20 : Int) - (timeNat f 10 : Int)) = (q : Int) →
      ∃ t, exec (.timeProbeRsp p f) s = .next t ∧ regVal t.dev (kTimHop p.val) = 2 ^ 31 + q / 32768 ∧
        (∀ k, k ≠ kTimHop p.val → regVal t.dev k = regVal s.dev k)) ∧
    (ctrlCode f = some 6 → ∃ t, exec (.downNotice p f) s = .next t ∧ getF t.dev (kCrbPort p.val 4) 29 3 = 3 ∧
      getF t.dev (kCrbPort p.val 4) 28 1 = 1 ∧ (linkAt t.dev p.val).replay = [] ∧ (linkAt t.dev p.val).tx = [])) ∧
  (∀ (l : Fin 24) (s : State) (f : TxFlit) (fs : List TxFlit), linkLive s.dev l.val = true → (linkAt s.dev l.val).replay = f :: fs →
    f.sentAt + ackTimeout l.val ≤ s.dev.aclk → (linkAt s.dev l.val).resend ≤ fs.length →
    ∃ t, exec (.replayTimeout l) s = .next t ∧ linkAt t.dev l.val = { linkAt s.dev l.val with resend := fs.length + 1 } ∧
      (∀ j, j ≠ l.val → linkAt t.dev j = linkAt s.dev j) ∧
      (l.val < 8 → getF t.dev (kCrbPort l.val 8) 8 8 = min 255 (getF s.dev (kCrbPort l.val 8) 8 8 + 1)) ∧
      (8 ≤ l.val → t.dev.regs = s.dev.regs)) ∧
  (∀ (l : Fin 24) (s : State) (at_ : Nat), linkLive s.dev l.val = true → (linkAt s.dev l.val).initAt = some at_ → at_ + 4000 ≤ s.dev.aclk →
    ∃ t, exec (.credInitResend l) s = .next t ∧ linkAt t.dev l.val = { linkAt s.dev l.val with
      initAt := some s.dev.aclk, ctrl := (linkAt s.dev l.val).ctrl ++ [credPayload 1 (bufSizes l.val)] } ∧ t.dev.regs = s.dev.regs) ∧
  (∀ (l : Fin 24) (s : State) (e at_ : Nat), linkLive s.dev l.val = true → (linkAt s.dev l.val).gap = some (e, at_) → at_ + 4000 ≤ s.dev.aclk →
    (linkAt s.dev l.val).sync = none →
    ∃ t, exec (.ctrlResendTimeout l) s = .next t ∧ linkAt t.dev l.val = { linkAt s.dev l.val with
      gap := some ((linkAt s.dev l.val).expect, s.dev.aclk)
      ctrl := (linkAt s.dev l.val).ctrl ++ [leBytes 1 3 ++ leBytes 2 (linkAt s.dev l.val).expect] } ∧ t.dev.regs = s.dev.regs) ∧
  (∀ (l : Fin 24) (s : State) (at_ : Nat), linkLive s.dev l.val = true → (linkAt s.dev l.val).gap = none →
    (linkAt s.dev l.val).sync = some at_ → at_ + 4000 ≤ s.dev.aclk →
    ∃ t, exec (.ctrlResendTimeout l) s = .next t ∧ linkAt t.dev l.val = { linkAt s.dev l.val with
      sync := some s.dev.aclk, ctrl := (linkAt s.dev l.val).ctrl ++ [credPayload 2 (linkAt s.dev l.val).partner] } ∧ t.dev.regs = s.dev.regs)

/-- From R310, R347, R349, R352: times and tunnels. Once a millisecond a Crebor-mode port sends a TIME_PROBE and a TIME message; a TIME message that keeps
the rules is noted as its neighbour's and one that breaks them is row 10. A tunnel comes up with a datagram from its peer, whose flits
it takes; a bad datagram is dropped and counted; and 100 ms of silence take the tunnel down. -/
def Obligations.TimeMessagesAndTunnels : Prop :=
  (∀ (p : Fin 8) (s : State), nativeUp s.dev p.val = true → msDue s.dev.aclk (linkAt s.dev p.val).probeAt = true →
    ∃ t, exec (.timeProbeSend p) s = .next t ∧ linkAt t.dev p.val = { linkAt s.dev p.val with
      probeAt := some s.dev.aclk, ctrl := (linkAt s.dev p.val).ctrl ++ [leBytes 1 4 ++ timeBytes 0] } ∧ t.dev.regs = s.dev.regs) ∧
  (∀ (p : Fin 8) (s : State), nativeUp s.dev p.val = true → msDue s.dev.aclk (linkAt s.dev p.val).timeAt = true →
    ∃ t f, exec (.timeMessageSend p) s = .next t ∧ linkAt t.dev p.val = { linkAt s.dev p.val with
      timeAt := some s.dev.aclk, tx := (linkAt s.dev p.val).tx ++ [f] } ∧ f.vl = 6 ∧ f.sop = true ∧ f.eop = true ∧ t.dev.regs = s.dev.regs) ∧
  (∀ (p : Fin 8) (w : Bool) (s : State) (r : RxPkt) (rs : List RxPkt), (linkAt s.dev p.val).rx = r :: rs → (pktOf r.bytes).type = 0x20 →
    (timeMsgOk (pktOf r.bytes) = false → exec (.time p w) s = s.goes (violate p.val 10 (badSample 3 0 false (popRx p.val s.dev)))) ∧
    (timeMsgOk (pktOf r.bytes) = true → ∃ t, exec (.time p w) s = .next t ∧ (linkAt t.dev p.val).rx = rs ∧
      tget none t.dev.time.adverts p.val = some (advertOf s.dev.aclk (pktOf r.bytes)) ∧
      (∀ q, q ≠ p.val → tget none t.dev.time.adverts q = tget none s.dev.time.adverts q) ∧ t.dev.mem = s.dev.mem ∧ t.dev.core = s.dev.core)) ∧
  (∀ (k : Fin 16) (good : Bool) (b : List Byte) (s : State), getF s.dev (kCrbTunnel k.val) 31 1 = 1 → ethUp s.dev (linkPort s.dev (8 + k.val)) = true →
    (good = false ∨ b.length % 256 ≠ 0 ∨ 1024 < b.length → ∃ t, exec (.tunnelDatagram k good b) s = .next t ∧
      getF t.dev (kCrbPort (linkPort s.dev (8 + k.val)) 8) 0 8 = min 255 (getF s.dev (kCrbPort (linkPort s.dev (8 + k.val)) 8) 0 8 + 1) ∧
      t = { s with dev := { s.dev with regs := t.dev.regs } }) ∧
    (good = true → b.length = 256 → linkUp s.dev (8 + k.val) = false →
      exec (.tunnelDatagram k good b) s = s.goes (rxTunnel (8 + k.val) (b.take 256) (updLink (8 + k.val) (fun x => { x with heard := s.dev.aclk })
        (updLink (8 + k.val) (freshLink s.dev.aclk (8 + k.val)) (setF (kCrbTunnel k.val) 30 1 1 s.dev))))) ∧
    (good = true → b.length = 256 → linkUp s.dev (8 + k.val) = true →
      exec (.tunnelDatagram k good b) s = s.goes (rxTunnel (8 + k.val) (b.take 256) (updLink (8 + k.val) (fun x => { x with heard := s.dev.aclk }) s.dev)))) ∧
  (∀ (k : Fin 16) (s : State), linkUp s.dev (8 + k.val) = true → (linkAt s.dev (8 + k.val)).heard + 20000000 ≤ s.dev.aclk →
    ∃ t, exec (.tunnelTimeout k) s = .next t ∧ linkUp t.dev (8 + k.val) = false ∧
      linkAt t.dev (8 + k.val) = deadLink s.dev.aclk (linkAt s.dev (8 + k.val)) ∧
      (∀ j, j ≠ 8 + k.val → linkAt t.dev j = linkAt s.dev j) ∧ (∀ x, x ≠ kCrbTunnel k.val → regVal t.dev x = regVal s.dev x))

/-- From R330 to R332: routing. A packet for another device leaves on a live candidate of its route entry with its hop limit one lower, whatever its
type; one whose hop limit is 0, or that has no live candidate, is misrouted and counted. -/
def Obligations.PacketsAreForwarded : Prop :=
  (∀ (l : Fin 25) (s : State) (r : RxPkt) (rs : List RxPkt), (linkAt s.dev l.val).rx = r :: rs → (pktOf r.bytes).dst ≠ ownId s.dev →
    let p := pktOf r.bytes
    let on := s.goes (forwardPkt (rxClass r) p (popRx l.val s.dev))
    (p.type = 0x01 → exec (.put l) s = on) ∧ (p.type = 0x02 → exec (.get l) s = on) ∧ (p.type = 0x03 → exec (.signal l) s = on) ∧
    (p.type = 0x08 → exec (.ack l) s = on) ∧ (p.type = 0x09 → exec (.nak l) s = on) ∧ (p.type = 0x0A → exec (.getRsp l) s = on) ∧
    (p.type = 0x18 → exec (.collUp l) s = on) ∧ (p.type = 0x19 → exec (.collDown l) s = on) ∧ (p.type = 0x1A → exec (.collAbort l) s = on)) ∧
  (∀ (cls : Nat) (p : Pkt) (d : Dev) (q : Nat), p.dst ≠ ownId d → p.hop ≠ 0 → outLink d { p with hop := p.hop - 1 } = some q →
    forwardPkt cls p d = queuePkt q cls { p with hop := p.hop - 1 } d) ∧
  (∀ (cls : Nat) (p : Pkt) (d : Dev), p.dst ≠ ownId d → (p.hop = 0 ∨ outLink d { p with hop := p.hop - 1 } = none) → isResponse p.type = true →
    forwardPkt cls p d = bumpF kCrbRouteErr 16 16 1 d) ∧
  (∀ (cls : Nat) (p : Pkt) (d : Dev), p.dst ≠ ownId d → p.hop = 0 → isResponse p.type = false →
    forwardPkt cls p d = sendPlain (nakOf (bumpF kCrbRouteErr 16 16 1 d) 0x03 p) (bumpF kCrbRouteErr 16 16 1 d)) ∧
  (∀ (d : Dev) (p : Pkt) (q : Nat), outLink d p = some q → q ∈ candidates d (routeKey d p.dst) ∧ linkLive d q = true) ∧
  (∀ (d : Dev) (p : Pkt), isColl p.type = true → outLink d p = (candidates d (routeKey d p.dst)).head?)

/-- From R154, R319, R334, R335, R338: transport requests and answers. A good PUT writes its bytes and posts, a good GET is answered with the bytes
read, a good SIGNAL posts its count; a request the target refuses changes no memory and no semaphore; one already answered gets the
same answer and no second effect; an answer ends the request it matches; a request that draws none is sent again, then fails. A snapshot holds
the messages sent at or after its instant, and its copy releases them. -/
def Obligations.TransportEffects : Prop :=
  (∀ (l : Fin 25) (s : State) (r : RxPkt) (rs : List RxPkt), (linkAt s.dev l.val).rx = r :: rs → (pktOf r.bytes).dst = ownId s.dev →
    s.dev.crb.snap = none → seenAnswer s.dev (pktOf r.bytes) = none →
    let p := pktOf r.bytes
    let d := popRx l.val s.dev
    (nakCode s.dev p = 0 →
      (p.type = 0x01 → ∃ t, exec (.put l) s = .next t ∧ rdMem t.dev p.addr p.data.length = p.data ∧
        (∀ a, a < p.addr ∨ p.addr + p.data.length ≤ a → tget 0 t.dev.mem a = tget 0 s.dev.mem a) ∧
        (postEn p = true → semGet t.dev (postCore p) (postQ p) = min 65535 (semGet s.dev (postCore p) (postQ p) + 1)) ∧
        (postEn p = false → t.dev.core = s.dev.core)) ∧
      (p.type = 0x02 → ∃ t, exec (.get l) s = .next t ∧ t.dev.mem = s.dev.mem ∧ t.dev.core = s.dev.core ∧
        (t.dev.crb.seen.getLast?.map (·.answer)) = some (pktBytes (answerPkt d 0x0A (unitBytes s.dev p.addr p.len) p))) ∧
      (p.type = 0x03 → ∃ t, exec (.signal l) s = .next t ∧ t.dev.mem = s.dev.mem ∧
        semGet t.dev (postCore p) (postQ p) = min 65535 (semGet s.dev (postCore p) (postQ p) + p.addr) ∧
        ∀ k, k ≠ semKey (postCore p) (postQ p) → tget 0 t.dev.core.sems k = tget 0 s.dev.core.sems k)) ∧
    (nakCode s.dev p ≠ 0 → p.type ∈ [1, 2, 3] → ∀ i ∈ [Instr.put l, .get l, .signal l], (i = .put l → p.type = 1) → (i = .get l → p.type = 2) →
      (i = .signal l → p.type = 3) → ∃ t, exec i s = .next t ∧ t.dev.mem = s.dev.mem ∧ t.dev.core = s.dev.core ∧
        (t.dev.crb.seen.getLast?.map (·.answer)) = some (pktBytes (nakOf d (nakCode s.dev p) p)))) ∧
  (∀ (l : Fin 25) (s : State) (r : RxPkt) (rs : List RxPkt) (a : List Byte), (linkAt s.dev l.val).rx = r :: rs → (pktOf r.bytes).dst = ownId s.dev →
    s.dev.crb.snap = none → seenAnswer s.dev (pktOf r.bytes) = some a → (pktOf r.bytes).type = 0x01 →
    exec (.put l) s = s.goes (sendPlain (pktOf a) (popRx l.val s.dev)) ∧
    (sendPlain (pktOf a) (popRx l.val s.dev)).mem = s.dev.mem ∧ (sendPlain (pktOf a) (popRx l.val s.dev)).core = s.dev.core) ∧
  (∀ (l : Fin 25) (s : State) (r : RxPkt) (rs : List RxPkt) (n : Snap), (linkAt s.dev l.val).rx = r :: rs → (pktOf r.bytes).dst = ownId s.dev →
    s.dev.crb.snap = some n → (pktOf r.bytes).job = n.fabric → (pktOf r.bytes).job ≠ 0 → n.t ≤ (pktOf r.bytes).time → (pktOf r.bytes).type = 0x01 →
    ∃ t, exec (.put l) s = .next t ∧ t.dev.mem = s.dev.mem ∧ t.dev.core = s.dev.core ∧
      t.dev.crb.heldPkts = s.dev.crb.heldPkts ++ [{ vl := 0, flits := 0, bytes := pktBytes (pktOf r.bytes) }]) ∧
  (∀ (l : Fin 25) (s : State) (r : RxPkt) (rs : List RxPkt), (linkAt s.dev l.val).rx = r :: rs → (pktOf r.bytes).dst = ownId s.dev →
    let p := pktOf r.bytes
    let d := popRx l.val s.dev
    (∀ q, answered s.dev p = some q → (pktOf q.packet).type ≠ 2 → p.type = 0x08 → exec (.ack l) s = s.goes (endOne q (.ok []) d)) ∧
    (∀ q, answered s.dev p = some q → p.type = 0x09 → exec (.nak l) s = s.goes (endOne q (.failed (nakStatus p.status) q.addr) d)) ∧
    (∀ q, answered s.dev p = some q → (pktOf q.packet).type = 2 → p.len = (pktOf q.packet).len → p.type = 0x0A →
      exec (.getRsp l) s = s.goes (endOne q (.ok p.data) d)) ∧
    (answered s.dev p = none → (p.type = 0x08 → exec (.ack l) s = s.goes d) ∧ (p.type = 0x09 → exec (.nak l) s = s.goes d) ∧
      (p.type = 0x0A → exec (.getRsp l) s = s.goes d))) ∧
  (∀ (dst tag : Nat) (s : State) (r : XReq), s.dev.crb.outstanding.find? (fun r => r.tag == tag && r.dst == dst) = some r →
    r.sentAt + xportNs s.dev ≤ nowNs s.dev →
    (r.resent < getF s.dev kCrbXport 28 3 → ∃ t, exec (.xportTimeout dst tag) s = .next t ∧ t.dev.mem = s.dev.mem ∧ t.dev.core = s.dev.core ∧
      ∃ q, t.dev.crb.outstanding.find? (fun r => r.tag == tag && r.dst == dst) = some q ∧ q.resent = r.resent + 1 ∧ q.sentAt = nowNs s.dev) ∧
    (getF s.dev kCrbXport 28 3 ≤ r.resent → exec (.xportTimeout dst tag) s = s.goes (endOne r (.failed stTimeout r.addr) s.dev))) ∧
  (∀ (code : Nat), nakStatus code = (if code = 2 ∨ code = 6 then 0x12 else if code = 5 then 0x41 else 0x60)) ∧
  (∀ (l : Fin 25) (s : State) (r : RxPkt) (rs : List RxPkt), (linkAt s.dev l.val).rx = r :: rs → (pktOf r.bytes).type = 0x10 →
    let p := pktOf r.bytes
    let e := mcastOn l.val (rxClass r) p (popRx l.val s.dev)
    let d := if getF s.dev (kCrbMcast (p.dst % 256)) 0 1 = 1 then mcastHere p e else e
    exec (.mcast l) s = s.goes (settle (forEach (d.crb.colls.filter (fun c => c.downEnd)) (fun c d => finishMcast c.uid d) d)) ∧
      e.mem = s.dev.mem ∧ e.core = s.dev.core) ∧
  (∀ (p : Pkt) (d : Dev), (fabricJob d p.job = none ∨ (∃ j, fabricJob d p.job = some j ∧ exportHolds j p.addr p.len 1 = false)) →
    mcastHere p d = bumpF kCrbRouteErr 0 16 1 d) ∧
  (∀ (p : Pkt) (d : Dev) (j : Job), fabricJob d p.job = some j → exportHolds j p.addr p.len 1 = true → rangeOk d (some j) p.addr p.len true = true →
    poisonPartial d p.addr p.len = none → rdMem (mcastHere p d) p.addr p.data.length = p.data) ∧
  (∀ (tt uid : Nat) (rs : List (Nat × Nat)) (a n : Nat) (s : State) (j : Job), jobAt s.dev uid = some j → schedulerUp s.dev = true →
    j.running = true → s.dev.crb.snap = none → tt ≤ nowNs s.dev → s.dev.ddr.trained = true → (∀ r ∈ rs, inside r.1 r.2 ddrBase (ddrSize s.dev) = true) →
    inside a n ddrBase (ddrSize s.dev) = true → lockedIn s.dev a n = false →
    ∃ t, exec (.snapshotCapture tt uid rs a n) s = .next t ∧ t.dev.crb.snap =
        some { t := tt, job := uid, tag := j.tag, fabric := j.fabric, ranges := rs, region := a, regionLen := n, log := [] } ∧
      t = { s with dev := { s.dev with crb := { s.dev.crb with snap := t.dev.crb.snap } } }) ∧
  (∀ (s : State) (p : Snap), s.dev.crb.snap = some p → (∀ k ∈ jobSlots s.dev p.tag, fenceClear s.dev (k / 2) (k % 2) 0 = true) →
    s.dev.crb.heldPkts = [] → ∃ t, exec .snapshotCopyDone s = .next t ∧ t.dev.crb.snap = none ∧
      rdMem t.dev p.region p.regionLen = (upFrom 0 p.regionLen).map (fun i => Config.captureByte (captured s.dev p) p.log i) ∧
      (∀ x, x < p.region ∨ p.region + p.regionLen ≤ x → tget 0 t.dev.mem x = tget 0 s.dev.mem x) ∧ t.dev.core = s.dev.core)

/-- From R337, R341 to R346: receive windows and collectives. A COPY to a receive-window port opens or closes a window of its core; a COPY to the
collective port is a request, which fails at once where it breaks a rule and else takes its group's next number; messages from a
child go up the tree, from the parent down it, and an abort ends the collective; silence for its time limit aborts it; a timed barrier
releases at its instant, with LAUNCH_MISSED at least 10 ns later (the model's reading of R318); and a RESET is flooded on and acted on once. -/
def Obligations.Collectives : Prop :=
  (∀ (c : Fin 32) (id : Nat) (r : ReqEnd) (s : State) (o : QuireOp) (bs : List Byte),
    (quireAt s.dev c.val).ops.find? (fun o => o.id == id) = some o → o.started = true → o.page = none →
    quireOrdered c.val (quireAt s.dev c.val).ops o = true → o.blk.signal = false → quireData s.dev o r = some (.ok bs) →
    quireFault s.dev (slotKey c.val o.slot) o = none → o.blk.postEn = false →
    let k := slotKey c.val o.slot
    let w := leWords 8 bs
    (isRecvPort c.val o.blk = true → copyOp bs ≠ 2 → winOpenOk s.dev k w = true → ∃ t, exec (.recvWindowOpen c id r) s = .next t ∧
      tget none t.dev.crb.wins (4 * k + w.getD 0 0 % 4) = some
        { lo := winBase s.dev k + w.getD 1 0, len := w.getD 2 0, readable := bitAt (w.getD 3 0) 0, writable := bitAt (w.getD 3 0) 1 } ∧
      (∀ j, j ≠ 4 * k + w.getD 0 0 % 4 → tget none t.dev.crb.wins j = tget none s.dev.crb.wins j) ∧ t.dev.mem = s.dev.mem) ∧
    (isRecvPort c.val o.blk = true → copyOp bs ≠ 2 → winOpenOk s.dev k w = false → ∃ t, exec (.recvWindowOpen c id r) s = .next t ∧
      t.dev = quireEnd k stBadAddr o.blk.dst o s.dev ∧ t.dev.crb = s.dev.crb) ∧
    (isRecvPort c.val o.blk = true → copyOp bs = 2 → fld (w.getD 0 0) 2 22 = 0 → ((w.drop 1).all (· == 0)) = true →
      ∃ t, exec (.recvWindowClose c id r) s = .next t ∧ tget none t.dev.crb.wins (4 * k + w.getD 0 0 % 4) = none ∧
      (∀ j, j ≠ 4 * k + w.getD 0 0 % 4 → tget none t.dev.crb.wins j = tget none s.dev.crb.wins j) ∧ t.dev.mem = s.dev.mem) ∧
    (isCollPort o.blk = true →
      let done := s.goes (quireEnd k stSuccess 0 o (requestColl k bs s.dev))
      (copyOp bs = 1 ∨ copyOp bs = 0 ∨ 7 < copyOp bs → exec (.barrier c id r) s = done) ∧ (copyOp bs = 2 → exec (.tbarrier c id r) s = done) ∧
      (copyOp bs = 3 → exec (.reduce c id r) s = done) ∧ (copyOp bs = 4 → exec (.allreduce c id r) s = done) ∧
      (copyOp bs = 5 → exec (.reducescatter c id r) s = done) ∧ (copyOp bs = 6 → exec (.allgather c id r) s = done) ∧
      (copyOp bs = 7 → exec (.broadcast c id r) s = done))) ∧
  (∀ (k : Nat) (bs : List Byte) (d : Dev) (j : Job) (g : List Byte), slotJob d k = some j → j.groups[fld ((leWords 16 bs).getD 0 0) 12 4]? = some g →
    let c := collOf d k j g (leWords 16 bs)
    collFieldsOk (leWords 16 bs) = true → (∀ q, c.replyQ = some q → (slotAt d k).semMask.getLsbD q = true) →
    (c.seq ≠ (lastSeq d j.uid c.group + 1) % 2 ^ 32 → requestColl k bs d = failColl c stInvalid d) ∧
    (c.seq = (lastSeq d j.uid c.group + 1) % 2 ^ 32 → (∀ a ∈ d.crb.aborted, ¬(a.1 = j.uid ∧ a.2.1 = c.group ∧ a.2.2.1 = c.seq)) →
      (collAddrsOk d j c = false → requestColl k bs d = numberColl c stBadAddr d) ∧
      (collAddrsOk d j c = true → collFull d c = true → requestColl k bs d = failColl c stConflict d) ∧
      (collAddrsOk d j c = true → collFull d c = false → c.op ≠ 2 → requestColl k bs d = acceptColl j c d))) ∧
  (∀ (l : Fin 25) (s : State) (r : RxPkt) (rs : List RxPkt), (linkAt s.dev l.val).rx = r :: rs → (pktOf r.bytes).dst = ownId s.dev →
    let p := pktOf r.bytes
    let d := popRx l.val s.dev
    let now := s.goes (takeColl p d)
    ((p.type = 0x18 → exec (.collUp l) s = now) ∧ (p.type = 0x19 → exec (.collDown l) s = now) ∧ (p.type = 0x1A → exec (.collAbort l) s = now)) ∧
    (seenAnswer d p = none → fabricJob d p.job = none → takeColl p d = giveAnswer p (nakOf d 6 p) d) ∧
    (∀ j, seenAnswer d p = none → fabricJob d p.job = some j → takeColl p d = settle (onColl j p (giveAnswer p (answerPkt d 8 [] p) d)))) ∧
  (∀ (j : Job) (p : Pkt) (d : Dev) (c : Coll) (n : Nat), msgColl d j.uid (collHdr p.data) = some c → rankOf c.members p.src = some n →
    (p.type = 0x1A → onColl j p d = finishColl c (collHdr p.data).status (collHdr p.data).first c.flags
      (spreadAbort c (collHdr p.data).status (collHdr p.data).first (some n) d)) ∧
    (p.type = 0x19 → c.rank ≠ 0 → n = collParent c.rank → onColl j p d = applyDown c p d) ∧
    (p.type = 0x18 → n ∈ collChildren c → onColl j p d = applyUp c n p d) ∧
    (p.type = 0x18 → n ∉ collChildren c → onColl j p d = d)) ∧
  (∀ (uid : Nat) (s : State) (c : Coll), collAt s.dev uid = some c → collWaits c = true → c.startedAt + 1000 * c.timeoutUs ≤ nowNs s.dev →
    (c.downEnd = false → exec (.collectiveTimeout uid) s = s.goes (settle (abortColl c stTimeout stTimeout c.rank s.dev))) ∧
    (c.downEnd = true → exec (.collectiveTimeout uid) s = s.goes (settle (finishColl c stTimeout c.rank c.flags s.dev)))) ∧
  (∀ (uid : Nat) (s : State) (c : Coll), findDesc s.dev uid = none → collAt s.dev uid = some c → c.op = 2 → c.running = true → c.t ≤ nowNs s.dev →
    (nowNs s.dev < c.t + 10 → exec (.launchFire uid) s = s.goes (settle (finishColl c stSuccess 0xFFFFFFFF c.flags s.dev))) ∧
    (c.t + 10 ≤ nowNs s.dev → exec (.launchFire uid) s = s.goes (settle (finishColl c stMissed c.rank c.flags s.dev)))) ∧
  (∀ (l : Fin 25) (s : State) (r : RxPkt) (rs : List RxPkt), (linkAt s.dev l.val).rx = r :: rs → (pktOf r.bytes).type = 0x28 →
    let b := (pktOf r.bytes).data
    let d := popRx l.val s.dev
    bytesNat b 2 1 ≤ 1 → bytesNat b 3 5 = 0 →
    (resetSeen d (bytesNat b 0 2) = true → exec (.reset l) s = s.goes d) ∧
    (resetSeen d (bytesNat b 0 2) = false → exec (.reset l) s = s.goes (planReset (bytesNat b 0 2)
      (if bytesNat b 2 1 = 1 then some (bytesNat b 8 8) else none) none
      (sendReset (bytesNat b 0 2) (if bytesNat b 2 1 = 1 then some (bytesNat b 8 8) else none) l.val (noteReset (bytesNat b 0 2) d)))))

/-- R45: minimum and maximum order −0 below +0. If either operand is NaN, they return the canonical NaN and raise INVALID. Comparisons with a
NaN operand are false, except not-equal, which is true. Comparisons raise no flag. -/
def Obligations.MinMaxAndCompare : Prop :=
  (∀ (md : Mode) (tc : Nat) (c : XR),
    runNum (vecScalar md .min 0 0 tc 0 (val32 0x80000000) (val32 0) c) = (0x80000000, Flags.none) ∧
    runNum (vecScalar md .min 0 0 tc 0 (val32 0) (val32 0x80000000) c) = (0x80000000, Flags.none) ∧
    runNum (vecScalar md .max 0 0 tc 0 (val32 0x80000000) (val32 0) c) = (0, Flags.none) ∧
    runNum (vecScalar md .max 0 0 tc 0 (val32 0) (val32 0x80000000) c) = (0, Flags.none)) ∧
  (∀ (a b : XR), a ≠ .nan → b ≠ .nan →
    (∃ r, runNum (numMin a b) = (r, Flags.none) ∧ (r = a ∨ r = b) ∧ xrLt a r = false ∧ xrLt b r = false) ∧
    (∃ r, runNum (numMax a b) = (r, Flags.none) ∧ (r = a ∨ r = b) ∧ xrLt r a = false ∧ xrLt r b = false)) ∧
  (∀ f ∈ [VecFn.min, VecFn.max], ∀ (md : Mode) (ta tb tc : Nat) (a b c : XR), (a = .nan ∨ b = .nan) → ta ≠ 3 → tb ≠ 3 →
    ∀ p ∈ [(0, 0x7FC00000), (1, 0x7FC0), (2, 0x7E00)],
      (runNum (vecScalar md f ta tb tc p.1 a b c)).1 = p.2 ∧ (runNum (vecScalar md f ta tb tc p.1 a b c)).2 = flagInvalid) ∧
  (∀ (md : Mode) (ta tb tc td : Nat) (a b c : XR), (a = .nan ∨ b = .nan) →
    (∀ f ∈ [VecFn.ceq, VecFn.clt, VecFn.cle], (runNum (vecScalar md f ta tb tc td a b c)).1 = 0) ∧
    (runNum (vecScalar md .cne ta tb tc td a b c)).1 = 1) ∧
  (∀ f ∈ [VecFn.ceq, VecFn.cne, VecFn.clt, VecFn.cle], ∀ (md : Mode) (ta tb tc td : Nat) (a b c : XR),
    (runNum (vecScalar md f ta tb tc td a b c)).2 = Flags.none)

/-! ### The machine as a whole -/

/-- The step of the block: the command at the front of the queue runs on the state with the queue's rest, and answers what exec
answers; on an empty queue one ACLK passes (the model's choice, log entry 1). -/
def Obligations.StepRunsFront : Prop :=
  (∀ (c : Instr) (rest : List Instr) (s : State), step { s with pending := c :: rest } = exec c { s with pending := rest }) ∧
  (∀ (s : State), s.pending = [] → ∃ t, step s = .next t ∧ t.pending = [] ∧ t.dev.aclk = s.dev.aclk + 1 ∧
    t.dev.mem = s.dev.mem ∧ t.dev.regs = s.dev.regs ∧ t.dev.host = s.dev.host ∧ t.dev.sess = s.dev.sess ∧ t.dev.out = s.dev.out)

/-- Cold reset: the registers hold the values of Tables 20-4 to 20-14, every ring of every function is disabled with its phase 1,
Fabric Time counts from 0, and no slot runs; and the state has the form that steps keep. The form itself, with memory that
lists nothing, is the model's. -/
def Obligations.ResetState : Prop :=
  State.reset.pending = [] ∧ State.reset.dev.inv = true ∧
  (∀ e ∈ [(0x20, 1), (0x40, 0xC0000000), (0x60, 0), (0x64, 0), (0x68, 0), (0x10000, 0), (0x10010, 0), (0x10014, 2), (0x10030, 0),
      (0x20000, 0x90960), (0x20010, 0), (0x20014, 0), (0x30004, 0), (0x3000C, 0), (0x30010, 0), (0x30030, 0), (0x30040, 0), (0x40008, 0),
      (0x4000C, 0), (0x40010, 0), (0x40020, 0), (0x40100, 0), (0x50008, 0x30000007), (0x5000C, 0x80008000), (0x50010, 0), (0x51000, 0),
      (0x51400, 0), (0x51800, 0), (0x61000, 0), (0x61004, 0xFFFFFFFF), (0x61008, 0), (0x6100C, 0xFFFFFFFF), (0x61010, 0), (0x70000, 0x1FFFE),
      (0x70004, 0), (0x70104, 0), (0x80004, 0), (0x80008, 0), (0x8000C, 10), (0x90000, 0), (0x91000, 0), (0xA0100, 0), (0xB0100, 0),
      (0x100000, 0x0C000961), (0x200000, 0x14000962), (0x300000, 0x18400963)],
    regVal State.reset.dev e.1 = e.2) ∧
  (∀ fn < 4, ∀ r < ringCount fn,
    regVal State.reset.dev (kRing fn r 0x10) = (if fn = 0 ∧ r = 8 then 0x400 else 0x404) ∧ regVal State.reset.dev (kRing fn r 0x14) = 1 ∧
    regVal State.reset.dev (kRing fn r 0x18) = 0 ∧ regVal State.reset.dev (kRing fn r 0x1C) = 0x20000000 ∧
    regVal State.reset.dev (kRing fn r 0x20) = 0 ∧ ringRunning State.reset.dev fn r = false) ∧
  State.reset.dev.time.ft = 0 ∧ (∀ k, isRunning State.reset.dev k = false) ∧ (∀ core q, semGet State.reset.dev core q = 0)

/-- Every step keeps the form of a device, whatever command is in front: the device map and the register file stay in canonical
form, every semaphore holds 0 to 65,535, and the retired-page list holds at most 4,096 pages, none twice. -/
def Obligations.StepKeepsInv : Prop :=
  ∀ (s t : State), s.dev.inv = true → step s = .next t → t.dev.inv = true

/-- What no step undoes: the flash counters never fall, the retired-page list only grows at its end, what the device has written
out stays written, the queue loses exactly its front, and only an idle step passes time. -/
def Obligations.HistoryIsKept : Prop :=
  ∀ (s t : State), step s = .next t →
    (∀ n, tget 0 s.dev.boot.rpmc n ≤ tget 0 t.dev.boot.rpmc n) ∧ s.dev.ddr.retired <+: t.dev.ddr.retired ∧ s.dev.out <+: t.dev.out ∧
    t.pending = s.pending.tail ∧ t.dev.aclk = s.dev.aclk + (if s.pending = [] then 1 else 0)

/-- Completion entries and events. A completion for a ring that is not running is discarded (R366); one that finds the completion
ring full is held behind the others and sets cq_wait (R379); otherwise the device writes words 1 to 7 and then word 0 with the
phase, at cq_tail, moves cq_tail on modulo depth, and inverts the phase on each wrap (R376, R377); the message of the ring's
vector follows, under R381, when irq_en is 1 and the submission asked for it or the count is reached, and is pending instead while
the vector is masked. An event sets its pending bit and adds 1 to its count; with its mask bit 1 an entry is written where the
event ring can take one, and HIF_EVT_LOST counts 1 where it cannot (R465). -/
def Obligations.CompletionEntries : Prop :=
  (∀ (d : Dev) (fn r : Nat) (c : Cpl),
    (ringRunning d fn r = false → postCpl fn r c d = d) ∧
    (ringRunning d fn r = true → cqFull d fn r = true → (ringAt d fn r).pageWait = false →
      (postCpl fn r c d).out = d.out ∧ HostOnly d (postCpl fn r c d) ∧
      (ringAt (postCpl fn r c d) fn r).held = (ringAt d fn r).held ++ [c] ∧ getF (postCpl fn r c d) (kRing fn r 0x1C) 2 1 = 1 ∧
      cqTail (postCpl fn r c d) fn r = cqTail d fn r) ∧
    (ringRunning d fn r = true → cqFull d fn r = false → (ringAt d fn r).pageWait = false → (ringAt d fn r).held = [] →
      getF d (kRing fn r 0x10) 8 5 ≤ 16 →
      let e := postCpl fn r c d
      let t := cqTail d fn r
      let a := cqBase d fn r + 32 * t
      let ph := getF d (kRing fn r 0x1C) 29 1
      let vec := getF d (kRing fn r 0x10) 16 11
      let due : Bool := getF d (kRing fn r 0x10) 15 1 == 1 &&
        (c.irq || decide (getF d (kRing fn r 0x14) 0 8 ≤ (ringAt d fn r).unsignalled + 1))
      let isOpen : Bool := tget false d.host.msixOpen (4096 * fn + vec)
      e.out = d.out ++
        [.hostWrite fn (a + 4) ([sqHead d fn r * 65536 + c.sqId % 65536, c.ident % 65536, c.w3, c.w4, c.w5, c.w6, c.w7].flatMap (leBytes 4)),
         .hostWrite fn a (leBytes 4 (c.tag % 65536 * 65536 + c.status * 256 + c.flags * 16 + c.kind * 2 + ph))] ++
        (if due && isOpen then [.msix fn vec] else []) ∧
      (due = true → isOpen = false → tget false e.host.msixPend (4096 * fn + vec) = true) ∧
      cqTail e fn r = (t + 1) % 2 ^ getF d (kRing fn r 0x10) 8 5 ∧ sqHead e fn r = sqHead d fn r ∧
      getF e (kRing fn r 0x1C) 29 1 = (if (t + 1) % 2 ^ getF d (kRing fn r 0x10) 8 5 = 0 then 1 - ph else ph) ∧
      (ringAt e fn r).held = [] ∧ HostOnly d e ∧
      ∀ k lo n, k ≠ kRing fn r 0x18 → k ≠ kRing fn r 0x1C → getF e k lo n = getF d k lo n)) ∧
  (∀ (d : Dev) (code kind index : Nat) (p : List Nat), 1 ≤ code → code ≤ 16 →
    let e := raiseEvent code kind index p d
    getF e kEvtPending code 1 = 1 ∧ getF e (kEvtCount code) 0 16 = min 65535 (getF d (kEvtCount code) 0 16 + 1) ∧ HostOnly d e ∧
    (getF d kEvtMask code 1 = 0 → e.out = d.out ∧ getF e kEvtLost 0 32 = getF d kEvtLost 0 32) ∧
    (getF d kEvtMask code 1 = 1 → (ringRunning d 0 8 = false ∨ cqFull d 0 8 = true) →
      e.out = d.out ∧ getF e kEvtLost 0 32 = min (2 ^ 32 - 1) (getF d kEvtLost 0 32 + 1)) ∧
    (getF d kEvtMask code 1 = 1 → ringRunning d 0 8 = true → cqFull d 0 8 = false → (ringAt d 0 8).pageWait = false →
      ∃ msg, e.out = d.out ++
        [.hostWrite 0 (cqBase d 0 8 + 32 * cqTail d 0 8 + 4)
           (([nowNs d % 2 ^ 32, nowNs d / 2 ^ 32 % 2 ^ 32] ++ (p ++ [0, 0, 0, 0, 0]).take 5).flatMap (leBytes 4)),
         .hostWrite 0 (cqBase d 0 8 + 32 * cqTail d 0 8)
           (leBytes 4 (code * 2 ^ 24 + kind * 2 ^ 20 + index * 256 + getF d (kRing 0 8 0x1C) 29 1))] ++ msg ∧
        (msg = [] ∨ msg = [.msix 0 (getF d (kRing 0 8 0x10) 16 11)]) ∧ getF e kEvtLost 0 32 = getF d kEvtLost 0 32))
end

