-- ==== Sys2Proof/Laws/Tbl.lean ====
section
/-! SUPPORT. The laws of the sparse tables: a read after a write, and that every operation keeps the canonical form. -/

set_option Elab.async false

namespace Sys2Proof.Machine

variable {α : Type}

theorem tget_tput_same (d : α) (t : Tbl α) (k : Nat) (v : α) : tget d (tput t k v) k = v := by
  induction t with
  | nil => simp [tput, tget]
  | cons e t ih =>
    obtain ⟨j, w⟩ := e
    unfold tput
    split
    · simp [tget]
    · split
      · simp [tget]
      · simp [tget, *]

theorem tget_tput_other (d : α) (t : Tbl α) {j k : Nat} (v : α) (h : j ≠ k) : tget d (tput t k v) j = tget d t j := by
  induction t with
  | nil => simp [tput, tget, h.symm]
  | cons e t ih =>
    obtain ⟨i, w⟩ := e
    unfold tput
    split
    · simp [tget, h.symm]
    · split
      · subst i; simp [tget, h.symm]
      · simp [tget, ih]

theorem tget_tdel_same (d : α) (t : Tbl α) (k : Nat) : tget d (tdel t k) k = d := by
  induction t with
  | nil => rfl
  | cons e t ih =>
    obtain ⟨j, w⟩ := e
    by_cases h : j = k
    · simpa [tdel, h] using ih
    · have hf : tdel ((j, w) :: t) k = (j, w) :: tdel t k := by simp [tdel, h]
      rw [hf]; simp [tget, h, ih]

theorem tget_tdel_other (d : α) (t : Tbl α) {j k : Nat} (h : j ≠ k) : tget d (tdel t k) j = tget d t j := by
  induction t with
  | nil => rfl
  | cons e t ih =>
    obtain ⟨i, w⟩ := e
    by_cases hi : i = k
    · subst i
      have hf : tdel ((k, w) :: t) k = tdel t k := by simp [tdel]
      rw [hf, ih]; simp [tget, h.symm]
    · have hf : tdel ((i, w) :: t) k = (i, w) :: tdel t k := by simp [tdel, hi]
      rw [hf]; simp [tget, ih]

/-- A read after a write of the same key gives the value written. -/
@[simp] theorem tget_tset_same [DecidableEq α] (d : α) (t : Tbl α) (k : Nat) (v : α) : tget d (tset d t k v) k = v := by
  unfold tset
  split
  · subst v; exact tget_tdel_same d t k
  · exact tget_tput_same d t k v

/-- A write leaves every other key alone. -/
theorem tget_tset_other [DecidableEq α] (d : α) (t : Tbl α) {j k : Nat} (v : α) (h : j ≠ k) : tget d (tset d t k v) j = tget d t j := by
  unfold tset
  split
  · exact tget_tdel_other d t h
  · exact tget_tput_other d t v h

theorem tget_tset [DecidableEq α] (d : α) (t : Tbl α) (j k : Nat) (v : α) :
    tget d (tset d t k v) j = if j = k then v else tget d t j := by
  by_cases h : j = k
  · subst j; simp
  · simp [h, tget_tset_other]

@[simp] theorem tget_tmod_same [DecidableEq α] (d : α) (t : Tbl α) (k : Nat) (f : α → α) :
    tget d (tmod d t k f) k = f (tget d t k) := tget_tset_same d t k _

theorem tget_tmod_other [DecidableEq α] (d : α) (t : Tbl α) {j k : Nat} (f : α → α) (h : j ≠ k) :
    tget d (tmod d t k f) j = tget d t j := tget_tset_other d t _ h

/-- A forgotten key reads as the default, every other key as before. -/
theorem tget_tclear (d : α) (t : Tbl α) (p : Nat → Bool) (j : Nat) : tget d (tclear t p) j = if p j then d else tget d t j := by
  induction t with
  | nil => simp [tclear, tget]
  | cons e t ih =>
    obtain ⟨i, w⟩ := e
    cases hp : p i with
    | true =>
      have hf : tclear ((i, w) :: t) p = tclear t p := by simp [tclear, hp]
      rw [hf, ih]
      by_cases hij : i = j
      · subst i; simp [hp]
      · simp [tget, hij]
    | false =>
      have hf : tclear ((i, w) :: t) p = (i, w) :: tclear t p := by simp [tclear, hp]
      rw [hf]
      by_cases hij : i = j
      · subst i; simp [tget, hp]
      · simp [tget, hij, ih]

/-- Consecutive writes: a key in the run reads the value written to it, every other key as before. -/
theorem tget_tsetRun [DecidableEq α] (d : α) (t : Tbl α) (k : Nat) (vs : List α) (j : Nat) :
    tget d (tsetRun d t k vs) j = if k ≤ j ∧ j < k + vs.length then vs.getD (j - k) d else tget d t j := by
  induction vs generalizing t k with
  | nil => have : ¬ (k ≤ j ∧ j < k) := by omega
           simp [tsetRun, this]
  | cons v vs ih =>
    rw [tsetRun, ih, tget_tset]
    by_cases h1 : j = k
    · subst j
      have h1 : ¬ (k + 1 ≤ k ∧ k < k + 1 + vs.length) := by omega
      have h2 : k ≤ k ∧ k < k + (v :: vs).length := by simp
      rw [if_neg h1, if_pos rfl, if_pos h2]; simp
    · by_cases h2 : k ≤ j ∧ j < k + (v :: vs).length
      · have h3 : k + 1 ≤ j ∧ j < k + 1 + vs.length := by simp at h2; omega
        have h4 : j - k = (j - (k + 1)) + 1 := by omega
        rw [if_pos h3, if_pos h2, h4]; simp
      · have h3 : ¬ (k + 1 ≤ j ∧ j < k + 1 + vs.length) := by simp at h2; omega
        rw [if_neg h3, if_neg h1, if_neg h2]

/-! The canonical form. -/

theorem tsorted_mono {a b : Nat} {t : Tbl α} (h : a ≤ b) (hs : tsorted b t = true) : tsorted a t = true := by
  cases t with
  | nil => rfl
  | cons e t =>
    obtain ⟨j, w⟩ := e
    simp [tsorted] at hs ⊢
    exact ⟨by omega, hs.2⟩

theorem tsorted_tput {lo k : Nat} {t : Tbl α} (v : α) (hk : lo ≤ k) (hs : tsorted lo t = true) : tsorted lo (tput t k v) = true := by
  induction t generalizing lo with
  | nil => simp [tput, tsorted, hk]
  | cons e t ih =>
    obtain ⟨j, w⟩ := e
    simp [tsorted] at hs
    unfold tput
    split
    · rename_i h
      simp [tsorted, hk, hs.2]; omega
    · split
      · rename_i h1 h2; subst j; simp [tsorted, hk, hs.2]
      · simp [tsorted, hs.1]; exact ih (by omega) hs.2

theorem tsorted_filter {lo : Nat} {t : Tbl α} (p : Nat × α → Bool) (hs : tsorted lo t = true) : tsorted lo (t.filter p) = true := by
  induction t generalizing lo with
  | nil => rfl
  | cons e t ih =>
    obtain ⟨j, w⟩ := e
    simp [tsorted] at hs
    by_cases hp : p (j, w)
    · simp [hp, tsorted, hs.1, ih hs.2]
    · simp [hp]; exact tsorted_mono (by omega) (ih hs.2)

theorem mem_tput {t : Tbl α} {k : Nat} {v : α} {e : Nat × α} (h : e ∈ tput t k v) : e = (k, v) ∨ e ∈ t := by
  induction t with
  | nil => simpa [tput] using h
  | cons a t ih =>
    obtain ⟨j, w⟩ := a
    unfold tput at h
    split at h
    · simpa using h
    · split at h
      · rcases List.mem_cons.mp h with h | h
        · exact Or.inl h
        · exact Or.inr (List.mem_cons_of_mem _ h)
      · rcases List.mem_cons.mp h with h | h
        · exact Or.inr (h ▸ List.mem_cons_self)
        · rcases ih h with h | h
          · exact Or.inl h
          · exact Or.inr (List.mem_cons_of_mem _ h)

theorem twf_nil [DecidableEq α] (d : α) : twf d ([] : Tbl α) = true := rfl

theorem twf_filter [DecidableEq α] {d : α} {t : Tbl α} (p : Nat × α → Bool) (h : twf d t = true) : twf d (t.filter p) = true := by
  simp only [twf, Bool.and_eq_true, List.all_eq_true] at h ⊢
  exact ⟨tsorted_filter p h.1, fun e he => h.2 e (List.mem_filter.mp he).1⟩

/-- A write keeps the canonical form. -/
theorem twf_tset [DecidableEq α] {d : α} {t : Tbl α} (k : Nat) (v : α) (h : twf d t = true) : twf d (tset d t k v) = true := by
  unfold tset
  split
  · exact twf_filter _ h
  · rename_i hv
    simp only [twf, Bool.and_eq_true, List.all_eq_true] at h ⊢
    refine ⟨tsorted_tput v (by omega) h.1, fun e he => ?_⟩
    rcases mem_tput he with rfl | he
    · simpa using hv
    · exact h.2 e he

theorem twf_tmod [DecidableEq α] {d : α} {t : Tbl α} (k : Nat) (f : α → α) (h : twf d t = true) : twf d (tmod d t k f) = true :=
  twf_tset k _ h

theorem twf_tclear [DecidableEq α] {d : α} {t : Tbl α} (p : Nat → Bool) (h : twf d t = true) : twf d (tclear t p) = true :=
  twf_filter _ h

theorem twf_tsetRun [DecidableEq α] {d : α} {t : Tbl α} (k : Nat) (vs : List α) (h : twf d t = true) : twf d (tsetRun d t k vs) = true := by
  induction vs generalizing t k with
  | nil => exact h
  | cons v vs ih => exact ih (k + 1) (twf_tset k v h)

end Sys2Proof.Machine
end

