-- ==== Sys2Proof/Laws/State.lean ====
section
/-! SUPPORT. The state behind its operations: which parts an update leaves, by rfl, and what a read after a write gives. -/

set_option Elab.async false

namespace Sys2Proof.Machine

@[simp] theorem updSlot_aclk (k : Nat) (f : SlotSt → SlotSt) (d : Dev) : (updSlot k f d).aclk = d.aclk := rfl
@[simp] theorem updSlot_free (k : Nat) (f : SlotSt → SlotSt) (d : Dev) : (updSlot k f d).free = d.free := rfl
@[simp] theorem updSlot_nextId (k : Nat) (f : SlotSt → SlotSt) (d : Dev) : (updSlot k f d).nextId = d.nextId := rfl
@[simp] theorem updSlot_out (k : Nat) (f : SlotSt → SlotSt) (d : Dev) : (updSlot k f d).out = d.out := rfl
@[simp] theorem updSlot_mem (k : Nat) (f : SlotSt → SlotSt) (d : Dev) : (updSlot k f d).mem = d.mem := rfl
@[simp] theorem updSlot_regs (k : Nat) (f : SlotSt → SlotSt) (d : Dev) : (updSlot k f d).regs = d.regs := rfl
@[simp] theorem updSlot_latch (k : Nat) (f : SlotSt → SlotSt) (d : Dev) : (updSlot k f d).latch = d.latch := rfl
@[simp] theorem updSlot_strm (k : Nat) (f : SlotSt → SlotSt) (d : Dev) : (updSlot k f d).strm = d.strm := rfl
@[simp] theorem updSlot_ddr (k : Nat) (f : SlotSt → SlotSt) (d : Dev) : (updSlot k f d).ddr = d.ddr := rfl
@[simp] theorem updSlot_live (k : Nat) (f : SlotSt → SlotSt) (d : Dev) : (updSlot k f d).live = d.live := rfl
@[simp] theorem updSlot_time (k : Nat) (f : SlotSt → SlotSt) (d : Dev) : (updSlot k f d).time = d.time := rfl
@[simp] theorem updSlot_host (k : Nat) (f : SlotSt → SlotSt) (d : Dev) : (updSlot k f d).host = d.host := rfl
@[simp] theorem updSlot_sess (k : Nat) (f : SlotSt → SlotSt) (d : Dev) : (updSlot k f d).sess = d.sess := rfl
@[simp] theorem updSlot_felt (k : Nat) (f : SlotSt → SlotSt) (d : Dev) : (updSlot k f d).felt = d.felt := rfl
@[simp] theorem updSlot_crb (k : Nat) (f : SlotSt → SlotSt) (d : Dev) : (updSlot k f d).crb = d.crb := rfl
@[simp] theorem updSlot_boot (k : Nat) (f : SlotSt → SlotSt) (d : Dev) : (updSlot k f d).boot = d.boot := rfl
@[simp] theorem updSlot_pwr (k : Nat) (f : SlotSt → SlotSt) (d : Dev) : (updSlot k f d).pwr = d.pwr := rfl
@[simp] theorem updSlot_press (k : Nat) (f : SlotSt → SlotSt) (d : Dev) : (updSlot k f d).press = d.press := rfl

@[simp] theorem updLoom_aclk (k : Nat) (f : LoomSt → LoomSt) (d : Dev) : (updLoom k f d).aclk = d.aclk := rfl
@[simp] theorem updLoom_free (k : Nat) (f : LoomSt → LoomSt) (d : Dev) : (updLoom k f d).free = d.free := rfl
@[simp] theorem updLoom_nextId (k : Nat) (f : LoomSt → LoomSt) (d : Dev) : (updLoom k f d).nextId = d.nextId := rfl
@[simp] theorem updLoom_out (k : Nat) (f : LoomSt → LoomSt) (d : Dev) : (updLoom k f d).out = d.out := rfl
@[simp] theorem updLoom_mem (k : Nat) (f : LoomSt → LoomSt) (d : Dev) : (updLoom k f d).mem = d.mem := rfl
@[simp] theorem updLoom_regs (k : Nat) (f : LoomSt → LoomSt) (d : Dev) : (updLoom k f d).regs = d.regs := rfl
@[simp] theorem updLoom_latch (k : Nat) (f : LoomSt → LoomSt) (d : Dev) : (updLoom k f d).latch = d.latch := rfl
@[simp] theorem updLoom_strm (k : Nat) (f : LoomSt → LoomSt) (d : Dev) : (updLoom k f d).strm = d.strm := rfl
@[simp] theorem updLoom_ddr (k : Nat) (f : LoomSt → LoomSt) (d : Dev) : (updLoom k f d).ddr = d.ddr := rfl
@[simp] theorem updLoom_live (k : Nat) (f : LoomSt → LoomSt) (d : Dev) : (updLoom k f d).live = d.live := rfl
@[simp] theorem updLoom_time (k : Nat) (f : LoomSt → LoomSt) (d : Dev) : (updLoom k f d).time = d.time := rfl
@[simp] theorem updLoom_host (k : Nat) (f : LoomSt → LoomSt) (d : Dev) : (updLoom k f d).host = d.host := rfl
@[simp] theorem updLoom_sess (k : Nat) (f : LoomSt → LoomSt) (d : Dev) : (updLoom k f d).sess = d.sess := rfl
@[simp] theorem updLoom_felt (k : Nat) (f : LoomSt → LoomSt) (d : Dev) : (updLoom k f d).felt = d.felt := rfl
@[simp] theorem updLoom_crb (k : Nat) (f : LoomSt → LoomSt) (d : Dev) : (updLoom k f d).crb = d.crb := rfl
@[simp] theorem updLoom_boot (k : Nat) (f : LoomSt → LoomSt) (d : Dev) : (updLoom k f d).boot = d.boot := rfl
@[simp] theorem updLoom_pwr (k : Nat) (f : LoomSt → LoomSt) (d : Dev) : (updLoom k f d).pwr = d.pwr := rfl
@[simp] theorem updLoom_press (k : Nat) (f : LoomSt → LoomSt) (d : Dev) : (updLoom k f d).press = d.press := rfl

@[simp] theorem updUnit_aclk (k : Nat) (f : UnitSt → UnitSt) (d : Dev) : (updUnit k f d).aclk = d.aclk := rfl
@[simp] theorem updUnit_free (k : Nat) (f : UnitSt → UnitSt) (d : Dev) : (updUnit k f d).free = d.free := rfl
@[simp] theorem updUnit_nextId (k : Nat) (f : UnitSt → UnitSt) (d : Dev) : (updUnit k f d).nextId = d.nextId := rfl
@[simp] theorem updUnit_out (k : Nat) (f : UnitSt → UnitSt) (d : Dev) : (updUnit k f d).out = d.out := rfl
@[simp] theorem updUnit_mem (k : Nat) (f : UnitSt → UnitSt) (d : Dev) : (updUnit k f d).mem = d.mem := rfl
@[simp] theorem updUnit_regs (k : Nat) (f : UnitSt → UnitSt) (d : Dev) : (updUnit k f d).regs = d.regs := rfl
@[simp] theorem updUnit_latch (k : Nat) (f : UnitSt → UnitSt) (d : Dev) : (updUnit k f d).latch = d.latch := rfl
@[simp] theorem updUnit_strm (k : Nat) (f : UnitSt → UnitSt) (d : Dev) : (updUnit k f d).strm = d.strm := rfl
@[simp] theorem updUnit_ddr (k : Nat) (f : UnitSt → UnitSt) (d : Dev) : (updUnit k f d).ddr = d.ddr := rfl
@[simp] theorem updUnit_live (k : Nat) (f : UnitSt → UnitSt) (d : Dev) : (updUnit k f d).live = d.live := rfl
@[simp] theorem updUnit_time (k : Nat) (f : UnitSt → UnitSt) (d : Dev) : (updUnit k f d).time = d.time := rfl
@[simp] theorem updUnit_host (k : Nat) (f : UnitSt → UnitSt) (d : Dev) : (updUnit k f d).host = d.host := rfl
@[simp] theorem updUnit_sess (k : Nat) (f : UnitSt → UnitSt) (d : Dev) : (updUnit k f d).sess = d.sess := rfl
@[simp] theorem updUnit_felt (k : Nat) (f : UnitSt → UnitSt) (d : Dev) : (updUnit k f d).felt = d.felt := rfl
@[simp] theorem updUnit_crb (k : Nat) (f : UnitSt → UnitSt) (d : Dev) : (updUnit k f d).crb = d.crb := rfl
@[simp] theorem updUnit_boot (k : Nat) (f : UnitSt → UnitSt) (d : Dev) : (updUnit k f d).boot = d.boot := rfl
@[simp] theorem updUnit_pwr (k : Nat) (f : UnitSt → UnitSt) (d : Dev) : (updUnit k f d).pwr = d.pwr := rfl
@[simp] theorem updUnit_press (k : Nat) (f : UnitSt → UnitSt) (d : Dev) : (updUnit k f d).press = d.press := rfl

@[simp] theorem semSet_aclk (c q v : Nat) (d : Dev) : (semSet c q v d).aclk = d.aclk := rfl
@[simp] theorem semSet_free (c q v : Nat) (d : Dev) : (semSet c q v d).free = d.free := rfl
@[simp] theorem semSet_nextId (c q v : Nat) (d : Dev) : (semSet c q v d).nextId = d.nextId := rfl
@[simp] theorem semSet_out (c q v : Nat) (d : Dev) : (semSet c q v d).out = d.out := rfl
@[simp] theorem semSet_mem (c q v : Nat) (d : Dev) : (semSet c q v d).mem = d.mem := rfl
@[simp] theorem semSet_regs (c q v : Nat) (d : Dev) : (semSet c q v d).regs = d.regs := rfl
@[simp] theorem semSet_latch (c q v : Nat) (d : Dev) : (semSet c q v d).latch = d.latch := rfl
@[simp] theorem semSet_strm (c q v : Nat) (d : Dev) : (semSet c q v d).strm = d.strm := rfl
@[simp] theorem semSet_ddr (c q v : Nat) (d : Dev) : (semSet c q v d).ddr = d.ddr := rfl
@[simp] theorem semSet_live (c q v : Nat) (d : Dev) : (semSet c q v d).live = d.live := rfl
@[simp] theorem semSet_time (c q v : Nat) (d : Dev) : (semSet c q v d).time = d.time := rfl
@[simp] theorem semSet_host (c q v : Nat) (d : Dev) : (semSet c q v d).host = d.host := rfl
@[simp] theorem semSet_sess (c q v : Nat) (d : Dev) : (semSet c q v d).sess = d.sess := rfl
@[simp] theorem semSet_felt (c q v : Nat) (d : Dev) : (semSet c q v d).felt = d.felt := rfl
@[simp] theorem semSet_crb (c q v : Nat) (d : Dev) : (semSet c q v d).crb = d.crb := rfl
@[simp] theorem semSet_boot (c q v : Nat) (d : Dev) : (semSet c q v d).boot = d.boot := rfl
@[simp] theorem semSet_pwr (c q v : Nat) (d : Dev) : (semSet c q v d).pwr = d.pwr := rfl
@[simp] theorem semSet_press (c q v : Nat) (d : Dev) : (semSet c q v d).press = d.press := rfl

@[simp] theorem updEng_aclk (k : Nat) (f : StrmSt → StrmSt) (d : Dev) : (updEng k f d).aclk = d.aclk := rfl
@[simp] theorem updEng_free (k : Nat) (f : StrmSt → StrmSt) (d : Dev) : (updEng k f d).free = d.free := rfl
@[simp] theorem updEng_nextId (k : Nat) (f : StrmSt → StrmSt) (d : Dev) : (updEng k f d).nextId = d.nextId := rfl
@[simp] theorem updEng_out (k : Nat) (f : StrmSt → StrmSt) (d : Dev) : (updEng k f d).out = d.out := rfl
@[simp] theorem updEng_mem (k : Nat) (f : StrmSt → StrmSt) (d : Dev) : (updEng k f d).mem = d.mem := rfl
@[simp] theorem updEng_regs (k : Nat) (f : StrmSt → StrmSt) (d : Dev) : (updEng k f d).regs = d.regs := rfl
@[simp] theorem updEng_latch (k : Nat) (f : StrmSt → StrmSt) (d : Dev) : (updEng k f d).latch = d.latch := rfl
@[simp] theorem updEng_core (k : Nat) (f : StrmSt → StrmSt) (d : Dev) : (updEng k f d).core = d.core := rfl
@[simp] theorem updEng_ddr (k : Nat) (f : StrmSt → StrmSt) (d : Dev) : (updEng k f d).ddr = d.ddr := rfl
@[simp] theorem updEng_live (k : Nat) (f : StrmSt → StrmSt) (d : Dev) : (updEng k f d).live = d.live := rfl
@[simp] theorem updEng_time (k : Nat) (f : StrmSt → StrmSt) (d : Dev) : (updEng k f d).time = d.time := rfl
@[simp] theorem updEng_host (k : Nat) (f : StrmSt → StrmSt) (d : Dev) : (updEng k f d).host = d.host := rfl
@[simp] theorem updEng_sess (k : Nat) (f : StrmSt → StrmSt) (d : Dev) : (updEng k f d).sess = d.sess := rfl
@[simp] theorem updEng_felt (k : Nat) (f : StrmSt → StrmSt) (d : Dev) : (updEng k f d).felt = d.felt := rfl
@[simp] theorem updEng_crb (k : Nat) (f : StrmSt → StrmSt) (d : Dev) : (updEng k f d).crb = d.crb := rfl
@[simp] theorem updEng_boot (k : Nat) (f : StrmSt → StrmSt) (d : Dev) : (updEng k f d).boot = d.boot := rfl
@[simp] theorem updEng_pwr (k : Nat) (f : StrmSt → StrmSt) (d : Dev) : (updEng k f d).pwr = d.pwr := rfl
@[simp] theorem updEng_press (k : Nat) (f : StrmSt → StrmSt) (d : Dev) : (updEng k f d).press = d.press := rfl

@[simp] theorem updQuire_aclk (k : Nat) (f : QuireSt → QuireSt) (d : Dev) : (updQuire k f d).aclk = d.aclk := rfl
@[simp] theorem updQuire_free (k : Nat) (f : QuireSt → QuireSt) (d : Dev) : (updQuire k f d).free = d.free := rfl
@[simp] theorem updQuire_nextId (k : Nat) (f : QuireSt → QuireSt) (d : Dev) : (updQuire k f d).nextId = d.nextId := rfl
@[simp] theorem updQuire_out (k : Nat) (f : QuireSt → QuireSt) (d : Dev) : (updQuire k f d).out = d.out := rfl
@[simp] theorem updQuire_mem (k : Nat) (f : QuireSt → QuireSt) (d : Dev) : (updQuire k f d).mem = d.mem := rfl
@[simp] theorem updQuire_regs (k : Nat) (f : QuireSt → QuireSt) (d : Dev) : (updQuire k f d).regs = d.regs := rfl
@[simp] theorem updQuire_latch (k : Nat) (f : QuireSt → QuireSt) (d : Dev) : (updQuire k f d).latch = d.latch := rfl
@[simp] theorem updQuire_core (k : Nat) (f : QuireSt → QuireSt) (d : Dev) : (updQuire k f d).core = d.core := rfl
@[simp] theorem updQuire_ddr (k : Nat) (f : QuireSt → QuireSt) (d : Dev) : (updQuire k f d).ddr = d.ddr := rfl
@[simp] theorem updQuire_live (k : Nat) (f : QuireSt → QuireSt) (d : Dev) : (updQuire k f d).live = d.live := rfl
@[simp] theorem updQuire_time (k : Nat) (f : QuireSt → QuireSt) (d : Dev) : (updQuire k f d).time = d.time := rfl
@[simp] theorem updQuire_host (k : Nat) (f : QuireSt → QuireSt) (d : Dev) : (updQuire k f d).host = d.host := rfl
@[simp] theorem updQuire_sess (k : Nat) (f : QuireSt → QuireSt) (d : Dev) : (updQuire k f d).sess = d.sess := rfl
@[simp] theorem updQuire_felt (k : Nat) (f : QuireSt → QuireSt) (d : Dev) : (updQuire k f d).felt = d.felt := rfl
@[simp] theorem updQuire_crb (k : Nat) (f : QuireSt → QuireSt) (d : Dev) : (updQuire k f d).crb = d.crb := rfl
@[simp] theorem updQuire_boot (k : Nat) (f : QuireSt → QuireSt) (d : Dev) : (updQuire k f d).boot = d.boot := rfl
@[simp] theorem updQuire_pwr (k : Nat) (f : QuireSt → QuireSt) (d : Dev) : (updQuire k f d).pwr = d.pwr := rfl
@[simp] theorem updQuire_press (k : Nat) (f : QuireSt → QuireSt) (d : Dev) : (updQuire k f d).press = d.press := rfl

@[simp] theorem updRing_aclk (fn r : Nat) (f : RingSt → RingSt) (d : Dev) : (updRing fn r f d).aclk = d.aclk := rfl
@[simp] theorem updRing_free (fn r : Nat) (f : RingSt → RingSt) (d : Dev) : (updRing fn r f d).free = d.free := rfl
@[simp] theorem updRing_nextId (fn r : Nat) (f : RingSt → RingSt) (d : Dev) : (updRing fn r f d).nextId = d.nextId := rfl
@[simp] theorem updRing_out (fn r : Nat) (f : RingSt → RingSt) (d : Dev) : (updRing fn r f d).out = d.out := rfl
@[simp] theorem updRing_mem (fn r : Nat) (f : RingSt → RingSt) (d : Dev) : (updRing fn r f d).mem = d.mem := rfl
@[simp] theorem updRing_regs (fn r : Nat) (f : RingSt → RingSt) (d : Dev) : (updRing fn r f d).regs = d.regs := rfl
@[simp] theorem updRing_latch (fn r : Nat) (f : RingSt → RingSt) (d : Dev) : (updRing fn r f d).latch = d.latch := rfl
@[simp] theorem updRing_core (fn r : Nat) (f : RingSt → RingSt) (d : Dev) : (updRing fn r f d).core = d.core := rfl
@[simp] theorem updRing_strm (fn r : Nat) (f : RingSt → RingSt) (d : Dev) : (updRing fn r f d).strm = d.strm := rfl
@[simp] theorem updRing_ddr (fn r : Nat) (f : RingSt → RingSt) (d : Dev) : (updRing fn r f d).ddr = d.ddr := rfl
@[simp] theorem updRing_live (fn r : Nat) (f : RingSt → RingSt) (d : Dev) : (updRing fn r f d).live = d.live := rfl
@[simp] theorem updRing_time (fn r : Nat) (f : RingSt → RingSt) (d : Dev) : (updRing fn r f d).time = d.time := rfl
@[simp] theorem updRing_sess (fn r : Nat) (f : RingSt → RingSt) (d : Dev) : (updRing fn r f d).sess = d.sess := rfl
@[simp] theorem updRing_felt (fn r : Nat) (f : RingSt → RingSt) (d : Dev) : (updRing fn r f d).felt = d.felt := rfl
@[simp] theorem updRing_crb (fn r : Nat) (f : RingSt → RingSt) (d : Dev) : (updRing fn r f d).crb = d.crb := rfl
@[simp] theorem updRing_boot (fn r : Nat) (f : RingSt → RingSt) (d : Dev) : (updRing fn r f d).boot = d.boot := rfl
@[simp] theorem updRing_pwr (fn r : Nat) (f : RingSt → RingSt) (d : Dev) : (updRing fn r f d).pwr = d.pwr := rfl
@[simp] theorem updRing_press (fn r : Nat) (f : RingSt → RingSt) (d : Dev) : (updRing fn r f d).press = d.press := rfl

@[simp] theorem regPut_aclk (k v : Nat) (d : Dev) : (regPut k v d).aclk = d.aclk := rfl
@[simp] theorem regPut_free (k v : Nat) (d : Dev) : (regPut k v d).free = d.free := rfl
@[simp] theorem regPut_nextId (k v : Nat) (d : Dev) : (regPut k v d).nextId = d.nextId := rfl
@[simp] theorem regPut_out (k v : Nat) (d : Dev) : (regPut k v d).out = d.out := rfl
@[simp] theorem regPut_mem (k v : Nat) (d : Dev) : (regPut k v d).mem = d.mem := rfl
@[simp] theorem regPut_latch (k v : Nat) (d : Dev) : (regPut k v d).latch = d.latch := rfl
@[simp] theorem regPut_core (k v : Nat) (d : Dev) : (regPut k v d).core = d.core := rfl
@[simp] theorem regPut_strm (k v : Nat) (d : Dev) : (regPut k v d).strm = d.strm := rfl
@[simp] theorem regPut_ddr (k v : Nat) (d : Dev) : (regPut k v d).ddr = d.ddr := rfl
@[simp] theorem regPut_live (k v : Nat) (d : Dev) : (regPut k v d).live = d.live := rfl
@[simp] theorem regPut_time (k v : Nat) (d : Dev) : (regPut k v d).time = d.time := rfl
@[simp] theorem regPut_host (k v : Nat) (d : Dev) : (regPut k v d).host = d.host := rfl
@[simp] theorem regPut_sess (k v : Nat) (d : Dev) : (regPut k v d).sess = d.sess := rfl
@[simp] theorem regPut_felt (k v : Nat) (d : Dev) : (regPut k v d).felt = d.felt := rfl
@[simp] theorem regPut_crb (k v : Nat) (d : Dev) : (regPut k v d).crb = d.crb := rfl
@[simp] theorem regPut_boot (k v : Nat) (d : Dev) : (regPut k v d).boot = d.boot := rfl
@[simp] theorem regPut_pwr (k v : Nat) (d : Dev) : (regPut k v d).pwr = d.pwr := rfl
@[simp] theorem regPut_press (k v : Nat) (d : Dev) : (regPut k v d).press = d.press := rfl

@[simp] theorem setF_aclk (k lo w v : Nat) (d : Dev) : (setF k lo w v d).aclk = d.aclk := rfl
@[simp] theorem setF_free (k lo w v : Nat) (d : Dev) : (setF k lo w v d).free = d.free := rfl
@[simp] theorem setF_nextId (k lo w v : Nat) (d : Dev) : (setF k lo w v d).nextId = d.nextId := rfl
@[simp] theorem setF_out (k lo w v : Nat) (d : Dev) : (setF k lo w v d).out = d.out := rfl
@[simp] theorem setF_mem (k lo w v : Nat) (d : Dev) : (setF k lo w v d).mem = d.mem := rfl
@[simp] theorem setF_latch (k lo w v : Nat) (d : Dev) : (setF k lo w v d).latch = d.latch := rfl
@[simp] theorem setF_core (k lo w v : Nat) (d : Dev) : (setF k lo w v d).core = d.core := rfl
@[simp] theorem setF_strm (k lo w v : Nat) (d : Dev) : (setF k lo w v d).strm = d.strm := rfl
@[simp] theorem setF_ddr (k lo w v : Nat) (d : Dev) : (setF k lo w v d).ddr = d.ddr := rfl
@[simp] theorem setF_live (k lo w v : Nat) (d : Dev) : (setF k lo w v d).live = d.live := rfl
@[simp] theorem setF_time (k lo w v : Nat) (d : Dev) : (setF k lo w v d).time = d.time := rfl
@[simp] theorem setF_host (k lo w v : Nat) (d : Dev) : (setF k lo w v d).host = d.host := rfl
@[simp] theorem setF_sess (k lo w v : Nat) (d : Dev) : (setF k lo w v d).sess = d.sess := rfl
@[simp] theorem setF_felt (k lo w v : Nat) (d : Dev) : (setF k lo w v d).felt = d.felt := rfl
@[simp] theorem setF_crb (k lo w v : Nat) (d : Dev) : (setF k lo w v d).crb = d.crb := rfl
@[simp] theorem setF_boot (k lo w v : Nat) (d : Dev) : (setF k lo w v d).boot = d.boot := rfl
@[simp] theorem setF_pwr (k lo w v : Nat) (d : Dev) : (setF k lo w v d).pwr = d.pwr := rfl
@[simp] theorem setF_press (k lo w v : Nat) (d : Dev) : (setF k lo w v d).press = d.press := rfl

@[simp] theorem bumpF_aclk (k lo w n : Nat) (d : Dev) : (bumpF k lo w n d).aclk = d.aclk := rfl
@[simp] theorem bumpF_free (k lo w n : Nat) (d : Dev) : (bumpF k lo w n d).free = d.free := rfl
@[simp] theorem bumpF_nextId (k lo w n : Nat) (d : Dev) : (bumpF k lo w n d).nextId = d.nextId := rfl
@[simp] theorem bumpF_out (k lo w n : Nat) (d : Dev) : (bumpF k lo w n d).out = d.out := rfl
@[simp] theorem bumpF_mem (k lo w n : Nat) (d : Dev) : (bumpF k lo w n d).mem = d.mem := rfl
@[simp] theorem bumpF_latch (k lo w n : Nat) (d : Dev) : (bumpF k lo w n d).latch = d.latch := rfl
@[simp] theorem bumpF_core (k lo w n : Nat) (d : Dev) : (bumpF k lo w n d).core = d.core := rfl
@[simp] theorem bumpF_strm (k lo w n : Nat) (d : Dev) : (bumpF k lo w n d).strm = d.strm := rfl
@[simp] theorem bumpF_ddr (k lo w n : Nat) (d : Dev) : (bumpF k lo w n d).ddr = d.ddr := rfl
@[simp] theorem bumpF_live (k lo w n : Nat) (d : Dev) : (bumpF k lo w n d).live = d.live := rfl
@[simp] theorem bumpF_time (k lo w n : Nat) (d : Dev) : (bumpF k lo w n d).time = d.time := rfl
@[simp] theorem bumpF_host (k lo w n : Nat) (d : Dev) : (bumpF k lo w n d).host = d.host := rfl
@[simp] theorem bumpF_sess (k lo w n : Nat) (d : Dev) : (bumpF k lo w n d).sess = d.sess := rfl
@[simp] theorem bumpF_felt (k lo w n : Nat) (d : Dev) : (bumpF k lo w n d).felt = d.felt := rfl
@[simp] theorem bumpF_crb (k lo w n : Nat) (d : Dev) : (bumpF k lo w n d).crb = d.crb := rfl
@[simp] theorem bumpF_boot (k lo w n : Nat) (d : Dev) : (bumpF k lo w n d).boot = d.boot := rfl
@[simp] theorem bumpF_pwr (k lo w n : Nat) (d : Dev) : (bumpF k lo w n d).pwr = d.pwr := rfl
@[simp] theorem bumpF_press (k lo w n : Nat) (d : Dev) : (bumpF k lo w n d).press = d.press := rfl

@[simp] theorem emit_aclk (o : Out) (d : Dev) : (emit o d).aclk = d.aclk := rfl
@[simp] theorem emit_free (o : Out) (d : Dev) : (emit o d).free = d.free := rfl
@[simp] theorem emit_nextId (o : Out) (d : Dev) : (emit o d).nextId = d.nextId := rfl
@[simp] theorem emit_mem (o : Out) (d : Dev) : (emit o d).mem = d.mem := rfl
@[simp] theorem emit_regs (o : Out) (d : Dev) : (emit o d).regs = d.regs := rfl
@[simp] theorem emit_latch (o : Out) (d : Dev) : (emit o d).latch = d.latch := rfl
@[simp] theorem emit_core (o : Out) (d : Dev) : (emit o d).core = d.core := rfl
@[simp] theorem emit_strm (o : Out) (d : Dev) : (emit o d).strm = d.strm := rfl
@[simp] theorem emit_ddr (o : Out) (d : Dev) : (emit o d).ddr = d.ddr := rfl
@[simp] theorem emit_live (o : Out) (d : Dev) : (emit o d).live = d.live := rfl
@[simp] theorem emit_time (o : Out) (d : Dev) : (emit o d).time = d.time := rfl
@[simp] theorem emit_host (o : Out) (d : Dev) : (emit o d).host = d.host := rfl
@[simp] theorem emit_sess (o : Out) (d : Dev) : (emit o d).sess = d.sess := rfl
@[simp] theorem emit_felt (o : Out) (d : Dev) : (emit o d).felt = d.felt := rfl
@[simp] theorem emit_crb (o : Out) (d : Dev) : (emit o d).crb = d.crb := rfl
@[simp] theorem emit_boot (o : Out) (d : Dev) : (emit o d).boot = d.boot := rfl
@[simp] theorem emit_pwr (o : Out) (d : Dev) : (emit o d).pwr = d.pwr := rfl
@[simp] theorem emit_press (o : Out) (d : Dev) : (emit o d).press = d.press := rfl

@[simp] theorem wrMem_aclk (a : Nat) (bs : List Byte) (d : Dev) : (wrMem a bs d).aclk = d.aclk := rfl
@[simp] theorem wrMem_free (a : Nat) (bs : List Byte) (d : Dev) : (wrMem a bs d).free = d.free := rfl
@[simp] theorem wrMem_nextId (a : Nat) (bs : List Byte) (d : Dev) : (wrMem a bs d).nextId = d.nextId := rfl
@[simp] theorem wrMem_out (a : Nat) (bs : List Byte) (d : Dev) : (wrMem a bs d).out = d.out := rfl
@[simp] theorem wrMem_regs (a : Nat) (bs : List Byte) (d : Dev) : (wrMem a bs d).regs = d.regs := rfl
@[simp] theorem wrMem_latch (a : Nat) (bs : List Byte) (d : Dev) : (wrMem a bs d).latch = d.latch := rfl
@[simp] theorem wrMem_core (a : Nat) (bs : List Byte) (d : Dev) : (wrMem a bs d).core = d.core := rfl
@[simp] theorem wrMem_strm (a : Nat) (bs : List Byte) (d : Dev) : (wrMem a bs d).strm = d.strm := rfl
@[simp] theorem wrMem_ddr (a : Nat) (bs : List Byte) (d : Dev) : (wrMem a bs d).ddr = d.ddr := rfl
@[simp] theorem wrMem_live (a : Nat) (bs : List Byte) (d : Dev) : (wrMem a bs d).live = d.live := rfl
@[simp] theorem wrMem_time (a : Nat) (bs : List Byte) (d : Dev) : (wrMem a bs d).time = d.time := rfl
@[simp] theorem wrMem_host (a : Nat) (bs : List Byte) (d : Dev) : (wrMem a bs d).host = d.host := rfl
@[simp] theorem wrMem_sess (a : Nat) (bs : List Byte) (d : Dev) : (wrMem a bs d).sess = d.sess := rfl
@[simp] theorem wrMem_felt (a : Nat) (bs : List Byte) (d : Dev) : (wrMem a bs d).felt = d.felt := rfl
@[simp] theorem wrMem_crb (a : Nat) (bs : List Byte) (d : Dev) : (wrMem a bs d).crb = d.crb := rfl
@[simp] theorem wrMem_boot (a : Nat) (bs : List Byte) (d : Dev) : (wrMem a bs d).boot = d.boot := rfl
@[simp] theorem wrMem_pwr (a : Nat) (bs : List Byte) (d : Dev) : (wrMem a bs d).pwr = d.pwr := rfl
@[simp] theorem wrMem_press (a : Nat) (bs : List Byte) (d : Dev) : (wrMem a bs d).press = d.press := rfl

@[simp] theorem zeroMem_aclk (a n : Nat) (d : Dev) : (zeroMem a n d).aclk = d.aclk := rfl
@[simp] theorem zeroMem_free (a n : Nat) (d : Dev) : (zeroMem a n d).free = d.free := rfl
@[simp] theorem zeroMem_nextId (a n : Nat) (d : Dev) : (zeroMem a n d).nextId = d.nextId := rfl
@[simp] theorem zeroMem_out (a n : Nat) (d : Dev) : (zeroMem a n d).out = d.out := rfl
@[simp] theorem zeroMem_regs (a n : Nat) (d : Dev) : (zeroMem a n d).regs = d.regs := rfl
@[simp] theorem zeroMem_latch (a n : Nat) (d : Dev) : (zeroMem a n d).latch = d.latch := rfl
@[simp] theorem zeroMem_core (a n : Nat) (d : Dev) : (zeroMem a n d).core = d.core := rfl
@[simp] theorem zeroMem_strm (a n : Nat) (d : Dev) : (zeroMem a n d).strm = d.strm := rfl
@[simp] theorem zeroMem_ddr (a n : Nat) (d : Dev) : (zeroMem a n d).ddr = d.ddr := rfl
@[simp] theorem zeroMem_live (a n : Nat) (d : Dev) : (zeroMem a n d).live = d.live := rfl
@[simp] theorem zeroMem_time (a n : Nat) (d : Dev) : (zeroMem a n d).time = d.time := rfl
@[simp] theorem zeroMem_host (a n : Nat) (d : Dev) : (zeroMem a n d).host = d.host := rfl
@[simp] theorem zeroMem_sess (a n : Nat) (d : Dev) : (zeroMem a n d).sess = d.sess := rfl
@[simp] theorem zeroMem_felt (a n : Nat) (d : Dev) : (zeroMem a n d).felt = d.felt := rfl
@[simp] theorem zeroMem_crb (a n : Nat) (d : Dev) : (zeroMem a n d).crb = d.crb := rfl
@[simp] theorem zeroMem_boot (a n : Nat) (d : Dev) : (zeroMem a n d).boot = d.boot := rfl
@[simp] theorem zeroMem_pwr (a n : Nat) (d : Dev) : (zeroMem a n d).pwr = d.pwr := rfl
@[simp] theorem zeroMem_press (a n : Nat) (d : Dev) : (zeroMem a n d).press = d.press := rfl

@[simp] theorem retireAt_aclk (k : Nat) (pc : BitVec 24) (d : Dev) : (retireAt k pc d).aclk = d.aclk := rfl
@[simp] theorem retireAt_free (k : Nat) (pc : BitVec 24) (d : Dev) : (retireAt k pc d).free = d.free := rfl
@[simp] theorem retireAt_nextId (k : Nat) (pc : BitVec 24) (d : Dev) : (retireAt k pc d).nextId = d.nextId := rfl
@[simp] theorem retireAt_out (k : Nat) (pc : BitVec 24) (d : Dev) : (retireAt k pc d).out = d.out := rfl
@[simp] theorem retireAt_mem (k : Nat) (pc : BitVec 24) (d : Dev) : (retireAt k pc d).mem = d.mem := rfl
@[simp] theorem retireAt_regs (k : Nat) (pc : BitVec 24) (d : Dev) : (retireAt k pc d).regs = d.regs := rfl
@[simp] theorem retireAt_latch (k : Nat) (pc : BitVec 24) (d : Dev) : (retireAt k pc d).latch = d.latch := rfl
@[simp] theorem retireAt_strm (k : Nat) (pc : BitVec 24) (d : Dev) : (retireAt k pc d).strm = d.strm := rfl
@[simp] theorem retireAt_ddr (k : Nat) (pc : BitVec 24) (d : Dev) : (retireAt k pc d).ddr = d.ddr := rfl
@[simp] theorem retireAt_live (k : Nat) (pc : BitVec 24) (d : Dev) : (retireAt k pc d).live = d.live := rfl
@[simp] theorem retireAt_time (k : Nat) (pc : BitVec 24) (d : Dev) : (retireAt k pc d).time = d.time := rfl
@[simp] theorem retireAt_host (k : Nat) (pc : BitVec 24) (d : Dev) : (retireAt k pc d).host = d.host := rfl
@[simp] theorem retireAt_sess (k : Nat) (pc : BitVec 24) (d : Dev) : (retireAt k pc d).sess = d.sess := rfl
@[simp] theorem retireAt_felt (k : Nat) (pc : BitVec 24) (d : Dev) : (retireAt k pc d).felt = d.felt := rfl
@[simp] theorem retireAt_crb (k : Nat) (pc : BitVec 24) (d : Dev) : (retireAt k pc d).crb = d.crb := rfl
@[simp] theorem retireAt_boot (k : Nat) (pc : BitVec 24) (d : Dev) : (retireAt k pc d).boot = d.boot := rfl
@[simp] theorem retireAt_pwr (k : Nat) (pc : BitVec 24) (d : Dev) : (retireAt k pc d).pwr = d.pwr := rfl
@[simp] theorem retireAt_press (k : Nat) (pc : BitVec 24) (d : Dev) : (retireAt k pc d).press = d.press := rfl

@[simp] theorem updSlot_core_looms (k : Nat) (f : SlotSt → SlotSt) (d : Dev) : (updSlot k f d).core.looms = d.core.looms := rfl
@[simp] theorem updSlot_core_units (k : Nat) (f : SlotSt → SlotSt) (d : Dev) : (updSlot k f d).core.units = d.core.units := rfl
@[simp] theorem updSlot_core_sems (k : Nat) (f : SlotSt → SlotSt) (d : Dev) : (updSlot k f d).core.sems = d.core.sems := rfl
@[simp] theorem updSlot_core_semovf (k : Nat) (f : SlotSt → SlotSt) (d : Dev) : (updSlot k f d).core.semovf = d.core.semovf := rfl
@[simp] theorem updLoom_core_slots (k : Nat) (f : LoomSt → LoomSt) (d : Dev) : (updLoom k f d).core.slots = d.core.slots := rfl
@[simp] theorem updLoom_core_units (k : Nat) (f : LoomSt → LoomSt) (d : Dev) : (updLoom k f d).core.units = d.core.units := rfl
@[simp] theorem updLoom_core_sems (k : Nat) (f : LoomSt → LoomSt) (d : Dev) : (updLoom k f d).core.sems = d.core.sems := rfl
@[simp] theorem updLoom_core_semovf (k : Nat) (f : LoomSt → LoomSt) (d : Dev) : (updLoom k f d).core.semovf = d.core.semovf := rfl
@[simp] theorem updUnit_core_slots (k : Nat) (f : UnitSt → UnitSt) (d : Dev) : (updUnit k f d).core.slots = d.core.slots := rfl
@[simp] theorem updUnit_core_looms (k : Nat) (f : UnitSt → UnitSt) (d : Dev) : (updUnit k f d).core.looms = d.core.looms := rfl
@[simp] theorem updUnit_core_sems (k : Nat) (f : UnitSt → UnitSt) (d : Dev) : (updUnit k f d).core.sems = d.core.sems := rfl
@[simp] theorem updUnit_core_semovf (k : Nat) (f : UnitSt → UnitSt) (d : Dev) : (updUnit k f d).core.semovf = d.core.semovf := rfl
@[simp] theorem semSet_core_slots (c q v : Nat) (d : Dev) : (semSet c q v d).core.slots = d.core.slots := rfl
@[simp] theorem semSet_core_looms (c q v : Nat) (d : Dev) : (semSet c q v d).core.looms = d.core.looms := rfl
@[simp] theorem semSet_core_units (c q v : Nat) (d : Dev) : (semSet c q v d).core.units = d.core.units := rfl
@[simp] theorem semSet_core_semovf (c q v : Nat) (d : Dev) : (semSet c q v d).core.semovf = d.core.semovf := rfl
@[simp] theorem retireAt_core_looms (k : Nat) (pc : BitVec 24) (d : Dev) : (retireAt k pc d).core.looms = d.core.looms := rfl
@[simp] theorem retireAt_core_units (k : Nat) (pc : BitVec 24) (d : Dev) : (retireAt k pc d).core.units = d.core.units := rfl
@[simp] theorem retireAt_core_sems (k : Nat) (pc : BitVec 24) (d : Dev) : (retireAt k pc d).core.sems = d.core.sems := rfl
@[simp] theorem retireAt_core_semovf (k : Nat) (pc : BitVec 24) (d : Dev) : (retireAt k pc d).core.semovf = d.core.semovf := rfl
@[simp] theorem updEng_strm_quires (k : Nat) (f : StrmSt → StrmSt) (d : Dev) : (updEng k f d).strm.quires = d.strm.quires := rfl
@[simp] theorem updEng_strm_marks (k : Nat) (f : StrmSt → StrmSt) (d : Dev) : (updEng k f d).strm.marks = d.strm.marks := rfl
@[simp] theorem updEng_strm_pages (k : Nat) (f : StrmSt → StrmSt) (d : Dev) : (updEng k f d).strm.pages = d.strm.pages := rfl
@[simp] theorem updEng_strm_priFailed (k : Nat) (f : StrmSt → StrmSt) (d : Dev) : (updEng k f d).strm.priFailed = d.strm.priFailed := rfl
@[simp] theorem updEng_strm_priAlloc (k : Nat) (f : StrmSt → StrmSt) (d : Dev) : (updEng k f d).strm.priAlloc = d.strm.priAlloc := rfl
@[simp] theorem updEng_strm_kept (k : Nat) (f : StrmSt → StrmSt) (d : Dev) : (updEng k f d).strm.kept = d.strm.kept := rfl
@[simp] theorem updQuire_strm_engines (k : Nat) (f : QuireSt → QuireSt) (d : Dev) : (updQuire k f d).strm.engines = d.strm.engines := rfl
@[simp] theorem updQuire_strm_marks (k : Nat) (f : QuireSt → QuireSt) (d : Dev) : (updQuire k f d).strm.marks = d.strm.marks := rfl
@[simp] theorem updQuire_strm_pages (k : Nat) (f : QuireSt → QuireSt) (d : Dev) : (updQuire k f d).strm.pages = d.strm.pages := rfl
@[simp] theorem updQuire_strm_priFailed (k : Nat) (f : QuireSt → QuireSt) (d : Dev) : (updQuire k f d).strm.priFailed = d.strm.priFailed := rfl
@[simp] theorem updQuire_strm_priAlloc (k : Nat) (f : QuireSt → QuireSt) (d : Dev) : (updQuire k f d).strm.priAlloc = d.strm.priAlloc := rfl
@[simp] theorem updQuire_strm_kept (k : Nat) (f : QuireSt → QuireSt) (d : Dev) : (updQuire k f d).strm.kept = d.strm.kept := rfl

/-! Slots. -/

@[simp] theorem slotAt_updSlot_same (k : Nat) (f : SlotSt → SlotSt) (d : Dev) : slotAt (updSlot k f d) k = f (slotAt d k) :=
  tget_tmod_same _ _ _ _

theorem slotAt_updSlot_other {j k : Nat} (f : SlotSt → SlotSt) (d : Dev) (h : j ≠ k) : slotAt (updSlot k f d) j = slotAt d j :=
  tget_tmod_other _ _ _ h

@[simp] theorem slotAt_retireAt_same (k : Nat) (pc : BitVec 24) (d : Dev) :
    slotAt (retireAt k pc d) k = { slotAt d k with pc := pc, hold := .none, wdCount := 0 } := slotAt_updSlot_same _ _ _

theorem slotAt_retireAt_other {j k : Nat} (pc : BitVec 24) (d : Dev) (h : j ≠ k) : slotAt (retireAt k pc d) j = slotAt d j :=
  slotAt_updSlot_other _ _ h

@[simp] theorem slotAt_wrMem (a : Nat) (bs : List Byte) (d : Dev) (j : Nat) : slotAt (wrMem a bs d) j = slotAt d j := rfl
@[simp] theorem slotAt_semSet (c q v : Nat) (d : Dev) (j : Nat) : slotAt (semSet c q v d) j = slotAt d j := rfl
@[simp] theorem slotAt_updUnit (k : Nat) (f : UnitSt → UnitSt) (d : Dev) (j : Nat) : slotAt (updUnit k f d) j = slotAt d j := rfl
@[simp] theorem slotAt_updLoom (k : Nat) (f : LoomSt → LoomSt) (d : Dev) (j : Nat) : slotAt (updLoom k f d) j = slotAt d j := rfl
@[simp] theorem slotAt_updEng (k : Nat) (f : StrmSt → StrmSt) (d : Dev) (j : Nat) : slotAt (updEng k f d) j = slotAt d j := rfl
@[simp] theorem slotAt_updQuire (k : Nat) (f : QuireSt → QuireSt) (d : Dev) (j : Nat) : slotAt (updQuire k f d) j = slotAt d j := rfl

@[simp] theorem drawFree_core (d : Dev) : (drawFree d).core = d.core := by unfold drawFree; split <;> rfl
@[simp] theorem drawFree_mem (d : Dev) : (drawFree d).mem = d.mem := by unfold drawFree; split <;> rfl
@[simp] theorem drawFree_regs (d : Dev) : (drawFree d).regs = d.regs := by unfold drawFree; split <;> rfl
@[simp] theorem drawFree_strm (d : Dev) : (drawFree d).strm = d.strm := by unfold drawFree; split <;> rfl
@[simp] theorem slotAt_drawFree (d : Dev) (j : Nat) : slotAt (drawFree d) j = slotAt d j := by unfold slotAt; rw [drawFree_core]

/-! Registers of a slot. -/

@[simp] theorem getS_setS_same (n : BitVec 5) (v : W32) (sl : SlotSt) : getS (setS n v sl) n = v := tget_tset_same _ _ _ _

theorem getS_setS_other {m n : BitVec 5} (v : W32) (sl : SlotSt) (h : m ≠ n) : getS (setS n v sl) m = getS sl m :=
  tget_tset_other _ _ _ (fun e => h (BitVec.eq_of_toNat_eq e))

@[simp] theorem getA_setA_same (n : Nat) (v : W48) (sl : SlotSt) : getA (setA n v sl) n = v := tget_tset_same _ _ _ _

theorem getA_setA_other {m n : Nat} (v : W48) (sl : SlotSt) (h : m ≠ n) : getA (setA n v sl) m = getA sl m := tget_tset_other _ _ _ h

@[simp] theorem getP_zero (sl : SlotSt) : getP sl 0 = true := rfl

theorem getP_setP_same {n : Nat} (v : Bool) (sl : SlotSt) (h : n ≠ 0) : getP (setP n v sl) n = v := by
  simp [getP, setP, h]

/-! Registers of the device. -/

/-- A register reads the 32 bits last put there. -/
theorem regVal_regPut_same (key v : Nat) (d : Dev) : regVal (regPut key v d) key = v % 2 ^ 32 := by
  unfold regVal regPut
  simp only [tget_tset_same]
  split
  · rename_i e
    split at e
    · cases e
    · cases e; exact BitVec.toNat_ofNat _ _
  · rename_i e
    split at e
    · rename_i g; exact g.symm
    · cases e

theorem regVal_regPut_other {j key : Nat} (v : Nat) (d : Dev) (h : j ≠ key) : regVal (regPut key v d) j = regVal d j := by
  unfold regVal regPut
  simp only [tget_tset_other _ _ _ h]

/-! Memory. -/

/-- A byte of the device map after a write. -/
theorem mem_wrMem (a : Nat) (bs : List Byte) (d : Dev) (j : Nat) :
    tget 0 (wrMem a bs d).mem j = if a ≤ j ∧ j < a + bs.length then bs.getD (j - a) 0 else tget 0 d.mem j :=
  tget_tsetRun _ _ _ _ _

/-- A byte of the device map after a range is cleared. -/
theorem mem_zeroMem (a n : Nat) (d : Dev) (j : Nat) : tget 0 (zeroMem a n d).mem j = if a ≤ j ∧ j < a + n then 0 else tget 0 d.mem j := by
  unfold zeroMem
  rw [tget_tclear]
  simp

/-- Every memory operation keeps the canonical form. -/
theorem wf_wrMem (a : Nat) (bs : List Byte) (d : Dev) (h : Memory.wf d.mem = true) : Memory.wf (wrMem a bs d).mem = true :=
  twf_tsetRun a bs h

theorem wf_zeroMem (a n : Nat) (d : Dev) (h : Memory.wf d.mem = true) : Memory.wf (zeroMem a n d).mem = true := by
  unfold zeroMem Memory.wf
  exact twf_tclear (fun k => decide (a ≤ k) && decide (k < a + n)) h

theorem length_leBytes (n x : Nat) : (leBytes n x).length = n := by
  induction n generalizing x with
  | zero => rfl
  | succ n ih => simp [leBytes, ih]

/-! Semaphores. -/

@[simp] theorem semGet_semSet_same (c q v : Nat) (d : Dev) : semGet (semSet c q v d) c q = min 65535 v := tget_tset_same _ _ _ _

theorem semGet_semSet_other {c q c' q' : Nat} (v : Nat) (d : Dev) (h : semKey c' q' ≠ semKey c q) :
    semGet (semSet c q v d) c' q' = semGet d c' q' := tget_tset_other _ _ _ h

end Sys2Proof.Machine
end

