-- ==== Sys2Proof/Laws/Issue.lean ====
section
/-! SUPPORT. What the issue of an instruction does: one lemma for each way it ends. -/

set_option Elab.async false

namespace Sys2Proof.Machine

variable {x : Site} {g : Guard} {insn : W64} {enc : Bool} {body : Dev → Issued} {s : State}

theorem takes_canIssue (h : takes s.dev x g = true) : canIssue s.dev (siteKey x) = true := by
  simp only [takes, Bool.and_eq_true] at h; exact h.1.1

theorem takes_pc (h : takes s.dev x g = true) : (slotAt s.dev (siteKey x)).pc.toNat < (slotAt s.dev (siteKey x)).codeSize := by
  simp only [takes, Bool.and_eq_true, decide_eq_true_eq] at h; exact h.1.2

theorem takes_guard (h : takes s.dev x g = true) : guardHolds (slotAt s.dev (siteKey x)) g = true := by
  simp only [takes, Bool.and_eq_true] at h; exact h.2

theorem whenDev_true {ok : Bool} (why : String) (d : Dev) (s : State) (h : ok = true) : whenDev ok why d s = .next { s with dev := d } := by
  simp [whenDev, h]

theorem whenDev_next {ok : Bool} {why : String} {d : Dev} {s t : State} (h : whenDev ok why d s = .next t) :
    ok = true ∧ t = { s with dev := d } := by
  unfold whenDev at h
  split at h
  · rename_i e; cases h; exact ⟨e, rfl⟩
  · cases h

theorem issue_next (h : takes s.dev x g = true) : issue x g insn enc body s = .next { s with dev := issueDev (siteKey x) g insn enc body s.dev } :=
  whenDev_true _ _ _ (takes_canIssue h)

/-- The instruction executes its body. -/
theorem issueDev_body (h : takes s.dev x g = true) (he : enc = true) :
    issueDev (siteKey x) g insn enc body s.dev =
      match body s.dev with
      | .done d' => retireAt (siteKey x) (nextPc s.dev (siteKey x)) d'
      | .jump d' t => retireAt (siteKey x) t d'
      | .exc c a => stopSlot (siteKey x) c insn a s.dev
      | .wait h d' => updSlot (siteKey x) (fun sl => { sl with hold := h, headInsn := insn }) d'
      | .full => updSlot (siteKey x) (fun sl => { sl with hold := .fullQueue, headInsn := insn }) s.dev := by
  unfold issueDev
  have h1 := takes_pc h
  have h2 := takes_guard h
  simp only [Nat.not_le.mpr h1, h2, he, if_false]
  rfl

theorem issue_done {d' : Dev} (h : takes s.dev x g = true) (he : enc = true) (hb : body s.dev = .done d') :
    issue x g insn enc body s = .next { s with dev := retireAt (siteKey x) (nextPc s.dev (siteKey x)) d' } := by
  rw [issue_next h, issueDev_body h he, hb]

theorem issue_jump {d' : Dev} {t : BitVec 24} (h : takes s.dev x g = true) (he : enc = true) (hb : body s.dev = .jump d' t) :
    issue x g insn enc body s = .next { s with dev := retireAt (siteKey x) t d' } := by
  rw [issue_next h, issueDev_body h he, hb]

theorem issue_exc {c a : Nat} (h : takes s.dev x g = true) (he : enc = true) (hb : body s.dev = .exc c a) :
    issue x g insn enc body s = .next { s with dev := stopSlot (siteKey x) c insn a s.dev } := by
  rw [issue_next h, issueDev_body h he, hb]

theorem issue_wait {d' : Dev} {o : Hold} (h : takes s.dev x g = true) (he : enc = true) (hb : body s.dev = .wait o d') :
    issue x g insn enc body s =
      .next { s with dev := updSlot (siteKey x) (fun sl => { sl with hold := o, headInsn := insn }) d' } := by
  rw [issue_next h, issueDev_body h he, hb]

theorem issue_full (h : takes s.dev x g = true) (he : enc = true) (hb : body s.dev = .full) :
    issue x g insn enc body s =
      .next { s with dev := updSlot (siteKey x) (fun sl => { sl with hold := .fullQueue, headInsn := insn }) s.dev } := by
  rw [issue_next h, issueDev_body h he, hb]

/-- A false guard retires the instruction with no effect (R141). -/
theorem issue_skip (hi : canIssue s.dev (siteKey x) = true) (hp : (slotAt s.dev (siteKey x)).pc.toNat < (slotAt s.dev (siteKey x)).codeSize)
    (hg : guardHolds (slotAt s.dev (siteKey x)) g = false) :
    issue x g insn enc body s = .next { s with dev := retireAt (siteKey x) (nextPc s.dev (siteKey x)) s.dev } := by
  unfold issue
  rw [whenDev_true _ _ _ hi]
  unfold issueDev
  simp [Nat.not_le.mpr hp, hg]

/-- Fetch outside the code raises the core-store bound exception (R138). -/
theorem issue_outside (hi : canIssue s.dev (siteKey x) = true) (hp : (slotAt s.dev (siteKey x)).codeSize ≤ (slotAt s.dev (siteKey x)).pc.toNat) :
    issue x g insn enc body s = .next { s with dev := stopSlot (siteKey x) 2 insn (slotAt s.dev (siteKey x)).pc.toNat s.dev } := by
  unfold issue
  rw [whenDev_true _ _ _ hi]
  unfold issueDev
  simp [hp]

/-- An encoding that breaks a constraint raises the illegal-instruction exception (R142). -/
theorem issue_illegal (h : takes s.dev x g = true) (he : enc = false) :
    issue x g insn enc body s = .next { s with dev := stopSlot (siteKey x) 1 insn 0 s.dev } := by
  rw [issue_next h]
  unfold issueDev
  simp [Nat.not_le.mpr (takes_pc h), takes_guard h, he]

/-- An update of the slot that then retires. -/
theorem slotOnly_retire (s : State) (k : Nat) (f : SlotSt → SlotSt) (hpc : (f (slotAt s.dev k)).pc = (slotAt s.dev k).pc) :
    SlotOnly s { s with dev := retireAt k (nextPc s.dev k) (updSlot k f s.dev) } k (retired (f (slotAt s.dev k))) := by
  refine ⟨?_, fun j h => ?_, rfl⟩
  · simp [retired, nextPc, hpc]
  · simp [slotAt_retireAt_other _ _ h, slotAt_updSlot_other _ _ h]

/-- The same where more than the slot has changed: `b` is the state with those changes. -/
theorem slotOnly_retired {b : State} {k : Nat} {pc : BitVec 24} {d : Dev} {p : List Instr} {sl : SlotSt} (h1 : slotAt d k = sl) (hpc : pc = sl.pc + 8)
    (h2 : ∀ j, j ≠ k → slotAt d j = slotAt b.dev j)
    (h3 : ({ dev := d, pending := p } : State) = { b with dev := { b.dev with core := { b.dev.core with slots := d.core.slots } } }) :
    SlotOnly b { dev := retireAt k pc d, pending := p } k (retired sl) := by
  refine ⟨?_, fun j h => ?_, ?_⟩
  · simp [retired, h1, hpc]
  · simp [slotAt_retireAt_other _ _ h, h2 j h]
  · simp only [State.mk.injEq] at h3 ⊢
    refine ⟨?_, h3.2⟩
    unfold retireAt updSlot
    rw [h3.1]

end Sys2Proof.Machine
end

