-- ==== Sys2Proof/Laws/Ops.lean ====
section
/-! SUPPORT. What completions, events and register updates may touch: the registers, the host interface and what the device has
emitted, and nothing else. -/

set_option Elab.async false

namespace Sys2Proof.Machine

namespace HostOnly

variable {b d e : Dev}

theorem refl (d : Dev) : HostOnly d d := rfl

theorem trans (h : HostOnly b d) (g : HostOnly d e) : HostOnly b e := by
  unfold HostOnly at *
  rw [h] at g
  exact g

theorem aclk (h : HostOnly b d) : d.aclk = b.aclk := by rw [h]
theorem free (h : HostOnly b d) : d.free = b.free := by rw [h]
theorem nextId (h : HostOnly b d) : d.nextId = b.nextId := by rw [h]
theorem mem (h : HostOnly b d) : d.mem = b.mem := by rw [h]
theorem latch (h : HostOnly b d) : d.latch = b.latch := by rw [h]
theorem core (h : HostOnly b d) : d.core = b.core := by rw [h]
theorem strm (h : HostOnly b d) : d.strm = b.strm := by rw [h]
theorem ddr (h : HostOnly b d) : d.ddr = b.ddr := by rw [h]
theorem live (h : HostOnly b d) : d.live = b.live := by rw [h]
theorem time (h : HostOnly b d) : d.time = b.time := by rw [h]
theorem sess (h : HostOnly b d) : d.sess = b.sess := by rw [h]
theorem felt (h : HostOnly b d) : d.felt = b.felt := by rw [h]
theorem crb (h : HostOnly b d) : d.crb = b.crb := by rw [h]
theorem boot (h : HostOnly b d) : d.boot = b.boot := by rw [h]
theorem pwr (h : HostOnly b d) : d.pwr = b.pwr := by rw [h]
theorem press (h : HostOnly b d) : d.press = b.press := by rw [h]
theorem slot (h : HostOnly b d) (k : Nat) : slotAt d k = slotAt b k := by unfold slotAt; rw [h.core]

theorem ite {c : Prop} [Decidable c] {x y : Dev} (hx : HostOnly b x) (hy : HostOnly b y) : HostOnly b (if c then x else y) := by
  split <;> assumption

theorem forEach {α : Type} (l : List α) (f : α → Dev → Dev) (h : ∀ a d, HostOnly d (f a d)) (d : Dev) : HostOnly d (Machine.forEach l f d) := by
  induction l generalizing d with
  | nil => exact refl d
  | cons a l ih => exact (h a d).trans (ih (f a d))

end HostOnly

theorem hostOnly_regPut (key v : Nat) (d : Dev) : HostOnly d (regPut key v d) := rfl
theorem hostOnly_setF (key lo w v : Nat) (d : Dev) : HostOnly d (setF key lo w v d) := rfl
theorem hostOnly_bumpF (key lo w n : Nat) (d : Dev) : HostOnly d (bumpF key lo w n d) := rfl
theorem hostOnly_emit (o : Out) (d : Dev) : HostOnly d (emit o d) := rfl
theorem hostOnly_updRing (fn r : Nat) (f : RingSt → RingSt) (d : Dev) : HostOnly d (updRing fn r f d) := rfl

theorem hostOnly_sendMsix (fn r : Nat) (d : Dev) : HostOnly d (sendMsix fn r d) := by
  unfold sendMsix
  exact HostOnly.ite rfl ((hostOnly_emit _ d).trans (HostOnly.forEach _ _ (fun _ _ => hostOnly_updRing _ _ _ _) _))

theorem hostOnly_signalEntry (fn r : Nat) (irq : Bool) (d : Dev) : HostOnly d (signalEntry fn r irq d) := by
  unfold signalEntry
  exact HostOnly.ite ((hostOnly_updRing _ _ _ d).trans (hostOnly_sendMsix _ _ _)) rfl

theorem hostOnly_writeEntry (fn r w : Nat) (rest : List Nat) (irq : Bool) (d : Dev) : HostOnly d (writeEntry fn r w rest irq d) := by
  unfold writeEntry
  extract_lets t a ph d1 d2 t' d3 d4
  have h3 : HostOnly d d3 := (hostOnly_emit _ d).trans ((hostOnly_emit _ d1).trans (hostOnly_setF _ _ _ _ d2))
  exact HostOnly.trans (HostOnly.ite (h3.trans (hostOnly_setF _ _ _ _ d3)) h3) (hostOnly_signalEntry _ _ _ d4)

theorem hostOnly_writeCpl (fn r : Nat) (c : Cpl) (d : Dev) : HostOnly d (writeCpl fn r c d) := hostOnly_writeEntry _ _ _ _ _ _

theorem hostOnly_postCpl (fn r : Nat) (c : Cpl) (d : Dev) : HostOnly d (postCpl fn r c d) := by
  unfold postCpl
  refine HostOnly.ite (HostOnly.refl d) ?_
  refine HostOnly.ite ?_ (hostOnly_writeCpl _ _ _ _)
  exact HostOnly.trans (HostOnly.ite ((hostOnly_setF _ _ _ _ d).trans (hostOnly_bumpF _ _ _ _ _)) (HostOnly.refl d)) (hostOnly_updRing _ _ _ _)

theorem hostOnly_raiseEvent (code kind index : Nat) (p : List Nat) (d : Dev) : HostOnly d (raiseEvent code kind index p d) := by
  unfold raiseEvent
  extract_lets d1 d2 t
  have h : HostOnly d d2 := (hostOnly_setF _ _ _ _ d).trans (hostOnly_bumpF _ _ _ _ d1)
  exact HostOnly.ite h (HostOnly.ite (h.trans (hostOnly_bumpF _ _ _ _ d2)) (h.trans (hostOnly_writeEntry _ _ _ _ _ d2)))

theorem hostOnly_freeGate (d : Dev) : HostOnly d (freeGate d) := by
  unfold freeGate
  exact HostOnly.ite (HostOnly.forEach _ _ (fun _ _ => hostOnly_updRing _ _ _ _) _) (HostOnly.refl d)

theorem hostOnly_dropDescs (p : Desc → Bool) (d : Dev) : HostOnly d (dropDescs p d) := by
  unfold dropDescs
  exact HostOnly.trans (d := { d with host.descs := d.host.descs.filter (fun x => !p x) }) rfl (hostOnly_freeGate _)

theorem hostOnly_finishDesc (x : Desc) (st : Nat) (res : List Nat) (d : Dev) : HostOnly d (finishDesc x st res d) :=
  (hostOnly_dropDescs _ d).trans (hostOnly_postCpl _ _ _ _)

theorem hostOnly_finishFlags (x : Desc) (st : Nat) (f : Flags) (res : List Nat) (d : Dev) : HostOnly d (finishFlags x st f res d) :=
  (hostOnly_dropDescs _ d).trans (hostOnly_postCpl _ _ _ _)

theorem hostOnly_cancelWaiting (p : Desc → Bool) (d : Dev) : HostOnly d (cancelWaiting p d) :=
  HostOnly.forEach _ _ (fun _ _ => hostOnly_finishDesc _ _ _ _) d

theorem hostOnly_sweepSems (d : Dev) : HostOnly d (sweepSems d) := hostOnly_cancelWaiting _ d

theorem hostOnly_mapDesc (uid : Nat) (f : Desc → Desc) (d : Dev) : HostOnly d (mapDesc uid f d) := rfl

theorem hostOnly_showEng (e : Nat) (d : Dev) : HostOnly d (showEng e d) := by
  unfold showEng
  exact (hostOnly_regPut _ _ d).trans ((hostOnly_regPut _ _ _).trans (hostOnly_setF _ _ _ _ _))

theorem hostOnly_frameCpl (i : Nat) (x : Sess) (tag st : Nat) (f : Flags) (ws : List Nat) (d : Dev) : HostOnly d (frameCpl i x tag st f ws d) :=
  hostOnly_postCpl _ _ _ _

theorem hostOnly_cplFrame (i : Nat) (x : Sess) (f : Frame) (err : Nat) (d : Dev) : HostOnly d (cplFrame i x f err d) :=
  hostOnly_frameCpl _ _ _ _ _ _ _

theorem hostOnly_cancelQueue (i : Nat) (x : Sess) (d : Dev) : HostOnly d (cancelQueue i x d) :=
  HostOnly.forEach _ _ (fun _ _ => hostOnly_frameCpl _ _ _ _ _ _ _) d

theorem hostOnly_endCheckpoints (x : Sess) (st : Nat) (d : Dev) : HostOnly d (endCheckpoints x st d) := by
  refine HostOnly.forEach _ _ (fun u d => ?_) d
  split
  · exact hostOnly_finishDesc _ _ _ _
  · exact HostOnly.refl d

end Sys2Proof.Machine
end

