-- ==== Sys2Proof/Laws/Regs.lean ====
section
/-! SUPPORT. Laws of the register file: a field after a field has been set. -/

set_option Elab.async false

namespace Sys2Proof.Machine

/-- The bits of a register whose field has been set. -/
theorem putFld_parts (x lo w v : Nat) : putFld x lo w v = x / 2 ^ (lo + w) * 2 ^ (lo + w) + v % 2 ^ w * 2 ^ lo + x % 2 ^ lo := by
  unfold putFld fld
  rw [Nat.shiftRight_eq_div_pow]
  have h1 : x = 2 ^ lo * (x / 2 ^ lo) + x % 2 ^ lo := (Nat.div_add_mod x (2 ^ lo)).symm
  have h2 : x / 2 ^ lo = 2 ^ w * (x / 2 ^ lo / 2 ^ w) + x / 2 ^ lo % 2 ^ w := (Nat.div_add_mod _ _).symm
  have h3 : x / 2 ^ lo / 2 ^ w = x / 2 ^ (lo + w) := by rw [Nat.div_div_eq_div_mul, Nat.pow_add]
  rw [h3] at h2
  generalize x / 2 ^ (lo + w) = q at *
  generalize x / 2 ^ lo % 2 ^ w = f at *
  generalize hr : x % 2 ^ lo = r at *
  have : x = q * 2 ^ (lo + w) + f * 2 ^ lo + r := by
    rw [h1, h2, Nat.pow_add]; simp only [Nat.mul_add, Nat.mul_comm, Nat.mul_left_comm]
  omega

theorem putFld_lt (x lo w v n : Nat) (hn : lo + w ≤ n) (hx : x < 2 ^ n) : putFld x lo w v < 2 ^ n := by
  rw [putFld_parts]
  obtain ⟨k, rfl⟩ := Nat.exists_eq_add_of_le hn
  have h1 : x / 2 ^ (lo + w) < 2 ^ k := by rw [Nat.div_lt_iff_lt_mul (Nat.two_pow_pos _), ← Nat.pow_add, Nat.add_comm]; exact hx
  have h2 : v % 2 ^ w < 2 ^ w := Nat.mod_lt _ (Nat.two_pow_pos _)
  have h3 : x % 2 ^ lo < 2 ^ lo := Nat.mod_lt _ (Nat.two_pow_pos _)
  have a : v % 2 ^ w * 2 ^ lo + x % 2 ^ lo < 2 ^ (lo + w) := by
    have : (v % 2 ^ w + 1) * 2 ^ lo ≤ 2 ^ w * 2 ^ lo := Nat.mul_le_mul_right _ h2
    rw [Nat.pow_add, Nat.mul_comm (2 ^ lo)]; rw [Nat.add_mul, Nat.one_mul] at this; omega
  have b : (x / 2 ^ (lo + w) + 1) * 2 ^ (lo + w) ≤ 2 ^ k * 2 ^ (lo + w) := Nat.mul_le_mul_right _ h1
  rw [Nat.pow_add 2 (lo + w) k, Nat.mul_comm (2 ^ (lo + w)) (2 ^ k)]
  rw [Nat.add_mul, Nat.one_mul] at b; omega

theorem regVal_lt (d : Dev) (k : Nat) (h : regReset k < 2 ^ 32) : regVal d k < 2 ^ 32 := by
  unfold regVal
  cases tget none d.regs k with
  | some v => exact v.isLt
  | none => exact h

theorem fld_putFld_same (x lo w v : Nat) : fld (putFld x lo w v) lo w = v % 2 ^ w := by
  rw [putFld_parts]; unfold fld
  rw [Nat.shiftRight_eq_div_pow, Nat.pow_add]
  have h3 : x % 2 ^ lo < 2 ^ lo := Nat.mod_lt _ (Nat.two_pow_pos _)
  have : (x / (2 ^ lo * 2 ^ w) * (2 ^ lo * 2 ^ w) + v % 2 ^ w * 2 ^ lo + x % 2 ^ lo) / 2 ^ lo = x / (2 ^ lo * 2 ^ w) * 2 ^ w + v % 2 ^ w := by
    rw [show x / (2 ^ lo * 2 ^ w) * (2 ^ lo * 2 ^ w) + v % 2 ^ w * 2 ^ lo + x % 2 ^ lo = 2 ^ lo * (x / (2 ^ lo * 2 ^ w) * 2 ^ w + v % 2 ^ w) + x % 2 ^ lo by
      simp only [Nat.mul_add, Nat.mul_assoc, Nat.mul_comm],
      Nat.mul_add_div (Nat.two_pow_pos _), Nat.div_eq_of_lt h3, Nat.add_zero]
  rw [this, Nat.add_comm, Nat.add_mul_mod_self_right, Nat.mod_mod]

/-- A field below the one that is set. -/
theorem fld_putFld_below (x lo w v lo' w' : Nat) (h : lo' + w' ≤ lo) : fld (putFld x lo w v) lo' w' = fld x lo' w' := by
  rw [putFld_parts]; unfold fld
  rw [Nat.shiftRight_eq_div_pow, Nat.shiftRight_eq_div_pow]
  obtain ⟨k, rfl⟩ := Nat.exists_eq_add_of_le h
  have e : x / 2 ^ (lo' + w' + k + w) * 2 ^ (lo' + w' + k + w) + v % 2 ^ w * 2 ^ (lo' + w' + k) + x % 2 ^ (lo' + w' + k) =
      2 ^ (lo' + w' + k) * (x / 2 ^ (lo' + w' + k + w) * 2 ^ w + v % 2 ^ w) + x % 2 ^ (lo' + w' + k) := by
    rw [Nat.pow_add 2 (lo' + w' + k) w]; simp only [Nat.mul_add, Nat.mul_assoc, Nat.mul_comm, Nat.mul_left_comm]
  rw [e, ← Nat.mod_mul_right_div_self, ← Nat.mod_mul_right_div_self, ← Nat.pow_add, Nat.pow_add 2 (lo' + w') k, Nat.mul_assoc,
    Nat.mul_add_mod, Nat.mod_mul_right_mod]

/-- A field above the one that is set. -/
theorem fld_putFld_above (x lo w v lo' w' : Nat) (h : lo + w ≤ lo') : fld (putFld x lo w v) lo' w' = fld x lo' w' := by
  rw [putFld_parts]; unfold fld
  rw [Nat.shiftRight_eq_div_pow, Nat.shiftRight_eq_div_pow]
  obtain ⟨k, rfl⟩ := Nat.exists_eq_add_of_le h
  congr 1
  rw [Nat.pow_add 2 (lo + w) k, ← Nat.div_div_eq_div_mul, ← Nat.div_div_eq_div_mul]
  congr 1
  have h2 : v % 2 ^ w < 2 ^ w := Nat.mod_lt _ (Nat.two_pow_pos _)
  have h3 : x % 2 ^ lo < 2 ^ lo := Nat.mod_lt _ (Nat.two_pow_pos _)
  have a : v % 2 ^ w * 2 ^ lo + x % 2 ^ lo < 2 ^ (lo + w) := by
    have : (v % 2 ^ w + 1) * 2 ^ lo ≤ 2 ^ w * 2 ^ lo := Nat.mul_le_mul_right _ h2
    rw [Nat.pow_add, Nat.mul_comm (2 ^ lo)]; rw [Nat.add_mul, Nat.one_mul] at this; omega
  rw [Nat.add_assoc, Nat.mul_comm, Nat.mul_add_div (Nat.two_pow_pos _), Nat.div_eq_of_lt a, Nat.add_zero]

theorem regVal_setF_other {j key : Nat} (lo w v : Nat) (d : Dev) (h : j ≠ key) : regVal (setF key lo w v d) j = regVal d j :=
  regVal_regPut_other _ _ h

theorem getF_setF_otherReg {j key : Nat} (lo w v lo' w' : Nat) (d : Dev) (h : j ≠ key) : getF (setF key lo w v d) j lo' w' = getF d j lo' w' := by
  unfold getF; rw [regVal_setF_other _ _ _ _ h]

theorem getF_regPut_otherReg {j key : Nat} (v lo' w' : Nat) (d : Dev) (h : j ≠ key) : getF (regPut key v d) j lo' w' = getF d j lo' w' := by
  unfold getF; rw [regVal_regPut_other _ _ h]

theorem regVal_setF_same (key lo w v : Nat) (d : Dev) : regVal (setF key lo w v d) key = putFld (regVal d key) lo w v % 2 ^ 32 := regVal_regPut_same _ _ _

theorem fld_mod32 (x lo w : Nat) (h : lo + w ≤ 32) : fld (x % 2 ^ 32) lo w = fld x lo w := by
  unfold fld
  rw [Nat.shiftRight_eq_div_pow, Nat.shiftRight_eq_div_pow, ← Nat.mod_mul_right_div_self, ← Nat.mod_mul_right_div_self, ← Nat.pow_add]
  obtain ⟨k, hk⟩ := Nat.exists_eq_add_of_le h
  rw [hk, Nat.pow_add 2 (lo + w) k, Nat.mod_mul_right_mod]

/-- The field that has been set. -/
theorem getF_setF_same (key lo w v : Nat) (d : Dev) (h : lo + w ≤ 32) : getF (setF key lo w v d) key lo w = v % 2 ^ w := by
  unfold getF; rw [regVal_setF_same, fld_mod32 _ _ _ h, fld_putFld_same]

/-- Another field of the register. -/
theorem getF_setF_below (key lo w v lo' w' : Nat) (d : Dev) (h : lo' + w' ≤ lo) (h2 : lo ≤ 32) : getF (setF key lo w v d) key lo' w' = getF d key lo' w' := by
  unfold getF; rw [regVal_setF_same, fld_mod32 _ _ _ (by omega), fld_putFld_below _ _ _ _ _ _ h]

theorem getF_setF_above (key lo w v lo' w' : Nat) (d : Dev) (h : lo + w ≤ lo') (h2 : lo' + w' ≤ 32) : getF (setF key lo w v d) key lo' w' = getF d key lo' w' := by
  unfold getF; rw [regVal_setF_same, fld_mod32 _ _ _ h2, fld_putFld_above _ _ _ _ _ _ h]

@[simp] theorem regVal_updRing (fn r : Nat) (f : RingSt → RingSt) (d : Dev) (k : Nat) : regVal (updRing fn r f d) k = regVal d k := rfl
@[simp] theorem getF_updRing (fn r : Nat) (f : RingSt → RingSt) (d : Dev) (k lo w : Nat) : getF (updRing fn r f d) k lo w = getF d k lo w := rfl
@[simp] theorem getF_emit (o : Out) (d : Dev) (k lo w : Nat) : getF (emit o d) k lo w = getF d k lo w := rfl
@[simp] theorem descs_updRing (fn r : Nat) (f : RingSt → RingSt) (d : Dev) : (updRing fn r f d).host.descs = d.host.descs := rfl
@[simp] theorem ringAt_updRing_same (fn r : Nat) (f : RingSt → RingSt) (d : Dev) : ringAt (updRing fn r f d) fn r = f (ringAt d fn r) := tget_tmod_same _ _ _ _
theorem kRing_ne (fn r o p : Nat) (h : o ≠ p) : kRing fn r o ≠ kRing fn r p := by unfold kRing; omega

/-! Only the registers, the host interface and the emissions change: through each operation. -/

theorem hostOnly_updRing_of {b d : Dev} {fn r : Nat} {f : RingSt → RingSt} (h : HostOnly b d) : HostOnly b (updRing fn r f d) := h.trans (hostOnly_updRing _ _ _ _)
theorem hostOnly_setF_of {b d : Dev} {k l w v : Nat} (h : HostOnly b d) : HostOnly b (setF k l w v d) := h.trans (hostOnly_setF _ _ _ _ _)
theorem hostOnly_bumpF_of {b d : Dev} {k l w v : Nat} (h : HostOnly b d) : HostOnly b (bumpF k l w v d) := h.trans (hostOnly_bumpF _ _ _ _ _)
theorem hostOnly_regPut_of {b d : Dev} {k v : Nat} (h : HostOnly b d) : HostOnly b (regPut k v d) := h.trans (hostOnly_regPut _ _ _)

/-! A register through a completion entry or an event. -/

/-- What every turn of a loop keeps, the loop keeps. -/
theorem forEach_inv {α β : Type} (g : Dev → β) (l : List α) (f : α → Dev → Dev) (h : ∀ a d, g (f a d) = g d) (d : Dev) : g (forEach l f d) = g d := by
  induction l generalizing d with
  | nil => rfl
  | cons a l ih => exact (ih _).trans (h _ _)

theorem getF_sendMsix (fn r d k lo w) : getF (sendMsix fn r d) k lo w = getF d k lo w := by
  unfold sendMsix; dsimp only; split
  · rfl
  · refine (forEach_inv (fun d => getF d k lo w) _ _ (fun _ _ => ?_) _).trans ?_ <;> rfl

theorem getF_signalEntry (fn r i d k lo w) : getF (signalEntry fn r i d) k lo w = getF d k lo w := by
  unfold signalEntry; dsimp only; split
  · rw [getF_sendMsix]; rfl
  · rfl

theorem getF_writeEntry (fn r w l i d k lo n) (h18 : k ≠ kRing fn r 0x18) (h1c : k ≠ kRing fn r 0x1C) : getF (writeEntry fn r w l i d) k lo n = getF d k lo n := by
  unfold writeEntry; extract_lets t a ph d1 d2 t' d3 d4
  rw [getF_signalEntry]
  have h3 : getF d3 k lo n = getF d k lo n := by simp only [d3]; rw [getF_setF_otherReg _ _ _ _ _ _ h18]; rfl
  simp only [d4]; split
  · rw [getF_setF_otherReg _ _ _ _ _ _ h1c, h3]
  · exact h3

theorem getF_raiseEvent_other (c k i p d) (key lo n : Nat) (h1 : key ≠ kEvtPending) (h2 : key ≠ kEvtCount c) (h3 : key ≠ kEvtLost) (h4 : key ≠ kRing 0 8 0x18) (h5 : key ≠ kRing 0 8 0x1C) :
    getF (raiseEvent c k i p d) key lo n = getF d key lo n := by
  unfold raiseEvent; extract_lets d1 d2 t
  have e2 : getF d2 key lo n = getF d key lo n := by
    simp only [d2, d1]; unfold bumpF; rw [getF_setF_otherReg _ _ _ _ _ _ h2, getF_setF_otherReg _ _ _ _ _ _ h1]
  split
  · exact e2
  · split
    · unfold bumpF; rw [getF_setF_otherReg _ _ _ _ _ _ h3]; exact e2
    · rw [getF_writeEntry _ _ _ _ _ _ _ _ _ h4 h5]; exact e2

theorem getF_raiseEvent_pending (c k i p d) (hc : c < 32) : getF (raiseEvent c k i p d) kEvtPending c 1 = 1 := by
  unfold raiseEvent; extract_lets d1 d2 t
  have h1 : getF d1 kEvtPending c 1 = 1 := getF_setF_same _ _ _ _ _ (by omega)
  have h2 : getF d2 kEvtPending c 1 = 1 := by
    simp only [d2]; unfold bumpF; rw [getF_setF_otherReg _ _ _ _ _ _ (by unfold kEvtPending kEvtCount; omega)]; exact h1
  split
  · exact h2
  · split
    · unfold bumpF; rw [getF_setF_otherReg _ _ _ _ _ _ (by unfold kEvtPending kEvtLost; omega)]; exact h2
    · rw [getF_writeEntry _ _ _ _ _ _ _ _ _ (by decide) (by decide)]; exact h2

end Sys2Proof.Machine
end

