-- ==== Sys2Proof/Laws/Links.lean ====
section
/-! SUPPORT. The link layer: what its operations leave of links and of the registers of the CRB block. -/

set_option Elab.async false

namespace Sys2Proof.Machine

/-! One link. -/

@[simp] theorem linkAt_updLink_same (l : Nat) (f : LinkSt → LinkSt) (d : Dev) : linkAt (updLink l f d) l = f (linkAt d l) := tget_tmod_same _ _ _ _
theorem linkAt_updLink_other {l j : Nat} (f : LinkSt → LinkSt) (d : Dev) (h : j ≠ l) : linkAt (updLink l f d) j = linkAt d j := tget_tmod_other _ _ _ h
@[simp] theorem linkAt_regPut (k v : Nat) (d : Dev) (l : Nat) : linkAt (regPut k v d) l = linkAt d l := rfl
@[simp] theorem linkAt_setF (k lo w v : Nat) (d : Dev) (l : Nat) : linkAt (setF k lo w v d) l = linkAt d l := rfl
@[simp] theorem linkAt_bumpF (k lo w n : Nat) (d : Dev) (l : Nat) : linkAt (bumpF k lo w n d) l = linkAt d l := rfl
@[simp] theorem linkAt_emit (o : Out) (d : Dev) (l : Nat) : linkAt (emit o d) l = linkAt d l := rfl
@[simp] theorem regVal_updLink (l : Nat) (f : LinkSt → LinkSt) (d : Dev) (k : Nat) : regVal (updLink l f d) k = regVal d k := rfl
@[simp] theorem getF_updLink (l : Nat) (f : LinkSt → LinkSt) (d : Dev) (k lo w : Nat) : getF (updLink l f d) k lo w = getF d k lo w := rfl

@[simp] theorem updLink_aclk (l : Nat) (f : LinkSt → LinkSt) (d : Dev) : (updLink l f d).aclk = d.aclk := rfl
@[simp] theorem updLink_core (l : Nat) (f : LinkSt → LinkSt) (d : Dev) : (updLink l f d).core = d.core := rfl
@[simp] theorem updLink_mem (l : Nat) (f : LinkSt → LinkSt) (d : Dev) : (updLink l f d).mem = d.mem := rfl

theorem linkAt_crb {b d : Dev} (h : d.crb = b.crb) (l : Nat) : linkAt d l = linkAt b l := by unfold linkAt; rw [h]

theorem linkAt_raiseEvent (c k i : Nat) (p : List Nat) (d : Dev) (l : Nat) : linkAt (raiseEvent c k i p d) l = linkAt d l :=
  linkAt_crb (hostOnly_raiseEvent _ _ _ _ _).crb l

theorem crb_loseSource (d : Dev) : (loseSource d).crb = d.crb := by
  unfold loseSource; dsimp only; split
  · exact (hostOnly_raiseEvent _ _ _ _ _).crb
  · split <;> rfl

theorem crb_reselect (d : Dev) : (reselect d).crb = d.crb := by
  unfold reselect; extract_lets c g l m d1 d2 d3 src
  have : d1.crb = d.crb := by simp only [d1]; split; exact crb_loseSource _; rfl
  exact this

theorem linkAt_reselect (d : Dev) (l : Nat) : linkAt (reselect d) l = linkAt d l := linkAt_crb (crb_reselect d) l

theorem linkAt_tunnelDown {l : Nat} (t : Nat) (d : Dev) (h : l < 8) : linkAt (tunnelDown t d) l = linkAt d l := by
  unfold tunnelDown; rw [linkAt_updLink_other _ _ (by omega), linkAt_setF]

theorem linkAt_tunnelsDown {l : Nat} (p : Nat) (d : Dev) (h : l < 8) : linkAt (tunnelsDown p d) l = linkAt d l :=
  forEach_inv (fun d => linkAt d l) _ _ (fun t d => linkAt_tunnelDown t d h) d

theorem linkAt_sendNotice (p : Nat) (d : Dev) (l : Nat) : linkAt (sendNotice p d) l = linkAt d l := by unfold sendNotice; split <;> rfl

/-! The registers of ports and routes. -/

/-- A register of the CRB block below the tunnels. -/
def crbKey (k : Nat) : Prop := 0x50000 ≤ k ∧ k < 0x52000

theorem crbKey_port (p o : Nat) (h : p < 8) (ho : o < 0x20) : crbKey (kCrbPort p o) := by unfold crbKey kCrbPort; omega

theorem getF_raiseEvent_crb (c k i : Nat) (p : List Nat) (d : Dev) {key : Nat} (lo w : Nat) (h : crbKey key) :
    getF (raiseEvent c k i p d) key lo w = getF d key lo w := by
  obtain ⟨h1, h2⟩ := h
  refine getF_raiseEvent_other _ _ _ _ _ _ _ _ ?_ ?_ ?_ ?_ ?_
  · unfold kEvtPending; omega
  · unfold kEvtCount; omega
  · unfold kEvtLost; omega
  · have : kRing 0 8 0x18 < 0x50000 := by decide
    omega
  · have : kRing 0 8 0x1C < 0x50000 := by decide
    omega

theorem getF_loseSource_crb (d : Dev) {key : Nat} (lo w : Nat) (h : crbKey key) : getF (loseSource d) key lo w = getF d key lo w := by
  have hk : key ≠ kTimStatus := by unfold crbKey at h; unfold kTimStatus; omega
  unfold loseSource; dsimp only; split
  · unfold setTimeState; rw [getF_setF_otherReg _ _ _ _ _ _ hk, getF_raiseEvent_crb _ _ _ _ _ _ _ h]; rfl
  · split
    · unfold setTimeState; rw [getF_setF_otherReg _ _ _ _ _ _ hk]; rfl
    · rfl

theorem getF_reselect_crb (d : Dev) {key : Nat} (lo w : Nat) (h : crbKey key) : getF (reselect d) key lo w = getF d key lo w := by
  have hk : key ≠ kTimStatus := by unfold crbKey at h; unfold kTimStatus; omega
  have hg : key ≠ kTimGm := by unfold crbKey at h; unfold kTimGm; omega
  unfold reselect; extract_lets c g l m d1 d2 d3 src
  have h1 : getF d1 key lo w = getF d key lo w := by simp only [d1]; split; exact getF_loseSource_crb _ _ _ h; rfl
  have h3 : getF d3 key lo w = getF d key lo w := by
    simp only [d3, d2]; rw [getF_regPut_otherReg _ _ _ _ hg, getF_setF_otherReg _ _ _ _ _ _ hk, getF_setF_otherReg _ _ _ _ _ _ hk, h1]
  exact h3

theorem getF_tunnelsDown_crb (p : Nat) (d : Dev) {key : Nat} (lo w : Nat) (h : crbKey key) : getF (tunnelsDown p d) key lo w = getF d key lo w := by
  refine forEach_inv (fun d => getF d key lo w) _ _ (fun t d => ?_) d
  unfold tunnelDown
  rw [getF_updLink]
  exact getF_setF_otherReg _ _ _ _ _ _ (by unfold crbKey at h; unfold kCrbTunnel; omega)

theorem getF_sendNotice (p : Nat) (d : Dev) (k lo w : Nat) : getF (sendNotice p d) k lo w = getF d k lo w := by unfold sendNotice; split <;> rfl

/-! A port goes down (R350). -/

theorem getF_bumpF_same (key lo w n : Nat) (d : Dev) (h : lo + w ≤ 32) : getF (bumpF key lo w n d) key lo w = min (2 ^ w - 1) (getF d key lo w + n) := by
  unfold bumpF; rw [getF_setF_same _ _ _ _ _ h]
  refine Nat.mod_eq_of_lt ?_
  have := Nat.two_pow_pos w
  unfold satAdd; omega

/-- An event leaves the pending bit of every other. -/
theorem getF_raiseEvent_pendingOther (c k i : Nat) (p : List Nat) (d : Dev) (b : Nat) (hc : c < 32) (hb : b < 32) (h : b ≠ c) :
    getF (raiseEvent c k i p d) kEvtPending b 1 = getF d kEvtPending b 1 := by
  unfold raiseEvent; extract_lets d1 d2 t
  have h1 : getF d1 kEvtPending b 1 = getF d kEvtPending b 1 := by
    simp only [d1]
    rcases Nat.lt_or_gt_of_ne h with h | h
    · exact getF_setF_below _ _ _ _ _ _ _ (by omega) (by omega)
    · exact getF_setF_above _ _ _ _ _ _ _ (by omega) (by omega)
  have h2 : getF d2 kEvtPending b 1 = getF d kEvtPending b 1 := by
    simp only [d2]; unfold bumpF; rw [getF_setF_otherReg _ _ _ _ _ _ (by unfold kEvtPending kEvtCount; omega)]; exact h1
  split
  · exact h2
  · split
    · unfold bumpF; rw [getF_setF_otherReg _ _ _ _ _ _ (by decide)]; exact h2
    · rw [getF_writeEntry _ _ _ _ _ _ _ _ _ (by decide) (by decide)]; exact h2

theorem getF_loseSource_pending (d : Dev) : getF (loseSource d) kEvtPending 5 1 = getF d kEvtPending 5 1 := by
  unfold loseSource; dsimp only; split
  · unfold setTimeState; rw [getF_setF_otherReg _ _ _ _ _ _ (by decide), getF_raiseEvent_pendingOther _ _ _ _ _ _ (by decide) (by decide) (by decide)]; rfl
  · split
    · unfold setTimeState; rw [getF_setF_otherReg _ _ _ _ _ _ (by decide)]; rfl
    · rfl

theorem getF_reselect_pending (d : Dev) : getF (reselect d) kEvtPending 5 1 = getF d kEvtPending 5 1 := by
  unfold reselect; extract_lets c g l m d1 d2 d3 src
  have h1 : getF d1 kEvtPending 5 1 = getF d kEvtPending 5 1 := by simp only [d1]; split; exact getF_loseSource_pending _; rfl
  have h3 : getF d3 kEvtPending 5 1 = getF d kEvtPending 5 1 := by
    simp only [d3, d2]; rw [getF_regPut_otherReg _ _ _ _ (by decide), getF_setF_otherReg _ _ _ _ _ _ (by decide), getF_setF_otherReg _ _ _ _ _ _ (by decide), h1]
  exact h3

theorem getF_tunnelsDown_pending (p : Nat) (d : Dev) : getF (tunnelsDown p d) kEvtPending 5 1 = getF d kEvtPending 5 1 := by
  refine forEach_inv (fun d => getF d kEvtPending 5 1) _ _ (fun t d => ?_) d
  unfold tunnelDown
  rw [getF_updLink]
  by_cases h : kEvtPending = kCrbTunnel t
  · rw [h]; exact getF_setF_below _ _ _ _ _ _ _ (by decide) (by decide)
  · exact getF_setF_otherReg _ _ _ _ _ _ h

theorem getF_time (d : Dev) (t : TimeGrp) (k lo w : Nat) : getF { d with time := t } k lo w = getF d k lo w := rfl
theorem linkAt_time (d : Dev) (t : TimeGrp) (l : Nat) : linkAt { d with time := t } l = linkAt d l := rfl

/-- `d` has the cores and the memory of `b`. -/
structure Apart (b d : Dev) : Prop where
  core : d.core = b.core
  mem : d.mem = b.mem

theorem Apart.refl (b : Dev) : Apart b b := ⟨rfl, rfl⟩
theorem Apart.ite {b d e : Dev} {c : Prop} [Decidable c] (h : Apart b d) (g : Apart b e) : Apart b (if c then d else e) := by split <;> assumption
theorem Apart.setF {b : Dev} (k lo w v : Nat) {d : Dev} (h : Apart b d) : Apart b (setF k lo w v d) := ⟨h.core, h.mem⟩
theorem Apart.bumpF {b : Dev} (k lo w v : Nat) {d : Dev} (h : Apart b d) : Apart b (bumpF k lo w v d) := ⟨h.core, h.mem⟩
theorem Apart.regPut {b : Dev} (k v : Nat) {d : Dev} (h : Apart b d) : Apart b (regPut k v d) := ⟨h.core, h.mem⟩
theorem Apart.emit {b : Dev} (o : Out) {d : Dev} (h : Apart b d) : Apart b (emit o d) := ⟨h.core, h.mem⟩
theorem Apart.updLink {b : Dev} (l : Nat) (f : LinkSt → LinkSt) {d : Dev} (h : Apart b d) : Apart b (updLink l f d) := ⟨h.core, h.mem⟩
theorem Apart.time {b : Dev} (t : TimeGrp) {d : Dev} (h : Apart b d) : Apart b { d with time := t } := ⟨h.core, h.mem⟩
theorem Apart.free {b : Dev} (n : Nat) {d : Dev} (h : Apart b d) : Apart b { d with free := n } := ⟨h.core, h.mem⟩
theorem Apart.raiseEvent {b : Dev} (c k i : Nat) (p : List Nat) {d : Dev} (h : Apart b d) : Apart b (raiseEvent c k i p d) :=
  ⟨(hostOnly_raiseEvent _ _ _ _ _).core.trans h.core, (hostOnly_raiseEvent _ _ _ _ _).mem.trans h.mem⟩
theorem Apart.forEach {α : Type} {b : Dev} (l : List α) (f : α → Dev → Dev) (hf : ∀ a d, Apart b d → Apart b (f a d)) {d : Dev} (h : Apart b d) :
    Apart b (Machine.forEach l f d) := by
  induction l generalizing d with
  | nil => exact h
  | cons a l ih => exact ih (hf _ _ h)

theorem Apart.loseSource {b d : Dev} (h : Apart b d) : Apart b (loseSource d) := by
  unfold Machine.loseSource setTimeState; dsimp only
  exact .ite (.setF _ _ _ _ (.raiseEvent _ _ _ _ (.time _ h))) (.ite (.setF _ _ _ _ (.time _ h)) (.time _ h))

theorem Apart.reselect {b d : Dev} (h : Apart b d) : Apart b (reselect d) := by
  unfold Machine.reselect; dsimp only
  exact .time _ (.regPut _ _ (.setF _ _ _ _ (.setF _ _ _ _ (.ite h.loseSource h))))

theorem Apart.tunnelsDown {b d : Dev} (p : Nat) (h : Apart b d) : Apart b (tunnelsDown p d) :=
  .forEach _ _ (fun _ _ h => .updLink _ _ (.setF _ _ _ _ h)) h

theorem Apart.sendNotice {b d : Dev} (p : Nat) (h : Apart b d) : Apart b (sendNotice p d) := by
  unfold Machine.sendNotice
  exact .ite (.emit _ (.free _ h)) h

theorem Apart.linkDown {b d : Dev} (p st : Nat) (n : Bool) (h : Apart b d) : Apart b (linkDown p st n d) := by
  unfold Machine.linkDown
  exact .ite (.reselect (.time _ (.regPut _ _ (.tunnelsDown _ (.updLink _ _ (.raiseEvent _ _ _ _ (.setF _ _ _ _ (.setF _ _ _ _ (.bumpF _ _ _ _
    (.ite (.sendNotice _ h) h)))))))))) (.setF _ _ _ _ h)

/-- What taking a port that is up down leaves. -/
structure WentDown (p st : Nat) (b d : Dev) : Prop where
  state : getF d (kCrbPort p 4) 29 3 = st
  event : getF d (kCrbPort p 4) 28 1 = 1
  raised : getF d kEvtPending 5 1 = 1
  link : linkAt d p = deadLink b.aclk (linkAt b p)
  others : ∀ l, l < 8 → l ≠ p → linkAt d l = linkAt b l
  regs : ∀ k lo w, crbKey k → k ≠ kCrbPort p 4 → getF d k lo w = getF b k lo w

/-- The end of taking a port down: the link, its delay, its tunnels and its advertisement. -/
theorem linkDown_tail (p : Nat) (e : Dev) (hp : p < 8) :
    let d := regPut (kTimHop p) 0 (tunnelsDown p (updLink p (deadLink e.aclk) e))
    let c := reselect { d with time.adverts := tset none d.time.adverts p none }
    (∀ k lo w, crbKey k → getF c k lo w = getF e k lo w) ∧ getF c kEvtPending 5 1 = getF e kEvtPending 5 1 ∧
      linkAt c p = deadLink e.aclk (linkAt e p) ∧ ∀ l, l < 8 → l ≠ p → linkAt c l = linkAt e l := by
  have hh : ∀ k, crbKey k → k ≠ kTimHop p := by intro k hk; unfold crbKey at hk; unfold kTimHop; omega
  have hv : kEvtPending ≠ kTimHop p := by unfold kEvtPending kTimHop; omega
  intro d c
  have hl : ∀ l, l < 8 → linkAt c l = linkAt (updLink p (deadLink e.aclk) e) l := by
    intro l hl; simp only [c, d]; rw [linkAt_reselect, linkAt_time, linkAt_regPut, linkAt_tunnelsDown _ _ hl]
  refine ⟨?_, ?_, ?_, ?_⟩
  · intro k lo w hk; simp only [c, d]; rw [getF_reselect_crb _ _ _ hk, getF_time, getF_regPut_otherReg _ _ _ _ (hh k hk), getF_tunnelsDown_crb _ _ _ _ hk, getF_updLink]
  · simp only [c, d]; rw [getF_reselect_pending, getF_time, getF_regPut_otherReg _ _ _ _ hv, getF_tunnelsDown_pending, getF_updLink]
  · rw [hl p hp, linkAt_updLink_same]
  · intro l h1 h2; rw [hl l h1, linkAt_updLink_other _ _ h2]

theorem linkDown_facts (p st : Nat) (notice : Bool) (b : Dev) (hp : p < 8) (hst : st < 8) (h : linkUp b p = true) : WentDown p st b (linkDown p st notice b) := by
  have hk := crbKey_port p 4 hp (by decide)
  unfold linkDown; rw [if_pos h]
  extract_lets d1 d2 d3 d4
  have a1 : ∀ k lo w, getF d1 k lo w = getF b k lo w := by intro k lo w; simp only [d1]; split; exact getF_sendNotice _ _ _ _ _; rfl
  have l1 : ∀ l, linkAt d1 l = linkAt b l := by intro l; simp only [d1]; split; exact linkAt_sendNotice _ _ _; rfl
  have c1 : d1.aclk = b.aclk := by
    simp only [d1]; split
    · unfold sendNotice; split <;> rfl
    · rfl
  have c2 : d2.aclk = b.aclk := by simp only [d2]; rw [setF_aclk, setF_aclk, bumpF_aclk]; exact c1
  have l2 : ∀ l, linkAt d2 l = linkAt b l := by intro l; simp only [d2]; rw [linkAt_setF, linkAt_setF, linkAt_bumpF, l1]
  have f1 : getF d2 (kCrbPort p 4) 29 3 = st := by simp only [d2]; rw [getF_setF_same _ _ _ _ _ (by decide)]; omega
  have f2 : getF d2 (kCrbPort p 4) 28 1 = 1 := by
    simp only [d2]; rw [getF_setF_below _ _ _ _ _ _ _ (by decide) (by decide), getF_setF_same _ _ _ _ _ (by decide)]; all_goals rfl
  have f3 : ∀ k lo w, k ≠ kCrbPort p 4 → getF d2 k lo w = getF b k lo w := by
    intro k lo w hne; simp only [d2]; unfold bumpF
    rw [getF_setF_otherReg _ _ _ _ _ _ hne, getF_setF_otherReg _ _ _ _ _ _ hne, getF_setF_otherReg _ _ _ _ _ _ hne, a1]
  clear_value d2
  have a3 : ∀ k lo w, crbKey k → getF d3 k lo w = getF d2 k lo w := by intro k lo w hk; exact getF_raiseEvent_crb _ _ _ _ _ _ _ hk
  have e3 : getF d3 kEvtPending 5 1 = 1 := getF_raiseEvent_pending _ _ _ _ _ (by decide)
  have c3 : d3.aclk = b.aclk := (hostOnly_raiseEvent _ _ _ _ _).aclk.trans c2
  have l3 : ∀ l, linkAt d3 l = linkAt b l := by intro l; simp only [d3]; rw [linkAt_raiseEvent, l2]
  clear_value d3
  obtain ⟨t1, t2, t3, t4⟩ := linkDown_tail p d3 hp
  refine ⟨?_, ?_, ?_, ?_, ?_, ?_⟩
  · exact (t1 _ _ _ hk).trans ((a3 _ _ _ hk).trans f1)
  · exact (t1 _ _ _ hk).trans ((a3 _ _ _ hk).trans f2)
  · exact t2.trans e3
  · refine t3.trans ?_; rw [l3, c3]
  · intro l hl hne; exact (t4 l hl hne).trans (l3 l)
  · intro k lo w hk hne; exact (t1 _ _ _ hk).trans ((a3 _ _ _ hk).trans (f3 _ _ _ hne))

/-! Violations (R349). -/

theorem kCrbPort_ne (p : Nat) {a b : Nat} (h : a ≠ b) : kCrbPort p a ≠ kCrbPort p b := by unfold kCrbPort; omega

theorem violate_facts (p row : Nat) (d : Dev) (hp : p < 8) : ∃ e : Dev, (violate p row d = linkDown p 3 true e ∨ violate p row d = e) ∧
    (linkUp d p = true → 15 ≤ ((linkAt d p).viol.filter (fun t => decide (d.aclk < t + 200000))).length → violate p row d = linkDown p 3 true e ∧ linkUp e p = true) ∧
    getF e (kCrbPort p 0xC) 24 8 = row % 256 ∧ getF e (kCrbPort p 0xC) 0 16 = min 65535 (getF d (kCrbPort p 0xC) 0 16 + 1) ∧ e.aclk = d.aclk ∧
    (∀ k lo w, crbKey k → k ≠ kCrbPort p 0xC → getF e k lo w = getF d k lo w) ∧
    (∀ l, ∃ v x y, linkAt e l = { linkAt d l with viol := v, since := x, lastEvt := y }) ∧ ∀ l, l ≠ p → linkAt e l = linkAt d l := by
  have hlp : linkPort d p = p := by unfold linkPort; rw [if_pos hp]
  have hkc := crbKey_port p 0xC hp (by decide)
  have hk4 := crbKey_port p 4 hp (by decide)
  unfold violate; extract_lets p0 d1 now d2 s due d3
  have hp0 : p = p0 := hlp.symm
  clear_value p0; subst hp0
  have r1 : getF d1 (kCrbPort p 0xC) 24 8 = row % 256 := by simp only [d1]; rw [getF_setF_same _ _ _ _ _ (by decide)]; all_goals rfl
  have r2 : getF d1 (kCrbPort p 0xC) 0 16 = min 65535 (getF d (kCrbPort p 0xC) 0 16 + 1) := by
    simp only [d1]; rw [getF_setF_below _ _ _ _ _ _ _ (by decide) (by decide), getF_bumpF_same _ _ _ _ _ (by decide)]; all_goals rfl
  have r3 : ∀ k lo w, k ≠ kCrbPort p 0xC → getF d1 k lo w = getF d k lo w := by
    intro k lo w hne; simp only [d1]; unfold bumpF; rw [getF_setF_otherReg _ _ _ _ _ _ hne, getF_setF_otherReg _ _ _ _ _ _ hne]
  have r4 : d1.aclk = d.aclk := by simp only [d1]; rw [setF_aclk, bumpF_aclk]
  have r5 : ∀ l, linkAt d1 l = linkAt d l := by intro l; simp only [d1]; rw [linkAt_setF, linkAt_bumpF]
  have n1 : now = d.aclk := r4
  have s1 : s.viol = ((linkAt d p).viol.filter (fun t => decide (d.aclk < t + 200000))) ++ [d.aclk] := by simp only [s, d2]; rw [linkAt_updLink_same, r5, n1]
  have s2 : ∃ v x, s = { linkAt d p with viol := v, since := x } := by simp only [s, d2]; rw [linkAt_updLink_same, r5]; exact ⟨_, _, rfl⟩
  have l2 : ∀ l, l ≠ p → linkAt d2 l = linkAt d l := by intro l hl; simp only [d2]; rw [linkAt_updLink_other _ _ hl, r5]
  have g2 : ∀ k lo w, getF d2 k lo w = getF d1 k lo w := by intro k lo w; simp only [d2]; rw [getF_updLink]
  have c2 : d2.aclk = d.aclk := by simp only [d2]; rw [updLink_aclk]; exact r4
  have sl : linkAt d2 p = s := rfl
  clear_value s d2 d1
  have g3 : ∀ k lo w, crbKey k → getF d3 k lo w = getF d1 k lo w := by
    intro k lo w hk; simp only [d3]; split
    · rw [getF_updLink, getF_raiseEvent_crb _ _ _ _ _ _ _ hk, g2]
    · exact g2 _ _ _
  have c3 : d3.aclk = d.aclk := by
    simp only [d3]; split
    · rw [updLink_aclk]; exact (hostOnly_raiseEvent _ _ _ _ _).aclk.trans c2
    · exact c2
  have l3 : ∀ l, l ≠ p → linkAt d3 l = linkAt d l := by
    intro l hl; simp only [d3]; split
    · rw [linkAt_updLink_other _ _ hl, linkAt_raiseEvent, l2 _ hl]
    · exact l2 _ hl
  have l4 : ∃ v x y, linkAt d3 p = { linkAt d p with viol := v, since := x, lastEvt := y } := by
    obtain ⟨v, x, hs⟩ := s2
    simp only [d3]; split
    · rw [linkAt_updLink_same, linkAt_raiseEvent, sl, hs]; exact ⟨_, _, _, rfl⟩
    · rw [sl, hs]; exact ⟨_, _, _, rfl⟩
  clear_value d3
  refine ⟨d3, ?_, ?_, ?_, ?_, c3, ?_, ?_, l3⟩
  · split
    · exact .inl rfl
    · exact .inr rfl
  · intro hu hv
    rw [if_pos (by rw [s1, List.length_append]; simpa using hv)]
    refine ⟨rfl, ?_⟩
    unfold linkUp at hu ⊢; rw [if_pos hp] at hu ⊢
    rw [g3 _ _ _ hk4, r3 _ _ _ (kCrbPort_ne p (by decide))]; exact hu
  · rw [g3 _ _ _ hkc]; exact r1
  · rw [g3 _ _ _ hkc]; exact r2
  · intro k lo w h1 h2; rw [g3 _ _ _ h1, r3 _ _ _ h2]
  · intro l
    by_cases h : l = p
    · rw [h]; exact l4
    · rw [l3 _ h]; exact ⟨_, _, _, rfl⟩

theorem linkDown_not (p st : Nat) (n : Bool) (d : Dev) (h : linkUp d p = false) : linkDown p st n d = setF (kCrbPort p 4) 29 3 st d := by
  unfold linkDown; rw [if_neg (by rw [h]; decide)]

/-- Whole packets that have come stay when a port goes down. -/
theorem rx_linkDown (p st : Nat) (n : Bool) (d : Dev) (hp : p < 8) (hst : st < 8) (l : Nat) (hl : l < 8) :
    (linkAt (linkDown p st n d) l).rx.map (·.bytes) = (linkAt d l).rx.map (·.bytes) := by
  cases hu : linkUp d p
  · rw [linkDown_not _ _ _ _ hu, linkAt_setF]
  · have w := linkDown_facts p st n d hp hst hu
    by_cases h : l = p
    · subst h; rw [w.link]; unfold deadLink; dsimp only; rw [List.map_map]; rfl
    · rw [w.others l hl h]

theorem rx_violate (p row : Nat) (d : Dev) (hp : p < 8) (l : Nat) (hl : l < 8) :
    (linkAt (violate p row d) l).rx.map (·.bytes) = (linkAt d l).rx.map (·.bytes) := by
  obtain ⟨e, h, _, _, _, _, _, hk, _⟩ := violate_facts p row d hp
  obtain ⟨v, x, y, hk⟩ := hk l
  have he : (linkAt e l).rx.map (·.bytes) = (linkAt d l).rx.map (·.bytes) := by rw [hk]
  rcases h with h | h
  · rw [h, rx_linkDown _ _ _ _ hp (by decide) _ hl]; exact he
  · rw [h]; exact he

theorem Apart.violate {b d : Dev} (l row : Nat) (h : Apart b d) : Apart b (violate l row d) := by
  unfold Machine.violate; dsimp only
  refine .ite (.linkDown _ _ _ ?_) ?_ <;>
    exact .ite (.updLink _ _ (.raiseEvent _ _ _ _ (.updLink _ _ (.setF _ _ _ _ (.bumpF _ _ _ _ h))))) (.updLink _ _ (.setF _ _ _ _ (.bumpF _ _ _ _ h)))

end Sys2Proof.Machine
end

