-- ==== Sys2Proof/Laws/Rings.lean ====
section
/-! SUPPORT. What writing a completion or event entry does (R377, R381), said once. -/

set_option Elab.async false

namespace Sys2Proof.Machine

theorem out_setF (k lo w v : Nat) (d : Dev) : (setF k lo w v d).out = d.out := rfl
theorem out_bumpF (k lo w n : Nat) (d : Dev) : (bumpF k lo w n d).out = d.out := rfl
theorem out_updRing (fn r : Nat) (f : RingSt → RingSt) (d : Dev) : (updRing fn r f d).out = d.out := rfl
theorem msix_updRing (fn r : Nat) (f : RingSt → RingSt) (d : Dev) : (updRing fn r f d).host.msixOpen = d.host.msixOpen := rfl
theorem msix_setF (k lo w v : Nat) (d : Dev) : (setF k lo w v d).host.msixOpen = d.host.msixOpen := rfl
theorem ringAt_setF (k lo w v : Nat) (d : Dev) (fn r : Nat) : ringAt (setF k lo w v d) fn r = ringAt d fn r := rfl
theorem ringAt_bumpF (k lo w n : Nat) (d : Dev) (fn r : Nat) : ringAt (bumpF k lo w n d) fn r = ringAt d fn r := rfl
theorem getF_out (o : List Out) (d : Dev) (k lo w : Nat) : getF { d with out := o } k lo w = getF d k lo w := rfl

/-- An update of one ring that leaves its held completions leaves those of every ring. -/
theorem held_updRing (fn r : Nat) (f : RingSt → RingSt) (hf : ∀ x, (f x).held = x.held) (d : Dev) (gn q : Nat) :
    (ringAt (updRing fn r f d) gn q).held = (ringAt d gn q).held := by
  by_cases h : ringKey gn q = ringKey fn r
  · have e : ringAt (updRing fn r f d) gn q = f (ringAt d gn q) := by
      unfold ringAt updRing; rw [h]; exact tget_tmod_same _ _ _ _
    rw [e, hf]
  · have e : ringAt (updRing fn r f d) gn q = ringAt d gn q := by
      unfold ringAt updRing; exact tget_tmod_other _ _ _ h
    rw [e]

theorem held_sendMsix (fn r : Nat) (d : Dev) (gn q : Nat) : (ringAt (sendMsix fn r d) gn q).held = (ringAt d gn q).held := by
  unfold sendMsix; dsimp only; split
  · rfl
  · rw [forEach_inv (fun d => (ringAt d gn q).held) _ _ (fun _ _ => by apply held_updRing; intro _; rfl) _]; rfl

theorem held_signalEntry (fn r : Nat) (i : Bool) (d : Dev) (gn q : Nat) : (ringAt (signalEntry fn r i d) gn q).held = (ringAt d gn q).held := by
  unfold signalEntry; dsimp only; split
  · rw [held_sendMsix]; apply held_updRing; intro _; rfl
  · apply held_updRing; intro _; rfl

/-- The message of a ring's vector, or its pending bit while the vector is masked (R381). -/
theorem out_sendMsix (fn r : Nat) (d : Dev) :
    (sendMsix fn r d).out = d.out ++ (if tget false d.host.msixOpen (4096 * fn + getF d (kRing fn r 0x10) 16 11) then [.msix fn (getF d (kRing fn r 0x10) 16 11)] else []) ∧
    (tget false d.host.msixOpen (4096 * fn + getF d (kRing fn r 0x10) 16 11) = false →
      tget false (sendMsix fn r d).host.msixPend (4096 * fn + getF d (kRing fn r 0x10) 16 11) = true) := by
  unfold sendMsix; dsimp only
  cases h : tget false d.host.msixOpen (4096 * fn + getF d (kRing fn r 0x10) 16 11)
  · simp only [Bool.not_false, if_true, Bool.false_eq_true, if_false]
    exact ⟨by simp, fun _ => tget_tset_same _ _ _ _⟩
  · simp only [Bool.not_true, Bool.false_eq_true, if_false, if_true]
    refine ⟨?_, fun h => by simp at h⟩
    rw [forEach_inv (fun d => d.out) _ _ (fun _ _ => out_updRing _ _ _ _) _]; rfl

/-- Interrupt moderation: whether the message is due after one more entry. -/
theorem out_signalEntry (fn r : Nat) (i : Bool) (d : Dev) :
    let v := getF d (kRing fn r 0x10) 16 11
    let due : Bool := getF d (kRing fn r 0x10) 15 1 == 1 && (i || decide (getF d (kRing fn r 0x14) 0 8 ≤ (ringAt d fn r).unsignalled + 1))
    let isOpen : Bool := tget false d.host.msixOpen (4096 * fn + v)
    (signalEntry fn r i d).out = d.out ++ (if due && isOpen then [.msix fn v] else []) ∧
    (due = true → isOpen = false → tget false (signalEntry fn r i d).host.msixPend (4096 * fn + v) = true) := by
  unfold signalEntry; dsimp only
  simp only [getF_updRing, ringAt_updRing_same]
  generalize (getF d (kRing fn r 0x10) 15 1 == 1 && (i || decide (getF d (kRing fn r 0x14) 0 8 ≤ (ringAt d fn r).unsignalled + 1))) = due
  cases due
  · simp
  · have h := out_sendMsix fn r (updRing fn r (fun rs => { rs with unsignalled := rs.unsignalled + 1, oldest := if rs.unsignalled == 0 then nowNs d else rs.oldest }) d)
    simp only [getF_updRing, out_updRing, msix_updRing] at h
    simp only [if_true, Bool.true_and]
    exact ⟨h.1, fun _ => h.2⟩

/-- An entry: its two writes in order, the message of R381, and the ring moved on. -/
structure Entered (fn r w0 : Nat) (rest : List Nat) (irq : Bool) (b d : Dev) : Prop where
  out : d.out = b.out ++
    [.hostWrite fn (cqBase b fn r + 32 * cqTail b fn r + 4) (rest.flatMap (leBytes 4)),
     .hostWrite fn (cqBase b fn r + 32 * cqTail b fn r) (leBytes 4 (putFld w0 0 1 (getF b (kRing fn r 0x1C) 29 1)))] ++
    (if (getF b (kRing fn r 0x10) 15 1 == 1 && (irq || decide (getF b (kRing fn r 0x14) 0 8 ≤ (ringAt b fn r).unsignalled + 1))) &&
        tget false b.host.msixOpen (4096 * fn + getF b (kRing fn r 0x10) 16 11) then [.msix fn (getF b (kRing fn r 0x10) 16 11)] else [])
  pend : (getF b (kRing fn r 0x10) 15 1 == 1 && (irq || decide (getF b (kRing fn r 0x14) 0 8 ≤ (ringAt b fn r).unsignalled + 1))) = true →
    tget false b.host.msixOpen (4096 * fn + getF b (kRing fn r 0x10) 16 11) = false →
    tget false d.host.msixPend (4096 * fn + getF b (kRing fn r 0x10) 16 11) = true
  tail : cqTail d fn r = (cqTail b fn r + 1) % cqDepth b fn r % 2 ^ 16
  head : sqHead d fn r = sqHead b fn r
  phase : getF d (kRing fn r 0x1C) 29 1 =
    if (cqTail b fn r + 1) % cqDepth b fn r = 0 then (1 - getF b (kRing fn r 0x1C) 29 1) % 2 else getF b (kRing fn r 0x1C) 29 1
  held : (ringAt d fn r).held = (ringAt b fn r).held
  only : HostOnly b d
  regs : ∀ k lo n, k ≠ kRing fn r 0x18 → k ≠ kRing fn r 0x1C → getF d k lo n = getF b k lo n

theorem entered_writeEntry (fn r w0 : Nat) (rest : List Nat) (irq : Bool) (b : Dev) : Entered fn r w0 rest irq b (writeEntry fn r w0 rest irq b) := by
  have ho := hostOnly_writeEntry fn r w0 rest irq b
  have hr := fun k lo n => getF_writeEntry fn r w0 rest irq b k lo n
  revert ho hr
  unfold writeEntry
  extract_lets t a ph d1 d2 t' d3 d4
  intro ho hr
  have ne18 : kRing fn r 0x1C ≠ kRing fn r 0x18 := kRing_ne _ _ _ _ (by decide)
  have o4 : d4.out = b.out ++ [.hostWrite fn (a + 4) (rest.flatMap (leBytes 4)), .hostWrite fn a (leBytes 4 (putFld w0 0 1 ph))] := by
    simp only [d4]; split <;> simp only [out_setF, d3, d2, d1, emit, List.append_assoc] <;> rfl
  have r4 : ringAt d4 fn r = ringAt b fn r := by simp only [d4]; split <;> rfl
  have m4 : d4.host.msixOpen = b.host.msixOpen := by simp only [d4]; split <;> rfl
  have g4 : ∀ k lo n, k ≠ kRing fn r 0x18 → k ≠ kRing fn r 0x1C → getF d4 k lo n = getF b k lo n := by
    intro k lo n h18 h1c
    have h3 : getF d3 k lo n = getF b k lo n := by simp only [d3]; rw [getF_setF_otherReg _ _ _ _ _ _ h18]; rfl
    simp only [d4]; split
    · rw [getF_setF_otherReg _ _ _ _ _ _ h1c, h3]
    · exact h3
  have e10 : ∀ lo n, getF d4 (kRing fn r 0x10) lo n = getF b (kRing fn r 0x10) lo n := fun lo n => g4 _ _ _ (kRing_ne _ _ _ _ (by decide)) (kRing_ne _ _ _ _ (by decide))
  have e14 : ∀ lo n, getF d4 (kRing fn r 0x14) lo n = getF b (kRing fn r 0x14) lo n := fun lo n => g4 _ _ _ (kRing_ne _ _ _ _ (by decide)) (kRing_ne _ _ _ _ (by decide))
  have t4 : ∀ lo n, getF d4 (kRing fn r 0x18) lo n = getF d3 (kRing fn r 0x18) lo n := by
    intro lo n; simp only [d4]; split
    · exact getF_setF_otherReg _ _ _ _ _ _ ne18.symm
    · rfl
  have hs := out_signalEntry fn r irq d4
  simp only [e10, e14, r4, m4, o4] at hs
  refine ⟨hs.1, hs.2, ?_, ?_, ?_, ?_, ho, hr⟩
  · unfold cqTail; rw [getF_signalEntry, t4]; exact getF_setF_same _ _ _ _ _ (by decide)
  · unfold sqHead; rw [getF_signalEntry, t4]; exact getF_setF_above _ _ _ _ _ _ _ (by decide) (by decide)
  · rw [getF_signalEntry]
    have h3 : getF d3 (kRing fn r 0x1C) 29 1 = getF b (kRing fn r 0x1C) 29 1 := getF_setF_otherReg _ _ _ _ _ _ ne18
    have hb : (t' == 0) = decide ((cqTail b fn r + 1) % cqDepth b fn r = 0) := rfl
    simp only [d4]
    by_cases h : (cqTail b fn r + 1) % cqDepth b fn r = 0
    · rw [if_pos h, if_pos (by rw [hb]; simpa using h)]; exact getF_setF_same _ _ _ _ _ (by decide)
    · rw [if_neg h, if_neg (by rw [hb]; simpa using h)]; exact h3
  · rw [held_signalEntry, r4]

end Sys2Proof.Machine
end

