-- ==== Sys2Proof/Laws/Commands.lean ====
section
/-! SUPPORT. How a command ends, once for each shared form: a guarded command, a descriptor's command, a packet at the head of a link,
a parameter block that is read and vetted; and the units, engines and bytes behind their operations. -/

set_option Elab.async false

namespace Sys2Proof.Machine

/-! Commands with a condition. -/

theorem whenDev_go {ok : Bool} {w : String} {d : Dev} {s : State} (h : ok = true) : whenDev ok w d s = s.goes d := by
  unfold whenDev; rw [if_pos h]

theorem onDesc_go {uid fn op : Nat} {f : Desc → Dev → Dev} {s : State} {x : Desc} (h : cmdDesc s.dev uid fn op = some x) :
    onDesc uid fn op f s = s.goes (f x s.dev) := by
  unfold onDesc; rw [h]; exact whenDev_go rfl

theorem rxHeadPkt_of_rx {l : Nat} {d : Dev} {r : RxPkt} {rs : List RxPkt} (h : (linkAt d l).rx = r :: rs) : rxHeadPkt d l = some r := by
  unfold rxHeadPkt; rw [h]; rfl

theorem pktStep_go (l type : Nat) (f : RxPkt → Pkt → Dev → Dev) (s : State) (r : RxPkt) (rs : List RxPkt) (h : (linkAt s.dev l).rx = r :: rs)
    (ht : (pktOf r.bytes).type = type) : pktStep l type f s = s.goes (f r (pktOf r.bytes) (popRx l s.dev)) := by
  unfold pktStep; dsimp only; rw [rxHeadPkt_of_rx h]; dsimp only; exact whenDev_go (by simp [ht])

/-! Instructions. -/

theorem withBlock_ok {x : Site} {f : FmtU} {n : Nat} {body : List Nat → Dev → Issued} {d : Dev} (h : paramOk d x f n = true) :
    withBlock x f n body d = body (paramWords d x f n) (drawFree d) := by
  simp only [paramOk, Bool.and_eq_true, decide_eq_true_eq, beq_iff_eq] at h
  unfold withBlock
  simp only [Nat.not_lt.mpr h.1, if_false]
  rw [if_neg (by simp [h.2])]
  rfl

theorem vet_ok {sl legal ranges aligned body} (h : vetted sl legal ranges aligned = true) : vet sl legal ranges aligned body = body := by
  simp only [vetted, Bool.and_eq_true, List.all_eq_true, beq_iff_eq] at h
  unfold vet
  rw [if_neg (by simp [h.1.1])]
  have h1 : ranges.find? (fun r => !rngOk sl r) = none := by
    rw [List.find?_eq_none]; intro r hr; simp [h.1.2 r hr]
  have h2 : aligned.find? (fun p => p.1 % p.2 != 0) = none := by
    rw [List.find?_eq_none]; intro r hr; simp [h.2 r hr]
  simp only [h1, h2]

/-- An instruction whose effect is on its slot alone. -/
theorem issue_slot {x : Site} {g : Guard} {insn : W64} {enc : Bool} {body : Dev → Issued} {s : State} (f : SlotSt → SlotSt)
    (h : takes s.dev x g = true) (he : enc = true) (hb : body s.dev = .done (updSlot (siteKey x) f s.dev))
    (hpc : (f (slotAt s.dev (siteKey x))).pc = (slotAt s.dev (siteKey x)).pc) :
    ∃ t, issue x g insn enc body s = .next t ∧ SlotOnly s t (siteKey x) (retired (f (slotAt s.dev (siteKey x)))) :=
  ⟨_, issue_done h he hb, slotOnly_retire _ _ _ hpc⟩

/-! Units, looms, engines and the Quire path of a core after one of them is updated. -/

@[simp] theorem loomAt_updLoom_same (k : Nat) (f : LoomSt → LoomSt) (d : Dev) : loomAt (updLoom k f d) k = f (loomAt d k) := tget_tmod_same _ _ _ _
theorem loomAt_updLoom_other {j k : Nat} (f : LoomSt → LoomSt) (d : Dev) (h : j ≠ k) : loomAt (updLoom k f d) j = loomAt d j :=
  tget_tmod_other _ _ _ h
@[simp] theorem unitAt_updUnit_same (k : Nat) (f : UnitSt → UnitSt) (d : Dev) : unitAt (updUnit k f d) k = f (unitAt d k) := tget_tmod_same _ _ _ _
theorem unitAt_updUnit_other {j k : Nat} (f : UnitSt → UnitSt) (d : Dev) (h : j ≠ k) : unitAt (updUnit k f d) j = unitAt d j :=
  tget_tmod_other _ _ _ h
@[simp] theorem engAt_updEng_same (k : Nat) (f : StrmSt → StrmSt) (d : Dev) : engAt (updEng k f d) k = f (engAt d k) := tget_tmod_same _ _ _ _
theorem engAt_updEng_other {j k : Nat} (f : StrmSt → StrmSt) (d : Dev) (h : j ≠ k) : engAt (updEng k f d) j = engAt d j :=
  tget_tmod_other _ _ _ h
@[simp] theorem quireAt_updQuire_same (k : Nat) (f : QuireSt → QuireSt) (d : Dev) : quireAt (updQuire k f d) k = f (quireAt d k) :=
  tget_tmod_same _ _ _ _
theorem slotAt_of_slots {b d : Dev} (h : d.core.slots = b.core.slots) (k : Nat) : slotAt d k = slotAt b k := by unfold slotAt; rw [h]

/-! Runs of a stream engine. -/

theorem findRun_mapRun {p : StrmRun → Bool} {g : StrmRun → StrmRun} {l : List StrmEntry} {r : StrmRun} (h : findRun p l = some r)
    (hp : p (g r) = true) : findRun p (mapRun p g l) = some (g r) := by
  induction l with
  | nil => exact absurd h (by simp [findRun])
  | cons e l ih =>
    cases e with
    | cancel q => simp only [findRun, mapRun] at h ⊢; exact ih h
    | desc x =>
      simp only [findRun, mapRun] at h ⊢
      by_cases hx : p x = true
      · rw [if_pos hx] at h; rw [if_pos hx]; simp only [findRun]
        cases h; rw [if_pos hp]
      · rw [if_neg hx] at h; rw [if_neg hx]; simp only [findRun]; rw [if_neg hx]; exact ih h

/-! Bytes. -/

theorem mem_upFrom {lo n c : Nat} : c ∈ upFrom lo n → lo ≤ c ∧ c < lo + n := by
  induction n generalizing lo with
  | zero => intro h; cases h
  | succ n ih =>
    intro h; unfold upFrom at h
    rcases List.mem_cons.mp h with h | h
    · omega
    · have := ih h; omega

/-- A run of a table that has been written, read back from inside it. -/
theorem map_tget_tsetRun (z : Byte) (t : Tbl Byte) (a : Nat) (bs : List Byte) (n m : Nat) (h : m + n ≤ bs.length) :
    (upFrom (a + m) n).map (tget z (tsetRun z t a bs)) = (bs.drop m).take n := by
  induction n generalizing m with
  | zero => rfl
  | succ n ih =>
    have hd : bs.drop m = bs[m]'(by omega) :: bs.drop (m + 1) := by rw [List.drop_eq_getElem_cons]
    simp only [upFrom, List.map_cons]
    rw [tget_tsetRun, if_pos (by omega), show a + m + 1 = a + (m + 1) by omega, ih (m + 1) (by omega), hd]
    simp only [List.take_succ_cons]
    congr 1
    rw [show a + m - a = m by omega]
    simp [List.getD_eq_getElem?_getD, show m < bs.length by omega]

theorem tgetRun_tsetRun (z : Byte) (t : Tbl Byte) (a : Nat) (bs : List Byte) (n : Nat) (h : n ≤ bs.length) :
    tgetRun z (tsetRun z t a bs) a n = bs.take n := by
  have := map_tget_tsetRun z t a bs n 0 (by omega)
  simpa [tgetRun] using this

/-- Memory gives back the bytes written. -/
theorem rdMem_wrMem (a : Nat) (bs : List Byte) (d : Dev) : rdMem (wrMem a bs d) a bs.length = bs := by
  unfold rdMem wrMem
  rw [tgetRun_tsetRun _ _ _ _ _ (Nat.le_refl _), List.take_length]

theorem length_words (l : List Nat) : (l.flatMap (leBytes 4)).length = 4 * l.length := by
  induction l with
  | nil => rfl
  | cons a l ih => simp only [List.flatMap_cons, List.length_append, ih, List.length_cons]; rw [show (leBytes 4 a).length = 4 from rfl]; omega

end Sys2Proof.Machine
end

