-- ==== Sys2Proof/Laws/Flits.lean ====
section
/-! SUPPORT. Flits: their CRC is a word of 32 bits, and a flit that is built is good. -/

set_option Elab.async false

namespace Sys2Proof.Machine

/-- A number read from its little-endian bytes. -/
theorem leNat_leBytes (n x : Nat) : leNat (leBytes n x) = x % 256 ^ n := by
  induction n generalizing x with
  | zero => simp [leBytes, leNat, Nat.mod_one]
  | succ n ih =>
    have h : 256 ^ (n + 1) = 256 * 256 ^ n := by rw [Nat.pow_succ, Nat.mul_comm]
    simp only [leBytes, leNat, ih, BitVec.toNat_ofNat]
    rw [h, Nat.mod_mul]

theorem crcBit_lt {p c : Nat} (hp : p < 2 ^ 32) (hc : c < 2 ^ 32) : crcBit p c < 2 ^ 32 := by
  unfold crcBit
  split
  · exact Nat.xor_lt_two_pow (by omega) hp
  · omega

theorem crcByte_lt {p c : Nat} (b : Byte) (hp : p < 2 ^ 32) (hc : c < 2 ^ 32) : crcByte p c b < 2 ^ 32 := by
  have hb : b.toNat < 2 ^ 32 := by have := b.isLt; omega
  unfold crcByte
  iterate 8 refine crcBit_lt hp ?_
  exact Nat.xor_lt_two_pow hc hb

theorem crcOf_lt {p : Nat} (bs : List Byte) (hp : p < 2 ^ 32) : crcOf p bs < 2 ^ 32 := by
  have h (l : List Byte) (c : Nat) (hc : c < 2 ^ 32) : l.foldl (crcByte p) c < 2 ^ 32 := by
    induction l generalizing c with
    | nil => exact hc
    | cons b l ih => exact ih _ (crcByte_lt b hp hc)
  exact Nat.xor_lt_two_pow (h bs _ (by decide)) (by decide)

theorem crc32c_lt (bs : List Byte) : crc32c bs < 2 ^ 32 := crcOf_lt bs (by decide)

/-- Bytes with the word x after them. -/
theorem bytesNat_tail (body : List Byte) (x : Nat) : bytesNat (body ++ leBytes 4 x) body.length 4 = x % 2 ^ 32 := by
  unfold bytesNat
  rw [List.drop_left, List.take_of_length_le (Nat.le_of_eq (length_leBytes _ _)), leNat_leBytes]; all_goals rfl

theorem length_buildFlit (kind vl sop eop seq acks : Nat) (payload : List Byte) (h : payload.length ≤ 244) :
    (buildFlit kind vl sop eop seq acks payload).length = 256 := by
  unfold buildFlit
  simp only [List.length_append, List.length_replicate, length_leBytes]; omega

/-- 252 bytes with a word after them are a good flit if, and only if, the word is their CRC. -/
theorem flitGood_crc (body : List Byte) (x : Nat) (h : body.length = 252) :
    flitGood (body ++ leBytes 4 x) = (x % 2 ^ 32 == crc32c body) := by
  unfold flitGood
  have h1 := bytesNat_tail body x
  rw [h] at h1
  have h2 : (body ++ leBytes 4 x).take 252 = body := by rw [← h, List.take_left]
  rw [h1, h2, List.length_append, length_leBytes, h]
  simp

theorem flitGood_buildFlit (kind vl sop eop seq acks : Nat) (payload : List Byte) (h : payload.length ≤ 244) :
    flitGood (buildFlit kind vl sop eop seq acks payload) = true := by
  unfold buildFlit
  rw [flitGood_crc _ _ (by simp only [List.length_append, List.length_replicate, length_leBytes]; omega)]
  rw [Nat.mod_eq_of_lt (crc32c_lt _)]
  simp

/-- A flit whose CRC field is off by one. -/
theorem flitGood_wrong (body : List Byte) (h : body.length = 252) : flitGood (body ++ leBytes 4 (crc32c body + 1)) = false := by
  rw [flitGood_crc _ _ h]
  have := crc32c_lt body
  simp only [beq_eq_false_iff_ne, ne_eq]
  omega

theorem ctrlCode_of {f : List Byte} {c : Nat} (h1 : flitGood f = true) (h2 : flitKind f = 2) (h3 : bytesNat f 8 1 = c)
    (h4 : (ctrlLen c).isSome = true) : ctrlCode f = some c := by
  unfold ctrlCode; simp [h1, h2, h3, h4]

end Sys2Proof.Machine
end

