-- ==== Sys2Proof/Laws/Kept.lean ====
section
/-! SUPPORT. What every operation of the block keeps (Safety.lean, Kept): the lemmas of the operations that write a part it
speaks of, and how a lemma of an operation follows from those of the operations it calls. -/

set_option Elab.async false

namespace Sys2Proof.Machine

/-- What an issued instruction keeps. -/
def KeptI (b : Dev) : Issued → Prop
  | .done d => Kept b d
  | .jump d _ => Kept b d
  | .exc _ _ => True
  | .wait _ d => Kept b d
  | .full => True

/-- What a command that acts in `s` keeps: the commands that wait stay as they are. -/
structure KeptO (b : Dev) (s : State) (o : Host.Outcome State Fault Refusal) : Prop where
  next : ∀ t, o = .next t → Kept b t.dev
  queue : ∀ t, o = .next t → t.pending = s.pending

/-- What an operation that also answers something keeps. -/
structure KeptP (b : Dev) {α : Type} (x : α × Dev) : Prop where
  snd : Kept b x.2

theorem Kept.refl (d : Dev) : Kept d d := ⟨id, id, id, id, List.prefix_rfl, fun _ => Nat.le_refl _, List.prefix_rfl, rfl⟩

theorem Kept.trans {a b c : Dev} (h : Kept a b) (g : Kept b c) : Kept a c :=
  ⟨g.mem ∘ h.mem, g.regs ∘ h.regs, g.sems ∘ h.sems, g.retOk ∘ h.retOk, h.ret.trans g.ret,
    fun n => Nat.le_trans (h.counters n) (g.counters n), h.out.trans g.out, g.aclk.trans h.aclk⟩

/-- An update of other fields. -/
theorem Kept.same {b d : Dev} {aclk free nextId out mem regs latch core strm ddr live time host sess felt crb boot pwr press}
    (h : Kept b d) (h1 : aclk = d.aclk) (h2 : out = d.out) (h3 : mem = d.mem) (h4 : regs = d.regs) (h5 : core.sems = d.core.sems)
    (h6 : ddr.retired = d.ddr.retired) (h7 : boot.rpmc = d.boot.rpmc) :
    Kept b (Dev.mk aclk free nextId out mem regs latch core strm ddr live time host sess felt crb boot pwr press) := by
  obtain ⟨a1, a2, a3, a4, a5, a6, a7, a8⟩ := h
  subst h1 h2 h3 h4
  exact ⟨a1, a2, by rw [h5]; exact a3, by rw [h6]; exact a4, by rw [h6]; exact a5, by rw [h7]; exact a6, a7, a8⟩

theorem Kept.ite {b : Dev} {c : Prop} [Decidable c] {x y : Dev} (hx : Kept b x) (hy : Kept b y) : Kept b (if c then x else y) := by
  split <;> assumption

theorem KeptI.ite {b : Dev} {c : Prop} [Decidable c] {x y : Issued} (hx : KeptI b x) (hy : KeptI b y) : KeptI b (if c then x else y) := by
  split <;> assumption

theorem KeptO.ite {b : Dev} {s : State} {c : Prop} [Decidable c] {x y : Host.Outcome State Fault Refusal} (hx : KeptO b s x)
    (hy : KeptO b s y) : KeptO b s (if c then x else y) := by
  split <;> assumption

theorem KeptI.done {b d : Dev} (h : Kept b d) : KeptI b (.done d) := h

theorem KeptI.jump {b d : Dev} {t : BitVec 24} (h : Kept b d) : KeptI b (.jump d t) := h

theorem KeptI.wait {b d : Dev} {o : Hold} (h : Kept b d) : KeptI b (.wait o d) := h

theorem KeptI.exc {b : Dev} {c a : Nat} : KeptI b (.exc c a) := trivial

theorem KeptI.full {b : Dev} : KeptI b .full := trivial

theorem Kept.foldl {b : Dev} {α : Type} (l : List α) (f : Dev → α → Dev) (hf : ∀ a d, Kept b d → Kept b (f d a)) {d : Dev} (h : Kept b d) :
    Kept b (l.foldl f d) := by
  induction l generalizing d with
  | nil => exact h
  | cons a l ih => exact ih (hf a d h)

theorem kept_forEach {b : Dev} {α : Type} (l : List α) (f : α → Dev → Dev) (hf : ∀ a d, Kept b d → Kept b (f a d)) {d : Dev} (h : Kept b d) :
    Kept b (forEach l f d) := Kept.foldl l _ hf h

theorem KeptP.ite {b : Dev} {α : Type} {c : Prop} [Decidable c] {x y : α × Dev} (hx : KeptP b x) (hy : KeptP b y) :
    KeptP b (if c then x else y) := by
  split <;> assumption

theorem KeptP.pair {b d : Dev} {α : Type} {a : α} (h : Kept b d) : KeptP b (a, d) := ⟨h⟩

theorem KeptP.of_eq {b : Dev} {α : Type} {p : α × Dev} {a : α} {d : Dev} (h : KeptP b p) (e : p = (a, d)) : Kept b d := by
  have g := h.snd
  rw [e] at g; exact g

theorem kept_regPut {b : Dev} (k v : Nat) {d : Dev} (h : Kept b d) : Kept b (regPut k v d) :=
  ⟨h.mem, fun g => twf_tset _ _ (h.regs g), h.sems, h.retOk, h.ret, h.counters, h.out, h.aclk⟩

theorem kept_emit {b : Dev} (o : Out) {d : Dev} (h : Kept b d) : Kept b (emit o d) :=
  ⟨h.mem, h.regs, h.sems, h.retOk, h.ret, h.counters, h.out.trans (List.prefix_append _ _), h.aclk⟩

theorem kept_wrMem {b : Dev} (a : Nat) (bs : List Byte) {d : Dev} (h : Kept b d) : Kept b (wrMem a bs d) :=
  ⟨fun g => twf_tsetRun _ _ (h.mem g), h.regs, h.sems, h.retOk, h.ret, h.counters, h.out, h.aclk⟩

theorem kept_zeroMem {b : Dev} (a n : Nat) {d : Dev} (h : Kept b d) : Kept b (zeroMem a n d) :=
  by
  refine ⟨fun g => ?_, h.regs, h.sems, h.retOk, h.ret, h.counters, h.out, h.aclk⟩
  unfold zeroMem Memory.wf
  exact twf_tclear (fun k => decide (a ≤ k) && decide (k < a + n)) (h.mem g)

theorem kept_regResetIf {b : Dev} (p : Nat → Bool) {d : Dev} (h : Kept b d) : Kept b (regResetIf p d) :=
  ⟨h.mem, fun g => twf_tclear _ (h.regs g), h.sems, h.retOk, h.ret, h.counters, h.out, h.aclk⟩

theorem semsOk_filter {t : Tbl Nat} (p : Nat × Nat → Bool) (h : semsOk t = true) : semsOk (t.filter p) = true := by
  simp only [semsOk, Bool.and_eq_true, List.all_eq_true] at h ⊢
  exact ⟨twf_filter p h.1, fun e he => h.2 e (List.mem_filter.mp he).1⟩

theorem semsOk_tset {t : Tbl Nat} (k v : Nat) (hv : v ≤ 65535) (h : semsOk t = true) : semsOk (tset 0 t k v) = true := by
  simp only [semsOk, Bool.and_eq_true, List.all_eq_true] at h ⊢
  refine ⟨twf_tset k v h.1, fun e he => ?_⟩
  unfold tset at he
  split at he
  · exact h.2 e (List.mem_filter.mp he).1
  · rcases mem_tput he with rfl | he
    · simpa using hv
    · exact h.2 e he

theorem kept_semSet {b : Dev} (core q v : Nat) {d : Dev} (h : Kept b d) : Kept b (semSet core q v d) :=
  ⟨h.mem, h.regs, fun g => semsOk_tset _ _ (Nat.min_le_left _ _) (h.sems g), h.retOk, h.ret, h.counters, h.out, h.aclk⟩

theorem kept_whenDev {b : Dev} (ok : Bool) (why : String) {d : Dev} (s : State) (h : Kept b d) : KeptO b s (whenDev ok why d s) := by
  unfold whenDev
  split
  · exact ⟨fun t ht => by cases ht; exact h, fun t ht => by cases ht; rfl⟩
  · exact ⟨fun t ht => (by cases ht), fun t ht => (by cases ht)⟩

end Sys2Proof.Machine
end

