-- ==== Sys2Proof/Laws/KeptCore.lean ====
section
/-! SUPPORT. What the operations of registers, rings, queues, the Felt, links, collectives, sessions and issue keep
(Safety.lean, Kept). -/

set_option Elab.async false

namespace Sys2Proof.Machine

theorem kept_setF {b : Dev} : ∀ key lo w v (d : Dev), Kept b d → Kept b (setF key lo w v d) := by
  intro key lo w v d h
  unfold setF
  repeat' first
    | with_reducible first
      | assumption | apply kept_regPut

theorem kept_bumpF {b : Dev} : ∀ key lo w n (d : Dev), Kept b d → Kept b (bumpF key lo w n d) := by
  intro key lo w n d h
  unfold bumpF
  repeat' first
    | with_reducible first
      | assumption | apply kept_setF

theorem kept_drawFree {b : Dev} : ∀ (d : Dev), Kept b d → Kept b (drawFree d) := by
  intro d h
  unfold drawFree
  repeat' first
    | with_reducible first
      | assumption | apply Kept.ite
    | refine Kept.same ?_ rfl rfl rfl rfl rfl rfl rfl

theorem kept_semPost {b : Dev} : ∀ core q n (d : Dev), Kept b d → Kept b (semPost core q n d) := by
  intro core q n d h
  unfold semPost
  repeat' first
    | with_reducible first
      | assumption | apply Kept.ite | apply kept_semSet
    | dsimp only | refine Kept.same ?_ rfl rfl rfl rfl rfl rfl rfl

theorem kept_semTake {b : Dev} : ∀ core q n (d : Dev), Kept b d → Kept b (semTake core q n d) := by
  intro core q n d h
  unfold semTake
  repeat' first
    | with_reducible first
      | assumption | apply kept_semSet

theorem kept_postOpt {b : Dev} : ∀ core q (d : Dev), Kept b d → Kept b (postOpt core q d) := by
  intro core q d h
  unfold postOpt
  repeat' first
    | with_reducible first
      | assumption | apply kept_semPost
    | split

theorem kept_updSlot {b : Dev} : ∀ k f (d : Dev), Kept b d → Kept b (updSlot k f d) := by
  intro k f d h
  unfold updSlot
  repeat' first
    | with_reducible first
      | assumption
    | dsimp only | refine Kept.same ?_ rfl rfl rfl rfl rfl rfl rfl

theorem kept_raiseSlot {b : Dev} : ∀ k f (d : Dev), Kept b d → Kept b (raiseSlot k f d) := by
  intro k f d h
  unfold raiseSlot
  repeat' first
    | with_reducible first
      | assumption | apply kept_updSlot

theorem kept_updRing {b : Dev} : ∀ fn r f (d : Dev), Kept b d → Kept b (updRing fn r f d) := by
  intro fn r f d h
  unfold updRing
  repeat' first
    | with_reducible first
      | assumption
    | dsimp only | refine Kept.same ?_ rfl rfl rfl rfl rfl rfl rfl

theorem kept_sendMsix {b : Dev} : ∀ fn r (d : Dev), Kept b d → Kept b (sendMsix fn r d) := by
  intro fn r d h
  unfold sendMsix
  repeat' first
    | with_reducible first
      | assumption | apply Kept.ite | apply kept_emit | apply kept_forEach | apply kept_updRing
    | (intro _) | dsimp only | refine Kept.same ?_ rfl rfl rfl rfl rfl rfl rfl

theorem kept_signalEntry {b : Dev} : ∀ fn r irq (d : Dev), Kept b d → Kept b (signalEntry fn r irq d) := by
  intro fn r irq d h
  unfold signalEntry
  repeat' first
    | with_reducible first
      | assumption | apply Kept.ite | apply kept_updRing | apply kept_sendMsix

theorem kept_writeEntry {b : Dev} : ∀ fn r w0 rest irq (d : Dev), Kept b d → Kept b (writeEntry fn r w0 rest irq d) := by
  intro fn r w0 rest irq d h
  unfold writeEntry
  repeat' first
    | with_reducible first
      | assumption | apply Kept.ite | apply kept_emit | apply kept_setF | apply kept_signalEntry

theorem kept_writeCpl {b : Dev} : ∀ fn r c (d : Dev), Kept b d → Kept b (writeCpl fn r c d) := by
  intro fn r c d h
  unfold writeCpl
  repeat' first
    | with_reducible first
      | assumption | apply kept_writeEntry

theorem kept_noteCqWait {b : Dev} : ∀ fn r (d : Dev), Kept b d → Kept b (noteCqWait fn r d) := by
  intro fn r d h
  unfold noteCqWait
  repeat' first
    | with_reducible first
      | assumption | apply kept_bumpF | apply kept_setF

theorem kept_postCpl {b : Dev} : ∀ fn r c (d : Dev), Kept b d → Kept b (postCpl fn r c d) := by
  intro fn r c d h
  unfold postCpl
  repeat' first
    | with_reducible first
      | assumption | apply Kept.ite | apply kept_noteCqWait | apply kept_updRing | apply kept_writeCpl

theorem kept_flushHeld {b : Dev} (x1 x2 : Nat) (l : List Cpl) : ∀ (d : Dev), Kept b d → Kept b (flushHeld x1 x2 l d) := by
  induction l with
  | nil => intro d h; exact kept_updRing _ _ _ _ h
  | cons c l ih =>
    intro d h
    unfold flushHeld
    exact Kept.ite (kept_updRing _ _ _ _ h) (ih _ (kept_writeCpl _ _ _ _ h))

theorem kept_raiseEvent {b : Dev} : ∀ code kind index payload (d : Dev), Kept b d → Kept b (raiseEvent code kind index payload d) := by
  intro code kind index payload d h
  unfold raiseEvent
  repeat' first
    | with_reducible first
      | assumption | apply Kept.ite | apply kept_setF | apply kept_bumpF | apply kept_writeEntry

theorem kept_updLoom {b : Dev} : ∀ k f (d : Dev), Kept b d → Kept b (updLoom k f d) := by
  intro k f d h
  unfold updLoom
  repeat' first
    | with_reducible first
      | assumption
    | dsimp only | refine Kept.same ?_ rfl rfl rfl rfl rfl rfl rfl

theorem kept_updUnit {b : Dev} : ∀ k f (d : Dev), Kept b d → Kept b (updUnit k f d) := by
  intro k f d h
  unfold updUnit
  repeat' first
    | with_reducible first
      | assumption
    | dsimp only | refine Kept.same ?_ rfl rfl rfl rfl rfl rfl rfl

theorem kept_updEng {b : Dev} : ∀ k f (d : Dev), Kept b d → Kept b (updEng k f d) := by
  intro k f d h
  unfold updEng
  repeat' first
    | with_reducible first
      | assumption
    | dsimp only | refine Kept.same ?_ rfl rfl rfl rfl rfl rfl rfl

theorem kept_updQuire {b : Dev} : ∀ core f (d : Dev), Kept b d → Kept b (updQuire core f d) := by
  intro core f d h
  unfold updQuire
  repeat' first
    | with_reducible first
      | assumption
    | dsimp only | refine Kept.same ?_ rfl rfl rfl rfl rfl rfl rfl

theorem kept_resetLink {b : Dev} : ∀ core lk isSource mcast remote mask (d : Dev), Kept b d → Kept b (resetLink core lk isSource mcast remote mask d) := by
  intro core lk isSource mcast remote mask d h
  unfold resetLink
  repeat' first
    | with_reducible first
      | assumption | apply Kept.ite | apply kept_semSet | apply kept_forEach
    | (intro _)

theorem kept_resetLinks {b : Dev} : ∀ core b0 (d : Dev), Kept b d → Kept b (resetLinks core b0 d) := by
  intro core b0 d h
  unfold resetLinks
  repeat' first
    | with_reducible first
      | assumption | apply Kept.ite | apply kept_resetLink

theorem kept_cancelEngine {b : Dev} : ∀ core e slot (d : Dev), Kept b d → Kept b (cancelEngine core e slot d) := by
  intro core e slot d h
  unfold cancelEngine
  repeat' first
    | with_reducible first
      | assumption | apply kept_resetLinks | apply kept_updEng
    | dsimp only | split | refine Kept.same ?_ rfl rfl rfl rfl rfl rfl rfl

theorem kept_cancelQuire {b : Dev} : ∀ core slot (d : Dev), Kept b d → Kept b (cancelQuire core slot d) := by
  intro core slot d h
  unfold cancelQuire
  repeat' first
    | with_reducible first
      | assumption | apply kept_updQuire
    | dsimp only | refine Kept.same ?_ rfl rfl rfl rfl rfl rfl rfl

theorem kept_cancelStreams {b : Dev} : ∀ core slot (d : Dev), Kept b d → Kept b (cancelStreams core slot d) := by
  intro core slot d h
  unfold cancelStreams
  repeat' first
    | with_reducible first
      | assumption | apply kept_cancelQuire | apply kept_forEach | apply kept_cancelEngine
    | (intro _)

theorem kept_discardQueues {b : Dev} : ∀ core slot (d : Dev), Kept b d → Kept b (discardQueues core slot d) := by
  intro core slot d h
  unfold discardQueues
  repeat' first
    | with_reducible first
      | assumption | apply kept_forEach | apply kept_updLoom | apply kept_updUnit
    | (intro _)

theorem kept_keepStatus {b : Dev} : ∀ k st info (d : Dev), Kept b d → Kept b (keepStatus k st info d) := by
  intro k st info d h
  unfold keepStatus
  repeat' first
    | with_reducible first
      | assumption | apply Kept.ite
    | dsimp only | refine Kept.same ?_ rfl rfl rfl rfl rfl rfl rfl

theorem kept_mapDesc {b : Dev} : ∀ uid f (d : Dev), Kept b d → Kept b (mapDesc uid f d) := by
  intro uid f d h
  unfold mapDesc
  repeat' first
    | with_reducible first
      | assumption
    | dsimp only | refine Kept.same ?_ rfl rfl rfl rfl rfl rfl rfl

theorem kept_freeGate {b : Dev} : ∀ (d : Dev), Kept b d → Kept b (freeGate d) := by
  intro d h
  unfold freeGate
  repeat' first
    | with_reducible first
      | assumption | apply Kept.ite | apply kept_forEach | apply kept_updRing
    | (intro _)

theorem kept_dropDescs {b : Dev} : ∀ p (d : Dev), Kept b d → Kept b (dropDescs p d) := by
  intro p d h
  unfold dropDescs
  repeat' first
    | with_reducible first
      | assumption | apply kept_freeGate
    | dsimp only | refine Kept.same ?_ rfl rfl rfl rfl rfl rfl rfl

theorem kept_finishDesc {b : Dev} : ∀ x st res (d : Dev), Kept b d → Kept b (finishDesc x st res d) := by
  intro x st res d h
  unfold finishDesc
  repeat' first
    | with_reducible first
      | assumption | apply kept_postCpl | apply kept_dropDescs

theorem kept_finishFlags {b : Dev} : ∀ x st f res (d : Dev), Kept b d → Kept b (finishFlags x st f res d) := by
  intro x st f res d h
  unfold finishFlags
  repeat' first
    | with_reducible first
      | assumption | apply kept_postCpl | apply kept_dropDescs

theorem kept_cancelWaiting {b : Dev} : ∀ p (d : Dev), Kept b d → Kept b (cancelWaiting p d) := by
  intro p d h
  unfold cancelWaiting
  repeat' first
    | with_reducible first
      | assumption | apply kept_forEach | apply kept_finishDesc
    | (intro _)

theorem kept_makeEligible {b : Dev} : ∀ uid (d : Dev), Kept b d → Kept b (makeEligible uid d) := by
  intro uid d h
  unfold makeEligible
  repeat' first
    | with_reducible first
      | assumption | apply kept_mapDesc
    | refine Kept.same ?_ rfl rfl rfl rfl rfl rfl rfl

theorem kept_onDesc {b : Dev} (uid fn op : Nat) (f : Desc → Dev → Dev) (s : State) (hf : ∀ x d, Kept b d → Kept b (f x d)) (h : Kept b s.dev) :
    KeptO b s (onDesc uid fn op f s) := by
  unfold onDesc
  split
  · exact kept_whenDev _ _ _ (hf _ _ h)
  · exact kept_whenDev _ _ _ h

theorem kept_beginDesc {b : Dev} : ∀ uid (d : Dev), Kept b d → Kept b (beginDesc uid d) := by
  intro uid d h
  unfold beginDesc
  repeat' first
    | with_reducible first
      | assumption | apply kept_mapDesc

theorem kept_sweepSems {b : Dev} : ∀ (d : Dev), Kept b d → Kept b (sweepSems d) := by
  intro d h
  unfold sweepSems
  repeat' first
    | with_reducible first
      | assumption | apply kept_cancelWaiting

theorem kept_sweepLines {b : Dev} : ∀ port (d : Dev), Kept b d → Kept b (sweepLines port d) := by
  intro port d h
  unfold sweepLines
  repeat' first
    | with_reducible first
      | assumption | apply kept_cancelWaiting

theorem kept_execDescriptorEligible {b : Dev} : ∀ uid (s : State), Kept b s.dev → KeptO b s (execDescriptorEligible uid s) := by
  intro uid s h
  unfold execDescriptorEligible
  repeat' first
    | with_reducible first
      | assumption | apply kept_whenDev | apply kept_makeEligible
    | dsimp only | split

theorem kept_fireDesc {b : Dev} : ∀ x (d : Dev), Kept b d → Kept b (fireDesc x d) := by
  intro x d h
  unfold fireDesc
  repeat' first
    | with_reducible first
      | assumption | apply Kept.ite | apply kept_finishDesc | apply kept_freeGate | apply kept_makeEligible

theorem kept_stopRing {b : Dev} : ∀ fn r (d : Dev), Kept b d → Kept b (stopRing fn r d) := by
  intro fn r d h
  unfold stopRing
  repeat' first
    | with_reducible first
      | assumption | apply kept_setF | apply kept_bumpF | apply kept_updRing

theorem kept_ringCfgWrite {b : Dev} : ∀ fn r v (d : Dev), Kept b d → Kept b (ringCfgWrite fn r v d) := by
  intro fn r v d h
  unfold ringCfgWrite
  repeat' first
    | with_reducible first
      | assumption | apply Kept.ite | apply kept_setF | apply kept_bumpF | apply kept_updRing | apply kept_regPut

theorem kept_execRingEnable {b : Dev} : ∀ fn ring v (s : State), Kept b s.dev → KeptO b s (execRingEnable fn ring v s) := by
  intro fn ring v s h
  unfold execRingEnable
  repeat' first
    | with_reducible first
      | assumption | apply kept_whenDev | apply kept_ringCfgWrite

theorem kept_execRingDisable {b : Dev} : ∀ fn ring v (s : State), Kept b s.dev → KeptO b s (execRingDisable fn ring v s) := by
  intro fn ring v s h
  unfold execRingDisable
  repeat' first
    | with_reducible first
      | assumption | apply kept_whenDev | apply kept_ringCfgWrite

theorem kept_badDoorbell {b : Dev} : ∀ fn r off value (d : Dev), Kept b d → Kept b (badDoorbell fn r off value d) := by
  intro fn r off value d h
  unfold badDoorbell
  repeat' first
    | with_reducible first
      | assumption | apply Kept.ite | apply kept_setF | apply kept_bumpF | apply kept_raiseEvent

theorem kept_execSqTailDoorbell {b : Dev} : ∀ fn off size value (s : State), Kept b s.dev → KeptO b s (execSqTailDoorbell fn off size value s) := by
  intro fn off size value s h
  unfold execSqTailDoorbell
  repeat' first
    | with_reducible first
      | assumption | apply Kept.ite | apply kept_whenDev | apply kept_badDoorbell | apply kept_updRing

theorem kept_execCqHeadDoorbell {b : Dev} : ∀ fn off size value (s : State), Kept b s.dev → KeptO b s (execCqHeadDoorbell fn off size value s) := by
  intro fn off size value s h
  unfold execCqHeadDoorbell
  repeat' first
    | with_reducible first
      | assumption | apply Kept.ite | apply kept_whenDev | apply kept_badDoorbell | apply kept_updRing | apply kept_flushHeld

theorem kept_takeEntry {b : Dev} : ∀ fn r words (d : Dev), Kept b d → Kept b (takeEntry fn r words d) := by
  intro fn r words d h
  unfold takeEntry
  repeat' first
    | with_reducible first
      | assumption | apply Kept.ite | apply kept_updRing | apply kept_setF | apply kept_finishDesc | apply kept_makeEligible
    | dsimp only | split | refine Kept.same ?_ rfl rfl rfl rfl rfl rfl rfl

theorem kept_execSqEntryTake {b : Dev} : ∀ fn ring r (s : State), Kept b s.dev → KeptO b s (execSqEntryTake fn ring r s) := by
  intro fn ring r s h
  unfold execSqEntryTake
  repeat' first
    | with_reducible first
      | assumption | apply kept_whenDev | apply kept_takeEntry | apply kept_stopRing
    | dsimp only | split

theorem kept_execMsixModerationTimeout {b : Dev} : ∀ fn ring (s : State), Kept b s.dev → KeptO b s (execMsixModerationTimeout fn ring s) := by
  intro fn ring s h
  unfold execMsixModerationTimeout
  repeat' first
    | with_reducible first
      | assumption | apply kept_whenDev | apply kept_sendMsix

theorem kept_execMsixUnmask {b : Dev} : ∀ fn vector (s : State), Kept b s.dev → KeptO b s (execMsixUnmask fn vector s) := by
  intro fn vector s h
  unfold execMsixUnmask
  repeat' first
    | with_reducible first
      | assumption | apply Kept.ite | apply kept_whenDev | apply kept_emit | apply kept_forEach | apply kept_updRing
    | (intro _) | dsimp only | refine Kept.same ?_ rfl rfl rfl rfl rfl rfl rfl

theorem kept_setSess {b : Dev} : ∀ i x (d : Dev), Kept b d → Kept b (setSess i x d) := by
  intro i x d h
  unfold setSess
  repeat' first
    | with_reducible first
      | assumption
    | dsimp only | refine Kept.same ?_ rfl rfl rfl rfl rfl rfl rfl

theorem kept_updSess {b : Dev} : ∀ i f (d : Dev), Kept b d → Kept b (updSess i f d) := by
  intro i f d h
  unfold updSess
  repeat' first
    | with_reducible first
      | assumption | apply kept_setSess
    | split

theorem kept_updEngSt {b : Dev} : ∀ e f (d : Dev), Kept b d → Kept b (updEngSt e f d) := by
  intro e f d h
  unfold updEngSt
  repeat' first
    | with_reducible first
      | assumption
    | dsimp only | refine Kept.same ?_ rfl rfl rfl rfl rfl rfl rfl

theorem kept_showEng {b : Dev} : ∀ e (d : Dev), Kept b d → Kept b (showEng e d) := by
  intro e d h
  unfold showEng
  repeat' first
    | with_reducible first
      | assumption | apply kept_regPut | apply kept_setF

theorem kept_setLease {b : Dev} : ∀ e w l (d : Dev), Kept b d → Kept b (setLease e w l d) := by
  intro e w l d h
  unfold setLease
  repeat' first
    | with_reducible first
      | assumption | apply kept_showEng
    | dsimp only | refine Kept.same ?_ rfl rfl rfl rfl rfl rfl rfl

theorem kept_freeWindow {b : Dev} : ∀ e w (d : Dev), Kept b d → Kept b (freeWindow e w d) := by
  intro e w d h
  unfold freeWindow
  repeat' first
    | with_reducible first
      | assumption | apply kept_showEng
    | dsimp only | refine Kept.same ?_ rfl rfl rfl rfl rfl rfl rfl

theorem kept_replyRecord {b : Dev} : ∀ k st engine window tag base replyQ (d : Dev), Kept b d → Kept b (replyRecord k st engine window tag base replyQ d) := by
  intro k st engine window tag base replyQ d h
  unfold replyRecord
  repeat' first
    | with_reducible first
      | assumption | apply kept_semPost | apply kept_wrMem

theorem kept_dispatchOpen {b : Dev} : ∀ k bs (d : Dev), Kept b d → Kept b (dispatchOpen k bs d) := by
  intro k bs d h
  unfold dispatchOpen
  repeat' first
    | with_reducible first
      | assumption | apply Kept.ite | apply kept_replyRecord | apply kept_showEng
    | dsimp only | split | refine Kept.same ?_ rfl rfl rfl rfl rfl rfl rfl

theorem kept_completeCmd {b : Dev} : ∀ e w st l (d : Dev), Kept b d → Kept b (completeCmd e w st l d) := by
  intro e w st l d h
  unfold completeCmd
  repeat' first
    | with_reducible first
      | assumption | apply Kept.ite | apply kept_wrMem | apply kept_setLease | apply kept_semPost

theorem kept_queueCommand {b : Dev} : ∀ e w bs (d : Dev), Kept b d → Kept b (queueCommand e w bs d) := by
  intro e w bs d h
  unfold queueCommand
  repeat' first
    | with_reducible first
      | assumption | apply Kept.ite | apply kept_completeCmd | apply kept_setLease
    | split

theorem kept_dropLeases {b : Dev} : ∀ p (d : Dev), Kept b d → Kept b (dropLeases p d) := by
  intro p d h
  unfold dropLeases
  repeat' first
    | with_reducible first
      | assumption | apply kept_forEach | apply kept_setLease
    | (intro _) | split

theorem kept_dropSlotLeases {b : Dev} : ∀ k (d : Dev), Kept b d → Kept b (dropSlotLeases k d) := by
  intro k d h
  unfold dropSlotLeases
  repeat' first
    | with_reducible first
      | assumption | apply kept_showEng | apply kept_dropLeases
    | dsimp only | refine Kept.same ?_ rfl rfl rfl rfl rfl rfl rfl

theorem kept_dropSessLeases {b : Dev} : ∀ i (d : Dev), Kept b d → Kept b (dropSessLeases i d) := by
  intro i d h
  unfold dropSessLeases
  repeat' first
    | with_reducible first
      | assumption | apply kept_showEng | apply kept_dropLeases
    | dsimp only | refine Kept.same ?_ rfl rfl rfl rfl rfl rfl rfl

theorem kept_execLeaseForceRelease {b : Dev} : ∀ engine window (s : State), Kept b s.dev → KeptO b s (execLeaseForceRelease engine window s) := by
  intro engine window s h
  unfold execLeaseForceRelease
  repeat' first
    | with_reducible first
      | assumption | apply kept_whenDev | apply kept_freeWindow
    | dsimp only | split

theorem kept_updLink {b : Dev} : ∀ l f (d : Dev), Kept b d → Kept b (updLink l f d) := by
  intro l f d h
  unfold updLink
  repeat' first
    | with_reducible first
      | assumption
    | dsimp only | refine Kept.same ?_ rfl rfl rfl rfl rfl rfl rfl

theorem kept_queuePkt {b : Dev} : ∀ l cls p (d : Dev), Kept b d → Kept b (queuePkt l cls p d) := by
  intro l cls p d h
  unfold queuePkt
  repeat' first
    | with_reducible first
      | assumption | apply kept_updLink

theorem kept_selfPkt {b : Dev} : ∀ p (d : Dev), Kept b d → Kept b (selfPkt p d) := by
  intro p d h
  unfold selfPkt
  repeat' first
    | with_reducible first
      | assumption | apply kept_updLink

theorem kept_sendPlain {b : Dev} : ∀ p (d : Dev), Kept b d → Kept b (sendPlain p d) := by
  intro p d h
  unfold sendPlain
  repeat' first
    | with_reducible first
      | assumption | apply Kept.ite | apply kept_selfPkt | apply kept_queuePkt | apply kept_bumpF
    | split

theorem kept_sendPkt {b : Dev} : ∀ cls p (d : Dev), Kept b d → Kept b (sendPkt cls p d) := by
  intro cls p d h
  unfold sendPkt
  repeat' first
    | with_reducible first
      | assumption | apply Kept.ite | apply kept_selfPkt | apply kept_queuePkt | apply kept_bumpF | apply kept_sendPlain
    | dsimp only | split

theorem kept_forwardPkt {b : Dev} : ∀ cls p (d : Dev), Kept b d → Kept b (forwardPkt cls p d) := by
  intro cls p d h
  unfold forwardPkt
  repeat' first
    | with_reducible first
      | assumption | apply Kept.ite | apply kept_bumpF | apply kept_sendPlain | apply kept_sendPkt

theorem kept_answerUser {b : Dev} : ∀ u e (d : Dev), Kept b d → Kept b (answerUser u e d) := by
  intro u e d h
  unfold answerUser
  repeat' first
    | with_reducible first
      | assumption | apply kept_updEng | apply kept_updQuire
    | dsimp only | split | refine Kept.same ?_ rfl rfl rfl rfl rfl rfl rfl

theorem kept_startReq {b : Dev} : ∀ r (d : Dev), Kept b d → Kept b (startReq r d) := by
  intro r d h
  unfold startReq
  repeat' first
    | with_reducible first
      | assumption | apply Kept.ite | apply kept_sendPkt
    | dsimp only | refine Kept.same ?_ rfl rfl rfl rfl rfl rfl rfl

theorem kept_startWaiting {b : Dev} : ∀ (d : Dev), Kept b d → Kept b (startWaiting d) := by
  intro d h
  unfold startWaiting
  repeat' first
    | with_reducible first
      | assumption | apply Kept.ite | apply kept_startReq
    | dsimp only | split | refine Kept.same ?_ rfl rfl rfl rfl rfl rfl rfl

theorem kept_endReqs {b : Dev} : ∀ p e (d : Dev), Kept b d → Kept b (endReqs p e d) := by
  intro p e d h
  unfold endReqs
  repeat' first
    | with_reducible first
      | assumption | apply kept_startWaiting | apply kept_forEach | apply kept_answerUser
    | (intro _) | dsimp only | refine Kept.same ?_ rfl rfl rfl rfl rfl rfl rfl

theorem kept_sendRemote {b : Dev} : ∀ k dev op user (d : Dev), Kept b d → Kept b (sendRemote k dev op user d) := by
  intro k dev op user d h
  unfold sendRemote
  repeat' first
    | with_reducible first
      | assumption | apply Kept.ite | apply kept_answerUser | apply kept_startReq
    | dsimp only | split | refine Kept.same ?_ rfl rfl rfl rfl rfl rfl rfl

theorem kept_updColl {b : Dev} : ∀ uid f (d : Dev), Kept b d → Kept b (updColl uid f d) := by
  intro uid f d h
  unfold updColl
  repeat' first
    | with_reducible first
      | assumption
    | dsimp only | refine Kept.same ?_ rfl rfl rfl rfl rfl rfl rfl

theorem kept_sendColl {b : Dev} : ∀ c type rank first status data (d : Dev), Kept b d → Kept b (sendColl c type rank first status data d) := by
  intro c type rank first status data d h
  unfold sendColl
  repeat' first
    | with_reducible first
      | assumption | apply kept_startReq
    | dsimp only | refine Kept.same ?_ rfl rfl rfl rfl rfl rfl rfl

theorem kept_sendRuns {b : Dev} : ∀ c type rank flags w vs (d : Dev), Kept b d → Kept b (sendRuns c type rank flags w vs d) := by
  intro c type rank flags w vs d h
  unfold sendRuns
  repeat' first
    | with_reducible first
      | assumption | apply kept_sendColl | apply kept_forEach
    | (intro _) | split

theorem kept_finishColl {b : Dev} : ∀ c st failing flags (d : Dev), Kept b d → Kept b (finishColl c st failing flags d) := by
  intro c st failing flags d h
  unfold finishColl
  repeat' first
    | with_reducible first
      | assumption | apply kept_wrMem | apply kept_raiseSlot | apply kept_keepStatus | apply kept_postOpt
    | dsimp only | split | refine Kept.same ?_ rfl rfl rfl rfl rfl rfl rfl

theorem kept_abortColl {b : Dev} : ∀ c st told failing (d : Dev), Kept b d → Kept b (abortColl c st told failing d) := by
  intro c st told failing d h
  unfold abortColl
  repeat' first
    | with_reducible first
      | assumption | apply kept_forEach | apply kept_sendColl | apply kept_finishColl
    | (intro _) | dsimp only | split | refine Kept.same ?_ rfl rfl rfl rfl rfl rfl rfl

theorem kept_sweepColls {b : Dev} : ∀ (d : Dev), Kept b d → Kept b (sweepColls d) := by
  intro d h
  unfold sweepColls
  repeat' first
    | with_reducible first
      | assumption | apply kept_forEach | apply kept_abortColl
    | (intro _)

theorem kept_endJobColls {b : Dev} : ∀ job tell (d : Dev), Kept b d → Kept b (endJobColls job tell d) := by
  intro job tell d h
  unfold endJobColls
  repeat' first
    | with_reducible first
      | assumption | apply kept_forEach | apply kept_abortColl | apply kept_finishColl
    | (intro _) | dsimp only | split | refine Kept.same ?_ rfl rfl rfl rfl rfl rfl rfl

theorem kept_writePart {b : Dev} : ∀ c runs (d : Dev), Kept b d → Kept b (writePart c runs d) := by
  intro c runs d h
  unfold writePart
  repeat' first
    | with_reducible first
      | assumption | apply kept_wrMem
    | split

theorem kept_passDown {b : Dev} : ∀ c runs flags (d : Dev), Kept b d → Kept b (passDown c runs flags d) := by
  intro c runs flags d h
  unfold passDown
  repeat' first
    | with_reducible first
      | assumption | apply Kept.ite | apply kept_writePart | apply kept_forEach | apply kept_sendColl | apply kept_finishColl
    | (intro _)

theorem kept_sendMcast {b : Dev} : ∀ c g runs (d : Dev), Kept b d → Kept b (sendMcast c g runs d) := by
  intro c g runs d h
  unfold sendMcast
  repeat' first
    | with_reducible first
      | assumption | apply Kept.ite | apply kept_forEach | apply kept_queuePkt | apply kept_bumpF
    | (intro _)

theorem kept_kickColl {b : Dev} : ∀ uid (d : Dev), Kept b d → Kept b (kickColl uid d) := by
  intro uid d h
  unfold kickColl
  repeat' first
    | with_reducible first
      | assumption | apply Kept.ite | apply kept_abortColl | apply kept_sendMcast | apply kept_passDown | apply kept_updColl
      | apply kept_sendColl | apply kept_sendRuns
    | dsimp only | split

theorem kept_startColls {b : Dev} (n : Nat) : ∀ (d : Dev), Kept b d → Kept b (startColls n d) := by
  induction n with
  | zero => intro d h; exact h
  | succ n ih =>
    intro d h
    unfold startColls
    refine Kept.ite h ?_
    split
    · exact ih _ (kept_kickColl _ _ (kept_updColl _ _ _ h))
    · exact h

theorem kept_endSlot {b : Dev} : ∀ k (d : Dev), Kept b d → Kept b (endSlot k d) := by
  intro k d h
  unfold endSlot
  repeat' first
    | with_reducible first
      | assumption | apply kept_dropSlotLeases | apply kept_sweepSems
    | dsimp only | refine Kept.same ?_ rfl rfl rfl rfl rfl rfl rfl

theorem kept_stopQuiet {b : Dev} : ∀ k (d : Dev), Kept b d → Kept b (stopQuiet k d) := by
  intro k d h
  unfold stopQuiet
  repeat' first
    | with_reducible first
      | assumption | apply kept_updSlot | apply kept_endSlot | apply kept_cancelStreams | apply kept_discardQueues

theorem kept_frameCpl {b : Dev} : ∀ i x tag st flags ws (d : Dev), Kept b d → Kept b (frameCpl i x tag st flags ws d) := by
  intro i x tag st flags ws d h
  unfold frameCpl
  repeat' first
    | with_reducible first
      | assumption | apply kept_postCpl

theorem kept_cplFrame {b : Dev} : ∀ i x f err (d : Dev), Kept b d → Kept b (cplFrame i x f err d) := by
  intro i x f err d h
  unfold cplFrame
  repeat' first
    | with_reducible first
      | assumption | apply kept_frameCpl

theorem kept_cancelQueue {b : Dev} : ∀ i x (d : Dev), Kept b d → Kept b (cancelQueue i x d) := by
  intro i x d h
  unfold cancelQueue
  repeat' first
    | with_reducible first
      | assumption | apply kept_forEach | apply kept_frameCpl
    | (intro _)

theorem kept_endCheckpoints {b : Dev} : ∀ x st (d : Dev), Kept b d → Kept b (endCheckpoints x st d) := by
  intro x st d h
  unfold endCheckpoints
  repeat' first
    | with_reducible first
      | assumption | apply kept_forEach | apply kept_finishDesc
    | (intro _) | split

theorem kept_endWork {b : Dev} : ∀ i st (d : Dev), Kept b d → Kept b (endWork i st d) := by
  intro i st d h
  unfold endWork
  repeat' first
    | with_reducible first
      | assumption | apply kept_forEach | apply kept_stopQuiet | apply kept_dropSessLeases | apply kept_cplFrame
      | apply kept_updSess | apply kept_cancelQueue
    | dsimp only | split

theorem kept_faultSession {b : Dev} : ∀ i st (d : Dev), Kept b d → Kept b (faultSession i st d) := by
  intro i st d h
  unfold faultSession
  repeat' first
    | with_reducible first
      | assumption | apply kept_updSess | apply kept_endWork | apply kept_endCheckpoints
    | dsimp only | split

theorem kept_noteFrame {b : Dev} : ∀ i st info fl (d : Dev), Kept b d → Kept b (noteFrame i st info fl d) := by
  intro i st info fl d h
  unfold noteFrame
  repeat' first
    | with_reducible first
      | assumption | apply kept_updSess

theorem kept_updJob {b : Dev} : ∀ uid f (d : Dev), Kept b d → Kept b (updJob uid f d) := by
  intro uid f d h
  unfold updJob
  repeat' first
    | with_reducible first
      | assumption
    | dsimp only | refine Kept.same ?_ rfl rfl rfl rfl rfl rfl rfl

theorem kept_completeJob {b : Dev} : ∀ uid err (d : Dev), Kept b d → Kept b (completeJob uid err d) := by
  intro uid err d h
  unfold completeJob
  repeat' first
    | with_reducible first
      | assumption | apply Kept.ite | apply kept_forEach | apply kept_stopQuiet | apply kept_startColls
      | apply kept_endJobColls | apply kept_finishDesc | apply kept_finishFlags
    | dsimp only | split | refine Kept.same ?_ rfl rfl rfl rfl rfl rfl rfl

theorem kept_noteJob {b : Dev} : ∀ uid st info fl (d : Dev), Kept b d → Kept b (noteJob uid st info fl d) := by
  intro uid st info fl d h
  unfold noteJob
  repeat' first
    | with_reducible first
      | assumption | apply kept_updJob

theorem kept_faultWork {b : Dev} : ∀ k status (d : Dev), Kept b d → Kept b (faultWork k status d) := by
  intro k status d h
  unfold faultWork
  repeat' first
    | with_reducible first
      | assumption | apply kept_faultSession | apply kept_noteFrame | apply kept_endSlot | apply kept_completeJob
    | dsimp only | split

theorem kept_haltWork {b : Dev} : ∀ k (d : Dev), Kept b d → Kept b (haltWork k d) := by
  intro k d h
  unfold haltWork
  repeat' first
    | with_reducible first
      | assumption | apply Kept.ite | apply kept_endSlot | apply kept_noteFrame | apply kept_noteJob | apply kept_completeJob
    | dsimp only | split

theorem kept_launchRefused {b : Dev} : ∀ fn ident (d : Dev), Kept b d → Kept b (launchRefused fn ident d) := by
  intro fn ident d h
  unfold launchRefused
  repeat' first
    | with_reducible first
      | assumption | apply Kept.ite | apply kept_noteFrame | apply kept_completeJob
    | split

theorem kept_stopSlot {b : Dev} : ∀ k cause insn addr (d : Dev), Kept b d → Kept b (stopSlot k cause insn addr d) := by
  intro k cause insn addr d h
  unfold stopSlot
  repeat' first
    | with_reducible first
      | assumption | apply kept_updSlot | apply kept_cancelStreams | apply kept_discardQueues | apply kept_faultWork
      | apply kept_emit

theorem kept_retireAt {b : Dev} : ∀ k pc (d : Dev), Kept b d → Kept b (retireAt k pc d) := by
  intro k pc d h
  unfold retireAt
  repeat' first
    | with_reducible first
      | assumption | apply kept_updSlot

theorem kept_issueDev {b : Dev} (k : Nat) (g : Guard) (insn : W64) (enc : Bool) (body : Dev → Issued) (d : Dev)
    (hf : ∀ d, Kept b d → KeptI b (body d)) (h : Kept b d) : Kept b (issueDev k g insn enc body d) := by
  have hb := hf d h
  unfold issueDev
  refine Kept.ite (kept_stopSlot _ _ _ _ _ h) (Kept.ite (kept_retireAt _ _ _ h) (Kept.ite (kept_stopSlot _ _ _ _ _ h) ?_))
  split <;> rename_i e <;> rw [e] at hb
  · exact kept_retireAt _ _ _ hb
  · exact kept_retireAt _ _ _ hb
  · exact kept_stopSlot _ _ _ _ _ h
  · exact kept_updSlot _ _ _ hb
  · exact kept_updSlot _ _ _ h

theorem kept_issue {b : Dev} (x : Site) (g : Guard) (insn : W64) (enc : Bool) (body : Dev → Issued) (s : State)
    (hf : ∀ d, Kept b d → KeptI b (body d)) (h : Kept b s.dev) : KeptO b s (issue x g insn enc body s) := by
  unfold issue
  exact kept_whenDev _ _ _ (kept_issueDev _ _ _ _ _ _ hf h)

end Sys2Proof.Machine
end

