-- ==== Sys2Proof/Laws/KeptUnits.lean ====
section
/-! SUPPORT. What the operations of the units, the loom, DDR4, control registers and scalar instructions keep
(Safety.lean, Kept). -/

set_option Elab.async false

namespace Sys2Proof.Machine

theorem kept_drawEmpty {b : Dev} : ∀ k ws (d : Dev), Kept b d → Kept b (drawEmpty k ws d) := by
  intro k ws d h
  unfold drawEmpty
  repeat' first
    | with_reducible first
      | assumption | apply Kept.ite | apply kept_raiseEvent | apply kept_updSlot

theorem kept_vet {b : Dev} (sl : SlotSt) (ok : Bool) (rs : List Rng) (al : List (Nat × Nat)) (body : Issued) (h : KeptI b body) :
    KeptI b (vet sl ok rs al body) := by
  unfold vet
  refine KeptI.ite KeptI.exc ?_
  repeat' split
  · exact KeptI.exc
  · exact KeptI.exc
  · exact h

theorem kept_withBlock {b : Dev} (x : Site) (f : FmtU) (n : Nat) (body : List Nat → Dev → Issued) (d : Dev)
    (hf : ∀ ws d, Kept b d → KeptI b (body ws d)) (h : Kept b d) : KeptI b (withBlock x f n body d) := by
  unfold withBlock
  exact KeptI.ite KeptI.exc (KeptI.ite KeptI.exc (hf _ _ (kept_drawFree _ h)))

theorem kept_execWinSet {b : Dev} : ∀ x f (s : State), Kept b s.dev → KeptO b s (execWinSet x f s) := by
  intro x f s h
  unfold execWinSet
  repeat' first
    | with_reducible first
      | assumption | apply KeptI.done | apply kept_issue | apply kept_withBlock | apply kept_vet | apply kept_updSlot
    | (intro _)

theorem kept_updMon {b : Dev} : ∀ k m f (d : Dev), Kept b d → Kept b (updMon k m f d) := by
  intro k m f d h
  unfold updMon
  repeat' first
    | with_reducible first
      | assumption | apply kept_updSlot

theorem kept_monEvaluate {b : Dev} : ∀ k m (d : Dev), Kept b d → Kept b (monEvaluate k m d) := by
  intro k m d h
  unfold monEvaluate
  repeat' first
    | with_reducible first
      | assumption | apply Kept.ite | apply kept_raiseEvent | apply kept_updMon

theorem kept_monClose {b : Dev} : ∀ k m (d : Dev), Kept b d → Kept b (monClose k m d) := by
  intro k m d h
  unfold monClose
  repeat' first
    | with_reducible first
      | assumption | apply kept_updMon | apply kept_monEvaluate

theorem kept_monSettle {b : Dev} (k m n : Nat) : ∀ (d : Dev), Kept b d → Kept b (monSettle k m n d) := by
  induction n with
  | zero => intro d h; exact h
  | succ n ih =>
    intro d h
    unfold monSettle
    exact Kept.ite (ih _ (kept_monClose _ _ _ h)) h

theorem kept_monSettled {b : Dev} : ∀ k m (d : Dev), Kept b d → Kept b (monSettled k m d) := by
  intro k m d h
  unfold monSettled
  repeat' first
    | with_reducible first
      | assumption | apply kept_monSettle

theorem kept_monCount {b : Dev} : ∀ k m r (d : Dev), Kept b d → Kept b (monCount k m r d) := by
  intro k m r d h
  unfold monCount
  repeat' first
    | with_reducible first
      | assumption | apply Kept.ite | apply kept_updMon | apply kept_monSettled

theorem kept_execMonitorWindowClose {b : Dev} : ∀ x mon (s : State), Kept b s.dev → KeptO b s (execMonitorWindowClose x mon s) := by
  intro x mon s h
  unfold execMonitorWindowClose
  repeat' first
    | with_reducible first
      | assumption | apply kept_whenDev | apply kept_monClose

theorem kept_monCfgWrite {b : Dev} : ∀ k m v (d : Dev), Kept b d → Kept b (monCfgWrite k m v d) := by
  intro k m v d h
  unfold monCfgWrite
  repeat' first
    | with_reducible first
      | assumption | apply Kept.ite | apply kept_updMon | apply kept_monSettled | apply kept_monEvaluate

theorem kept_monCtlWrite {b : Dev} : ∀ k m v (d : Dev), Kept b d → Kept b (monCtlWrite k m v d) := by
  intro k m v d h
  unfold monCtlWrite
  repeat' first
    | with_reducible first
      | assumption | apply Kept.ite | apply kept_monSettled | apply kept_monEvaluate | apply kept_updMon

theorem kept_rgWrite {b : Dev} : ∀ base b0 rg outW p c code (d : Dev), Kept b d → Kept b (rgWrite base b0 rg outW p c code d) := by
  intro base b0 rg outW p c code d h
  unfold rgWrite
  repeat' first
    | with_reducible first
      | assumption | apply Kept.ite | apply kept_wrMem

theorem kept_putCodes {b : Dev} : ∀ base b0 pl i codes (d : Dev), Kept b d → Kept b (putCodes base b0 pl i codes d) := by
  intro base b0 pl i codes d h
  unfold putCodes
  repeat' first
    | with_reducible first
      | assumption | apply kept_wrMem | apply kept_forEach | apply kept_rgWrite
    | (intro _) | split

theorem kept_putQRow {b : Dev} : ∀ k base b0 pl i r (d : Dev), Kept b d → Kept b (putQRow k base b0 pl i r d) := by
  intro k base b0 pl i r d h
  unfold putQRow
  repeat' first
    | with_reducible first
      | assumption | apply Kept.ite | apply kept_wrMem | apply kept_monCount | apply kept_putCodes

theorem kept_emitRow {b : Dev} : ∀ k base md b0 q pl i y (d : Dev), Kept b d → Kept b (emitRow k base md b0 q pl i y d) := by
  intro k base md b0 q pl i y d h
  unfold emitRow
  repeat' first
    | with_reducible first
      | assumption | apply Kept.ite | apply kept_raiseSlot | apply kept_putQRow | apply kept_putCodes

theorem kept_storePass {b : Dev} : ∀ k base md b0 pl n rows (d : Dev), Kept b d → Kept b (storePass k base md b0 pl n rows d) := by
  intro k base md b0 pl n rows d h
  unfold storePass
  repeat' first
    | with_reducible first
      | assumption | apply kept_forEach | apply kept_emitRow | apply kept_raiseSlot
    | (intro _)

theorem kept_runQuant {b : Dev} : ∀ k base md b0 (d : Dev), Kept b d → Kept b (runQuant k base md b0 d) := by
  intro k base md b0 d h
  unfold runQuant
  repeat' first
    | with_reducible first
      | assumption | apply kept_forEach | apply kept_emitRow | apply kept_raiseSlot
    | (intro _)

theorem kept_runRot {b : Dev} : ∀ k base md b0 (d : Dev), Kept b d → Kept b (runRot k base md b0 d) := by
  intro k base md b0 d h
  unfold runRot
  repeat' first
    | with_reducible first
      | assumption | apply kept_forEach | apply kept_raiseSlot | apply kept_wrMem
    | (intro _)

theorem kept_execSizeSet {b : Dev} : ∀ x f (s : State), Kept b s.dev → KeptO b s (execSizeSet x f s) := by
  intro x f s h
  unfold execSizeSet
  repeat' first
    | with_reducible first
      | assumption | apply KeptI.done | apply kept_issue | apply kept_withBlock | apply kept_vet | apply kept_updSlot
    | (intro _)

theorem kept_unitKick {b : Dev} : ∀ core v (d : Dev), Kept b d → Kept b (unitKick core v d) := by
  intro core v d h
  unfold unitKick
  repeat' first
    | with_reducible first
      | assumption | apply Kept.ite | apply kept_updUnit
    | dsimp only | split

theorem kept_unitQueue {b : Dev} : ∀ x v q w (d : Dev), Kept b d → KeptI b (unitQueue x v q w d) := by
  intro x v q w d h
  unfold unitQueue
  repeat' first
    | with_reducible first
      | assumption | apply KeptI.done | apply KeptI.full | apply KeptI.ite | apply kept_unitKick | apply kept_updUnit

theorem kept_execSizeQuant {b : Dev} : ∀ x f (s : State), Kept b s.dev → KeptO b s (execSizeQuant x f s) := by
  intro x f s h
  unfold execSizeQuant
  repeat' first
    | with_reducible first
      | assumption | apply kept_issue | apply kept_withBlock | apply kept_vet | apply kept_unitQueue
    | (intro _)

theorem kept_execCalRot {b : Dev} : ∀ x f (s : State), Kept b s.dev → KeptO b s (execCalRot x f s) := by
  intro x f s h
  unfold execCalRot
  repeat' first
    | with_reducible first
      | assumption | apply kept_issue | apply kept_withBlock | apply kept_vet | apply kept_unitQueue
    | (intro _)

theorem kept_putPartial {b : Dev} : ∀ k f rows (d : Dev), Kept b d → Kept b (putPartial k f rows d) := by
  intro k f rows d h
  unfold putPartial
  repeat' first
    | with_reducible first
      | assumption | apply kept_forEach | apply kept_raiseSlot | apply kept_wrMem
    | (intro _)

theorem kept_putFinal {b : Dev} : ∀ k f b0 rows (d : Dev), Kept b d → Kept b (putFinal k f b0 rows d) := by
  intro k f b0 rows d h
  unfold putFinal
  repeat' first
    | with_reducible first
      | assumption | apply kept_storePass | apply kept_raiseSlot

theorem kept_runPass {b : Dev} : ∀ core f (d : Dev), Kept b d → Kept b (runPass core f d) := by
  intro core f d h
  unfold runPass
  repeat' first
    | with_reducible first
      | assumption | apply kept_raiseSlot | apply kept_forEach | apply kept_monCount | apply kept_updSlot | apply kept_putFinal
      | apply kept_putPartial
    | (intro _) | dsimp only | split

theorem kept_loomQueue {b : Dev} : ∀ core l slot o (d : Dev), Kept b d → KeptI b (loomQueue core l slot o d) := by
  intro core l slot o d h
  unfold loomQueue
  repeat' first
    | with_reducible first
      | assumption | apply KeptI.done | apply KeptI.full | apply KeptI.ite | apply kept_updLoom

theorem kept_execWarpLoad {b : Dev} : ∀ x f (s : State), Kept b s.dev → KeptO b s (execWarpLoad x f s) := by
  intro x f s h
  unfold execWarpLoad
  repeat' first
    | with_reducible first
      | assumption | apply kept_issue | apply kept_withBlock | apply kept_vet | apply kept_loomQueue | apply kept_updSlot
    | (intro _)

theorem kept_boundExc {b : Dev} (a : Int) : KeptI b (boundExc a) := KeptI.exc

theorem kept_weftIssue {b : Dev} (x : Site) (f : FmtU) (bk : WeftBlk) (ld : WarpBlk) (w : Option WinDesc) (st : Option SizeBlk)
    (rg : Option RegroupRec) (d : Dev) (h : Kept b d) : KeptI b (weftIssue x f bk ld w st rg d) := by
  unfold weftIssue
  extract_lets k sl tile place
  clear_value tile place
  split
  · exact kept_boundExc _
  · exact kept_boundExc _
  · exact kept_vet _ _ _ _ _ (kept_loomQueue _ _ _ _ _ h)

theorem kept_weftRegroup {b : Dev} : ∀ x f b0 ld w st (d : Dev), Kept b d → KeptI b (weftRegroup x f b0 ld w st d) := by
  intro x f b0 ld w st d h
  unfold weftRegroup
  repeat' first
    | with_reducible first
      | assumption | apply KeptI.exc | apply KeptI.ite | apply kept_weftIssue | apply kept_drawFree
    | dsimp only | split

theorem kept_weftBody {b : Dev} : ∀ x f ws (d : Dev), Kept b d → KeptI b (weftBody x f ws d) := by
  intro x f ws d h
  unfold weftBody
  repeat' first
    | with_reducible first
      | assumption | apply KeptI.exc | apply KeptI.ite | apply kept_weftRegroup
    | dsimp only | split

theorem kept_execWeftPass {b : Dev} : ∀ x f (s : State), Kept b s.dev → KeptO b s (execWeftPass x f s) := by
  intro x f s h
  unfold execWeftPass
  repeat' first
    | with_reducible first
      | assumption | apply kept_issue | apply kept_withBlock | apply kept_weftBody
    | (intro _)

theorem kept_execWarpFillStart {b : Dev} : ∀ core loom slot (s : State), Kept b s.dev → KeptO b s (execWarpFillStart core loom slot s) := by
  intro core loom slot s h
  unfold execWarpFillStart
  repeat' first
    | with_reducible first
      | assumption | apply kept_whenDev | apply kept_updLoom
    | dsimp only | split

theorem kept_execWarpReload {b : Dev} : ∀ core loom slot (s : State), Kept b s.dev → KeptO b s (execWarpReload core loom slot s) := by
  intro core loom slot s h
  unfold execWarpReload
  repeat' first
    | with_reducible first
      | assumption | apply kept_whenDev | apply kept_updLoom
    | dsimp only | split

theorem kept_execWarpLoadComplete {b : Dev} : ∀ core loom (s : State), Kept b s.dev → KeptO b s (execWarpLoadComplete core loom s) := by
  intro core loom s h
  unfold execWarpLoadComplete
  repeat' first
    | with_reducible first
      | assumption | apply kept_whenDev | apply kept_postOpt | apply kept_drawFree | apply kept_updLoom
    | dsimp only | split

theorem kept_execLoomPassStart {b : Dev} : ∀ core loom (s : State), Kept b s.dev → KeptO b s (execLoomPassStart core loom s) := by
  intro core loom s h
  unfold execLoomPassStart
  repeat' first
    | with_reducible first
      | assumption | apply kept_whenDev | apply kept_updLoom
    | dsimp only | split

theorem kept_execTruncationTokenReceived {b : Dev} : ∀ core loom (s : State), Kept b s.dev → KeptO b s (execTruncationTokenReceived core loom s) := by
  intro core loom s h
  unfold execTruncationTokenReceived
  repeat' first
    | with_reducible first
      | assumption | apply kept_whenDev | apply kept_updLoom

theorem kept_execPassComplete {b : Dev} : ∀ core loom empty (s : State), Kept b s.dev → KeptO b s (execPassComplete core loom empty s) := by
  intro core loom empty s h
  unfold execPassComplete
  repeat' first
    | with_reducible first
      | assumption | apply Kept.ite | apply kept_updLoom | apply kept_drawEmpty | apply kept_drawFree | apply kept_runPass
      | apply kept_whenDev | apply kept_postOpt
    | dsimp only | split

theorem kept_showRetired {b : Dev} : ∀ (d : Dev), Kept b d → Kept b (showRetired d) := by
  intro d h
  unfold showRetired
  repeat' first
    | with_reducible first
      | assumption | apply kept_regPut

theorem retiredOk_append {l : List Nat} {p : Nat} (hp : l.contains p = false) (hn : l.length < 4096) (h : retiredOk l = true) :
    retiredOk (l ++ [p]) = true := by
  simp only [retiredOk, Bool.and_eq_true, decide_eq_true_eq] at h ⊢
  refine ⟨List.nodup_append.mpr ⟨h.1, by simp, ?_⟩, by simp; omega⟩
  intro a ha c hc
  simp at hc; subst hc
  rintro rfl
  simp at hp; exact hp ha

theorem kept_retirePage {b : Dev} (p : Nat) (d : Dev) (h : Kept b d) : Kept b (retirePage p d) := by
  unfold retirePage
  dsimp only
  split
  · exact h
  · rename_i hc
    split
    · rename_i hn
      refine kept_raiseEvent _ _ _ _ _ (kept_showRetired _ (kept_setF _ _ _ _ _ ?_))
      exact ⟨h.mem, h.regs, h.sems, fun g => retiredOk_append (by simpa using hc) hn (h.retOk g),
        h.ret.trans (List.prefix_append _ _), h.counters, h.out, h.aclk⟩
    · exact kept_raiseEvent _ _ _ _ _ (kept_setF _ _ _ _ _ h)

theorem kept_ddrUncorrectable {b : Dev} : ∀ a (d : Dev), Kept b d → Kept b (ddrUncorrectable a d) := by
  intro a d h
  unfold ddrUncorrectable
  repeat' first
    | with_reducible first
      | assumption | apply kept_zeroMem | apply kept_retirePage | apply kept_bumpF | apply kept_setF
    | dsimp only | refine Kept.same ?_ rfl rfl rfl rfl rfl rfl rfl

theorem kept_devWrite {b : Dev} : ∀ a bs (d : Dev), Kept b d → Kept b (devWrite a bs d) := by
  intro a bs d h
  unfold devWrite
  repeat' first
    | with_reducible first
      | assumption | apply Kept.ite | apply kept_wrMem
    | dsimp only | refine Kept.same ?_ rfl rfl rfl rfl rfl rfl rfl

theorem kept_execDdrRecalibrate {b : Dev} : ∀ ch0 (s : State), Kept b s.dev → KeptO b s (execDdrRecalibrate ch0 s) := by
  intro ch0 s h
  unfold execDdrRecalibrate
  repeat' first
    | with_reducible first
      | assumption | apply kept_whenDev

theorem kept_execSkewWindow {b : Dev} : ∀ sums (s : State), Kept b s.dev → KeptO b s (execSkewWindow sums s) := by
  intro sums s h
  unfold execSkewWindow
  repeat' first
    | with_reducible first
      | assumption | apply kept_whenDev | apply kept_raiseEvent | apply kept_regPut | apply kept_bumpF | apply kept_setF
    | dsimp only | split

theorem kept_scrubSend {b : Dev} : ∀ ch (d : Dev), Kept b d → Kept b (scrubSend ch d) := by
  intro ch d h
  unfold scrubSend
  repeat' first
    | with_reducible first
      | assumption | apply kept_raiseEvent
    | dsimp only | refine Kept.same ?_ rfl rfl rfl rfl rfl rfl rfl

theorem kept_execScrubRead {b : Dev} : ∀ off r (s : State), Kept b s.dev → KeptO b s (execScrubRead off r s) := by
  intro off r s h
  unfold execScrubRead
  repeat' first
    | with_reducible first
      | assumption | apply Kept.ite | apply kept_whenDev | apply kept_bumpF | apply kept_scrubSend
      | apply kept_ddrUncorrectable
    | dsimp only | split | refine Kept.same ?_ rfl rfl rfl rfl rfl rfl rfl

theorem kept_execScrubReport {b : Dev} : ∀ ch (s : State), Kept b s.dev → KeptO b s (execScrubReport ch s) := by
  intro ch s h
  unfold execScrubReport
  repeat' first
    | with_reducible first
      | assumption | apply kept_whenDev | apply kept_scrubSend

theorem kept_execDimmThermalRead {b : Dev} : ∀ ch hottest (s : State), Kept b s.dev → KeptO b s (execDimmThermalRead ch hottest s) := by
  intro ch hottest s h
  unfold execDimmThermalRead
  repeat' first
    | with_reducible first
      | assumption | apply Kept.ite | apply kept_whenDev | apply kept_setF

theorem kept_ctlLatch {b : Dev} : ∀ k i (d : Dev), Kept b d → Kept b (ctlLatch k i d) := by
  intro k i d h
  unfold ctlLatch
  repeat' first
    | with_reducible first
      | assumption | apply Kept.ite | apply kept_updSlot

theorem kept_ctlSettle {b : Dev} : ∀ k i (d : Dev), Kept b d → Kept b (ctlSettle k i d) := by
  intro k i d h
  unfold ctlSettle
  repeat' first
    | with_reducible first
      | assumption | apply Kept.ite | apply kept_monSettled

theorem kept_execCtlRd {b : Dev} : ∀ x f (s : State), Kept b s.dev → KeptO b s (execCtlRd x f s) := by
  intro x f s h
  unfold execCtlRd
  repeat' first
    | with_reducible first
      | assumption | apply KeptI.done | apply kept_issue | apply kept_ctlSettle | apply kept_updSlot | apply kept_ctlLatch
    | (intro _)

theorem kept_clearSemovf {b : Dev} : ∀ k bits (d : Dev), Kept b d → Kept b (clearSemovf k bits d) := by
  intro k bits d h
  unfold clearSemovf
  repeat' first
    | with_reducible first
      | assumption
    | dsimp only | refine Kept.same ?_ rfl rfl rfl rfl rfl rfl rfl

theorem kept_ctlWrite {b : Dev} : ∀ k i v (d : Dev), Kept b d → Kept b (ctlWrite k i v d) := by
  intro k i v d h
  unfold ctlWrite
  repeat' first
    | with_reducible first
      | assumption | apply Kept.ite | apply kept_updSlot | apply kept_clearSemovf | apply kept_monCfgWrite | apply kept_updMon
      | apply kept_monSettled | apply kept_monCtlWrite
    | dsimp only | split

theorem kept_ctlWrIssue {b : Dev} : ∀ x f (s : State), Kept b s.dev → KeptO b s (ctlWrIssue x f s) := by
  intro x f s h
  unfold ctlWrIssue
  repeat' first
    | with_reducible first
      | assumption | apply KeptI.done | apply KeptI.exc | apply KeptI.ite | apply kept_issue | apply kept_ctlWrite
    | (intro _)

theorem kept_execCtlWr {b : Dev} : ∀ x f (s : State), Kept b s.dev → KeptO b s (execCtlWr x f s) := by
  intro x f s h
  unfold execCtlWr
  repeat' first
    | with_reducible first
      | assumption | apply kept_ctlWrIssue

theorem kept_execMonCfgWrite {b : Dev} : ∀ x f (s : State), Kept b s.dev → KeptO b s (execMonCfgWrite x f s) := by
  intro x f s h
  unfold execMonCfgWrite
  repeat' first
    | with_reducible first
      | assumption | apply kept_ctlWrIssue

theorem kept_execMonClose {b : Dev} : ∀ x f (s : State), Kept b s.dev → KeptO b s (execMonClose x f s) := by
  intro x f s h
  unfold execMonClose
  repeat' first
    | with_reducible first
      | assumption | apply kept_ctlWrIssue

theorem kept_execMonClear {b : Dev} : ∀ x f (s : State), Kept b s.dev → KeptO b s (execMonClear x f s) := by
  intro x f s h
  unfold execMonClear
  repeat' first
    | with_reducible first
      | assumption | apply kept_ctlWrIssue

theorem kept_aluR {b : Dev} : ∀ op fn x f (s : State), Kept b s.dev → KeptO b s (aluR op fn x f s) := by
  intro op fn x f s h
  unfold aluR
  repeat' first
    | with_reducible first
      | assumption | apply KeptI.done | apply kept_issue | apply kept_updSlot
    | (intro _)

theorem kept_aluI {b : Dev} : ∀ op fn x f (s : State), Kept b s.dev → KeptO b s (aluI op fn x f s) := by
  intro op fn x f s h
  unfold aluI
  repeat' first
    | with_reducible first
      | assumption | apply KeptI.done | apply kept_issue | apply kept_updSlot
    | (intro _)

theorem kept_cmpR {b : Dev} : ∀ op fn x f (s : State), Kept b s.dev → KeptO b s (cmpR op fn x f s) := by
  intro op fn x f s h
  unfold cmpR
  repeat' first
    | with_reducible first
      | assumption | apply KeptI.done | apply kept_issue | apply kept_updSlot
    | (intro _)

theorem kept_predR {b : Dev} : ∀ op two fn x f (s : State), Kept b s.dev → KeptO b s (predR op two fn x f s) := by
  intro op two fn x f s h
  unfold predR
  repeat' first
    | with_reducible first
      | assumption | apply KeptI.done | apply kept_issue | apply kept_updSlot
    | (intro _)

theorem kept_execAdd {b : Dev} : ∀ x f (s : State), Kept b s.dev → KeptO b s (execAdd x f s) := by
  intro x f s h
  unfold execAdd
  repeat' first
    | with_reducible first
      | assumption | apply kept_aluR

theorem kept_execSub {b : Dev} : ∀ x f (s : State), Kept b s.dev → KeptO b s (execSub x f s) := by
  intro x f s h
  unfold execSub
  repeat' first
    | with_reducible first
      | assumption | apply kept_aluR

theorem kept_execMul {b : Dev} : ∀ x f (s : State), Kept b s.dev → KeptO b s (execMul x f s) := by
  intro x f s h
  unfold execMul
  repeat' first
    | with_reducible first
      | assumption | apply kept_aluR

theorem kept_execMulhs {b : Dev} : ∀ x f (s : State), Kept b s.dev → KeptO b s (execMulhs x f s) := by
  intro x f s h
  unfold execMulhs
  repeat' first
    | with_reducible first
      | assumption | apply kept_aluR

theorem kept_execAnd {b : Dev} : ∀ x f (s : State), Kept b s.dev → KeptO b s (execAnd x f s) := by
  intro x f s h
  unfold execAnd
  repeat' first
    | with_reducible first
      | assumption | apply kept_aluR

theorem kept_execOr {b : Dev} : ∀ x f (s : State), Kept b s.dev → KeptO b s (execOr x f s) := by
  intro x f s h
  unfold execOr
  repeat' first
    | with_reducible first
      | assumption | apply kept_aluR

theorem kept_execXor {b : Dev} : ∀ x f (s : State), Kept b s.dev → KeptO b s (execXor x f s) := by
  intro x f s h
  unfold execXor
  repeat' first
    | with_reducible first
      | assumption | apply kept_aluR

theorem kept_execShl {b : Dev} : ∀ x f (s : State), Kept b s.dev → KeptO b s (execShl x f s) := by
  intro x f s h
  unfold execShl
  repeat' first
    | with_reducible first
      | assumption | apply kept_aluR

theorem kept_execShr {b : Dev} : ∀ x f (s : State), Kept b s.dev → KeptO b s (execShr x f s) := by
  intro x f s h
  unfold execShr
  repeat' first
    | with_reducible first
      | assumption | apply kept_aluR

theorem kept_execSra {b : Dev} : ∀ x f (s : State), Kept b s.dev → KeptO b s (execSra x f s) := by
  intro x f s h
  unfold execSra
  repeat' first
    | with_reducible first
      | assumption | apply kept_aluR

theorem kept_execMin {b : Dev} : ∀ x f (s : State), Kept b s.dev → KeptO b s (execMin x f s) := by
  intro x f s h
  unfold execMin
  repeat' first
    | with_reducible first
      | assumption | apply kept_aluR

theorem kept_execMax {b : Dev} : ∀ x f (s : State), Kept b s.dev → KeptO b s (execMax x f s) := by
  intro x f s h
  unfold execMax
  repeat' first
    | with_reducible first
      | assumption | apply kept_aluR

theorem kept_execAddi {b : Dev} : ∀ x f (s : State), Kept b s.dev → KeptO b s (execAddi x f s) := by
  intro x f s h
  unfold execAddi
  repeat' first
    | with_reducible first
      | assumption | apply kept_aluI

theorem kept_execAndi {b : Dev} : ∀ x f (s : State), Kept b s.dev → KeptO b s (execAndi x f s) := by
  intro x f s h
  unfold execAndi
  repeat' first
    | with_reducible first
      | assumption | apply kept_aluI

theorem kept_execOri {b : Dev} : ∀ x f (s : State), Kept b s.dev → KeptO b s (execOri x f s) := by
  intro x f s h
  unfold execOri
  repeat' first
    | with_reducible first
      | assumption | apply kept_aluI

theorem kept_execXori {b : Dev} : ∀ x f (s : State), Kept b s.dev → KeptO b s (execXori x f s) := by
  intro x f s h
  unfold execXori
  repeat' first
    | with_reducible first
      | assumption | apply kept_aluI

theorem kept_execShli {b : Dev} : ∀ x f (s : State), Kept b s.dev → KeptO b s (execShli x f s) := by
  intro x f s h
  unfold execShli
  repeat' first
    | with_reducible first
      | assumption | apply kept_aluI

theorem kept_execShri {b : Dev} : ∀ x f (s : State), Kept b s.dev → KeptO b s (execShri x f s) := by
  intro x f s h
  unfold execShri
  repeat' first
    | with_reducible first
      | assumption | apply kept_aluI

theorem kept_execSrai {b : Dev} : ∀ x f (s : State), Kept b s.dev → KeptO b s (execSrai x f s) := by
  intro x f s h
  unfold execSrai
  repeat' first
    | with_reducible first
      | assumption | apply kept_aluI

theorem kept_execMovi {b : Dev} : ∀ x f (s : State), Kept b s.dev → KeptO b s (execMovi x f s) := by
  intro x f s h
  unfold execMovi
  repeat' first
    | with_reducible first
      | assumption | apply KeptI.done | apply kept_issue | apply kept_updSlot
    | (intro _)

theorem kept_execCmpEq {b : Dev} : ∀ x f (s : State), Kept b s.dev → KeptO b s (execCmpEq x f s) := by
  intro x f s h
  unfold execCmpEq
  repeat' first
    | with_reducible first
      | assumption | apply kept_cmpR

theorem kept_execCmpNe {b : Dev} : ∀ x f (s : State), Kept b s.dev → KeptO b s (execCmpNe x f s) := by
  intro x f s h
  unfold execCmpNe
  repeat' first
    | with_reducible first
      | assumption | apply kept_cmpR

theorem kept_execCmpLt {b : Dev} : ∀ x f (s : State), Kept b s.dev → KeptO b s (execCmpLt x f s) := by
  intro x f s h
  unfold execCmpLt
  repeat' first
    | with_reducible first
      | assumption | apply kept_cmpR

theorem kept_execCmpLtu {b : Dev} : ∀ x f (s : State), Kept b s.dev → KeptO b s (execCmpLtu x f s) := by
  intro x f s h
  unfold execCmpLtu
  repeat' first
    | with_reducible first
      | assumption | apply kept_cmpR

theorem kept_execCmpLe {b : Dev} : ∀ x f (s : State), Kept b s.dev → KeptO b s (execCmpLe x f s) := by
  intro x f s h
  unfold execCmpLe
  repeat' first
    | with_reducible first
      | assumption | apply kept_cmpR

theorem kept_execCmpLeu {b : Dev} : ∀ x f (s : State), Kept b s.dev → KeptO b s (execCmpLeu x f s) := by
  intro x f s h
  unfold execCmpLeu
  repeat' first
    | with_reducible first
      | assumption | apply kept_cmpR

theorem kept_execPand {b : Dev} : ∀ x f (s : State), Kept b s.dev → KeptO b s (execPand x f s) := by
  intro x f s h
  unfold execPand
  repeat' first
    | with_reducible first
      | assumption | apply kept_predR

theorem kept_execPor {b : Dev} : ∀ x f (s : State), Kept b s.dev → KeptO b s (execPor x f s) := by
  intro x f s h
  unfold execPor
  repeat' first
    | with_reducible first
      | assumption | apply kept_predR

theorem kept_execPnot {b : Dev} : ∀ x f (s : State), Kept b s.dev → KeptO b s (execPnot x f s) := by
  intro x f s h
  unfold execPnot
  repeat' first
    | with_reducible first
      | assumption | apply kept_predR

theorem kept_execAaddi {b : Dev} : ∀ x f (s : State), Kept b s.dev → KeptO b s (execAaddi x f s) := by
  intro x f s h
  unfold execAaddi
  repeat' first
    | with_reducible first
      | assumption | apply KeptI.done | apply kept_issue | apply kept_updSlot
    | (intro _)

theorem kept_execAadds {b : Dev} : ∀ x f (s : State), Kept b s.dev → KeptO b s (execAadds x f s) := by
  intro x f s h
  unfold execAadds
  repeat' first
    | with_reducible first
      | assumption | apply KeptI.done | apply kept_issue | apply kept_updSlot
    | (intro _)

theorem kept_execAmovi {b : Dev} : ∀ x f (s : State), Kept b s.dev → KeptO b s (execAmovi x f s) := by
  intro x f s h
  unfold execAmovi
  repeat' first
    | with_reducible first
      | assumption | apply KeptI.done | apply kept_issue | apply kept_updSlot
    | (intro _)

theorem kept_execAhi {b : Dev} : ∀ x f (s : State), Kept b s.dev → KeptO b s (execAhi x f s) := by
  intro x f s h
  unfold execAhi
  repeat' first
    | with_reducible first
      | assumption | apply KeptI.done | apply kept_issue | apply kept_updSlot
    | (intro _)

theorem kept_execAmovs {b : Dev} : ∀ x f (s : State), Kept b s.dev → KeptO b s (execAmovs x f s) := by
  intro x f s h
  unfold execAmovs
  repeat' first
    | with_reducible first
      | assumption | apply KeptI.done | apply kept_issue | apply kept_updSlot
    | (intro _)

theorem kept_loadBody {b : Dev} : ∀ x f n wr (d : Dev), Kept b d → KeptI b (loadBody x f n wr d) := by
  intro x f n wr d h
  unfold loadBody
  repeat' first
    | with_reducible first
      | assumption | apply KeptI.done | apply KeptI.exc | apply kept_updSlot | apply kept_drawFree
    | dsimp only | split

theorem kept_storeBody {b : Dev} : ∀ x f n v (d : Dev), Kept b d → KeptI b (storeBody x f n v d) := by
  intro x f n v d h
  unfold storeBody
  repeat' first
    | with_reducible first
      | assumption | apply KeptI.done | apply KeptI.exc | apply kept_wrMem
    | dsimp only | split

theorem kept_execLd {b : Dev} : ∀ x f (s : State), Kept b s.dev → KeptO b s (execLd x f s) := by
  intro x f s h
  unfold execLd
  repeat' first
    | with_reducible first
      | assumption | apply kept_issue | apply kept_loadBody

theorem kept_execSt {b : Dev} : ∀ x f (s : State), Kept b s.dev → KeptO b s (execSt x f s) := by
  intro x f s h
  unfold execSt
  repeat' first
    | with_reducible first
      | assumption | apply kept_issue | apply kept_storeBody
    | (intro _)

theorem kept_execLda {b : Dev} : ∀ x f (s : State), Kept b s.dev → KeptO b s (execLda x f s) := by
  intro x f s h
  unfold execLda
  repeat' first
    | with_reducible first
      | assumption | apply kept_issue | apply kept_loadBody

theorem kept_execSta {b : Dev} : ∀ x f (s : State), Kept b s.dev → KeptO b s (execSta x f s) := by
  intro x f s h
  unfold execSta
  repeat' first
    | with_reducible first
      | assumption | apply kept_issue | apply kept_storeBody
    | (intro _)

theorem kept_branchTo {b : Dev} : ∀ k t (d : Dev), Kept b d → KeptI b (branchTo k t d) := by
  intro k t d h
  unfold branchTo
  repeat' first
    | with_reducible first
      | assumption | apply KeptI.jump | apply KeptI.exc | apply KeptI.ite

theorem kept_execB {b : Dev} : ∀ x f (s : State), Kept b s.dev → KeptO b s (execB x f s) := by
  intro x f s h
  unfold execB
  repeat' first
    | with_reducible first
      | assumption | apply kept_issue | apply kept_branchTo
    | (intro _)

theorem kept_execBal {b : Dev} : ∀ x f (s : State), Kept b s.dev → KeptO b s (execBal x f s) := by
  intro x f s h
  unfold execBal
  repeat' first
    | with_reducible first
      | assumption | apply kept_issue | apply kept_branchTo | apply kept_updSlot
    | (intro _)

theorem kept_execBr {b : Dev} : ∀ x f (s : State), Kept b s.dev → KeptO b s (execBr x f s) := by
  intro x f s h
  unfold execBr
  repeat' first
    | with_reducible first
      | assumption | apply kept_issue | apply kept_branchTo
    | (intro _)

theorem kept_execNop {b : Dev} : ∀ x f (s : State), Kept b s.dev → KeptO b s (execNop x f s) := by
  intro x f s h
  unfold execNop
  repeat' first
    | with_reducible first
      | assumption | apply KeptI.done | apply kept_issue

theorem kept_vecElem {b : Dev} : ∀ k base md f b0 i (d : Dev), Kept b d → Kept b (vecElem k base md f b0 i d) := by
  intro k base md f b0 i d h
  unfold vecElem
  repeat' first
    | with_reducible first
      | assumption | apply kept_raiseSlot | apply kept_wrMem

theorem kept_gdnPos {b : Dev} : ∀ k base md inv b0 i (d : Dev), Kept b d → Kept b (gdnPos k base md inv b0 i d) := by
  intro k base md inv b0 i d h
  unfold gdnPos
  repeat' first
    | with_reducible first
      | assumption | apply kept_raiseSlot | apply kept_wrMem

theorem kept_runVec {b : Dev} : ∀ k base md f b0 (d : Dev), Kept b d → Kept b (runVec k base md f b0 d) := by
  intro k base md f b0 d h
  unfold runVec
  repeat' first
    | with_reducible first
      | assumption | apply Kept.ite | apply kept_forEach | apply kept_gdnPos | apply kept_vecElem
    | (intro _)

theorem kept_poolRow {b : Dev} : ∀ k base md b0 w i (d : Dev), Kept b d → Kept b (poolRow k base md b0 w i d) := by
  intro k base md b0 w i d h
  unfold poolRow
  repeat' first
    | with_reducible first
      | assumption | apply kept_raiseSlot | apply kept_wrMem

theorem kept_runPool {b : Dev} : ∀ k base ws md b0 w (d : Dev), Kept b d → Kept b (runPool k base ws md b0 w d) := by
  intro k base ws md b0 w d h
  unfold runPool
  repeat' first
    | with_reducible first
      | assumption | apply Kept.ite | apply kept_drawEmpty | apply kept_forEach | apply kept_poolRow

theorem kept_vecIssue {b : Dev} : ∀ fn x f (s : State), Kept b s.dev → KeptO b s (vecIssue fn x f s) := by
  intro fn x f s h
  unfold vecIssue
  repeat' first
    | with_reducible first
      | assumption | apply kept_issue | apply kept_withBlock | apply kept_vet | apply kept_unitQueue
    | (intro _)

theorem kept_poolBody {b : Dev} : ∀ x f ws (d : Dev), Kept b d → KeptI b (poolBody x f ws d) := by
  intro x f ws d h
  unfold poolBody
  repeat' first
    | with_reducible first
      | assumption | apply KeptI.exc | apply KeptI.ite | apply kept_vet | apply kept_unitQueue
    | dsimp only | split

theorem kept_execVecPool {b : Dev} : ∀ x f (s : State), Kept b s.dev → KeptO b s (execVecPool x f s) := by
  intro x f s h
  unfold execVecPool
  repeat' first
    | with_reducible first
      | assumption | apply kept_issue | apply kept_withBlock | apply kept_poolBody
    | (intro _)

theorem kept_execVecAdd {b : Dev} : ∀ x f (s : State), Kept b s.dev → KeptO b s (execVecAdd x f s) := by
  intro x f s h
  unfold execVecAdd
  repeat' first
    | with_reducible first
      | assumption | apply kept_vecIssue

theorem kept_execVecSub {b : Dev} : ∀ x f (s : State), Kept b s.dev → KeptO b s (execVecSub x f s) := by
  intro x f s h
  unfold execVecSub
  repeat' first
    | with_reducible first
      | assumption | apply kept_vecIssue

theorem kept_execVecMul {b : Dev} : ∀ x f (s : State), Kept b s.dev → KeptO b s (execVecMul x f s) := by
  intro x f s h
  unfold execVecMul
  repeat' first
    | with_reducible first
      | assumption | apply kept_vecIssue

theorem kept_execVecFma {b : Dev} : ∀ x f (s : State), Kept b s.dev → KeptO b s (execVecFma x f s) := by
  intro x f s h
  unfold execVecFma
  repeat' first
    | with_reducible first
      | assumption | apply kept_vecIssue

theorem kept_execVecNeg {b : Dev} : ∀ x f (s : State), Kept b s.dev → KeptO b s (execVecNeg x f s) := by
  intro x f s h
  unfold execVecNeg
  repeat' first
    | with_reducible first
      | assumption | apply kept_vecIssue

theorem kept_execVecAbs {b : Dev} : ∀ x f (s : State), Kept b s.dev → KeptO b s (execVecAbs x f s) := by
  intro x f s h
  unfold execVecAbs
  repeat' first
    | with_reducible first
      | assumption | apply kept_vecIssue

theorem kept_execVecMin {b : Dev} : ∀ x f (s : State), Kept b s.dev → KeptO b s (execVecMin x f s) := by
  intro x f s h
  unfold execVecMin
  repeat' first
    | with_reducible first
      | assumption | apply kept_vecIssue

theorem kept_execVecMax {b : Dev} : ∀ x f (s : State), Kept b s.dev → KeptO b s (execVecMax x f s) := by
  intro x f s h
  unfold execVecMax
  repeat' first
    | with_reducible first
      | assumption | apply kept_vecIssue

theorem kept_execVecCeq {b : Dev} : ∀ x f (s : State), Kept b s.dev → KeptO b s (execVecCeq x f s) := by
  intro x f s h
  unfold execVecCeq
  repeat' first
    | with_reducible first
      | assumption | apply kept_vecIssue

theorem kept_execVecCne {b : Dev} : ∀ x f (s : State), Kept b s.dev → KeptO b s (execVecCne x f s) := by
  intro x f s h
  unfold execVecCne
  repeat' first
    | with_reducible first
      | assumption | apply kept_vecIssue

theorem kept_execVecClt {b : Dev} : ∀ x f (s : State), Kept b s.dev → KeptO b s (execVecClt x f s) := by
  intro x f s h
  unfold execVecClt
  repeat' first
    | with_reducible first
      | assumption | apply kept_vecIssue

theorem kept_execVecCle {b : Dev} : ∀ x f (s : State), Kept b s.dev → KeptO b s (execVecCle x f s) := by
  intro x f s h
  unfold execVecCle
  repeat' first
    | with_reducible first
      | assumption | apply kept_vecIssue

theorem kept_execVecSel {b : Dev} : ∀ x f (s : State), Kept b s.dev → KeptO b s (execVecSel x f s) := by
  intro x f s h
  unfold execVecSel
  repeat' first
    | with_reducible first
      | assumption | apply kept_vecIssue

theorem kept_execVecCvt {b : Dev} : ∀ x f (s : State), Kept b s.dev → KeptO b s (execVecCvt x f s) := by
  intro x f s h
  unfold execVecCvt
  repeat' first
    | with_reducible first
      | assumption | apply kept_vecIssue

theorem kept_execVecRcp {b : Dev} : ∀ x f (s : State), Kept b s.dev → KeptO b s (execVecRcp x f s) := by
  intro x f s h
  unfold execVecRcp
  repeat' first
    | with_reducible first
      | assumption | apply kept_vecIssue

theorem kept_execVecRsq {b : Dev} : ∀ x f (s : State), Kept b s.dev → KeptO b s (execVecRsq x f s) := by
  intro x f s h
  unfold execVecRsq
  repeat' first
    | with_reducible first
      | assumption | apply kept_vecIssue

theorem kept_execVecExp2 {b : Dev} : ∀ x f (s : State), Kept b s.dev → KeptO b s (execVecExp2 x f s) := by
  intro x f s h
  unfold execVecExp2
  repeat' first
    | with_reducible first
      | assumption | apply kept_vecIssue

theorem kept_execVecLog2 {b : Dev} : ∀ x f (s : State), Kept b s.dev → KeptO b s (execVecLog2 x f s) := by
  intro x f s h
  unfold execVecLog2
  repeat' first
    | with_reducible first
      | assumption | apply kept_vecIssue

theorem kept_execVecTanh {b : Dev} : ∀ x f (s : State), Kept b s.dev → KeptO b s (execVecTanh x f s) := by
  intro x f s h
  unfold execVecTanh
  repeat' first
    | with_reducible first
      | assumption | apply kept_vecIssue

theorem kept_execVecErf {b : Dev} : ∀ x f (s : State), Kept b s.dev → KeptO b s (execVecErf x f s) := by
  intro x f s h
  unfold execVecErf
  repeat' first
    | with_reducible first
      | assumption | apply kept_vecIssue

theorem kept_execVecGdn {b : Dev} : ∀ x f (s : State), Kept b s.dev → KeptO b s (execVecGdn x f s) := by
  intro x f s h
  unfold execVecGdn
  repeat' first
    | with_reducible first
      | assumption | apply kept_vecIssue

theorem kept_execVecIgdn {b : Dev} : ∀ x f (s : State), Kept b s.dev → KeptO b s (execVecIgdn x f s) := by
  intro x f s h
  unfold execVecIgdn
  repeat' first
    | with_reducible first
      | assumption | apply kept_vecIssue

theorem kept_runUnit {b : Dev} : ∀ core o (d : Dev), Kept b d → Kept b (runUnit core o d) := by
  intro core o d h
  unfold runUnit
  repeat' first
    | with_reducible first
      | assumption | apply kept_runQuant | apply kept_runRot | apply kept_runVec | apply kept_runPool
    | dsimp only | split

theorem kept_execUnitOperationComplete {b : Dev} : ∀ core vector (s : State), Kept b s.dev → KeptO b s (execUnitOperationComplete core vector s) := by
  intro core vector s h
  unfold execUnitOperationComplete
  repeat' first
    | with_reducible first
      | assumption | apply kept_whenDev | apply kept_unitKick | apply kept_postOpt | apply kept_drawFree | apply kept_runUnit
      | apply kept_updUnit
    | dsimp only | split

end Sys2Proof.Machine
end

