-- ==== Sys2Proof/Laws/KeptStreams.lean ====
section
/-! SUPPORT. What the operations of streams, the Quire path and waits keep
(Safety.lean, Kept). -/

set_option Elab.async false

namespace Sys2Proof.Machine

theorem kept_dropMarks {b : Dev} : ∀ k lo n (d : Dev), Kept b d → Kept b (dropMarks k lo n d) := by
  intro k lo n d h
  unfold dropMarks
  repeat' first
    | with_reducible first
      | assumption
    | dsimp only | refine Kept.same ?_ rfl rfl rfl rfl rfl rfl rfl

theorem kept_strmQueue {b : Dev} : ∀ x e r (d : Dev), Kept b d → KeptI b (strmQueue x e r d) := by
  intro x e r d h
  unfold strmQueue
  repeat' first
    | with_reducible first
      | assumption | apply KeptI.done | apply KeptI.full | apply KeptI.ite | apply kept_dropMarks | apply kept_updEng

theorem kept_strmGoBody {b : Dev} : ∀ x f ws (d : Dev), Kept b d → KeptI b (strmGoBody x f ws d) := by
  intro x f ws d h
  unfold strmGoBody
  repeat' first
    | with_reducible first
      | assumption | apply KeptI.exc | apply KeptI.ite | apply kept_vet | apply kept_strmQueue
    | dsimp only | split

theorem kept_execStrmGo {b : Dev} : ∀ x f (s : State), Kept b s.dev → KeptO b s (execStrmGo x f s) := by
  intro x f s h
  unfold execStrmGo
  repeat' first
    | with_reducible first
      | assumption | apply kept_issue | apply kept_withBlock | apply kept_strmGoBody
    | (intro _)

theorem kept_execStrmRearm {b : Dev} : ∀ x f (s : State), Kept b s.dev → KeptO b s (execStrmRearm x f s) := by
  intro x f s h
  unfold execStrmRearm
  repeat' first
    | with_reducible first
      | assumption | apply kept_issue | apply kept_withBlock | apply kept_strmGoBody
    | (intro _)

theorem kept_execStrmCancel {b : Dev} : ∀ x f (s : State), Kept b s.dev → KeptO b s (execStrmCancel x f s) := by
  intro x f s h
  unfold execStrmCancel
  repeat' first
    | with_reducible first
      | assumption | apply KeptI.done | apply KeptI.full | apply KeptI.ite | apply kept_issue | apply kept_updQuire
      | apply kept_cancelQuire | apply kept_updEng | apply kept_cancelEngine
    | (intro _) | refine Kept.same ?_ rfl rfl rfl rfl rfl rfl rfl

theorem kept_updRun {b : Dev} : ∀ key slot p g (d : Dev), Kept b d → Kept b (updRun key slot p g d) := by
  intro key slot p g d h
  unfold updRun
  repeat' first
    | with_reducible first
      | assumption | apply kept_updEng

theorem kept_execStreamStart {b : Dev} : ∀ x engine (s : State), Kept b s.dev → KeptO b s (execStreamStart x engine s) := by
  intro x engine s h
  unfold execStreamStart
  repeat' first
    | with_reducible first
      | assumption | apply kept_whenDev | apply kept_updRun
    | dsimp only | split

theorem kept_execTileCreditTaken {b : Dev} : ∀ x engine pattern (s : State), Kept b s.dev → KeptO b s (execTileCreditTaken x engine pattern s) := by
  intro x engine pattern s h
  unfold execTileCreditTaken
  repeat' first
    | with_reducible first
      | assumption | apply kept_whenDev | apply kept_semTake | apply kept_updRun
    | dsimp only | split

theorem kept_execStreamRequestIssue {b : Dev} : ∀ core engine (s : State), Kept b s.dev → KeptO b s (execStreamRequestIssue core engine s) := by
  intro core engine s h
  unfold execStreamRequestIssue
  repeat' first
    | with_reducible first
      | assumption | apply Kept.ite | apply kept_updEng | apply kept_whenDev | apply kept_updRun | apply kept_sendRemote
    | dsimp only | split | refine Kept.same ?_ rfl rfl rfl rfl rfl rfl rfl

theorem kept_postLink {b : Dev} : ∀ k key r pattern (d : Dev), Kept b d → Kept b (postLink k key r pattern d) := by
  intro k key r pattern d h
  unfold postLink
  repeat' first
    | with_reducible first
      | assumption | apply Kept.ite | apply kept_sendRemote | apply kept_forEach | apply kept_semPost
    | (intro _)

theorem kept_iter {b : Dev} (f : Dev → Dev) (hf : ∀ d, Kept b d → Kept b (f d)) (n : Nat) : ∀ (d : Dev), Kept b d → Kept b (iter f n d) := by
  induction n with
  | zero => intro d h; exact h
  | succ n ih => intro d h; exact ih _ (hf d h)

theorem kept_postTiles {b : Dev} (k key : Nat) (r : StrmRun) (d : Dev) (h : Kept b d) : Kept b (postTiles k key r d) := by
  unfold postTiles
  exact kept_updRun _ _ _ _ _ (kept_iter _ (kept_postLink _ _ _ _) _ _ (kept_iter _ (kept_postLink _ _ _ _) _ _ h))

theorem kept_writeElem {b : Dev} : ∀ d0 k r n bs (d : Dev), Kept b d → Kept b (writeElem d0 k r n bs d) := by
  intro d0 k r n bs d h
  unfold writeElem
  repeat' first
    | with_reducible first
      | assumption | apply Kept.ite | apply kept_emit | apply kept_devWrite | apply kept_forEach
    | (intro _) | dsimp only | split

theorem kept_settleTerm {b : Dev} : ∀ k key r (d : Dev), Kept b d → Kept b (settleTerm k key r d) := by
  intro k key r d h
  unfold settleTerm
  repeat' first
    | with_reducible first
      | assumption | apply Kept.ite | apply kept_updRun | apply kept_forEach | apply kept_postLink
    | (intro _) | dsimp only | split | refine Kept.same ?_ rfl rfl rfl rfl rfl rfl rfl

theorem kept_endRequest {b : Dev} : ∀ k key r q e (d : Dev), Kept b d → Kept b (endRequest k key r q e d) := by
  intro k key r q e d h
  unfold endRequest
  repeat' first
    | with_reducible first
      | assumption | apply Kept.ite | apply kept_updRun | apply kept_forEach | apply kept_writeElem | apply kept_postTiles
      | apply kept_settleTerm
    | (intro _)

theorem kept_execStreamRequestComplete {b : Dev} : ∀ x engine id r (s : State), Kept b s.dev → KeptO b s (execStreamRequestComplete x engine id r s) := by
  intro x engine id r s h
  unfold execStreamRequestComplete
  repeat' first
    | with_reducible first
      | assumption | apply Kept.ite | apply kept_ddrUncorrectable | apply kept_whenDev | apply kept_endRequest
    | dsimp only | split

theorem kept_finishRun {b : Dev} : ∀ k key r rest (d : Dev), Kept b d → Kept b (finishRun k key r rest d) := by
  intro k key r rest d h
  unfold finishRun
  repeat' first
    | with_reducible first
      | assumption | apply Kept.ite | apply kept_resetLinks | apply kept_wrMem | apply kept_raiseSlot | apply kept_keepStatus
      | apply kept_updEng | apply kept_postOpt

theorem kept_execStreamComplete {b : Dev} : ∀ x engine (s : State), Kept b s.dev → KeptO b s (execStreamComplete x engine s) := by
  intro x engine s h
  unfold execStreamComplete
  repeat' first
    | with_reducible first
      | assumption | apply KeptO.ite | apply kept_whenDev | apply kept_postOpt | apply kept_updQuire | apply kept_finishRun
      | apply kept_updEng
    | dsimp only | split

theorem kept_execCancelAbandon {b : Dev} : ∀ x engine (s : State), Kept b s.dev → KeptO b s (execCancelAbandon x engine s) := by
  intro x engine s h
  unfold execCancelAbandon
  repeat' first
    | with_reducible first
      | assumption | apply kept_whenDev | apply kept_updRun
    | dsimp only | split

theorem kept_sendPages {b : Dev} (fn n : Nat) : ∀ (d : Dev), Kept b d → Kept b (sendPages fn n d) := by
  induction n with
  | zero => intro d h; exact h
  | succ n ih =>
    intro d h
    unfold sendPages
    repeat' first
      | with_reducible assumption
      | with_reducible apply Kept.ite
      | with_reducible apply ih
      | with_reducible apply kept_emit
      | split
      | refine Kept.same ?_ rfl rfl rfl rfl rfl rfl rfl

theorem kept_addPage {b : Dev} : ∀ fn page u (d : Dev), Kept b d → Kept b (addPage fn page u d) := by
  intro fn page u d h
  unfold addPage
  repeat' first
    | with_reducible first
      | assumption | apply kept_sendPages
    | dsimp only | refine Kept.same ?_ rfl rfl rfl rfl rfl rfl rfl

theorem kept_answerStream {b : Dev} : ∀ ok core e slot page (d : Dev), Kept b d → Kept b (answerStream ok core e slot page d) := by
  intro ok core e slot page d h
  unfold answerStream
  repeat' first
    | with_reducible first
      | assumption | apply kept_updRun | apply kept_settleTerm
    | dsimp only | split

theorem kept_quireStart {b : Dev} : ∀ k o (d : Dev), Kept b d → Kept b (quireStart k o d) := by
  intro k o d h
  unfold quireStart
  repeat' first
    | with_reducible first
      | assumption | apply Kept.ite | apply kept_sendRemote

theorem kept_quireQueue {b : Dev} : ∀ x f b0 (d : Dev), Kept b d → KeptI b (quireQueue x f b0 d) := by
  intro x f b0 d h
  unfold quireQueue
  repeat' first
    | with_reducible first
      | assumption | apply KeptI.done | apply KeptI.full | apply KeptI.ite | apply Kept.ite | apply kept_updQuire
      | apply kept_quireStart
    | refine Kept.same ?_ rfl rfl rfl rfl rfl rfl rfl

theorem kept_quireBody {b : Dev} : ∀ x f ws (d : Dev), Kept b d → KeptI b (quireBody x f ws d) := by
  intro x f ws d h
  unfold quireBody
  repeat' first
    | with_reducible first
      | assumption | apply kept_vet | apply kept_quireQueue

theorem kept_execQuireCopy {b : Dev} : ∀ x f (s : State), Kept b s.dev → KeptO b s (execQuireCopy x f s) := by
  intro x f s h
  unfold execQuireCopy
  repeat' first
    | with_reducible first
      | assumption | apply kept_issue | apply kept_withBlock | apply kept_quireBody
    | (intro _)

theorem kept_execQuireSignal {b : Dev} : ∀ x f (s : State), Kept b s.dev → KeptO b s (execQuireSignal x f s) := by
  intro x f s h
  unfold execQuireSignal
  repeat' first
    | with_reducible first
      | assumption | apply kept_issue | apply kept_withBlock | apply kept_quireBody
    | (intro _)

theorem kept_execQuireWaitGrant {b : Dev} : ∀ core id (s : State), Kept b s.dev → KeptO b s (execQuireWaitGrant core id s) := by
  intro core id s h
  unfold execQuireWaitGrant
  repeat' first
    | with_reducible first
      | assumption | apply kept_whenDev | apply kept_quireStart | apply kept_semTake | apply kept_updQuire
    | dsimp only | split

theorem kept_quireEnd {b : Dev} : ∀ k st addr o (d : Dev), Kept b d → Kept b (quireEnd k st addr o d) := by
  intro k st addr o d h
  unfold quireEnd
  repeat' first
    | with_reducible first
      | assumption | apply kept_updQuire | apply kept_postOpt | apply kept_keepStatus

theorem kept_quirePost {b : Dev} : ∀ k b0 (d : Dev), Kept b d → Kept b (quirePost k b0 d) := by
  intro k b0 d h
  unfold quirePost
  repeat' first
    | with_reducible first
      | assumption | apply Kept.ite | apply kept_semPost | apply kept_sendRemote
    | split

theorem kept_quireWrite {b : Dev} : ∀ k o bs (d : Dev), Kept b d → Kept b (quireWrite k o bs d) := by
  intro k o bs d h
  unfold quireWrite
  repeat' first
    | with_reducible first
      | assumption | apply Kept.ite | apply kept_emit | apply kept_dispatchOpen | apply kept_queueCommand | apply kept_devWrite
    | split

theorem kept_quireCopyData {b : Dev} : ∀ k o e (d : Dev), Kept b d → Kept b (quireCopyData k o e d) := by
  intro k o e d h
  unfold quireCopyData
  repeat' first
    | with_reducible first
      | assumption | apply Kept.ite | apply kept_ddrUncorrectable | apply kept_quireEnd | apply kept_updQuire
      | apply kept_sendRemote | apply kept_quirePost | apply kept_quireWrite
    | dsimp only | split

theorem kept_quireSignalHere {b : Dev} : ∀ k o (d : Dev), Kept b d → Kept b (quireSignalHere k o d) := by
  intro k o d h
  unfold quireSignalHere
  repeat' first
    | with_reducible first
      | assumption | apply Kept.ite | apply kept_quireEnd | apply kept_quirePost
    | split

theorem kept_quireAnswer {b : Dev} : ∀ k o e (d : Dev), Kept b d → Kept b (quireAnswer k o e d) := by
  intro k o e d h
  unfold quireAnswer
  repeat' first
    | with_reducible first
      | assumption | apply kept_quireEnd | apply kept_quirePost
    | split

theorem kept_execQuireComplete {b : Dev} : ∀ core id r (s : State), Kept b s.dev → KeptO b s (execQuireComplete core id r s) := by
  intro core id r s h
  unfold execQuireComplete
  repeat' first
    | with_reducible first
      | assumption | apply KeptO.ite | apply kept_whenDev | apply kept_quireAnswer | apply kept_quireSignalHere
      | apply kept_quireCopyData
    | dsimp only | split

theorem kept_releaseHold {b : Dev} : ∀ k (d : Dev), Kept b d → Kept b (releaseHold k d) := by
  intro k d h
  unfold releaseHold
  repeat' first
    | with_reducible first
      | assumption | apply kept_retireAt

theorem kept_execSemPost {b : Dev} : ∀ x f (s : State), Kept b s.dev → KeptO b s (execSemPost x f s) := by
  intro x f s h
  unfold execSemPost
  repeat' first
    | with_reducible first
      | assumption | apply KeptI.done | apply KeptI.exc | apply KeptI.ite | apply kept_issue | apply kept_semPost
      | apply kept_semSet
    | (intro _)

theorem kept_execSemWait {b : Dev} : ∀ x f (s : State), Kept b s.dev → KeptO b s (execSemWait x f s) := by
  intro x f s h
  unfold execSemWait
  repeat' first
    | with_reducible first
      | assumption | apply KeptI.wait | apply kept_issue
    | (intro _)

theorem kept_execSemWaitGrant {b : Dev} : ∀ x (s : State), Kept b s.dev → KeptO b s (execSemWaitGrant x s) := by
  intro x s h
  unfold execSemWaitGrant
  repeat' first
    | with_reducible first
      | assumption | apply kept_whenDev | apply kept_releaseHold | apply kept_semTake
    | dsimp only | split

theorem kept_execTimeWait {b : Dev} : ∀ x f (s : State), Kept b s.dev → KeptO b s (execTimeWait x f s) := by
  intro x f s h
  unfold execTimeWait
  repeat' first
    | with_reducible first
      | assumption | apply KeptI.done | apply KeptI.wait | apply KeptI.exc | apply KeptI.ite | apply kept_issue
      | apply kept_updSlot
    | (intro _)

theorem kept_execTimeWaitEnd {b : Dev} : ∀ x (s : State), Kept b s.dev → KeptO b s (execTimeWaitEnd x s) := by
  intro x s h
  unfold execTimeWaitEnd
  repeat' first
    | with_reducible first
      | assumption | apply kept_whenDev | apply kept_releaseHold
    | dsimp only | split

theorem kept_execFence {b : Dev} : ∀ x f (s : State), Kept b s.dev → KeptO b s (execFence x f s) := by
  intro x f s h
  unfold execFence
  repeat' first
    | with_reducible first
      | assumption | apply KeptI.wait | apply kept_issue
    | (intro _)

theorem kept_execFenceRelease {b : Dev} : ∀ x (s : State), Kept b s.dev → KeptO b s (execFenceRelease x s) := by
  intro x s h
  unfold execFenceRelease
  repeat' first
    | with_reducible first
      | assumption | apply kept_whenDev | apply kept_releaseHold
    | dsimp only | split

theorem kept_execStrmWait {b : Dev} : ∀ x f (s : State), Kept b s.dev → KeptO b s (execStrmWait x f s) := by
  intro x f s h
  unfold execStrmWait
  repeat' first
    | with_reducible first
      | assumption | apply KeptI.wait | apply kept_issue
    | (intro _)

theorem kept_execStrmWaitRelease {b : Dev} : ∀ x (s : State), Kept b s.dev → KeptO b s (execStrmWaitRelease x s) := by
  intro x s h
  unfold execStrmWaitRelease
  repeat' first
    | with_reducible first
      | assumption | apply kept_whenDev | apply kept_releaseHold
    | dsimp only | split

theorem kept_execHalt {b : Dev} : ∀ x f (s : State), Kept b s.dev → KeptO b s (execHalt x f s) := by
  intro x f s h
  unfold execHalt
  repeat' first
    | with_reducible first
      | assumption | apply KeptI.wait | apply kept_issue
    | (intro _)

theorem kept_disarm {b : Dev} : ∀ core slot (d : Dev), Kept b d → Kept b (disarm core slot d) := by
  intro core slot d h
  unfold disarm
  repeat' first
    | with_reducible first
      | assumption | apply kept_forEach | apply kept_updEng
    | (intro _)

theorem kept_execHaltComplete {b : Dev} : ∀ x (s : State), Kept b s.dev → KeptO b s (execHaltComplete x s) := by
  intro x s h
  unfold execHaltComplete
  repeat' first
    | with_reducible first
      | assumption | apply kept_whenDev | apply kept_haltWork | apply kept_disarm | apply kept_updSlot

theorem kept_execWatchdogExpiry {b : Dev} : ∀ x (s : State), Kept b s.dev → KeptO b s (execWatchdogExpiry x s) := by
  intro x s h
  unfold execWatchdogExpiry
  repeat' first
    | with_reducible first
      | assumption | apply kept_whenDev | apply kept_stopSlot | apply kept_raiseEvent

theorem kept_clearSems {b : Dev} (core : Nat) (mask : W64) (d : Dev) (h : Kept b d) : Kept b (clearSems core mask d) :=
  ⟨h.mem, h.regs, fun g => semsOk_filter _ (h.sems g), h.retOk, h.ret, h.counters, h.out, h.aclk⟩

theorem kept_launchSlot {b : Dev} : ∀ k r h0 (d : Dev), Kept b d → Kept b (launchSlot k r h0 d) := by
  intro k r h0 d h
  unfold launchSlot
  repeat' first
    | with_reducible first
      | assumption | apply kept_zeroMem | apply kept_wrMem | apply kept_forEach | apply kept_clearSems | apply kept_updLoom
      | apply kept_updSlot
    | (intro _) | dsimp only | refine Kept.same ?_ rfl rfl rfl rfl rfl rfl rfl

theorem kept_execProgramLaunch {b : Dev} : ∀ x r (s : State), Kept b s.dev → KeptO b s (execProgramLaunch x r s) := by
  intro x r s h
  unfold execProgramLaunch
  repeat' first
    | with_reducible first
      | assumption | apply Kept.ite | apply kept_whenDev | apply kept_launchSlot | apply kept_launchRefused

theorem kept_execSlotReturnIdle {b : Dev} : ∀ x (s : State), Kept b s.dev → KeptO b s (execSlotReturnIdle x s) := by
  intro x s h
  unfold execSlotReturnIdle
  repeat' first
    | with_reducible first
      | assumption | apply kept_whenDev | apply kept_updSlot

end Sys2Proof.Machine
end

