-- ==== Sys2Proof/Laws/KeptLive.lean ====
section
/-! SUPPORT. What the operations of live ports, the Deckle and the encoder keep
(Safety.lean, Kept). -/

set_option Elab.async false

namespace Sys2Proof.Machine

theorem kept_setPort {b : Dev} : ∀ n p (d : Dev), Kept b d → Kept b (setPort n p d) := by
  intro n p d h
  unfold setPort
  repeat' first
    | with_reducible first
      | assumption
    | dsimp only | refine Kept.same ?_ rfl rfl rfl rfl rfl rfl rfl

theorem kept_bumpLoss {b : Dev} : ∀ n lines frames late (d : Dev), Kept b d → Kept b (bumpLoss n lines frames late d) := by
  intro n lines frames late d h
  unfold bumpLoss
  repeat' first
    | with_reducible first
      | assumption | apply kept_bumpF

theorem kept_endInput {b : Dev} : ∀ n p (d : Dev), Kept b d → KeptP b (endInput n p d) := by
  intro n p d h
  unfold endInput
  repeat' first
    | with_reducible first
      | assumption | apply kept_bumpLoss | apply KeptP.ite
    | dsimp only | split | with_reducible apply KeptP.pair

theorem kept_inputCpl {b : Dev} : ∀ n p frame status lost (d : Dev), Kept b d → Kept b (inputCpl n p frame status lost d) := by
  intro n p frame status lost d h
  unfold inputCpl
  repeat' first
    | with_reducible first
      | assumption | apply Kept.ite | apply kept_postCpl

theorem kept_reap {b : Dev} (n : Nat) (p : LivePort) (l : List FrameIn) : ∀ (d : Dev), Kept b d → KeptP b (reap n p l d) := by
  induction l with
  | nil => intro d h; exact ⟨h⟩
  | cons f l ih =>
    intro d h
    unfold reap
    split
    · exact ih _ (kept_inputCpl _ _ _ _ _ _ h)
    · exact ⟨h⟩

theorem kept_putPort {b : Dev} : ∀ n p (d : Dev), Kept b d → Kept b (putPort n p d) := by
  intro n p d h
  unfold putPort
  repeat' first
    | with_reducible first
      | assumption | apply kept_reap | apply kept_regPut | apply kept_setPort | apply KeptP.snd

theorem kept_beginFrame {b : Dev} : ∀ n f l capture ts p (d : Dev), Kept b d → KeptP b (beginFrame n f l capture ts p d) := by
  intro n f l capture ts p d h
  unfold beginFrame
  repeat' first
    | with_reducible first
      | assumption | apply kept_endInput | apply kept_bumpLoss | apply kept_forEach | apply kept_inputCpl | apply KeptP.snd
    | (intro _) | dsimp only | with_reducible apply KeptP.pair

theorem kept_liveRange {b : Dev} : ∀ off value (d : Dev), Kept b d → Kept b (liveRange off value d) := by
  intro off value d h
  unfold liveRange
  repeat' first
    | with_reducible first
      | assumption | apply kept_raiseEvent

theorem kept_execLivePortDoorbell {b : Dev} : ∀ off value (s : State), Kept b s.dev → KeptO b s (execLivePortDoorbell off value s) := by
  intro off value s h
  unfold execLivePortDoorbell
  repeat' first
    | with_reducible first
      | assumption | apply Kept.ite | apply kept_whenDev | apply kept_liveRange | apply kept_putPort | apply kept_beginFrame
      | apply KeptP.snd
    | dsimp only | split

theorem kept_advancePort {b : Dev} : ∀ n width marker p (d : Dev), Kept b d → KeptP b (advancePort n width marker p d) := by
  intro n width marker p d h
  unfold advancePort
  repeat' first
    | with_reducible first
      | assumption | apply kept_bumpLoss
    | dsimp only | split | with_reducible apply KeptP.pair

theorem kept_putSeg {b : Dev} : ∀ p g (d : Dev), Kept b d → Kept b (putSeg p g d) := by
  intro p g d h
  unfold putSeg
  repeat' first
    | with_reducible first
      | assumption | apply kept_forEach | apply kept_wrMem
    | (intro _)

theorem kept_latePkt {b : Dev} : ∀ n (d : Dev), Kept b d → Kept b (latePkt n d) := by
  intro n d h
  unfold latePkt
  repeat' first
    | with_reducible first
      | assumption | apply kept_bumpLoss

theorem kept_acceptVideo {b : Dev} : ∀ n k p (d : Dev), Kept b d → Kept b (acceptVideo n k p d) := by
  intro n k p d h
  unfold acceptVideo
  repeat' first
    | with_reducible first
      | assumption | apply kept_forEach | apply kept_putSeg | apply kept_advancePort | apply kept_putPort | apply KeptP.snd

theorem kept_videoPkt {b : Dev} : ∀ n k p (d : Dev), Kept b d → Kept b (videoPkt n k p d) := by
  intro n k p d h
  unfold videoPkt
  repeat' first
    | with_reducible first
      | assumption | apply Kept.ite | apply kept_beginFrame | apply kept_acceptVideo | apply kept_latePkt | apply KeptP.snd

theorem kept_audioSample {b : Dev} (n cap ts u : Nat) (vals : List Nat) (p : LivePort) (d : Dev) (h : Kept b d) :
    KeptP b (audioSample n cap ts u vals p d) := by
  unfold audioSample
  exact KeptP.ite ⟨h⟩ (kept_advancePort _ _ _ _ _ (kept_wrMem _ _ (KeptP.ite (kept_beginFrame _ _ _ _ _ _ _ h) ⟨h⟩).snd))

theorem kept_audioGroups {b : Dev} (n cap ts u : Nat) (l : List (List Nat × Nat)) : ∀ st : LivePort × Dev, KeptP b st →
    KeptP b (audioGroups n cap ts u l st) := by
  induction l with
  | nil => intro st h; exact h
  | cons g l ih => intro st h; unfold audioGroups; exact ih _ (kept_audioSample _ _ _ _ _ _ _ h.snd)

theorem kept_audioFrom {b : Dev} (n : Nat) (k : St2110Pkt) (cap ts u : Nat) (p : LivePort) (d : Dev) (h : Kept b d) :
    Kept b (audioFrom n k cap ts u p d) := by
  unfold audioFrom
  have hg := fun l q => kept_audioGroups (b := b) n cap ts u l (q, d) ⟨h⟩
  exact Kept.ite (kept_latePkt _ _ h) (kept_putPort _ _ _ (KeptP.ite (kept_advancePort _ _ _ _ _ (hg _ _).snd) (hg _ _)).snd)

theorem kept_audioPkt {b : Dev} (n : Nat) (k : St2110Pkt) (p : LivePort) (d : Dev) (h : Kept b d) : Kept b (audioPkt n k p d) := by
  unfold audioPkt
  extract_lets ts cap dt first
  clear_value first
  split
  · exact kept_latePkt _ _ h
  · exact kept_audioFrom _ _ _ _ _ _ _ h

theorem kept_execSt2110Packet {b : Dev} : ∀ p (s : State), Kept b s.dev → KeptO b s (execSt2110Packet p s) := by
  intro p s h
  unfold execSt2110Packet
  repeat' first
    | with_reducible first
      | assumption | apply Kept.ite | apply kept_whenDev | apply kept_audioPkt | apply kept_videoPkt
    | dsimp only | split

theorem kept_drawHost {b : Dev} : ∀ (d : Dev), Kept b d → Kept b (drawHost d) := by
  intro d h
  unfold drawHost
  repeat' first
    | with_reducible first
      | assumption
    | refine Kept.same ?_ rfl rfl rfl rfl rfl rfl rfl

theorem kept_beginOut {b : Dev} : ∀ f p (d : Dev), Kept b d → KeptP b (beginOut f p d) := by
  intro f p d h
  unfold beginOut
  repeat' first
    | with_reducible first
      | assumption | apply kept_wrMem | apply KeptP.ite
    | with_reducible apply KeptP.pair

theorem kept_endOut {b : Dev} : ∀ f p (d : Dev), Kept b d → KeptP b (endOut f p d) := by
  intro f p d h
  unfold endOut
  repeat' first
    | with_reducible first
      | assumption | apply kept_wrMem
    | dsimp only | with_reducible apply KeptP.pair

theorem kept_execAudioBlockWrite {b : Dev} : ∀ port img (s : State), Kept b s.dev → KeptO b s (execAudioBlockWrite port img s) := by
  intro port img s h
  unfold execAudioBlockWrite
  repeat' first
    | with_reducible first
      | assumption | apply kept_beginOut | apply kept_drawHost | apply kept_wrMem | apply kept_endOut | apply kept_whenDev
      | apply kept_putPort | apply KeptP.ite | apply KeptP.snd
    | dsimp only | split | with_reducible apply KeptP.pair

theorem kept_execLineWait {b : Dev} : ∀ x f (s : State), Kept b s.dev → KeptO b s (execLineWait x f s) := by
  intro x f s h
  unfold execLineWait
  repeat' first
    | with_reducible first
      | assumption | apply KeptI.wait | apply kept_issue
    | (intro _)

theorem kept_execLineWaitEnd {b : Dev} : ∀ x (s : State), Kept b s.dev → KeptO b s (execLineWaitEnd x s) := by
  intro x s h
  unfold execLineWaitEnd
  repeat' first
    | with_reducible first
      | assumption | apply kept_whenDev | apply kept_releaseHold | apply kept_updSlot
    | dsimp only | split

theorem kept_showMse {b : Dev} : ∀ (d : Dev), Kept b d → Kept b (showMse d) := by
  intro d h
  unfold showMse
  repeat' first
    | with_reducible first
      | assumption | apply kept_forEach | apply kept_setF
    | (intro _)

theorem kept_unbindPort {b : Dev} : ∀ n (d : Dev), Kept b d → Kept b (unbindPort n d) := by
  intro n d h
  unfold unbindPort
  repeat' first
    | with_reducible first
      | assumption | apply kept_showMse | apply kept_forEach | apply kept_regPut
    | (intro _) | dsimp only | refine Kept.same ?_ rfl rfl rfl rfl rfl rfl rfl

theorem kept_zeroLanes {b : Dev} : ∀ p k (d : Dev), Kept b d → Kept b (zeroLanes p k d) := by
  intro p k d h
  unfold zeroLanes
  repeat' first
    | with_reducible first
      | assumption | apply Kept.ite | apply kept_forEach | apply kept_wrMem
    | (intro _)

theorem kept_writeRow {b : Dev} : ∀ img p f y d0 (d : Dev), Kept b d → Kept b (writeRow img p f y d0 d) := by
  intro img p f y d0 d h
  unfold writeRow
  repeat' first
    | with_reducible first
      | assumption | apply Kept.ite | apply kept_forEach | apply kept_wrMem | apply kept_zeroLanes
    | (intro _)

theorem kept_execDeckleRow {b : Dev} : ∀ port img (s : State), Kept b s.dev → KeptO b s (execDeckleRow port img s) := by
  intro port img s h
  unfold execDeckleRow
  repeat' first
    | with_reducible first
      | assumption | apply kept_beginOut | apply kept_drawHost | apply kept_writeRow | apply kept_endOut | apply kept_whenDev
      | apply kept_putPort | apply KeptP.ite | apply KeptP.snd
    | dsimp only | split | with_reducible apply KeptP.pair

theorem kept_writeBand {b : Dev} : ∀ p j (d : Dev), Kept b d → Kept b (writeBand p j d) := by
  intro p j d h
  unfold writeBand
  repeat' first
    | with_reducible first
      | assumption | apply Kept.ite | apply kept_forEach | apply kept_wrMem | apply kept_setF | apply kept_semPost
    | (intro _)

theorem kept_execMseBand {b : Dev} : ∀ port (s : State), Kept b s.dev → KeptO b s (execMseBand port s) := by
  intro port s h
  unfold execMseBand
  repeat' first
    | with_reducible first
      | assumption | apply kept_whenDev | apply kept_putPort | apply kept_writeBand
    | dsimp only | split

theorem kept_returnBuf {b : Dev} : ∀ i x b0 (d : Dev), Kept b d → Kept b (returnBuf i x b0 d) := by
  intro i x b0 d h
  unfold returnBuf
  repeat' first
    | with_reducible first
      | assumption | apply kept_postCpl

theorem kept_storeUnit {b : Dev} : ∀ i bytes (d : Dev), Kept b d → KeptP b (storeUnit i bytes d) := by
  intro i bytes d h
  unfold storeUnit
  repeat' first
    | with_reducible first
      | assumption | apply kept_forEach | apply kept_returnBuf | apply kept_updSess | apply kept_emit
    | dsimp only | split | with_reducible apply KeptP.pair

theorem kept_updFrame {b : Dev} : ∀ i f (d : Dev), Kept b d → Kept b (updFrame i f d) := by
  intro i f d h
  unfold updFrame
  repeat' first
    | with_reducible first
      | assumption | apply kept_updSess

theorem kept_dropUnit {b : Dev} : ∀ i (d : Dev), Kept b d → Kept b (dropUnit i d) := by
  intro i d h
  unfold dropUnit
  repeat' first
    | with_reducible first
      | assumption | apply kept_updFrame | apply kept_bumpF
    | dsimp only | split

theorem kept_putHeader {b : Dev} : ∀ i type body (d : Dev), Kept b d → Kept b (putHeader i type body d) := by
  intro i type body d h
  unfold putHeader
  repeat' first
    | with_reducible first
      | assumption | apply kept_updFrame | apply kept_dropUnit
    | (refine KeptP.of_eq (?_) (by assumption); with_reducible apply kept_storeUnit) | split

theorem kept_noteLatency {b : Dev} : ∀ x num slice (d : Dev), Kept b d → Kept b (noteLatency x num slice d) := by
  intro x num slice d h
  unfold noteLatency
  repeat' first
    | with_reducible first
      | assumption | apply Kept.ite | apply kept_setF | apply kept_bumpF
    | dsimp only | split

theorem kept_noteSlice {b : Dev} : ∀ i slice coded (d : Dev), Kept b d → Kept b (noteSlice i slice coded d) := by
  intro i slice coded d h
  unfold noteSlice
  repeat' first
    | with_reducible first
      | assumption | apply kept_updFrame
    | dsimp only | split | refine Kept.same ?_ rfl rfl rfl rfl rfl rfl rfl

theorem kept_outputCoded {b : Dev} : ∀ i type hdr bytes (d : Dev), Kept b d → Kept b (outputCoded i type hdr bytes d) := by
  intro i type hdr bytes d h
  unfold outputCoded
  repeat' first
    | with_reducible first
      | assumption | apply kept_noteSlice | apply kept_updFrame | apply kept_postCpl | apply kept_noteLatency
      | apply kept_dropUnit
    | (refine KeptP.of_eq (?_) (by assumption); with_reducible apply kept_storeUnit) | dsimp only | split

theorem kept_failCoded {b : Dev} : ∀ i st (d : Dev), Kept b d → Kept b (failCoded i st d) := by
  intro i st d h
  unfold failCoded
  repeat' first
    | with_reducible first
      | assumption | apply kept_noteFrame

theorem kept_putHeaders {b : Dev} : ∀ i x num q intra (d : Dev), Kept b d → Kept b (putHeaders i x num q intra d) := by
  intro i x num q intra d h
  unfold putHeaders
  repeat' first
    | with_reducible first
      | assumption | apply Kept.ite | apply kept_putHeader
    | split | refine Kept.same ?_ rfl rfl rfl rfl rfl rfl rfl

end Sys2Proof.Machine
end

