-- ==== Sys2Proof/Laws/KeptFelt.lean ====
section
/-! SUPPORT. What the operations of entropy engines, the decoder and port commands keep
(Safety.lean, Kept). -/

set_option Elab.async false

namespace Sys2Proof.Machine

theorem kept_grantLease {b : Dev} : ∀ o e w fs load (d : Dev), Kept b d → Kept b (grantLease o e w fs load d) := by
  intro o e w fs load d h
  unfold grantLease
  repeat' first
    | with_reducible first
      | assumption | apply Kept.ite | apply kept_updEngSt | apply kept_setF | apply kept_setLease | apply kept_replyRecord
    | dsimp only | refine Kept.same ?_ rfl rfl rfl rfl rfl rfl rfl

theorem kept_execLeaseGrant {b : Dev} : ∀ (s : State), Kept b s.dev → KeptO b s (execLeaseGrant s) := by
  intro s h
  unfold execLeaseGrant
  repeat' first
    | with_reducible first
      | assumption | apply kept_whenDev | apply kept_grantLease
    | dsimp only | split

theorem kept_countFail {b : Dev} : ∀ e st (d : Dev), Kept b d → Kept b (countFail e st d) := by
  intro e st d h
  unfold countFail
  repeat' first
    | with_reducible first
      | assumption | apply Kept.ite | apply kept_bumpF

theorem kept_leaseFailed {b : Dev} : ∀ st l (d : Dev), Kept b d → Kept b (leaseFailed st l d) := by
  intro st l d h
  unfold leaseFailed
  repeat' first
    | with_reducible first
      | assumption | apply Kept.ite | apply kept_failCoded

theorem kept_failCmd {b : Dev} : ∀ e w st err l (d : Dev), Kept b d → Kept b (failCmd e w st err l d) := by
  intro e w st err l d h
  unfold failCmd
  repeat' first
    | with_reducible first
      | assumption | apply kept_leaseFailed | apply kept_completeCmd | apply kept_countFail

theorem kept_copyFamily {b : Dev} : ∀ e fs f lo img (d : Dev), Kept b d → Kept b (copyFamily e fs f lo img d) := by
  intro e fs f lo img d h
  unfold copyFamily
  repeat' first
    | with_reducible first
      | assumption | apply kept_wrMem | apply kept_showEng | apply kept_updEngSt

theorem kept_failFamily {b : Dev} : ∀ e fs (d : Dev), Kept b d → Kept b (failFamily e fs d) := by
  intro e fs d h
  unfold failFamily
  repeat' first
    | with_reducible first
      | assumption | apply kept_showEng | apply kept_updEngSt | apply kept_forEach | apply kept_leaseFailed
      | apply kept_setLease | apply kept_countFail
    | (intro _)

theorem kept_execFamilyCopy {b : Dev} : ∀ engine fs r (s : State), Kept b s.dev → KeptO b s (execFamilyCopy engine fs r s) := by
  intro engine fs r s h
  unfold execFamilyCopy
  repeat' first
    | with_reducible first
      | assumption | apply Kept.ite | apply kept_whenDev | apply kept_copyFamily | apply kept_failFamily
      | apply kept_ddrUncorrectable
    | dsimp only | split

theorem kept_onHead {b : Dev} (e : Fin 16) (w : Fin 5) (p : EntCmd → Bool) (f : EntCmd → Lease → Dev → Dev) (s : State)
    (hf : ∀ c l d, Kept b d → Kept b (f c l d)) (h : Kept b s.dev) : KeptO b s (onHead e w p f s) := by
  unfold onHead
  dsimp only
  split
  · split
    · exact kept_whenDev _ _ _ (hf _ _ _ (kept_updEngSt _ _ _ h))
    · exact kept_whenDev _ _ _ h
  · exact kept_whenDev _ _ _ h

theorem kept_putSyms {b : Dev} : ∀ e w base vs (d : Dev), Kept b d → Kept b (putSyms e w base vs d) := by
  intro e w base vs d h
  unfold putSyms
  repeat' first
    | with_reducible first
      | assumption | apply kept_wrMem

theorem kept_noteEngine {b : Dev} : ∀ e n f (d : Dev), Kept b d → Kept b (noteEngine e n f d) := by
  intro e n f d h
  unfold noteEngine
  repeat' first
    | with_reducible first
      | assumption | apply Kept.ite | apply kept_setF | apply kept_regPut

theorem kept_stepEncode {b : Dev} : ∀ e w last param count base l (d : Dev), Kept b d → Kept b (stepEncode e w last param count base l d) := by
  intro e w last param count base l d h
  unfold stepEncode
  repeat' first
    | with_reducible first
      | assumption | apply Kept.ite | apply kept_noteEngine | apply kept_putSyms | apply kept_failCmd | apply kept_completeCmd

theorem kept_stepDecode {b : Dev} : ∀ e w last param count base l (d : Dev), Kept b d → Kept b (stepDecode e w last param count base l d) := by
  intro e w last param count base l d h
  unfold stepDecode
  repeat' first
    | with_reducible first
      | assumption | apply Kept.ite | apply kept_failCmd | apply kept_noteEngine | apply kept_putSyms | apply kept_completeCmd
    | dsimp only | split

theorem kept_runStep {b : Dev} : ∀ e w ok step last param count base l (d : Dev), Kept b d → Kept b (runStep e w ok step last param count base l d) := by
  intro e w ok step last param count base l d h
  unfold runStep
  repeat' first
    | with_reducible first
      | assumption | apply Kept.ite | apply kept_completeCmd | apply kept_putSyms | apply kept_stepDecode
      | apply kept_stepEncode
    | dsimp only | split

theorem kept_execStep {b : Dev} : ∀ engine window (s : State), Kept b s.dev → KeptO b s (execStep engine window s) := by
  intro engine window s h
  unfold execStep
  repeat' first
    | with_reducible first
      | assumption | apply kept_onHead | apply kept_runStep
    | (intro _) | split

theorem kept_runLoad {b : Dev} : ∀ e w ok nSteps payOff len l (d : Dev), Kept b d → Kept b (runLoad e w ok nSteps payOff len l d) := by
  intro e w ok nSteps payOff len l d h
  unfold runLoad
  repeat' first
    | with_reducible first
      | assumption | apply Kept.ite | apply kept_completeCmd | apply kept_failCmd
    | split

theorem kept_execLoad {b : Dev} : ∀ engine window (s : State), Kept b s.dev → KeptO b s (execLoad engine window s) := by
  intro engine window s h
  unfold execLoad
  repeat' first
    | with_reducible first
      | assumption | apply kept_onHead | apply kept_runLoad
    | (intro _) | split

theorem kept_closeEncode {b : Dev} : ∀ e w hdrLen l (d : Dev), Kept b d → Kept b (closeEncode e w hdrLen l d) := by
  intro e w hdrLen l d h
  unfold closeEncode
  repeat' first
    | with_reducible first
      | assumption | apply Kept.ite | apply kept_failCmd | apply kept_completeCmd | apply kept_wrMem | apply kept_noteFrame
      | apply kept_outputCoded

theorem kept_closeDecode {b : Dev} : ∀ e w l (d : Dev), Kept b d → Kept b (closeDecode e w l d) := by
  intro e w l d h
  unfold closeDecode
  repeat' first
    | with_reducible first
      | assumption | apply Kept.ite | apply kept_failCmd | apply kept_completeCmd
    | refine Kept.same ?_ rfl rfl rfl rfl rfl rfl rfl

theorem kept_runClose {b : Dev} : ∀ e w ok hdrLen l (d : Dev), Kept b d → Kept b (runClose e w ok hdrLen l d) := by
  intro e w ok hdrLen l d h
  unfold runClose
  repeat' first
    | with_reducible first
      | assumption | apply Kept.ite | apply kept_completeCmd | apply kept_closeEncode | apply kept_closeDecode
    | split

theorem kept_execClose {b : Dev} : ∀ engine window (s : State), Kept b s.dev → KeptO b s (execClose engine window s) := by
  intro engine window s h
  unfold execClose
  repeat' first
    | with_reducible first
      | assumption | apply kept_onHead | apply kept_runClose
    | (intro _) | split

theorem kept_execRelease {b : Dev} : ∀ engine window (s : State), Kept b s.dev → KeptO b s (execRelease engine window s) := by
  intro engine window s h
  unfold execRelease
  repeat' first
    | with_reducible first
      | assumption | apply kept_onHead | apply kept_freeWindow | apply kept_completeCmd
    | (intro _) | split

theorem kept_updDec {b : Dev} : ∀ i f (d : Dev), Kept b d → Kept b (updDec i f d) := by
  intro i f d h
  unfold updDec
  repeat' first
    | with_reducible first
      | assumption | apply kept_updSess

theorem kept_discardUnit {b : Dev} : ∀ i (d : Dev), Kept b d → Kept b (discardUnit i d) := by
  intro i d h
  unfold discardUnit
  repeat' first
    | with_reducible first
      | assumption | apply kept_updDec

theorem kept_frameReport {b : Dev} : ∀ i num concealed intra drift a fl (d : Dev), Kept b d → Kept b (frameReport i num concealed intra drift a fl d) := by
  intro i num concealed intra drift a fl d h
  unfold frameReport
  repeat' first
    | with_reducible first
      | assumption | apply kept_emit | apply kept_updFrame | apply kept_updDec
    | dsimp only | split

theorem kept_concealSlice {b : Dev} : ∀ i k (d : Dev), Kept b d → Kept b (concealSlice i k d) := by
  intro i k d h
  unfold concealSlice
  repeat' first
    | with_reducible first
      | assumption | apply kept_updDec

theorem kept_concealRun {b : Dev} : ∀ i lo hi (d : Dev), Kept b d → Kept b (concealRun i lo hi d) := by
  intro i lo hi d h
  unfold concealRun
  repeat' first
    | with_reducible first
      | assumption | apply kept_forEach | apply kept_concealSlice

theorem kept_closeFrame {b : Dev} : ∀ i (d : Dev), Kept b d → Kept b (closeFrame i d) := by
  intro i d h
  unfold closeFrame
  repeat' first
    | with_reducible first
      | assumption | apply kept_concealRun | apply kept_updDec | apply kept_frameReport
    | dsimp only | split

theorem kept_closeOpen {b : Dev} : ∀ i (d : Dev), Kept b d → Kept b (closeOpen i d) := by
  intro i d h
  unfold closeOpen
  repeat' first
    | with_reducible first
      | assumption | apply Kept.ite | apply kept_closeFrame

theorem kept_takeAnchor {b : Dev} : ∀ i num (d : Dev), Kept b d → KeptP b (takeAnchor i num d) := by
  intro i num d h
  unfold takeAnchor
  repeat' first
    | with_reducible first
      | assumption | apply kept_updDec | apply kept_discardUnit | apply KeptP.ite
    | dsimp only | split | with_reducible apply KeptP.pair

theorem kept_openFrame {b : Dev} : ∀ i num q intra (d : Dev), Kept b d → Kept b (openFrame i num q intra d) := by
  intro i num q intra d h
  unfold openFrame
  repeat' first
    | with_reducible first
      | assumption | apply kept_takeAnchor | apply kept_updFrame | apply kept_updDec | apply KeptP.snd

theorem kept_onUnit {b : Dev} (sess : BitVec 16) (ty : Nat) (ok : Sess → List Byte → Bool) (f : Sess → List Byte → Dev → Dev) (s : State)
    (hf : ∀ x bs d, Kept b d → Kept b (f x bs d)) (h : Kept b s.dev) : KeptO b s (onUnit sess ty ok f s) := by
  unfold onUnit
  dsimp only
  split
  · split
    · exact kept_whenDev _ _ _ (hf _ _ _ (kept_updFrame _ _ _ h))
    · exact kept_whenDev _ _ _ h
  · exact kept_whenDev _ _ _ h

theorem kept_execSequenceHeader {b : Dev} : ∀ sess (s : State), Kept b s.dev → KeptO b s (execSequenceHeader sess s) := by
  intro sess s h
  unfold execSequenceHeader
  repeat' first
    | with_reducible first
      | assumption | apply Kept.ite | apply kept_onUnit | apply kept_closeOpen | apply kept_updDec | apply kept_updFrame
    | (intro _)

theorem kept_execFrameHeader {b : Dev} : ∀ sess (s : State), Kept b s.dev → KeptO b s (execFrameHeader sess s) := by
  intro sess s h
  unfold execFrameHeader
  repeat' first
    | with_reducible first
      | assumption | apply Kept.ite | apply kept_onUnit | apply kept_discardUnit | apply kept_closeOpen | apply kept_openFrame
    | (intro _) | dsimp only | split

theorem kept_takeLease {b : Dev} : ∀ i r (d : Dev), Kept b d → Kept b (takeLease i r d) := by
  intro i r d h
  unfold takeLease
  repeat' first
    | with_reducible first
      | assumption | apply kept_noteFrame | apply kept_setLease

theorem kept_execSlice {b : Dev} : ∀ sess lease (s : State), Kept b s.dev → KeptO b s (execSlice sess lease s) := by
  intro sess lease s h
  unfold execSlice
  repeat' first
    | with_reducible first
      | assumption | apply Kept.ite | apply kept_onUnit | apply kept_takeLease | apply kept_concealRun
      | apply kept_concealSlice | apply kept_updDec | apply kept_discardUnit
    | (intro _) | dsimp only | split | refine Kept.same ?_ rfl rfl rfl rfl rfl rfl rfl

theorem kept_concealAudio {b : Dev} : ∀ i num (d : Dev), Kept b d → Kept b (concealAudio i num d) := by
  intro i num d h
  unfold concealAudio
  repeat' first
    | with_reducible first
      | assumption | apply kept_frameReport

theorem kept_decodeAudio {b : Dev} : ∀ i num r (d : Dev), Kept b d → Kept b (decodeAudio i num r d) := by
  intro i num r d h
  unfold decodeAudio
  repeat' first
    | with_reducible first
      | assumption | apply kept_forEach | apply kept_concealAudio | apply kept_updDec | apply kept_takeAnchor
      | apply kept_takeLease | apply kept_frameReport | apply KeptP.snd
    | (intro _) | split | refine Kept.same ?_ rfl rfl rfl rfl rfl rfl rfl

theorem kept_execAudioFrame {b : Dev} : ∀ sess lease (s : State), Kept b s.dev → KeptO b s (execAudioFrame sess lease s) := by
  intro sess lease s h
  unfold execAudioFrame
  repeat' first
    | with_reducible first
      | assumption | apply kept_onUnit | apply kept_decodeAudio | apply kept_discardUnit | apply kept_closeOpen
    | (intro _) | split

theorem kept_execTimeAnchor {b : Dev} : ∀ sess (s : State), Kept b s.dev → KeptO b s (execTimeAnchor sess s) := by
  intro sess s h
  unfold execTimeAnchor
  repeat' first
    | with_reducible first
      | assumption | apply Kept.ite | apply kept_onUnit | apply kept_closeOpen | apply kept_discardUnit | apply kept_updDec
    | (intro _) | dsimp only | split

theorem kept_ignoreUnit {b : Dev} : ∀ i x ok (d : Dev), Kept b d → Kept b (ignoreUnit i x ok d) := by
  intro i x ok d h
  unfold ignoreUnit
  repeat' first
    | with_reducible first
      | assumption | apply Kept.ite | apply kept_discardUnit

theorem kept_execPadding {b : Dev} : ∀ sess (s : State), Kept b s.dev → KeptO b s (execPadding sess s) := by
  intro sess s h
  unfold execPadding
  repeat' first
    | with_reducible first
      | assumption | apply kept_onUnit | apply kept_ignoreUnit
    | (intro _)

theorem kept_execEndOfSequence {b : Dev} : ∀ sess (s : State), Kept b s.dev → KeptO b s (execEndOfSequence sess s) := by
  intro sess s h
  unfold execEndOfSequence
  repeat' first
    | with_reducible first
      | assumption | apply Kept.ite | apply kept_onUnit | apply kept_discardUnit | apply kept_updDec | apply kept_closeOpen
    | (intro _) | split

theorem kept_execUserData {b : Dev} : ∀ sess (s : State), Kept b s.dev → KeptO b s (execUserData sess s) := by
  intro sess s h
  unfold execUserData
  repeat' first
    | with_reducible first
      | assumption | apply kept_onUnit | apply kept_ignoreUnit
    | (intro _)

theorem kept_execDiscardedUnit {b : Dev} : ∀ sess (s : State), Kept b s.dev → KeptO b s (execDiscardedUnit sess s) := by
  intro sess s h
  unfold execDiscardedUnit
  repeat' first
    | with_reducible first
      | assumption | apply kept_whenDev | apply kept_discardUnit | apply kept_updFrame
    | dsimp only | split

theorem kept_allocRegion {b : Dev} : ∀ a n (d : Dev), Kept b d → Kept b (allocRegion a n d) := by
  intro a n d h
  unfold allocRegion
  repeat' first
    | with_reducible first
      | assumption
    | dsimp only | refine Kept.same ?_ rfl rfl rfl rfl rfl rfl rfl

theorem kept_freeRegion {b : Dev} : ∀ a (d : Dev), Kept b d → Kept b (freeRegion a d) := by
  intro a d h
  unfold freeRegion
  repeat' first
    | with_reducible first
      | assumption
    | dsimp only | refine Kept.same ?_ rfl rfl rfl rfl rfl rfl rfl

theorem kept_relevel {b : Dev} : ∀ (d : Dev), Kept b d → Kept b (relevel d) := by
  intro d h
  unfold relevel
  repeat' first
    | with_reducible first
      | assumption | apply kept_setF
    | dsimp only | refine Kept.same ?_ rfl rfl rfl rfl rfl rfl rfl

theorem kept_bindPort {b : Dev} : ∀ i n x c die dck mse cores p (d : Dev), Kept b d → Kept b (bindPort i n x c die dck mse cores p d) := by
  intro i n x c die dck mse cores p d h
  unfold bindPort
  repeat' first
    | with_reducible first
      | assumption | apply kept_wrMem | apply kept_regPut | apply kept_relevel | apply kept_showMse | apply kept_putPort
      | apply kept_updSess
    | dsimp only | split | refine Kept.same ?_ rfl rfl rfl rfl rfl rfl rfl

theorem kept_releasePort {b : Dev} : ∀ i (d : Dev), Kept b d → Kept b (releasePort i d) := by
  intro i d h
  unfold releasePort
  repeat' first
    | with_reducible first
      | assumption | apply Kept.ite | apply kept_sweepLines | apply kept_unbindPort | apply kept_relevel | apply kept_updSess
    | dsimp only | split | refine Kept.same ?_ rfl rfl rfl rfl rfl rfl rfl

theorem kept_wrongState {b : Dev} : ∀ x (d : Dev), Kept b d → Kept b (wrongState x d) := by
  intro x d h
  unfold wrongState
  repeat' first
    | with_reducible first
      | assumption | apply kept_finishDesc
    | split

theorem kept_runPortBind {b : Dev} : ∀ x y port r plan (d : Dev), Kept b d → Kept b (runPortBind x y port r plan d) := by
  intro x y port r plan d h
  unfold runPortBind
  repeat' first
    | with_reducible first
      | assumption | apply Kept.ite | apply kept_finishDesc | apply kept_bindPort
    | dsimp only | split

theorem kept_execPortBind {b : Dev} : ∀ uid port r plan (s : State), Kept b s.dev → KeptO b s (execPortBind uid port r plan s) := by
  intro uid port r plan s h
  unfold execPortBind
  repeat' first
    | with_reducible first
      | assumption | apply KeptO.ite | apply kept_whenDev | apply kept_runPortBind | apply kept_wrongState
    | dsimp only | split

theorem kept_execPortUnbind {b : Dev} : ∀ uid (s : State), Kept b s.dev → KeptO b s (execPortUnbind uid s) := by
  intro uid s h
  unfold execPortUnbind
  repeat' first
    | with_reducible first
      | assumption | apply Kept.ite | apply kept_onDesc | apply kept_finishDesc | apply kept_releasePort
      | apply kept_wrongState
    | (intro _) | split

end Sys2Proof.Machine
end

