-- ==== Sys2Proof/Laws/KeptHost.lean ====
section
/-! SUPPORT. What the operations of the Press, sessions, frames, bundles, jobs and pages keep
(Safety.lean, Kept). -/

set_option Elab.async false

namespace Sys2Proof.Machine

theorem kept_setPressCtx {b : Dev} : ∀ stream c (d : Dev), Kept b d → Kept b (setPressCtx stream c d) := by
  intro stream c d h
  unfold setPressCtx
  repeat' first
    | with_reducible first
      | assumption
    | dsimp only | refine Kept.same ?_ rfl rfl rfl rfl rfl rfl rfl

theorem kept_showPress {b : Dev} : ∀ e (d : Dev), Kept b d → Kept b (showPress e d) := by
  intro e d h
  unfold showPress
  repeat' first
    | with_reducible first
      | assumption | apply kept_regPut

theorem kept_setPressQueue {b : Dev} : ∀ e q (d : Dev), Kept b d → Kept b (setPressQueue e q d) := by
  intro e q d h
  unfold setPressQueue
  repeat' first
    | with_reducible first
      | assumption | apply kept_showPress
    | dsimp only | refine Kept.same ?_ rfl rfl rfl rfl rfl rfl rfl

theorem kept_countPress {b : Dev} : ∀ e n (d : Dev), Kept b d → Kept b (countPress e n d) := by
  intro e n d h
  unfold countPress
  repeat' first
    | with_reducible first
      | assumption | apply kept_regPut

theorem kept_countPressErr {b : Dev} : ∀ e st (d : Dev), Kept b d → Kept b (countPressErr e st d) := by
  intro e st d h
  unfold countPressErr
  repeat' first
    | with_reducible first
      | assumption | apply Kept.ite | apply kept_bumpF

theorem kept_acceptPress {b : Dev} : ∀ x (d : Dev), Kept b d → Kept b (acceptPress x d) := by
  intro x d h
  unfold acceptPress
  repeat' first
    | with_reducible first
      | assumption | apply Kept.ite | apply kept_finishDesc | apply kept_beginDesc
    | dsimp only | refine Kept.same ?_ rfl rfl rfl rfl rfl rfl rfl

theorem kept_execPressDeflate {b : Dev} : ∀ uid (s : State), Kept b s.dev → KeptO b s (execPressDeflate uid s) := by
  intro uid s h
  unfold execPressDeflate
  repeat' first
    | with_reducible first
      | assumption | apply kept_onDesc | apply kept_acceptPress

theorem kept_execPressInflate {b : Dev} : ∀ uid (s : State), Kept b s.dev → KeptO b s (execPressInflate uid s) := by
  intro uid s h
  unfold execPressInflate
  repeat' first
    | with_reducible first
      | assumption | apply kept_onDesc | apply kept_acceptPress

theorem kept_execPressFlush {b : Dev} : ∀ uid (s : State), Kept b s.dev → KeptO b s (execPressFlush uid s) := by
  intro uid s h
  unfold execPressFlush
  repeat' first
    | with_reducible first
      | assumption | apply kept_onDesc | apply kept_acceptPress

theorem kept_endPress {b : Dev} : ∀ c st res (d : Dev), Kept b d → Kept b (endPress c st res d) := by
  intro c st res d h
  unfold endPress
  repeat' first
    | with_reducible first
      | assumption | apply kept_finishDesc
    | split

theorem kept_execPressDispatch {b : Dev} : ∀ (s : State), Kept b s.dev → KeptO b s (execPressDispatch s) := by
  intro s h
  unfold execPressDispatch
  repeat' first
    | with_reducible first
      | assumption | apply Kept.ite | apply kept_whenDev | apply kept_setPressQueue | apply kept_endPress
    | dsimp only | split | refine Kept.same ?_ rfl rfl rfl rfl rfl rfl rfl

theorem kept_failPress {b : Dev} : ∀ e c st at_ (d : Dev), Kept b d → Kept b (failPress e c st at_ d) := by
  intro e c st at_ d h
  unfold failPress
  repeat' first
    | with_reducible first
      | assumption | apply kept_countPressErr | apply kept_countPress | apply kept_endPress
    | refine Kept.same ?_ rfl rfl rfl rfl rfl rfl rfl

theorem kept_endRunning {b : Dev} : ∀ e c r (d : Dev), Kept b d → Kept b (endRunning e c r d) := by
  intro e c r d h
  unfold endRunning
  repeat' first
    | with_reducible first
      | assumption | apply Kept.ite | apply kept_failPress | apply kept_devWrite | apply kept_emit | apply kept_setPressCtx
      | apply kept_endPress | apply kept_countPress
    | dsimp only | split

theorem kept_execPressCommandComplete {b : Dev} : ∀ engine r (s : State), Kept b s.dev → KeptO b s (execPressCommandComplete engine r s) := by
  intro engine r s h
  unfold execPressCommandComplete
  repeat' first
    | with_reducible first
      | assumption | apply kept_setPressQueue | apply kept_whenDev | apply kept_endRunning | apply kept_failPress
    | dsimp only | split

theorem kept_allocCtx {b : Dev} : ∀ i y (d : Dev), Kept b d → Kept b (allocCtx i y d) := by
  intro i y d h
  unfold allocCtx
  repeat' first
    | with_reducible first
      | assumption | apply Kept.ite | apply kept_allocRegion
    | dsimp only | refine Kept.same ?_ rfl rfl rfl rfl rfl rfl rfl

theorem kept_runSessOpen {b : Dev} : ∀ x ctx (d : Dev), Kept b d → Kept b (runSessOpen x ctx d) := by
  intro x ctx d h
  unfold runSessOpen
  repeat' first
    | with_reducible first
      | assumption | apply Kept.ite | apply kept_finishDesc | apply kept_setSess | apply kept_allocCtx

theorem kept_execSessOpen {b : Dev} : ∀ uid ctx (s : State), Kept b s.dev → KeptO b s (execSessOpen uid ctx s) := by
  intro uid ctx s h
  unfold execSessOpen
  repeat' first
    | with_reducible first
      | assumption | apply kept_whenDev | apply kept_runSessOpen
    | dsimp only | split

theorem kept_freeSession {b : Dev} : ∀ i (d : Dev), Kept b d → Kept b (freeSession i d) := by
  intro i d h
  unfold freeSession
  repeat' first
    | with_reducible first
      | assumption | apply kept_releasePort | apply kept_forEach | apply kept_returnBuf | apply kept_freeRegion
    | dsimp only | split | refine Kept.same ?_ rfl rfl rfl rfl rfl rfl rfl

theorem kept_sessCmd {b : Dev} (uid op : Nat) (ok : SessPhase → Bool) (f : Desc → Sess → Dev → Dev) (s : State)
    (hf : ∀ x y d, Kept b d → Kept b (f x y d)) (h : Kept b s.dev) : KeptO b s (sessCmd uid op ok f s) := by
  unfold sessCmd
  refine kept_onDesc _ _ _ _ _ (fun x d h => ?_) h
  split
  · exact Kept.ite (hf _ _ _ h) (kept_wrongState _ _ h)
  · exact kept_wrongState _ _ h

theorem kept_execSessStart {b : Dev} : ∀ uid (s : State), Kept b s.dev → KeptO b s (execSessStart uid s) := by
  intro uid s h
  unfold execSessStart
  repeat' first
    | with_reducible first
      | assumption | apply Kept.ite | apply kept_sessCmd | apply kept_finishDesc | apply kept_updSess
    | (intro _)

theorem kept_execFrameSubmit {b : Dev} : ∀ uid ops (s : State), Kept b s.dev → KeptO b s (execFrameSubmit uid ops s) := by
  intro uid ops s h
  unfold execFrameSubmit
  repeat' first
    | with_reducible first
      | assumption | apply Kept.ite | apply kept_sessCmd | apply kept_finishDesc | apply kept_updSess
    | (intro _) | refine Kept.same ?_ rfl rfl rfl rfl rfl rfl rfl

theorem kept_execOutbufPost {b : Dev} : ∀ uid addr len tag (s : State), Kept b s.dev → KeptO b s (execOutbufPost uid addr len tag s) := by
  intro uid addr len tag s h
  unfold execOutbufPost
  repeat' first
    | with_reducible first
      | assumption | apply Kept.ite | apply kept_sessCmd | apply kept_finishDesc | apply kept_updSess
    | (intro _)

theorem kept_execIntraRefresh {b : Dev} : ∀ uid (s : State), Kept b s.dev → KeptO b s (execIntraRefresh uid s) := by
  intro uid s h
  unfold execIntraRefresh
  repeat' first
    | with_reducible first
      | assumption | apply Kept.ite | apply kept_sessCmd | apply kept_finishDesc | apply kept_updSess
    | (intro _)

theorem kept_execSessAdapt {b : Dev} : ∀ uid steps reset (s : State), Kept b s.dev → KeptO b s (execSessAdapt uid steps reset s) := by
  intro uid steps reset s h
  unfold execSessAdapt
  repeat' first
    | with_reducible first
      | assumption | apply Kept.ite | apply kept_sessCmd | apply kept_finishDesc | apply kept_updSess
    | (intro _)

theorem kept_writeCheckpoint {b : Dev} : ∀ x y addr len (d : Dev), Kept b d → Kept b (writeCheckpoint x y addr len d) := by
  intro x y addr len d h
  unfold writeCheckpoint
  repeat' first
    | with_reducible first
      | assumption | apply Kept.ite | apply kept_finishDesc | apply kept_emit | apply kept_countPress

theorem kept_execSessCheckpoint {b : Dev} : ∀ uid addr len (s : State), Kept b s.dev → KeptO b s (execSessCheckpoint uid addr len s) := by
  intro uid addr len s h
  unfold execSessCheckpoint
  repeat' first
    | with_reducible first
      | assumption | apply Kept.ite | apply kept_sessCmd | apply kept_finishDesc | apply kept_writeCheckpoint
      | apply kept_beginDesc | apply kept_updSess
    | (intro _)

theorem kept_runRestore {b : Dev} : ∀ x bundle ctx bs (d : Dev), Kept b d → Kept b (runRestore x bundle ctx bs d) := by
  intro x bundle ctx bs d h
  unfold runRestore
  repeat' first
    | with_reducible first
      | assumption | apply Kept.ite | apply kept_finishDesc | apply kept_setSess | apply kept_devWrite | apply kept_allocCtx
      | apply kept_countPress
    | dsimp only | split

theorem kept_execSessRestore {b : Dev} : ∀ uid bundle ctx r (s : State), Kept b s.dev → KeptO b s (execSessRestore uid bundle ctx r s) := by
  intro uid bundle ctx r s h
  unfold execSessRestore
  repeat' first
    | with_reducible first
      | assumption | apply KeptO.ite | apply kept_whenDev | apply kept_finishDesc | apply kept_runRestore
    | dsimp only | split

theorem kept_resetSess {b : Dev} : ∀ i (d : Dev), Kept b d → Kept b (resetSess i d) := by
  intro i d h
  unfold resetSess
  repeat' first
    | with_reducible first
      | assumption | apply kept_endCheckpoints | apply kept_endWork | apply kept_updSess
    | dsimp only | split

theorem kept_execSessReset {b : Dev} : ∀ uid (s : State), Kept b s.dev → KeptO b s (execSessReset uid s) := by
  intro uid s h
  unfold execSessReset
  repeat' first
    | with_reducible first
      | assumption | apply Kept.ite | apply kept_sessCmd | apply kept_finishDesc | apply kept_resetSess
    | (intro _) | split

theorem kept_execSessClose {b : Dev} : ∀ uid (s : State), Kept b s.dev → KeptO b s (execSessClose uid s) := by
  intro uid s h
  unfold execSessClose
  repeat' first
    | with_reducible first
      | assumption | apply Kept.ite | apply kept_sessCmd | apply kept_endCheckpoints | apply kept_cancelQueue
      | apply kept_beginDesc | apply kept_updSess | apply kept_finishDesc | apply kept_freeSession
    | (intro _)

theorem kept_execSessQuery {b : Dev} : ∀ uid (s : State), Kept b s.dev → KeptO b s (execSessQuery uid s) := by
  intro uid s h
  unfold execSessQuery
  repeat' first
    | with_reducible first
      | assumption | apply kept_onDesc | apply kept_finishDesc
    | (intro _) | split

theorem kept_startEncode {b : Dev} : ∀ i x r num intra (d : Dev), Kept b d → Kept b (startEncode i x r num intra d) := by
  intro i x r num intra d h
  unfold startEncode
  repeat' first
    | with_reducible first
      | assumption | apply kept_updSess | apply kept_putHeaders

theorem kept_startDecode {b : Dev} : ∀ i r img (d : Dev), Kept b d → Kept b (startDecode i r img d) := by
  intro i r img d h
  unfold startDecode
  repeat' first
    | with_reducible first
      | assumption | apply kept_updSess
    | refine Kept.same ?_ rfl rfl rfl rfl rfl rfl rfl

theorem kept_execFrameDispatch {b : Dev} : ∀ w intra img (s : State), Kept b s.dev → KeptO b s (execFrameDispatch w intra img s) := by
  intro w intra img s h
  unfold execFrameDispatch
  repeat' first
    | with_reducible first
      | assumption | apply Kept.ite | apply kept_whenDev | apply kept_updJob | apply kept_startEncode | apply kept_startDecode
    | dsimp only | split

theorem kept_writeWaiting {b : Dev} : ∀ i (d : Dev), Kept b d → Kept b (writeWaiting i d) := by
  intro i d h
  unfold writeWaiting
  repeat' first
    | with_reducible first
      | assumption | apply Kept.ite | apply kept_updSess | apply kept_forEach | apply kept_writeCheckpoint
    | (intro _) | split

theorem kept_execFrameBoundary {b : Dev} : ∀ sess (s : State), Kept b s.dev → KeptO b s (execFrameBoundary sess s) := by
  intro sess s h
  unfold execFrameBoundary
  repeat' first
    | with_reducible first
      | assumption | apply kept_whenDev | apply kept_writeWaiting | apply kept_setSess | apply kept_cplFrame
    | dsimp only | split

theorem kept_putEnd {b : Dev} : ∀ i x (d : Dev), Kept b d → Kept b (putEnd i x d) := by
  intro i x d h
  unfold putEnd
  repeat' first
    | with_reducible first
      | assumption | apply Kept.ite | apply kept_storeUnit | apply KeptP.snd

theorem kept_execSessionDrainEnd {b : Dev} : ∀ sess (s : State), Kept b s.dev → KeptO b s (execSessionDrainEnd sess s) := by
  intro sess s h
  unfold execSessionDrainEnd
  repeat' first
    | with_reducible first
      | assumption | apply kept_whenDev | apply kept_dropSessLeases | apply kept_forEach | apply kept_stopQuiet
      | apply kept_freeSession | apply kept_putEnd | apply kept_finishDesc
    | dsimp only | split

theorem kept_execBundleLoad {b : Dev} : ∀ uid region (s : State), Kept b s.dev → KeptO b s (execBundleLoad uid region s) := by
  intro uid region s h
  unfold execBundleLoad
  repeat' first
    | with_reducible first
      | assumption | apply KeptO.ite | apply kept_whenDev | apply kept_finishDesc | apply kept_beginDesc
      | apply kept_allocRegion
    | dsimp only | split | refine Kept.same ?_ rfl rfl rfl rfl rfl rfl rfl

theorem kept_dropBundle {b : Dev} : ∀ h0 b0 (d : Dev), Kept b d → Kept b (dropBundle h0 b0 d) := by
  intro h0 b0 d h
  unfold dropBundle
  repeat' first
    | with_reducible first
      | assumption | apply kept_freeRegion
    | dsimp only | refine Kept.same ?_ rfl rfl rfl rfl rfl rfl rfl

theorem kept_endLoad {b : Dev} : ∀ uid st res (d : Dev), Kept b d → Kept b (endLoad uid st res d) := by
  intro uid st res d h
  unfold endLoad
  repeat' first
    | with_reducible first
      | assumption | apply kept_finishDesc
    | split

theorem kept_publishBundle {b : Dev} : ∀ h0 b0 uid bs (d : Dev), Kept b d → Kept b (publishBundle h0 b0 uid bs d) := by
  intro h0 b0 uid bs d h
  unfold publishBundle
  repeat' first
    | with_reducible first
      | assumption | apply kept_devWrite | apply kept_endLoad | apply kept_dropBundle
    | dsimp only | split | refine Kept.same ?_ rfl rfl rfl rfl rfl rfl rfl

theorem kept_execBundleCopyComplete {b : Dev} : ∀ handle r (s : State), Kept b s.dev → KeptO b s (execBundleCopyComplete handle r s) := by
  intro handle r s h
  unfold execBundleCopyComplete
  repeat' first
    | with_reducible first
      | assumption | apply kept_whenDev | apply kept_publishBundle | apply kept_endLoad | apply kept_dropBundle
    | dsimp only | split

theorem kept_execBundleUnload {b : Dev} : ∀ uid (s : State), Kept b s.dev → KeptO b s (execBundleUnload uid s) := by
  intro uid s h
  unfold execBundleUnload
  repeat' first
    | with_reducible first
      | assumption | apply Kept.ite | apply kept_onDesc | apply kept_finishDesc | apply kept_dropBundle
    | (intro _) | dsimp only | split

theorem kept_runJob {b : Dev} : ∀ x b0 (d : Dev), Kept b d → Kept b (runJob x b0 d) := by
  intro x b0 d h
  unfold runJob
  repeat' first
    | with_reducible first
      | assumption | apply Kept.ite | apply kept_finishDesc | apply kept_beginDesc
    | dsimp only | split | refine Kept.same ?_ rfl rfl rfl rfl rfl rfl rfl

theorem kept_execJobRun {b : Dev} : ∀ uid r (s : State), Kept b s.dev → KeptO b s (execJobRun uid r s) := by
  intro uid r s h
  unfold execJobRun
  repeat' first
    | with_reducible first
      | assumption | apply KeptO.ite | apply kept_whenDev | apply kept_finishDesc | apply kept_runJob
    | dsimp only | split

theorem kept_execJobAbort {b : Dev} : ∀ uid (s : State), Kept b s.dev → KeptO b s (execJobAbort uid s) := by
  intro uid s h
  unfold execJobAbort
  repeat' first
    | with_reducible first
      | assumption | apply kept_onDesc | apply kept_finishDesc | apply kept_completeJob
    | (intro _) | split

theorem kept_execCancel {b : Dev} : ∀ uid (s : State), Kept b s.dev → KeptO b s (execCancel uid s) := by
  intro uid s h
  unfold execCancel
  repeat' first
    | with_reducible first
      | assumption | apply Kept.ite | apply kept_onDesc | apply kept_finishDesc | apply kept_cancelWaiting
    | (intro _)

theorem kept_execNopCmd {b : Dev} : ∀ uid (s : State), Kept b s.dev → KeptO b s (execNopCmd uid s) := by
  intro uid s h
  unfold execNopCmd
  repeat' first
    | with_reducible first
      | assumption | apply kept_onDesc | apply kept_finishDesc
    | (intro _)

theorem kept_failDesc {b : Dev} : ∀ uid (d : Dev), Kept b d → Kept b (failDesc uid d) := by
  intro uid d h
  unfold failDesc
  repeat' first
    | with_reducible first
      | assumption | apply kept_failPress | apply kept_setPressQueue | apply kept_endLoad | apply kept_dropBundle
    | split

theorem kept_answerPage {b : Dev} : ∀ ok p (d : Dev), Kept b d → Kept b (answerPage ok p d) := by
  intro ok p d h
  unfold answerPage
  repeat' first
    | with_reducible first
      | assumption | apply Kept.ite | apply kept_answerStream | apply kept_updQuire | apply kept_quireEnd | apply kept_updRing
      | apply kept_flushHeld | apply kept_stopRing | apply kept_failDesc
    | dsimp only | split

theorem kept_suspendUser {b : Dev} : ∀ u page (d : Dev), Kept b d → Kept b (suspendUser u page d) := by
  intro u page d h
  unfold suspendUser
  repeat' first
    | with_reducible first
      | assumption | apply kept_updRun | apply kept_updQuire | apply kept_updRing
    | split

theorem kept_execHostPageAbsent {b : Dev} : ∀ u page (s : State), Kept b s.dev → KeptO b s (execHostPageAbsent u page s) := by
  intro u page s h
  unfold execHostPageAbsent
  repeat' first
    | with_reducible first
      | assumption | apply Kept.ite | apply kept_whenDev | apply kept_suspendUser | apply kept_answerPage | apply kept_addPage
    | dsimp only | split

theorem kept_answerPages {b : Dev} : ∀ ok p fn (d : Dev), Kept b d → Kept b (answerPages ok p fn d) := by
  intro ok p fn d h
  unfold answerPages
  repeat' first
    | with_reducible first
      | assumption | apply kept_forEach | apply kept_answerPage | apply kept_sendPages
    | dsimp only | refine Kept.same ?_ rfl rfl rfl rfl rfl rfl rfl

theorem kept_execPageRequestSuccess {b : Dev} : ∀ fn page (s : State), Kept b s.dev → KeptO b s (execPageRequestSuccess fn page s) := by
  intro fn page s h
  unfold execPageRequestSuccess
  repeat' first
    | with_reducible first
      | assumption | apply kept_whenDev | apply kept_answerPages

theorem kept_execPageRequestFailure {b : Dev} : ∀ fn page (s : State), Kept b s.dev → KeptO b s (execPageRequestFailure fn page s) := by
  intro fn page s h
  unfold execPageRequestFailure
  repeat' first
    | with_reducible first
      | assumption | apply kept_whenDev | apply kept_answerPages

theorem kept_execPageResponseFailure {b : Dev} : ∀ fn page (s : State), Kept b s.dev → KeptO b s (execPageResponseFailure fn page s) := by
  intro fn page s h
  unfold execPageResponseFailure
  repeat' first
    | with_reducible first
      | assumption | apply kept_whenDev | apply kept_answerPages
    | dsimp only | refine Kept.same ?_ rfl rfl rfl rfl rfl rfl rfl

theorem kept_execPriEnable {b : Dev} : ∀ fn alloc (s : State), Kept b s.dev → KeptO b s (execPriEnable fn alloc s) := by
  intro fn alloc s h
  unfold execPriEnable
  repeat' first
    | with_reducible first
      | assumption | apply kept_whenDev | apply kept_sendPages
    | dsimp only | refine Kept.same ?_ rfl rfl rfl rfl rfl rfl rfl

theorem kept_execAtsInvalidate {b : Dev} : ∀ fn page (s : State), Kept b s.dev → KeptO b s (execAtsInvalidate fn page s) := by
  intro fn page s h
  unfold execAtsInvalidate
  repeat' first
    | with_reducible first
      | assumption | apply kept_whenDev | apply kept_emit

end Sys2Proof.Machine
end

