-- ==== Sys2Proof/Laws/KeptFabric.lean ====
section
/-! SUPPORT. What the operations of time, Crebor and collectives keep
(Safety.lean, Kept). -/

set_option Elab.async false

namespace Sys2Proof.Machine

theorem kept_setTimeState {b : Dev} : ∀ v (d : Dev), Kept b d → Kept b (setTimeState v d) := by
  intro v d h
  unfold setTimeState
  repeat' first
    | with_reducible first
      | assumption | apply kept_setF

theorem kept_loseSource {b : Dev} : ∀ (d : Dev), Kept b d → Kept b (loseSource d) := by
  intro d h
  unfold loseSource
  repeat' first
    | with_reducible first
      | assumption | apply Kept.ite | apply kept_setTimeState | apply kept_raiseEvent
    | dsimp only | refine Kept.same ?_ rfl rfl rfl rfl rfl rfl rfl

theorem kept_reselect {b : Dev} : ∀ (d : Dev), Kept b d → Kept b (reselect d) := by
  intro d h
  unfold reselect
  repeat' first
    | with_reducible first
      | assumption | apply kept_loseSource | apply kept_setF | apply kept_regPut
    | dsimp only | split | refine Kept.same ?_ rfl rfl rfl rfl rfl rfl rfl

theorem kept_stepTime {b : Dev} : ∀ off (d : Dev), Kept b d → Kept b (stepTime off d) := by
  intro off d h
  unfold stepTime
  repeat' first
    | with_reducible first
      | assumption | apply kept_setF | apply kept_bumpF
    | dsimp only | refine Kept.same ?_ rfl rfl rfl rfl rfl rfl rfl

theorem kept_badSample {b : Dev} : ∀ src off only (d : Dev), Kept b d → Kept b (badSample src off only d) := by
  intro src off only d h
  unfold badSample
  repeat' first
    | with_reducible first
      | assumption | apply Kept.ite | apply kept_raiseEvent | apply kept_bumpF | apply kept_stepTime
    | dsimp only | split | refine Kept.same ?_ rfl rfl rfl rfl rfl rfl rfl

theorem kept_goodSample {b : Dev} : ∀ off within_ (d : Dev), Kept b d → Kept b (goodSample off within_ d) := by
  intro off within_ d h
  unfold goodSample
  repeat' first
    | with_reducible first
      | assumption | apply Kept.ite | apply kept_regPut | apply kept_setTimeState | apply kept_stepTime
    | dsimp only | split | refine Kept.same ?_ rfl rfl rfl rfl rfl rfl rfl

theorem kept_takeSample {b : Dev} : ∀ src off within_ (d : Dev), Kept b d → Kept b (takeSample src off within_ d) := by
  intro src off within_ d h
  unfold takeSample
  repeat' first
    | with_reducible first
      | assumption | apply Kept.ite | apply kept_badSample | apply kept_goodSample

theorem kept_execTimeSample {b : Dev} : ∀ off within_ (s : State), Kept b s.dev → KeptO b s (execTimeSample off within_ s) := by
  intro off within_ s h
  unfold execTimeSample
  repeat' first
    | with_reducible first
      | assumption | apply kept_whenDev | apply kept_takeSample

theorem kept_execTimeSampleTimeout {b : Dev} : ∀ (s : State), Kept b s.dev → KeptO b s (execTimeSampleTimeout s) := by
  intro s h
  unfold execTimeSampleTimeout
  repeat' first
    | with_reducible first
      | assumption | apply kept_whenDev | apply kept_loseSource | apply kept_reselect
    | dsimp only | refine Kept.same ?_ rfl rfl rfl rfl rfl rfl rfl

theorem kept_execCalendarWrite {b : Dev} : ∀ (s : State), Kept b s.dev → KeptO b s (execCalendarWrite s) := by
  intro s h
  unfold execCalendarWrite
  repeat' first
    | with_reducible first
      | assumption | apply kept_whenDev | apply kept_setF
    | dsimp only | refine Kept.same ?_ rfl rfl rfl rfl rfl rfl rfl

theorem kept_execPpsOutEdge {b : Dev} : ∀ (s : State), Kept b s.dev → KeptO b s (execPpsOutEdge s) := by
  intro s h
  unfold execPpsOutEdge
  repeat' first
    | with_reducible first
      | assumption | apply KeptO.ite | apply kept_whenDev | apply kept_emit
    | dsimp only | refine Kept.same ?_ rfl rfl rfl rfl rfl rfl rfl

theorem kept_execPpsInEdge {b : Dev} : ∀ within_ (s : State), Kept b s.dev → KeptO b s (execPpsInEdge within_ s) := by
  intro within_ s h
  unfold execPpsInEdge
  repeat' first
    | with_reducible first
      | assumption | apply kept_badSample | apply kept_takeSample | apply kept_whenDev | apply kept_reselect
    | dsimp only | split | refine Kept.same ?_ rfl rfl rfl rfl rfl rfl rfl

theorem kept_execPpsInLoss {b : Dev} : ∀ (s : State), Kept b s.dev → KeptO b s (execPpsInLoss s) := by
  intro s h
  unfold execPpsInLoss
  repeat' first
    | with_reducible first
      | assumption | apply kept_whenDev | apply kept_reselect
    | dsimp only | refine Kept.same ?_ rfl rfl rfl rfl rfl rfl rfl

theorem kept_execFreqInWindow {b : Dev} : ∀ hz (s : State), Kept b s.dev → KeptO b s (execFreqInWindow hz s) := by
  intro hz s h
  unfold execFreqInWindow
  repeat' first
    | with_reducible first
      | assumption | apply kept_whenDev | apply kept_reselect
    | dsimp only | refine Kept.same ?_ rfl rfl rfl rfl rfl rfl rfl

theorem kept_armSecond {b : Dev} : ∀ v (d : Dev), Kept b d → Kept b (armSecond v d) := by
  intro v d h
  unfold armSecond
  repeat' first
    | with_reducible first
      | assumption
    | dsimp only | refine Kept.same ?_ rfl rfl rfl rfl rfl rfl rfl

theorem kept_execTimSetSecArm {b : Dev} : ∀ v (s : State), Kept b s.dev → KeptO b s (execTimSetSecArm v s) := by
  intro v s h
  unfold execTimSetSecArm
  repeat' first
    | with_reducible first
      | assumption | apply kept_whenDev | apply kept_armSecond

theorem kept_execPtpMessage {b : Dev} : ∀ dom profile locked (s : State), Kept b s.dev → KeptO b s (execPtpMessage dom profile locked s) := by
  intro dom profile locked s h
  unfold execPtpMessage
  repeat' first
    | with_reducible first
      | assumption | apply Kept.ite | apply kept_whenDev | apply kept_reselect
    | dsimp only | refine Kept.same ?_ rfl rfl rfl rfl rfl rfl rfl

theorem kept_tunnelDown {b : Dev} : ∀ t (d : Dev), Kept b d → Kept b (tunnelDown t d) := by
  intro t d h
  unfold tunnelDown
  repeat' first
    | with_reducible first
      | assumption | apply kept_updLink | apply kept_setF

theorem kept_tunnelsDown {b : Dev} : ∀ p (d : Dev), Kept b d → Kept b (tunnelsDown p d) := by
  intro p d h
  unfold tunnelsDown
  repeat' first
    | with_reducible first
      | assumption | apply kept_forEach | apply kept_tunnelDown

theorem kept_sendNotice {b : Dev} : ∀ p (d : Dev), Kept b d → Kept b (sendNotice p d) := by
  intro p d h
  unfold sendNotice
  repeat' first
    | with_reducible first
      | assumption | apply Kept.ite | apply kept_emit
    | refine Kept.same ?_ rfl rfl rfl rfl rfl rfl rfl

theorem kept_linkDown {b : Dev} : ∀ p st notice (d : Dev), Kept b d → Kept b (linkDown p st notice d) := by
  intro p st notice d h
  unfold linkDown
  repeat' first
    | with_reducible first
      | assumption | apply Kept.ite | apply kept_sendNotice | apply kept_setF | apply kept_bumpF | apply kept_raiseEvent
      | apply kept_regPut | apply kept_tunnelsDown | apply kept_updLink | apply kept_reselect
    | dsimp only | split | refine Kept.same ?_ rfl rfl rfl rfl rfl rfl rfl

theorem kept_violate {b : Dev} : ∀ l row (d : Dev), Kept b d → Kept b (violate l row d) := by
  intro l row d h
  unfold violate
  repeat' first
    | with_reducible first
      | assumption | apply Kept.ite | apply kept_setF | apply kept_bumpF | apply kept_updLink | apply kept_raiseEvent
      | apply kept_linkDown

theorem kept_askReplay {b : Dev} : ∀ l (d : Dev), Kept b d → Kept b (askReplay l d) := by
  intro l d h
  unfold askReplay
  repeat' first
    | with_reducible first
      | assumption | apply kept_updLink

theorem kept_rxHead {b : Dev} : ∀ l f (d : Dev), Kept b d → Kept b (rxHead l f d) := by
  intro l f d h
  unfold rxHead
  repeat' first
    | with_reducible first
      | assumption | apply Kept.ite | apply kept_updLink | apply kept_violate

theorem kept_freeBuf {b : Dev} : ∀ l vl n (d : Dev), Kept b d → Kept b (freeBuf l vl n d) := by
  intro l vl n d h
  unfold freeBuf
  repeat' first
    | with_reducible first
      | assumption | apply kept_updLink

theorem kept_nakBad {b : Dev} : ∀ row b0 (d : Dev), Kept b d → Kept b (nakBad row b0 d) := by
  intro row b0 d h
  unfold nakBad
  repeat' first
    | with_reducible first
      | assumption | apply Kept.ite | apply kept_sendPlain

theorem kept_rxWhole {b : Dev} : ∀ l vl pls (d : Dev), Kept b d → Kept b (rxWhole l vl pls d) := by
  intro l vl pls d h
  unfold rxWhole
  repeat' first
    | with_reducible first
      | assumption | apply kept_violate | apply kept_nakBad | apply kept_freeBuf | apply kept_updLink
    | dsimp only | split

theorem kept_assemble {b : Dev} : ∀ l vl sop eop pl (d : Dev), Kept b d → Kept b (assemble l vl sop eop pl d) := by
  intro l vl sop eop pl d h
  unfold assemble
  repeat' first
    | with_reducible first
      | assumption | apply Kept.ite | apply kept_updLink | apply kept_rxWhole | apply kept_violate | apply kept_nakBad
      | apply kept_freeBuf

theorem kept_rxData {b : Dev} : ∀ l f (d : Dev), Kept b d → Kept b (rxData l f d) := by
  intro l f d h
  unfold rxData
  repeat' first
    | with_reducible first
      | assumption | apply Kept.ite | apply kept_violate | apply kept_askReplay | apply kept_updLink | apply kept_assemble

theorem kept_rxPlain {b : Dev} : ∀ l f (d : Dev), Kept b d → Kept b (rxPlain l f d) := by
  intro l f d h
  unfold rxPlain
  repeat' first
    | with_reducible first
      | assumption | apply Kept.ite | apply kept_violate | apply kept_askReplay | apply kept_bumpF | apply kept_rxHead
      | apply kept_updLink | apply kept_rxData

theorem kept_execFlitReceive {b : Dev} : ∀ port f (s : State), Kept b s.dev → KeptO b s (execFlitReceive port f s) := by
  intro port f s h
  unfold execFlitReceive
  repeat' first
    | with_reducible first
      | assumption | apply kept_whenDev | apply kept_rxPlain

theorem kept_onCredInit {b : Dev} : ∀ l f (d : Dev), Kept b d → Kept b (onCredInit l f d) := by
  intro l f d h
  unfold onCredInit
  repeat' first
    | with_reducible first
      | assumption | apply kept_updLink

theorem kept_onCredSync {b : Dev} : ∀ l f (d : Dev), Kept b d → Kept b (onCredSync l f d) := by
  intro l f d h
  unfold onCredSync
  repeat' first
    | with_reducible first
      | assumption | apply kept_updLink

theorem kept_countReplay {b : Dev} : ∀ l (d : Dev), Kept b d → Kept b (countReplay l d) := by
  intro l d h
  unfold countReplay
  repeat' first
    | with_reducible first
      | assumption | apply Kept.ite | apply kept_bumpF

theorem kept_onReplayReq {b : Dev} : ∀ l f (d : Dev), Kept b d → Kept b (onReplayReq l f d) := by
  intro l f d h
  unfold onReplayReq
  repeat' first
    | with_reducible first
      | assumption | apply Kept.ite | apply kept_countReplay | apply kept_updLink | apply kept_violate
    | split

theorem kept_badProbe {b : Dev} : ∀ l (d : Dev), Kept b d → Kept b (badProbe l d) := by
  intro l d h
  unfold badProbe
  repeat' first
    | with_reducible first
      | assumption | apply kept_violate | apply kept_raiseEvent | apply kept_bumpF

theorem kept_onTimeProbe {b : Dev} : ∀ l f (d : Dev), Kept b d → Kept b (onTimeProbe l f d) := by
  intro l f d h
  unfold onTimeProbe
  repeat' first
    | with_reducible first
      | assumption | apply Kept.ite | apply kept_updLink | apply kept_badProbe

theorem kept_onTimeProbeRsp {b : Dev} : ∀ l f (d : Dev), Kept b d → Kept b (onTimeProbeRsp l f d) := by
  intro l f d h
  unfold onTimeProbeRsp
  repeat' first
    | with_reducible first
      | assumption | apply Kept.ite | apply kept_regPut | apply kept_badProbe

theorem kept_rxCtrl {b : Dev} : ∀ l code f (d : Dev), Kept b d → Kept b (rxCtrl l code f d) := by
  intro l code f d h
  unfold rxCtrl
  repeat' first
    | with_reducible first
      | assumption | apply Kept.ite | apply kept_rxHead | apply kept_onCredInit | apply kept_onCredSync
      | apply kept_onReplayReq | apply kept_onTimeProbe | apply kept_violate | apply kept_onTimeProbeRsp | apply kept_linkDown
      | apply kept_tunnelDown
    | split

theorem kept_ctrlStep {b : Dev} : ∀ port code f (s : State), Kept b s.dev → KeptO b s (ctrlStep port code f s) := by
  intro port code f s h
  unfold ctrlStep
  repeat' first
    | with_reducible first
      | assumption | apply kept_whenDev | apply kept_rxCtrl

theorem kept_execCredInit {b : Dev} : ∀ port f (s : State), Kept b s.dev → KeptO b s (execCredInit port f s) := by
  intro port f s h
  unfold execCredInit
  repeat' first
    | with_reducible first
      | assumption | apply kept_ctrlStep

theorem kept_execCredSync {b : Dev} : ∀ port f (s : State), Kept b s.dev → KeptO b s (execCredSync port f s) := by
  intro port f s h
  unfold execCredSync
  repeat' first
    | with_reducible first
      | assumption | apply kept_ctrlStep

theorem kept_execReplayReq {b : Dev} : ∀ port f (s : State), Kept b s.dev → KeptO b s (execReplayReq port f s) := by
  intro port f s h
  unfold execReplayReq
  repeat' first
    | with_reducible first
      | assumption | apply kept_ctrlStep

theorem kept_execTimeProbe {b : Dev} : ∀ port f (s : State), Kept b s.dev → KeptO b s (execTimeProbe port f s) := by
  intro port f s h
  unfold execTimeProbe
  repeat' first
    | with_reducible first
      | assumption | apply kept_ctrlStep

theorem kept_execTimeProbeRsp {b : Dev} : ∀ port f (s : State), Kept b s.dev → KeptO b s (execTimeProbeRsp port f s) := by
  intro port f s h
  unfold execTimeProbeRsp
  repeat' first
    | with_reducible first
      | assumption | apply kept_ctrlStep

theorem kept_execDownNotice {b : Dev} : ∀ port f (s : State), Kept b s.dev → KeptO b s (execDownNotice port f s) := by
  intro port f s h
  unfold execDownNotice
  repeat' first
    | with_reducible first
      | assumption | apply kept_ctrlStep

theorem kept_execFlitTransmit {b : Dev} : ∀ link (s : State), Kept b s.dev → KeptO b s (execFlitTransmit link s) := by
  intro link s h
  unfold execFlitTransmit
  repeat' first
    | with_reducible first
      | assumption | apply Kept.ite | apply kept_updLink | apply kept_emit | apply kept_bumpF | apply kept_whenDev

theorem kept_execReplayTimeout {b : Dev} : ∀ link (s : State), Kept b s.dev → KeptO b s (execReplayTimeout link s) := by
  intro link s h
  unfold execReplayTimeout
  repeat' first
    | with_reducible first
      | assumption | apply kept_whenDev | apply kept_countReplay | apply kept_updLink

theorem kept_execCredInitResend {b : Dev} : ∀ link (s : State), Kept b s.dev → KeptO b s (execCredInitResend link s) := by
  intro link s h
  unfold execCredInitResend
  repeat' first
    | with_reducible first
      | assumption | apply kept_whenDev | apply kept_updLink

theorem kept_execCtrlResendTimeout {b : Dev} : ∀ link (s : State), Kept b s.dev → KeptO b s (execCtrlResendTimeout link s) := by
  intro link s h
  unfold execCtrlResendTimeout
  repeat' first
    | with_reducible first
      | assumption | apply kept_whenDev | apply kept_updLink

theorem kept_execTimeProbeSend {b : Dev} : ∀ port (s : State), Kept b s.dev → KeptO b s (execTimeProbeSend port s) := by
  intro port s h
  unfold execTimeProbeSend
  repeat' first
    | with_reducible first
      | assumption | apply kept_whenDev | apply kept_updLink

theorem kept_execTimeMessageSend {b : Dev} : ∀ port (s : State), Kept b s.dev → KeptO b s (execTimeMessageSend port s) := by
  intro port s h
  unfold execTimeMessageSend
  repeat' first
    | with_reducible first
      | assumption | apply kept_whenDev | apply kept_queuePkt | apply kept_updLink

theorem kept_execHotspotWindow {b : Dev} : ∀ port (s : State), Kept b s.dev → KeptO b s (execHotspotWindow port s) := by
  intro port s h
  unfold execHotspotWindow
  repeat' first
    | with_reducible first
      | assumption | apply Kept.ite | apply kept_whenDev | apply kept_updLink | apply kept_setF | apply kept_bumpF
      | apply kept_raiseEvent

theorem kept_portCfgEffect {b : Dev} : ∀ p was (d : Dev), Kept b d → Kept b (portCfgEffect p was d) := by
  intro p was d h
  unfold portCfgEffect
  repeat' first
    | with_reducible first
      | assumption | apply Kept.ite | apply kept_emit | apply kept_setF | apply kept_updLink | apply kept_linkDown

theorem kept_portCfgWrite {b : Dev} : ∀ p v (d : Dev), Kept b d → Kept b (portCfgWrite p v d) := by
  intro p v d h
  unfold portCfgWrite
  repeat' first
    | with_reducible first
      | assumption | apply kept_portCfgEffect | apply kept_regPut

theorem kept_execPortEnable {b : Dev} : ∀ port v (s : State), Kept b s.dev → KeptO b s (execPortEnable port v s) := by
  intro port v s h
  unfold execPortEnable
  repeat' first
    | with_reducible first
      | assumption | apply kept_whenDev | apply kept_portCfgWrite

theorem kept_execPortLinkUp {b : Dev} : ∀ port (s : State), Kept b s.dev → KeptO b s (execPortLinkUp port s) := by
  intro port s h
  unfold execPortLinkUp
  repeat' first
    | with_reducible first
      | assumption | apply Kept.ite | apply kept_setF | apply kept_whenDev | apply kept_updLink

theorem kept_execLaneLockLoss {b : Dev} : ∀ port (s : State), Kept b s.dev → KeptO b s (execLaneLockLoss port s) := by
  intro port s h
  unfold execLaneLockLoss
  repeat' first
    | with_reducible first
      | assumption | apply kept_whenDev | apply kept_linkDown

theorem kept_execPortRetrain {b : Dev} : ∀ port (s : State), Kept b s.dev → KeptO b s (execPortRetrain port s) := by
  intro port s h
  unfold execPortRetrain
  repeat' first
    | with_reducible first
      | assumption | apply kept_whenDev | apply kept_emit | apply kept_setF

theorem kept_execEthFrameReceive {b : Dev} : ∀ port f (s : State), Kept b s.dev → KeptO b s (execEthFrameReceive port f s) := by
  intro port f s h
  unfold execEthFrameReceive
  repeat' first
    | with_reducible first
      | assumption | apply Kept.ite | apply kept_whenDev | apply kept_bumpF

theorem kept_rxTunnel {b : Dev} : ∀ l f (d : Dev), Kept b d → Kept b (rxTunnel l f d) := by
  intro l f d h
  unfold rxTunnel
  repeat' first
    | with_reducible first
      | assumption | apply Kept.ite | apply kept_rxCtrl | apply kept_rxPlain
    | split

theorem kept_execTunnelDatagram {b : Dev} : ∀ tunnel good b0 (s : State), Kept b s.dev → KeptO b s (execTunnelDatagram tunnel good b0 s) := by
  intro tunnel good b0 s h
  unfold execTunnelDatagram
  repeat' first
    | with_reducible first
      | assumption | apply Kept.ite | apply kept_whenDev | apply kept_updLink | apply kept_setF | apply kept_forEach
      | apply kept_rxTunnel | apply kept_bumpF

theorem kept_execTunnelTimeout {b : Dev} : ∀ tunnel (s : State), Kept b s.dev → KeptO b s (execTunnelTimeout tunnel s) := by
  intro tunnel s h
  unfold execTunnelTimeout
  repeat' first
    | with_reducible first
      | assumption | apply kept_whenDev | apply kept_tunnelDown

theorem kept_popRx {b : Dev} : ∀ l (d : Dev), Kept b d → Kept b (popRx l d) := by
  intro l d h
  unfold popRx
  repeat' first
    | with_reducible first
      | assumption | apply Kept.ite | apply kept_updLink | apply kept_freeBuf
    | dsimp only | split

theorem kept_pktStep {b : Dev} (l ty : Nat) (f : RxPkt → Pkt → Dev → Dev) (s : State)
    (hf : ∀ r p d, Kept b d → Kept b (f r p d)) (h : Kept b s.dev) : KeptO b s (pktStep l ty f s) := by
  unfold pktStep
  dsimp only
  split
  · exact kept_whenDev _ _ _ (hf _ _ _ (kept_popRx _ _ h))
  · exact kept_whenDev _ _ _ h

theorem kept_routed {b : Dev} (f : Pkt → Dev → Dev) (r : RxPkt) (p : Pkt) (d : Dev)
    (hf : ∀ p d, Kept b d → Kept b (f p d)) (h : Kept b d) : Kept b (routed f r p d) := by
  unfold routed
  exact Kept.ite (hf _ _ h) (kept_forwardPkt _ _ _ h)

theorem kept_giveAnswer {b : Dev} : ∀ p a (d : Dev), Kept b d → Kept b (giveAnswer p a d) := by
  intro p a d h
  unfold giveAnswer
  repeat' first
    | with_reducible first
      | assumption | apply kept_sendPlain
    | dsimp only | refine Kept.same ?_ rfl rfl rfl rfl rfl rfl rfl

theorem kept_serve {b : Dev} : ∀ p (d : Dev), Kept b d → Kept b (serve p d) := by
  intro p d h
  unfold serve
  repeat' first
    | with_reducible first
      | assumption | apply Kept.ite | apply kept_giveAnswer | apply kept_semPost | apply kept_drawFree | apply kept_devWrite
    | dsimp only | split

theorem kept_applyReq {b : Dev} : ∀ p (d : Dev), Kept b d → Kept b (applyReq p d) := by
  intro p d h
  unfold applyReq
  repeat' first
    | with_reducible first
      | assumption | apply Kept.ite | apply kept_sendPlain | apply kept_serve | apply kept_giveAnswer
    | split

theorem kept_takeReq {b : Dev} : ∀ p (d : Dev), Kept b d → Kept b (takeReq p d) := by
  intro p d h
  unfold takeReq
  repeat' first
    | with_reducible first
      | assumption | apply Kept.ite | apply kept_applyReq
    | dsimp only | split | refine Kept.same ?_ rfl rfl rfl rfl rfl rfl rfl

theorem kept_execPut {b : Dev} : ∀ link (s : State), Kept b s.dev → KeptO b s (execPut link s) := by
  intro link s h
  unfold execPut
  repeat' first
    | with_reducible first
      | assumption | apply kept_pktStep | apply kept_routed | apply kept_takeReq
    | (intro _)

theorem kept_execGet {b : Dev} : ∀ link (s : State), Kept b s.dev → KeptO b s (execGet link s) := by
  intro link s h
  unfold execGet
  repeat' first
    | with_reducible first
      | assumption | apply kept_pktStep | apply kept_routed | apply kept_takeReq
    | (intro _)

theorem kept_execSignal {b : Dev} : ∀ link (s : State), Kept b s.dev → KeptO b s (execSignal link s) := by
  intro link s h
  unfold execSignal
  repeat' first
    | with_reducible first
      | assumption | apply kept_pktStep | apply kept_routed | apply kept_takeReq
    | (intro _)

theorem kept_endOne {b : Dev} : ∀ r e (d : Dev), Kept b d → Kept b (endOne r e d) := by
  intro r e d h
  unfold endOne
  repeat' first
    | with_reducible first
      | assumption | apply kept_sweepColls | apply kept_endReqs

theorem kept_onAnswer {b : Dev} : ∀ p (d : Dev), Kept b d → Kept b (onAnswer p d) := by
  intro p d h
  unfold onAnswer
  repeat' first
    | with_reducible first
      | assumption | apply Kept.ite | apply kept_endOne
    | dsimp only | split

theorem kept_execAck {b : Dev} : ∀ link (s : State), Kept b s.dev → KeptO b s (execAck link s) := by
  intro link s h
  unfold execAck
  repeat' first
    | with_reducible first
      | assumption | apply kept_pktStep | apply kept_routed | apply kept_onAnswer
    | (intro _)

theorem kept_execNak {b : Dev} : ∀ link (s : State), Kept b s.dev → KeptO b s (execNak link s) := by
  intro link s h
  unfold execNak
  repeat' first
    | with_reducible first
      | assumption | apply kept_pktStep | apply kept_routed | apply kept_onAnswer
    | (intro _)

theorem kept_execGetRsp {b : Dev} : ∀ link (s : State), Kept b s.dev → KeptO b s (execGetRsp link s) := by
  intro link s h
  unfold execGetRsp
  repeat' first
    | with_reducible first
      | assumption | apply kept_pktStep | apply kept_routed | apply kept_onAnswer
    | (intro _)

theorem kept_execXportTimeout {b : Dev} : ∀ dst tag (s : State), Kept b s.dev → KeptO b s (execXportTimeout dst tag s) := by
  intro dst tag s h
  unfold execXportTimeout
  repeat' first
    | with_reducible first
      | assumption | apply Kept.ite | apply kept_whenDev | apply kept_sendPkt | apply kept_endOne
    | dsimp only | split | refine Kept.same ?_ rfl rfl rfl rfl rfl rfl rfl

theorem kept_noteMcast {b : Dev} : ∀ p (d : Dev), Kept b d → Kept b (noteMcast p d) := by
  intro p d h
  unfold noteMcast
  repeat' first
    | with_reducible first
      | assumption
    | dsimp only | refine Kept.same ?_ rfl rfl rfl rfl rfl rfl rfl

theorem kept_mcastHere {b : Dev} : ∀ p (d : Dev), Kept b d → Kept b (mcastHere p d) := by
  intro p d h
  unfold mcastHere
  repeat' first
    | with_reducible first
      | assumption | apply Kept.ite | apply kept_noteMcast | apply kept_devWrite | apply kept_bumpF
    | split

theorem kept_mcastOn {b : Dev} : ∀ l cls p (d : Dev), Kept b d → Kept b (mcastOn l cls p d) := by
  intro l cls p d h
  unfold mcastOn
  repeat' first
    | with_reducible first
      | assumption | apply Kept.ite | apply kept_forEach | apply kept_queuePkt | apply kept_bumpF
    | (intro _)

theorem kept_portCopy {b : Dev} (c : Nat) (o : QuireOp) (f : List Byte → Dev → Nat × Dev) (e : ReqEnd) (d : Dev)
    (hf : ∀ bs d, Kept b d → KeptP b (f bs d)) (h : Kept b d) : Kept b (portCopy c o f e d) := by
  unfold portCopy
  dsimp only
  split
  · exact kept_quireCopyData _ _ _ _ h
  · split
    · exact kept_quireEnd _ _ _ _ _ h
    · exact Kept.ite (kept_quireEnd _ _ _ _ _ (kept_quirePost _ _ _ (hf _ _ h).snd)) (kept_quireEnd _ _ _ _ _ (hf _ _ h).snd)

theorem kept_portStep {b : Dev} (core : Fin 32) (id : Nat) (r : ReqEnd) (isPort : QuireBlk → Bool) (mine : List Byte → Bool)
    (f : Nat → List Byte → Dev → Nat × Dev) (s : State) (hf : ∀ k bs d, Kept b d → KeptP b (f k bs d)) (h : Kept b s.dev) :
    KeptO b s (portStep core id r isPort mine f s) := by
  unfold portStep
  dsimp only
  split
  · split
    · exact kept_whenDev _ _ _ (kept_portCopy _ _ _ _ _ (hf _) h)
    · exact kept_whenDev _ _ _ h
  · exact kept_whenDev _ _ _ h

theorem kept_openWin {b : Dev} : ∀ k bs (d : Dev), Kept b d → KeptP b (openWin k bs d) := by
  intro k bs d h
  unfold openWin
  repeat' first
    | with_reducible first
      | assumption | apply KeptP.ite
    | dsimp only | with_reducible apply KeptP.pair | refine Kept.same ?_ rfl rfl rfl rfl rfl rfl rfl

theorem kept_closeWin {b : Dev} : ∀ k bs (d : Dev), Kept b d → KeptP b (closeWin k bs d) := by
  intro k bs d h
  unfold closeWin
  repeat' first
    | with_reducible first
      | assumption | apply KeptP.ite
    | dsimp only | with_reducible apply KeptP.pair | refine Kept.same ?_ rfl rfl rfl rfl rfl rfl rfl

theorem kept_execRecvWindowOpen {b : Dev} : ∀ core id r (s : State), Kept b s.dev → KeptO b s (execRecvWindowOpen core id r s) := by
  intro core id r s h
  unfold execRecvWindowOpen
  repeat' first
    | with_reducible first
      | assumption | apply kept_portStep | apply kept_openWin

theorem kept_execRecvWindowClose {b : Dev} : ∀ core id r (s : State), Kept b s.dev → KeptO b s (execRecvWindowClose core id r s) := by
  intro core id r s h
  unfold execRecvWindowClose
  repeat' first
    | with_reducible first
      | assumption | apply kept_portStep | apply kept_closeWin

theorem kept_execSnapshotCapture {b : Dev} : ∀ t uid ranges region len (s : State), Kept b s.dev → KeptO b s (execSnapshotCapture t uid ranges region len s) := by
  intro t uid ranges region len s h
  unfold execSnapshotCapture
  repeat' first
    | with_reducible first
      | assumption | apply kept_whenDev
    | dsimp only | split | refine Kept.same ?_ rfl rfl rfl rfl rfl rfl rfl

theorem kept_endSnap {b : Dev} : ∀ p (d : Dev), Kept b d → Kept b (endSnap p d) := by
  intro p d h
  unfold endSnap
  repeat' first
    | with_reducible first
      | assumption | apply kept_devWrite | apply kept_forEach | apply kept_applyReq
    | (intro _) | dsimp only | refine Kept.same ?_ rfl rfl rfl rfl rfl rfl rfl

theorem kept_execSnapshotCopyDone {b : Dev} : ∀ (s : State), Kept b s.dev → KeptO b s (execSnapshotCopyDone s) := by
  intro s h
  unfold execSnapshotCopyDone
  repeat' first
    | with_reducible first
      | assumption | apply kept_whenDev | apply kept_endSnap
    | dsimp only | split

theorem kept_settle {b : Dev} : ∀ (d : Dev), Kept b d → Kept b (settle d) := by
  intro d h
  unfold settle
  repeat' first
    | with_reducible first
      | assumption | apply kept_startColls

theorem kept_applyUp {b : Dev} : ∀ c rank p (d : Dev), Kept b d → Kept b (applyUp c rank p d) := by
  intro c rank p d h
  unfold applyUp
  repeat' first
    | with_reducible first
      | assumption | apply Kept.ite | apply kept_abortColl | apply kept_kickColl | apply kept_updColl

theorem kept_finishMcast {b : Dev} : ∀ uid (d : Dev), Kept b d → Kept b (finishMcast uid d) := by
  intro uid d h
  unfold finishMcast
  repeat' first
    | with_reducible first
      | assumption | apply Kept.ite | apply kept_finishColl
    | split

theorem kept_applyDown {b : Dev} : ∀ c p (d : Dev), Kept b d → Kept b (applyDown c p d) := by
  intro c p d h
  unfold applyDown
  repeat' first
    | with_reducible first
      | assumption | apply Kept.ite | apply kept_forEach | apply kept_sendColl | apply kept_finishMcast | apply kept_updColl
      | apply kept_passDown
    | (intro _)

theorem kept_spreadAbort {b : Dev} : ∀ c st failing told (d : Dev), Kept b d → Kept b (spreadAbort c st failing told d) := by
  intro c st failing told d h
  unfold spreadAbort
  repeat' first
    | with_reducible first
      | assumption | apply kept_forEach | apply kept_sendColl
    | (intro _) | dsimp only | split | refine Kept.same ?_ rfl rfl rfl rfl rfl rfl rfl

theorem kept_onColl {b : Dev} : ∀ j p (d : Dev), Kept b d → Kept b (onColl j p d) := by
  intro j p d h
  unfold onColl
  repeat' first
    | with_reducible first
      | assumption | apply Kept.ite | apply kept_finishColl | apply kept_spreadAbort | apply kept_applyDown
      | apply kept_applyUp
    | dsimp only | split | refine Kept.same ?_ rfl rfl rfl rfl rfl rfl rfl

theorem kept_takeColl {b : Dev} : ∀ p (d : Dev), Kept b d → Kept b (takeColl p d) := by
  intro p d h
  unfold takeColl
  repeat' first
    | with_reducible first
      | assumption | apply kept_sendPlain | apply kept_settle | apply kept_onColl | apply kept_giveAnswer
    | split

theorem kept_execCollUp {b : Dev} : ∀ link (s : State), Kept b s.dev → KeptO b s (execCollUp link s) := by
  intro link s h
  unfold execCollUp
  repeat' first
    | with_reducible first
      | assumption | apply kept_pktStep | apply kept_routed | apply kept_takeColl
    | (intro _)

theorem kept_execCollDown {b : Dev} : ∀ link (s : State), Kept b s.dev → KeptO b s (execCollDown link s) := by
  intro link s h
  unfold execCollDown
  repeat' first
    | with_reducible first
      | assumption | apply kept_pktStep | apply kept_routed | apply kept_takeColl
    | (intro _)

theorem kept_execCollAbort {b : Dev} : ∀ link (s : State), Kept b s.dev → KeptO b s (execCollAbort link s) := by
  intro link s h
  unfold execCollAbort
  repeat' first
    | with_reducible first
      | assumption | apply kept_pktStep | apply kept_routed | apply kept_takeColl
    | (intro _)

theorem kept_execMcast {b : Dev} : ∀ link (s : State), Kept b s.dev → KeptO b s (execMcast link s) := by
  intro link s h
  unfold execMcast
  repeat' first
    | with_reducible first
      | assumption | apply Kept.ite | apply kept_pktStep | apply kept_mcastOn | apply kept_mcastHere | apply kept_settle
      | apply kept_forEach | apply kept_finishMcast
    | (intro _)

theorem kept_failColl {b : Dev} : ∀ c st (d : Dev), Kept b d → Kept b (failColl c st d) := by
  intro c st d h
  unfold failColl
  repeat' first
    | with_reducible first
      | assumption | apply Kept.ite | apply kept_finishColl | apply kept_postOpt | apply kept_keepStatus
    | refine Kept.same ?_ rfl rfl rfl rfl rfl rfl rfl

theorem kept_barrierLate {b : Dev} : ∀ c (d : Dev), Kept b d → Kept b (barrierLate c d) := by
  intro c d h
  unfold barrierLate
  repeat' first
    | with_reducible first
      | assumption | apply Kept.ite | apply kept_raiseEvent

theorem kept_applyEarly {b : Dev} : ∀ j c (d : Dev), Kept b d → Kept b (applyEarly j c d) := by
  intro j c d h
  unfold applyEarly
  repeat' first
    | with_reducible first
      | assumption | apply kept_forEach | apply kept_onColl
    | (intro _) | dsimp only | refine Kept.same ?_ rfl rfl rfl rfl rfl rfl rfl

theorem kept_acceptColl {b : Dev} : ∀ j c (d : Dev), Kept b d → Kept b (acceptColl j c d) := by
  intro j c d h
  unfold acceptColl
  repeat' first
    | with_reducible first
      | assumption | apply Kept.ite | apply kept_settle | apply kept_applyEarly | apply kept_barrierLate
    | dsimp only | refine Kept.same ?_ rfl rfl rfl rfl rfl rfl rfl

theorem kept_numberColl {b : Dev} : ∀ c st (d : Dev), Kept b d → Kept b (numberColl c st d) := by
  intro c st d h
  unfold numberColl
  repeat' first
    | with_reducible first
      | assumption | apply kept_failColl
    | dsimp only | refine Kept.same ?_ rfl rfl rfl rfl rfl rfl rfl

theorem kept_requestColl {b : Dev} : ∀ k bs (d : Dev), Kept b d → Kept b (requestColl k bs d) := by
  intro k bs d h
  unfold requestColl
  repeat' first
    | with_reducible first
      | assumption | apply Kept.ite | apply kept_failColl | apply kept_numberColl | apply kept_barrierLate
      | apply kept_acceptColl
    | dsimp only | split

theorem kept_collStep {b : Dev} : ∀ core id r mine (s : State), Kept b s.dev → KeptO b s (collStep core id r mine s) := by
  intro core id r mine s h
  unfold collStep
  repeat' first
    | with_reducible first
      | assumption | apply kept_portStep | apply kept_requestColl
    | (intro _) | with_reducible apply KeptP.pair

theorem kept_execBarrier {b : Dev} : ∀ core id r (s : State), Kept b s.dev → KeptO b s (execBarrier core id r s) := by
  intro core id r s h
  unfold execBarrier
  repeat' first
    | with_reducible first
      | assumption | apply kept_collStep

theorem kept_execTbarrier {b : Dev} : ∀ core id r (s : State), Kept b s.dev → KeptO b s (execTbarrier core id r s) := by
  intro core id r s h
  unfold execTbarrier
  repeat' first
    | with_reducible first
      | assumption | apply kept_collStep

theorem kept_execReduce {b : Dev} : ∀ core id r (s : State), Kept b s.dev → KeptO b s (execReduce core id r s) := by
  intro core id r s h
  unfold execReduce
  repeat' first
    | with_reducible first
      | assumption | apply kept_collStep

theorem kept_execAllreduce {b : Dev} : ∀ core id r (s : State), Kept b s.dev → KeptO b s (execAllreduce core id r s) := by
  intro core id r s h
  unfold execAllreduce
  repeat' first
    | with_reducible first
      | assumption | apply kept_collStep

theorem kept_execReducescatter {b : Dev} : ∀ core id r (s : State), Kept b s.dev → KeptO b s (execReducescatter core id r s) := by
  intro core id r s h
  unfold execReducescatter
  repeat' first
    | with_reducible first
      | assumption | apply kept_collStep

theorem kept_execAllgather {b : Dev} : ∀ core id r (s : State), Kept b s.dev → KeptO b s (execAllgather core id r s) := by
  intro core id r s h
  unfold execAllgather
  repeat' first
    | with_reducible first
      | assumption | apply kept_collStep

theorem kept_execBroadcast {b : Dev} : ∀ core id r (s : State), Kept b s.dev → KeptO b s (execBroadcast core id r s) := by
  intro core id r s h
  unfold execBroadcast
  repeat' first
    | with_reducible first
      | assumption | apply kept_collStep

theorem kept_execCollectiveTimeout {b : Dev} : ∀ uid (s : State), Kept b s.dev → KeptO b s (execCollectiveTimeout uid s) := by
  intro uid s h
  unfold execCollectiveTimeout
  repeat' first
    | with_reducible first
      | assumption | apply Kept.ite | apply kept_whenDev | apply kept_settle | apply kept_finishColl | apply kept_abortColl
    | dsimp only | split

theorem kept_execLaunchFire {b : Dev} : ∀ uid (s : State), Kept b s.dev → KeptO b s (execLaunchFire uid s) := by
  intro uid s h
  unfold execLaunchFire
  repeat' first
    | with_reducible first
      | assumption | apply Kept.ite | apply kept_whenDev | apply kept_fireDesc | apply kept_settle | apply kept_finishColl
    | dsimp only | split

theorem kept_actReset {b : Dev} : ∀ (d : Dev), Kept b d → Kept b (actReset d) := by
  intro d h
  unfold actReset
  repeat' first
    | with_reducible first
      | assumption | apply kept_forEach | apply kept_completeJob | apply kept_endJobColls | apply kept_startWaiting
      | apply kept_endReqs
    | (intro _) | dsimp only | refine Kept.same ?_ rfl rfl rfl rfl rfl rfl rfl

theorem kept_sendReset {b : Dev} : ∀ id timed except_ (d : Dev), Kept b d → Kept b (sendReset id timed except_ d) := by
  intro id timed except_ d h
  unfold sendReset
  repeat' first
    | with_reducible first
      | assumption | apply kept_forEach | apply kept_queuePkt
    | (intro _)

theorem kept_planReset {b : Dev} : ∀ id timed uid (d : Dev), Kept b d → Kept b (planReset id timed uid d) := by
  intro id timed uid d h
  unfold planReset
  repeat' first
    | with_reducible first
      | assumption | apply Kept.ite | apply kept_finishDesc | apply kept_actReset
    | dsimp only | split | refine Kept.same ?_ rfl rfl rfl rfl rfl rfl rfl

theorem kept_noteReset {b : Dev} : ∀ id (d : Dev), Kept b d → Kept b (noteReset id d) := by
  intro id d h
  unfold noteReset
  repeat' first
    | with_reducible first
      | assumption
    | dsimp only | refine Kept.same ?_ rfl rfl rfl rfl rfl rfl rfl

theorem kept_execReset {b : Dev} : ∀ link (s : State), Kept b s.dev → KeptO b s (execReset link s) := by
  intro link s h
  unfold execReset
  repeat' first
    | with_reducible first
      | assumption | apply Kept.ite | apply kept_pktStep | apply kept_violate | apply kept_nakBad | apply kept_planReset
      | apply kept_sendReset | apply kept_noteReset
    | (intro _)

theorem kept_execFabricReset {b : Dev} : ∀ uid (s : State), Kept b s.dev → KeptO b s (execFabricReset uid s) := by
  intro uid s h
  unfold execFabricReset
  repeat' first
    | with_reducible first
      | assumption | apply kept_onDesc | apply kept_planReset | apply kept_sendReset | apply kept_noteReset
      | apply kept_beginDesc
    | (intro _) | dsimp only | refine Kept.same ?_ rfl rfl rfl rfl rfl rfl rfl

theorem kept_execFabricResetAct {b : Dev} : ∀ rid (s : State), Kept b s.dev → KeptO b s (execFabricResetAct rid s) := by
  intro rid s h
  unfold execFabricResetAct
  repeat' first
    | with_reducible first
      | assumption | apply kept_whenDev | apply kept_planReset
    | dsimp only | split | refine Kept.same ?_ rfl rfl rfl rfl rfl rfl rfl

theorem kept_onTime {b : Dev} : ∀ port within_ p (d : Dev), Kept b d → Kept b (onTime port within_ p d) := by
  intro port within_ p d h
  unfold onTime
  repeat' first
    | with_reducible first
      | assumption | apply Kept.ite | apply kept_reselect | apply kept_takeSample
    | dsimp only | refine Kept.same ?_ rfl rfl rfl rfl rfl rfl rfl

theorem kept_execTime {b : Dev} : ∀ port within_ (s : State), Kept b s.dev → KeptO b s (execTime port within_ s) := by
  intro port within_ s h
  unfold execTime
  repeat' first
    | with_reducible first
      | assumption | apply Kept.ite | apply kept_pktStep | apply kept_onTime | apply kept_violate | apply kept_badSample
    | (intro _)

end Sys2Proof.Machine
end

