-- ==== Sys2Proof/Laws/KeptBoot.lean ====
section
/-! SUPPORT. What the operations of power, the mailbox, registers, resets and boot keep
(Safety.lean, Kept). -/

set_option Elab.async false

namespace Sys2Proof.Machine

theorem kept_levelWrite {b : Dev} : ∀ v (d : Dev), Kept b d → Kept b (levelWrite v d) := by
  intro v d h
  unfold levelWrite
  repeat' first
    | with_reducible first
      | assumption | apply kept_relevel | apply kept_setF

theorem kept_execPowerLevelRequest {b : Dev} : ∀ v (s : State), Kept b s.dev → KeptO b s (execPowerLevelRequest v s) := by
  intro v s h
  unfold execPowerLevelRequest
  repeat' first
    | with_reducible first
      | assumption | apply kept_whenDev | apply kept_levelWrite

theorem kept_gateCore {b : Dev} : ∀ c (d : Dev), Kept b d → Kept b (gateCore c d) := by
  intro c d h
  unfold gateCore
  repeat' first
    | with_reducible first
      | assumption | apply kept_relevel
    | dsimp only | refine Kept.same ?_ rfl rfl rfl rfl rfl rfl rfl

theorem kept_execCoreGate {b : Dev} : ∀ core (s : State), Kept b s.dev → KeptO b s (execCoreGate core s) := by
  intro core s h
  unfold execCoreGate
  repeat' first
    | with_reducible first
      | assumption | apply kept_whenDev | apply kept_gateCore

theorem kept_execCorePowerUp {b : Dev} : ∀ core (s : State), Kept b s.dev → KeptO b s (execCorePowerUp core s) := by
  intro core s h
  unfold execCorePowerUp
  repeat' first
    | with_reducible first
      | assumption | apply kept_whenDev | apply kept_relevel | apply kept_zeroMem
    | dsimp only | refine Kept.same ?_ rfl rfl rfl rfl rfl rfl rfl

theorem kept_raiseLimit {b : Dev} : ∀ step sensor (d : Dev), Kept b d → Kept b (raiseLimit step sensor d) := by
  intro step sensor d h
  unfold raiseLimit
  repeat' first
    | with_reducible first
      | assumption | apply kept_raiseEvent

theorem kept_enterStep {b : Dev} : ∀ n sensor (d : Dev), Kept b d → Kept b (enterStep n sensor d) := by
  intro n sensor d h
  unfold enterStep
  repeat' first
    | with_reducible first
      | assumption | apply kept_raiseLimit | apply kept_setF
    | dsimp only | refine Kept.same ?_ rfl rfl rfl rfl rfl rfl rfl

theorem kept_noteLimits {b : Dev} : ∀ was sensor (d : Dev), Kept b d → Kept b (noteLimits was sensor d) := by
  intro was sensor d h
  unfold noteLimits
  repeat' first
    | with_reducible first
      | assumption | apply Kept.ite | apply kept_enterStep
    | dsimp only | split | refine Kept.same ?_ rfl rfl rfl rfl rfl rfl rfl

theorem kept_execShedStandardPause {b : Dev} : ∀ (s : State), Kept b s.dev → KeptO b s (execShedStandardPause s) := by
  intro s h
  unfold execShedStandardPause
  repeat' first
    | with_reducible first
      | assumption | apply kept_whenDev | apply kept_enterStep

theorem kept_execShedLevelStep {b : Dev} : ∀ (s : State), Kept b s.dev → KeptO b s (execShedLevelStep s) := by
  intro s h
  unfold execShedLevelStep
  repeat' first
    | with_reducible first
      | assumption | apply kept_whenDev | apply kept_enterStep | apply kept_relevel
    | dsimp only | refine Kept.same ?_ rfl rfl rfl rfl rfl rfl rfl

theorem kept_undoStep {b : Dev} : ∀ (d : Dev), Kept b d → Kept b (undoStep d) := by
  intro d h
  unfold undoStep
  repeat' first
    | with_reducible first
      | assumption | apply Kept.ite | apply kept_relevel | apply kept_setF
    | dsimp only | refine Kept.same ?_ rfl rfl rfl rfl rfl rfl rfl

theorem kept_execShedUndoStep {b : Dev} : ∀ (s : State), Kept b s.dev → KeptO b s (execShedUndoStep s) := by
  intro s h
  unfold execShedUndoStep
  repeat' first
    | with_reducible first
      | assumption | apply kept_whenDev | apply kept_undoStep
    | dsimp only | refine Kept.same ?_ rfl rfl rfl rfl rfl rfl rfl

theorem kept_failSlot {b : Dev} : ∀ k (d : Dev), Kept b d → Kept b (failSlot k d) := by
  intro k d h
  unfold failSlot
  repeat' first
    | with_reducible first
      | assumption | apply Kept.ite | apply kept_updSlot | apply kept_faultWork | apply kept_cancelStreams
      | apply kept_discardQueues

theorem kept_goCritical {b : Dev} : ∀ sensor tj (d : Dev), Kept b d → Kept b (goCritical sensor tj d) := by
  intro sensor tj d h
  unfold goCritical
  repeat' first
    | with_reducible first
      | assumption | apply kept_raiseEvent | apply kept_setF | apply kept_relevel | apply kept_forEach | apply kept_failSlot
      | apply kept_updSlot
    | (intro _) | dsimp only | refine Kept.same ?_ rfl rfl rfl rfl rfl rfl rfl

theorem kept_endCritical {b : Dev} : ∀ (d : Dev), Kept b d → Kept b (endCritical d) := by
  intro d h
  unfold endCritical
  repeat' first
    | with_reducible first
      | assumption | apply kept_relevel | apply kept_setF
    | dsimp only | refine Kept.same ?_ rfl rfl rfl rfl rfl rfl rfl

theorem kept_driveGpio {b : Dev} : ∀ before (d : Dev), Kept b d → Kept b (driveGpio before d) := by
  intro before d h
  unfold driveGpio
  repeat' first
    | with_reducible first
      | assumption | apply kept_forEach | apply kept_emit
    | (intro _)

theorem kept_drivePins {b : Dev} : ∀ before (d : Dev), Kept b d → Kept b (drivePins before d) := by
  intro before d h
  unfold drivePins
  repeat' first
    | with_reducible first
      | assumption | apply Kept.ite | apply kept_driveGpio | apply kept_emit

theorem kept_coldBase {b : Dev} (d : Dev) (h : Kept b d) : Kept b (coldBase d) :=
  ⟨fun _ => rfl, fun _ => rfl, fun _ => rfl, h.retOk, h.ret, h.counters, h.out, h.aclk⟩

theorem kept_coldState {b : Dev} : ∀ (d : Dev), Kept b d → Kept b (coldState d) := by
  intro d h
  unfold coldState
  repeat' first
    | with_reducible first
      | assumption | apply kept_drivePins | apply kept_coldBase

theorem kept_execTemperatureSample {b : Dev} : ∀ cd0 cd1 iod (s : State), Kept b s.dev → KeptO b s (execTemperatureSample cd0 cd1 iod s) := by
  intro cd0 cd1 iod s h
  unfold execTemperatureSample
  repeat' first
    | with_reducible first
      | assumption | apply Kept.ite | apply kept_setF | apply kept_whenDev | apply kept_emit | apply kept_coldState
      | apply kept_noteLimits | apply kept_goCritical | apply kept_endCritical
    | dsimp only | split | refine Kept.same ?_ rfl rfl rfl rfl rfl rfl rfl

theorem kept_execPowerWindow {b : Dev} : ∀ w (s : State), Kept b s.dev → KeptO b s (execPowerWindow w s) := by
  intro w s h
  unfold execPowerWindow
  repeat' first
    | with_reducible first
      | assumption | apply kept_setF | apply kept_whenDev | apply kept_noteLimits
    | dsimp only | refine Kept.same ?_ rfl rfl rfl rfl rfl rfl rfl

theorem kept_execVidStep {b : Dev} : ∀ up (s : State), Kept b s.dev → KeptO b s (execVidStep up s) := by
  intro up s h
  unfold execVidStep
  repeat' first
    | with_reducible first
      | assumption | apply kept_whenDev | apply kept_emit | apply kept_setF
    | dsimp only | refine Kept.same ?_ rfl rfl rfl rfl rfl rfl rfl

theorem kept_execVddAuxInRange {b : Dev} : ∀ (s : State), Kept b s.dev → KeptO b s (execVddAuxInRange s) := by
  intro s h
  unfold execVddAuxInRange
  repeat' first
    | with_reducible first
      | assumption | apply kept_whenDev | apply kept_emit
    | dsimp only | refine Kept.same ?_ rfl rfl rfl rfl rfl rfl rfl

theorem kept_execVddAuxRemoved {b : Dev} : ∀ (s : State), Kept b s.dev → KeptO b s (execVddAuxRemoved s) := by
  intro s h
  unfold execVddAuxRemoved
  repeat' first
    | with_reducible first
      | assumption | apply kept_emit | apply kept_whenDev | apply kept_coldState
    | dsimp only | split | refine Kept.same ?_ rfl rfl rfl rfl rfl rfl rfl

theorem kept_execVbatRtcLow {b : Dev} : ∀ (s : State), Kept b s.dev → KeptO b s (execVbatRtcLow s) := by
  intro s h
  unfold execVbatRtcLow
  repeat' first
    | with_reducible first
      | assumption | apply kept_whenDev
    | dsimp only | refine Kept.same ?_ rfl rfl rfl rfl rfl rfl rfl

theorem kept_setStage {b : Dev} : ∀ n (d : Dev), Kept b d → Kept b (setStage n d) := by
  intro n d h
  unfold setStage
  repeat' first
    | with_reducible first
      | assumption | apply kept_setF

theorem kept_setMbox {b : Dev} : ∀ n (d : Dev), Kept b d → Kept b (setMbox n d) := by
  intro n d h
  unfold setMbox
  repeat' first
    | with_reducible first
      | assumption | apply kept_setF

theorem kept_mboxBegin {b : Dev} : ∀ (d : Dev), Kept b d → Kept b (mboxBegin d) := by
  intro d h
  unfold mboxBegin
  repeat' first
    | with_reducible first
      | assumption | apply Kept.ite | apply kept_regPut

theorem kept_mboxWord {b : Dev} : ∀ w (d : Dev), Kept b d → Kept b (mboxWord w d) := by
  intro w d h
  unfold mboxWord
  repeat' first
    | with_reducible first
      | assumption | apply Kept.ite | apply kept_wrMem | apply kept_regPut

theorem kept_mboxFail {b : Dev} : ∀ reason (d : Dev), Kept b d → Kept b (mboxFail reason d) := by
  intro reason d h
  unfold mboxFail
  repeat' first
    | with_reducible first
      | assumption | apply kept_setF | apply kept_setMbox

theorem kept_mboxWrite {b : Dev} : ∀ kind obj (d : Dev), Kept b d → Kept b (mboxWrite kind obj d) := by
  intro kind obj d h
  unfold mboxWrite
  repeat' first
    | with_reducible first
      | assumption | apply kept_setMbox
    | dsimp only | refine Kept.same ?_ rfl rfl rfl rfl rfl rfl rfl

theorem kept_mboxFinish {b : Dev} : ∀ (d : Dev), Kept b d → Kept b (mboxFinish d) := by
  intro d h
  unfold mboxFinish
  repeat' first
    | with_reducible first
      | assumption | apply Kept.ite | apply kept_mboxFail | apply kept_setF | apply kept_mboxWrite
    | split

theorem kept_mboxStop {b : Dev} : ∀ (d : Dev), Kept b d → Kept b (mboxStop d) := by
  intro d h
  unfold mboxStop
  repeat' first
    | with_reducible first
      | assumption | apply Kept.ite | apply kept_setMbox

theorem kept_dueWarm {b : Dev} : ∀ cause at_ (d : Dev), Kept b d → Kept b (dueWarm cause at_ d) := by
  intro cause at_ d h
  unfold dueWarm
  repeat' first
    | with_reducible first
      | assumption | apply Kept.ite
    | dsimp only | split | refine Kept.same ?_ rfl rfl rfl rfl rfl rfl rfl

theorem kept_mboxCtl {b : Dev} : ∀ v (d : Dev), Kept b d → Kept b (mboxCtl v d) := by
  intro v d h
  unfold mboxCtl
  repeat' first
    | with_reducible first
      | assumption | apply kept_mboxBegin | apply kept_mboxFinish | apply kept_mboxStop | apply kept_dueWarm
    | split

theorem kept_mboxLen {b : Dev} : ∀ v (d : Dev), Kept b d → Kept b (mboxLen v d) := by
  intro v d h
  unfold mboxLen
  repeat' first
    | with_reducible first
      | assumption | apply Kept.ite | apply kept_regPut

theorem kept_useObj {b : Dev} : ∀ m (d : Dev), Kept b d → Kept b (useObj m d) := by
  intro m d h
  unfold useObj
  repeat' first
    | with_reducible first
      | assumption | apply kept_setStage | apply kept_setF
    | dsimp only | split | refine Kept.same ?_ rfl rfl rfl rfl rfl rfl rfl

theorem kept_endWrite {b : Dev} : ∀ m (d : Dev), Kept b d → Kept b (endWrite m d) := by
  intro m d h
  unfold endWrite
  repeat' first
    | with_reducible first
      | assumption | apply kept_emit | apply kept_useObj | apply kept_setMbox
    | dsimp only | refine Kept.same ?_ rfl rfl rfl rfl rfl rfl rfl

theorem kept_mboxStep {b : Dev} (f : Dev → Dev) (s : State) (hf : ∀ d, Kept b d → Kept b (f d)) (h : Kept b s.dev) : KeptO b s (mboxStep f s) :=
  kept_whenDev _ _ _ (hf _ h)

theorem kept_execMboxBegin {b : Dev} : ∀ (s : State), Kept b s.dev → KeptO b s (execMboxBegin s) := by
  intro s h
  unfold execMboxBegin
  repeat' first
    | with_reducible first
      | assumption | apply kept_mboxStep | apply kept_mboxCtl

theorem kept_execMboxData {b : Dev} : ∀ v (s : State), Kept b s.dev → KeptO b s (execMboxData v s) := by
  intro v s h
  unfold execMboxData
  repeat' first
    | with_reducible first
      | assumption | apply kept_mboxStep | apply kept_mboxWord

theorem kept_execMboxEnd {b : Dev} : ∀ (s : State), Kept b s.dev → KeptO b s (execMboxEnd s) := by
  intro s h
  unfold execMboxEnd
  repeat' first
    | with_reducible first
      | assumption | apply kept_mboxStep | apply kept_mboxCtl

theorem kept_execMboxAbort {b : Dev} : ∀ (s : State), Kept b s.dev → KeptO b s (execMboxAbort s) := by
  intro s h
  unfold execMboxAbort
  repeat' first
    | with_reducible first
      | assumption | apply kept_mboxStep | apply kept_mboxCtl

theorem kept_execMboxWarmReset {b : Dev} : ∀ (s : State), Kept b s.dev → KeptO b s (execMboxWarmReset s) := by
  intro s h
  unfold execMboxWarmReset
  repeat' first
    | with_reducible first
      | assumption | apply kept_mboxStep | apply kept_mboxCtl

theorem kept_execMboxWriteDone {b : Dev} : ∀ (s : State), Kept b s.dev → KeptO b s (execMboxWriteDone s) := by
  intro s h
  unfold execMboxWriteDone
  repeat' first
    | with_reducible first
      | assumption | apply kept_whenDev | apply kept_endWrite
    | split

theorem kept_plainWrite {b : Dev} : ∀ key v (d : Dev), Kept b d → Kept b (plainWrite key v d) := by
  intro key v d h
  unfold plainWrite
  repeat' first
    | with_reducible first
      | assumption | apply kept_regPut
    | split

theorem kept_writePf0 {b : Dev} : ∀ ini off v (d : Dev), Kept b d → Kept b (writePf0 ini off v d) := by
  intro ini off v d h
  unfold writePf0
  repeat' first
    | with_reducible first
      | assumption | apply Kept.ite | apply kept_armSecond | apply kept_reselect | apply kept_plainWrite | apply kept_mboxCtl
      | apply kept_mboxLen | apply kept_mboxWord | apply kept_showRetired | apply kept_portCfgWrite | apply kept_levelWrite
    | dsimp only | refine Kept.same ?_ rfl rfl rfl rfl rfl rfl rfl

theorem kept_writeRing {b : Dev} : ∀ fn r o v (d : Dev), Kept b d → Kept b (writeRing fn r o v d) := by
  intro fn r o v d h
  unfold writeRing
  repeat' first
    | with_reducible first
      | assumption | apply Kept.ite | apply kept_ringCfgWrite | apply kept_plainWrite

theorem kept_writeReg {b : Dev} : ∀ ini fn off v (d : Dev), Kept b d → Kept b (writeReg ini fn off v d) := by
  intro ini fn off v d h
  unfold writeReg
  repeat' first
    | with_reducible first
      | assumption | apply Kept.ite | apply kept_writeRing | apply kept_writePf0
    | split

theorem kept_writeAccess {b : Dev} : ∀ ini fn off size v (d : Dev), Kept b d → Kept b (writeAccess ini fn off size v d) := by
  intro ini fn off size v d h
  unfold writeAccess
  repeat' first
    | with_reducible first
      | assumption | apply Kept.ite | apply kept_driveGpio | apply kept_writeReg

theorem kept_execRegisterWrite {b : Dev} : ∀ ini fn off size value (s : State), Kept b s.dev → KeptO b s (execRegisterWrite ini fn off size value s) := by
  intro ini fn off size value s h
  unfold execRegisterWrite
  repeat' first
    | with_reducible first
      | assumption | apply kept_whenDev | apply kept_writeAccess

theorem kept_latchRegs {b : Dev} : ∀ ini l (d : Dev), Kept b d → Kept b (latchRegs ini l d) := by
  intro ini l d h
  unfold latchRegs
  repeat' first
    | with_reducible first
      | assumption | apply kept_forEach
    | (intro _) | refine Kept.same ?_ rfl rfl rfl rfl rfl rfl rfl

theorem kept_readPf0 {b : Dev} : ∀ ini off pins (d : Dev), Kept b d → KeptP b (readPf0 ini off pins d) := by
  intro ini off pins d h
  unfold readPf0
  repeat' first
    | with_reducible first
      | assumption | apply kept_latchRegs | apply kept_regPut | apply KeptP.ite
    | dsimp only | split | with_reducible apply KeptP.pair

theorem kept_readReg {b : Dev} : ∀ ini fn off pins (d : Dev), Kept b d → KeptP b (readReg ini fn off pins d) := by
  intro ini fn off pins d h
  unfold readReg
  repeat' first
    | with_reducible first
      | assumption | apply kept_readPf0 | apply kept_regPut | apply KeptP.ite
    | dsimp only | split | with_reducible apply KeptP.pair

theorem kept_readAccess {b : Dev} : ∀ ini fn off size pins (d : Dev), Kept b d → Kept b (readAccess ini fn off size pins d) := by
  intro ini fn off size pins d h
  unfold readAccess
  repeat' first
    | with_reducible first
      | assumption | apply Kept.ite | apply kept_emit | apply kept_readReg | apply KeptP.snd

theorem kept_readStep {b : Dev} : ∀ ini fn off size pins (s : State), Kept b s.dev → KeptO b s (readStep ini fn off size pins s) := by
  intro ini fn off size pins s h
  unfold readStep
  repeat' first
    | with_reducible first
      | assumption | apply kept_whenDev | apply kept_readAccess

theorem kept_execRcRegisterRead {b : Dev} : ∀ ini fn off size pins (s : State), Kept b s.dev → KeptO b s (execRcRegisterRead ini fn off size pins s) := by
  intro ini fn off size pins s h
  unfold execRcRegisterRead
  repeat' first
    | with_reducible first
      | assumption | apply kept_readStep

theorem kept_execTimNowLoRead {b : Dev} : ∀ ini size (s : State), Kept b s.dev → KeptO b s (execTimNowLoRead ini size s) := by
  intro ini size s h
  unfold execTimNowLoRead
  repeat' first
    | with_reducible first
      | assumption | apply kept_readStep

theorem kept_execLivPortFrameOutRead {b : Dev} : ∀ ini port (s : State), Kept b s.dev → KeptO b s (execLivPortFrameOutRead ini port s) := by
  intro ini port s h
  unfold execLivPortFrameOutRead
  repeat' first
    | with_reducible first
      | assumption | apply kept_readStep

theorem kept_execPrsEngBytesLoRead {b : Dev} : ∀ ini engine (s : State), Kept b s.dev → KeptO b s (execPrsEngBytesLoRead ini engine s) := by
  intro ini engine s h
  unfold execPrsEngBytesLoRead
  repeat' first
    | with_reducible first
      | assumption | apply kept_readStep

theorem kept_barWrite {b : Dev} (x : Nat) (bs : List Byte) (d : Dev) (h : Kept b d) : Kept b (barWrite x bs d) := by
  unfold barWrite
  exact Kept.ite (kept_devWrite _ _ _ h) (Kept.foldl _ _ (fun _ _ h => Kept.ite (kept_wrMem _ _ h) h) h)

theorem kept_barRead {b : Dev} : ∀ x n (d : Dev), Kept b d → Kept b (barRead x n d) := by
  intro x n d h
  unfold barRead
  repeat' first
    | with_reducible first
      | assumption | apply Kept.ite | apply kept_emit

theorem kept_execBar4WindowAccess {b : Dev} : ∀ off len data (s : State), Kept b s.dev → KeptO b s (execBar4WindowAccess off len data s) := by
  intro off len data s h
  unfold execBar4WindowAccess
  repeat' first
    | with_reducible first
      | assumption | apply kept_whenDev | apply kept_barWrite | apply kept_barRead
    | split

theorem kept_execMgmtStatusRead {b : Dev} : ∀ (s : State), Kept b s.dev → KeptO b s (execMgmtStatusRead s) := by
  intro s h
  unfold execMgmtStatusRead
  repeat' first
    | with_reducible first
      | assumption | apply kept_whenDev | apply kept_emit

theorem kept_execMctpMessage {b : Dev} : ∀ m (s : State), Kept b s.dev → KeptO b s (execMctpMessage m s) := by
  intro m s h
  unfold execMctpMessage
  repeat' first
    | with_reducible first
      | assumption | apply kept_whenDev | apply kept_emit

theorem kept_haltCore {b : Dev} : ∀ k (d : Dev), Kept b d → Kept b (haltCore k d) := by
  intro k d h
  unfold haltCore
  repeat' first
    | with_reducible first
      | assumption | apply Kept.ite
    | dsimp only | refine Kept.same ?_ rfl rfl rfl rfl rfl rfl rfl

theorem kept_resumeCore {b : Dev} : ∀ k (d : Dev), Kept b d → Kept b (resumeCore k d) := by
  intro k d h
  unfold resumeCore
  repeat' first
    | with_reducible first
      | assumption
    | dsimp only | refine Kept.same ?_ rfl rfl rfl rfl rfl rfl rfl

theorem kept_debugAccess {b : Dev} : ∀ op (d : Dev), Kept b d → Kept b (debugAccess op d) := by
  intro op d h
  unfold debugAccess
  repeat' first
    | with_reducible first
      | assumption | apply Kept.ite | apply kept_emit | apply kept_haltCore | apply kept_resumeCore
    | split

theorem kept_execJtagDebugAccess {b : Dev} : ∀ op (s : State), Kept b s.dev → KeptO b s (execJtagDebugAccess op s) := by
  intro op s h
  unfold execJtagDebugAccess
  repeat' first
    | with_reducible first
      | assumption | apply kept_whenDev | apply kept_debugAccess

theorem kept_execPcieLinkTraining {b : Dev} : ∀ speed width flit (s : State), Kept b s.dev → KeptO b s (execPcieLinkTraining speed width flit s) := by
  intro speed width flit s h
  unfold execPcieLinkTraining
  repeat' first
    | with_reducible first
      | assumption | apply kept_whenDev | apply kept_regPut

theorem kept_failFrame {b : Dev} : ∀ i st (d : Dev), Kept b d → Kept b (failFrame i st d) := by
  intro i st d h
  unfold failFrame
  repeat' first
    | with_reducible first
      | assumption | apply kept_dropSessLeases | apply kept_forEach | apply kept_stopQuiet | apply kept_cplFrame
      | apply kept_updSess
    | dsimp only | split

theorem kept_bridgeVictim {b : Dev} : ∀ e (d : Dev), Kept b d → Kept b (bridgeVictim e d) := by
  intro e d h
  unfold bridgeVictim
  repeat' first
    | with_reducible first
      | assumption | apply Kept.ite | apply kept_completeJob | apply kept_faultSession | apply kept_failFrame
    | split

theorem kept_execBridgeTransferError {b : Dev} : ∀ bridge e (s : State), Kept b s.dev → KeptO b s (execBridgeTransferError bridge e s) := by
  intro bridge e s h
  unfold execBridgeTransferError
  repeat' first
    | with_reducible first
      | assumption | apply Kept.ite | apply kept_whenDev | apply kept_bumpF | apply kept_bridgeVictim | apply kept_setF

theorem kept_clearFn {b : Dev} : ∀ fn (d : Dev), Kept b d → Kept b (clearFn fn d) := by
  intro fn d h
  unfold clearFn
  repeat' first
    | with_reducible first
      | assumption | apply kept_regResetIf | apply kept_dropDescs
    | dsimp only | refine Kept.same ?_ rfl rfl rfl rfl rfl rfl rfl

theorem kept_endFn {b : Dev} : ∀ fn (d : Dev), Kept b d → Kept b (endFn fn d) := by
  intro fn d h
  unfold endFn
  repeat' first
    | with_reducible first
      | assumption | apply Kept.ite | apply kept_forEach | apply kept_dropBundle | apply kept_mboxStop | apply kept_freeSession
      | apply kept_resetSess | apply kept_completeJob | apply kept_showPress
    | (intro _) | dsimp only | split | refine Kept.same ?_ rfl rfl rfl rfl rfl rfl rfl

theorem kept_flr {b : Dev} : ∀ fn (d : Dev), Kept b d → Kept b (flr fn d) := by
  intro fn d h
  unfold flr
  repeat' first
    | with_reducible first
      | assumption | apply kept_endFn | apply kept_clearFn

theorem kept_execFlr {b : Dev} : ∀ fn (s : State), Kept b s.dev → KeptO b s (execFlr fn s) := by
  intro fn s h
  unfold execFlr
  repeat' first
    | with_reducible first
      | assumption | apply Kept.ite | apply kept_whenDev | apply kept_flr

theorem kept_execPcieHotReset {b : Dev} : ∀ (s : State), Kept b s.dev → KeptO b s (execPcieHotReset s) := by
  intro s h
  unfold execPcieHotReset
  repeat' first
    | with_reducible first
      | assumption | apply Kept.ite | apply kept_whenDev | apply kept_setF | apply kept_forEach | apply kept_flr

theorem kept_execDeviceReset {b : Dev} : ∀ uid (s : State), Kept b s.dev → KeptO b s (execDeviceReset uid s) := by
  intro uid s h
  unfold execDeviceReset
  repeat' first
    | with_reducible first
      | assumption | apply kept_onDesc | apply kept_dueWarm | apply kept_finishDesc
    | (intro _)

theorem kept_warmBase {b : Dev} (cause : Nat) (d : Dev) (h : Kept b d) : Kept b (warmBase cause d) := by
  unfold warmBase
  refine kept_setF _ _ _ _ _ (kept_setF _ _ _ _ _ (kept_setF _ _ _ _ _ (kept_setF _ _ _ _ _ ?_)))
  exact ⟨fun _ => rfl, fun g => twf_filter _ (h.regs g), fun _ => rfl, h.retOk, h.ret, h.counters, h.out, h.aclk⟩

theorem kept_warmReset {b : Dev} : ∀ cause (d : Dev), Kept b d → Kept b (warmReset cause d) := by
  intro cause d h
  unfold warmReset
  repeat' first
    | with_reducible first
      | assumption | apply kept_forEach | apply kept_sendNotice | apply kept_drivePins | apply kept_warmBase

theorem kept_execWarmDeviceReset {b : Dev} : ∀ (s : State), Kept b s.dev → KeptO b s (execWarmDeviceReset s) := by
  intro s h
  unfold execWarmDeviceReset
  repeat' first
    | with_reducible first
      | assumption | apply kept_whenDev | apply kept_warmReset
    | dsimp only | split

theorem kept_execRstNAssert {b : Dev} : ∀ (s : State), Kept b s.dev → KeptO b s (execRstNAssert s) := by
  intro s h
  unfold execRstNAssert
  repeat' first
    | with_reducible first
      | assumption | apply kept_whenDev | apply kept_coldState

theorem kept_powerUp {b : Dev} : ∀ mode (d : Dev), Kept b d → Kept b (powerUp mode d) := by
  intro mode d h
  unfold powerUp
  repeat' first
    | with_reducible first
      | assumption | apply Kept.ite | apply kept_setF
    | dsimp only | split | refine Kept.same ?_ rfl rfl rfl rfl rfl rfl rfl

theorem kept_execColdReset {b : Dev} : ∀ mode (s : State), Kept b s.dev → KeptO b s (execColdReset mode s) := by
  intro mode s h
  unfold execColdReset
  repeat' first
    | with_reducible first
      | assumption | apply kept_whenDev | apply kept_powerUp

theorem kept_clearCore {b : Dev} (c : Nat) (d : Dev) (h : Kept b d) : Kept b (clearCore c d) := by
  unfold clearCore
  refine kept_zeroMem _ _ ?_
  exact ⟨h.mem, h.regs, fun g => semsOk_filter _ (h.sems g), h.retOk, h.ret, h.counters, h.out, h.aclk⟩

theorem kept_resetSlot {b : Dev} : ∀ k (d : Dev), Kept b d → Kept b (resetSlot k d) := by
  intro k d h
  unfold resetSlot
  repeat' first
    | with_reducible first
      | assumption | apply Kept.ite | apply kept_stopSlot

theorem kept_resetCore {b : Dev} : ∀ c (d : Dev), Kept b d → Kept b (resetCore c d) := by
  intro c d h
  unfold resetCore
  repeat' first
    | with_reducible first
      | assumption | apply kept_clearCore | apply kept_resetSlot

theorem kept_execMediaCoreReset {b : Dev} : ∀ core (s : State), Kept b s.dev → KeptO b s (execMediaCoreReset core s) := by
  intro core s h
  unfold execMediaCoreReset
  repeat' first
    | with_reducible first
      | assumption | apply kept_whenDev | apply kept_resetCore

theorem kept_resetEe {b : Dev} : ∀ e (d : Dev), Kept b d → Kept b (resetEe e d) := by
  intro e d h
  unfold resetEe
  repeat' first
    | with_reducible first
      | assumption | apply kept_forEach | apply kept_leaseFailed | apply kept_wrMem | apply kept_setLease | apply kept_showEng
      | apply kept_updEngSt | apply kept_regPut
    | (intro _)

theorem kept_resetMse {b : Dev} : ∀ e (d : Dev), Kept b d → Kept b (resetMse e d) := by
  intro e d h
  unfold resetMse
  repeat' first
    | with_reducible first
      | assumption | apply kept_showMse | apply kept_regPut | apply kept_forEach | apply kept_faultSession | apply kept_setPort
    | (intro _)

theorem kept_resetDck {b : Dev} : ∀ e (d : Dev), Kept b d → Kept b (resetDck e d) := by
  intro e d h
  unfold resetDck
  repeat' first
    | with_reducible first
      | assumption | apply kept_forEach | apply kept_faultSession | apply kept_setPort
    | (intro _)

theorem kept_resetPrs {b : Dev} : ∀ e (d : Dev), Kept b d → Kept b (resetPrs e d) := by
  intro e d h
  unfold resetPrs
  repeat' first
    | with_reducible first
      | assumption | apply kept_failPress | apply kept_setPressQueue | apply kept_showPress | apply kept_regPut
    | split

theorem kept_resetEngine {b : Dev} : ∀ x (d : Dev), Kept b d → Kept b (resetEngine x d) := by
  intro x d h
  unfold resetEngine
  repeat' first
    | with_reducible first
      | assumption | apply kept_resetEe | apply kept_resetMse | apply kept_resetDck | apply kept_resetPrs
    | split

theorem kept_execEngineReset {b : Dev} : ∀ x (s : State), Kept b s.dev → KeptO b s (execEngineReset x s) := by
  intro x s h
  unfold execEngineReset
  repeat' first
    | with_reducible first
      | assumption | apply kept_whenDev | apply kept_resetEngine

theorem kept_useCopy {b : Dev} : ∀ kind copy (d : Dev), Kept b d → Kept b (useCopy kind copy d) := by
  intro kind copy d h
  unfold useCopy
  repeat' first
    | with_reducible first
      | assumption | apply kept_setF
    | dsimp only | refine Kept.same ?_ rfl rfl rfl rfl rfl rfl rfl

theorem kept_awaitObj {b : Dev} : ∀ w reason (d : Dev), Kept b d → Kept b (awaitObj w reason d) := by
  intro w reason d h
  unfold awaitObj
  repeat' first
    | with_reducible first
      | assumption | apply kept_setF | apply kept_setStage
    | dsimp only | refine Kept.same ?_ rfl rfl rfl rfl rfl rfl rfl

theorem kept_showCounter {b : Dev} : ∀ n (d : Dev), Kept b d → Kept b (showCounter n d) := by
  intro n d h
  unfold showCounter
  repeat' first
    | with_reducible first
      | assumption | apply kept_regPut

theorem kept_romRun {b : Dev} : ∀ k err (d : Dev), Kept b d → Kept b (romRun k err d) := by
  intro k err d h
  unfold romRun
  repeat' first
    | with_reducible first
      | assumption | apply Kept.ite | apply kept_showCounter | apply kept_setF | apply kept_setStage | apply kept_useCopy
      | apply kept_awaitObj
    | dsimp only | split | refine Kept.same ?_ rfl rfl rfl rfl rfl rfl rfl

theorem kept_execRomBoot {b : Dev} : ∀ err (s : State), Kept b s.dev → KeptO b s (execRomBoot err s) := by
  intro err s h
  unfold execRomBoot
  repeat' first
    | with_reducible first
      | assumption | apply kept_whenDev | apply kept_romRun
    | dsimp only | split | refine Kept.same ?_ rfl rfl rfl rfl rfl rfl rfl

theorem kept_setLooms {b : Dev} : ∀ body (d : Dev), Kept b d → Kept b (setLooms body d) := by
  intro body d h
  unfold setLooms
  repeat' first
    | with_reducible first
      | assumption | apply kept_forEach | apply kept_regPut
    | (intro _)

theorem kept_applyPlatform {b : Dev} : ∀ (d : Dev), Kept b d → Kept b (applyPlatform d) := by
  intro d h
  unfold applyPlatform
  repeat' first
    | with_reducible first
      | assumption | apply kept_setF | apply kept_regPut | apply kept_reselect | apply kept_plainWrite | apply kept_forEach
      | apply kept_portCfgWrite
    | (intro _) | dsimp only | refine Kept.same ?_ rfl rfl rfl rfl rfl rfl rfl

theorem kept_stage1Platform {b : Dev} : ∀ err (d : Dev), Kept b d → Kept b (stage1Platform err d) := by
  intro err d h
  unfold stage1Platform
  repeat' first
    | with_reducible first
      | assumption | apply kept_applyPlatform | apply kept_useCopy | apply kept_setStage | apply kept_setF
      | apply kept_awaitObj
    | dsimp only | split

theorem kept_stage1 {b : Dev} : ∀ mfg plat (d : Dev), Kept b d → Kept b (stage1 mfg plat d) := by
  intro mfg plat d h
  unfold stage1
  repeat' first
    | with_reducible first
      | assumption | apply kept_forEach | apply kept_showCounter | apply kept_useCopy | apply kept_stage1Platform
      | apply kept_setLooms | apply kept_awaitObj
    | dsimp only | split | refine Kept.same ?_ rfl rfl rfl rfl rfl rfl rfl

theorem kept_execRootStage1 {b : Dev} : ∀ mfg plat (s : State), Kept b s.dev → KeptO b s (execRootStage1 mfg plat s) := by
  intro mfg plat s h
  unfold execRootStage1
  repeat' first
    | with_reducible first
      | assumption | apply kept_whenDev | apply kept_stage1

theorem kept_showTrain {b : Dev} : ∀ f (d : Dev), Kept b d → Kept b (showTrain f d) := by
  intro f d h
  unfold showTrain
  repeat' first
    | with_reducible first
      | assumption | apply kept_forEach | apply kept_setF
    | (intro _)

theorem kept_train {b : Dev} : ∀ m (d : Dev), Kept b d → Kept b (train m d) := by
  intro m d h
  unfold train
  repeat' first
    | with_reducible first
      | assumption | apply Kept.ite | apply kept_regPut | apply kept_showTrain | apply kept_setF
    | dsimp only | split | refine Kept.same ?_ rfl rfl rfl rfl rfl rfl rfl

theorem kept_execDdrTraining {b : Dev} : ∀ m (s : State), Kept b s.dev → KeptO b s (execDdrTraining m s) := by
  intro m s h
  unfold execDdrTraining
  repeat' first
    | with_reducible first
      | assumption | apply kept_whenDev | apply kept_train | apply kept_setStage | apply kept_showRetired | apply kept_setF

theorem kept_startScheduler {b : Dev} : ∀ region area areaLen c (d : Dev), Kept b d → Kept b (startScheduler region area areaLen c d) := by
  intro region area areaLen c d h
  unfold startScheduler
  repeat' first
    | with_reducible first
      | assumption | apply kept_useCopy | apply kept_devWrite | apply kept_setStage
    | dsimp only | split | refine Kept.same ?_ rfl rfl rfl rfl rfl rfl rfl

theorem kept_execSchedulerStart {b : Dev} : ∀ err region area areaLen (s : State), Kept b s.dev → KeptO b s (execSchedulerStart err region area areaLen s) := by
  intro err region area areaLen s h
  unfold execSchedulerStart
  repeat' first
    | with_reducible first
      | assumption | apply kept_whenDev | apply kept_startScheduler | apply kept_awaitObj
    | dsimp only | split

theorem kept_commitCounter {b : Dev} (kind : Nat) (d : Dev) (h : Kept b d) : Kept b (commitCounter kind d) := by
  unfold commitCounter
  refine kept_showCounter _ _ ?_
  refine ⟨h.mem, h.regs, h.sems, h.retOk, h.ret, fun n => Nat.le_trans (h.counters n) ?_, h.out, h.aclk⟩
  by_cases hn : n = kind - 1
  · subst hn
    have hc : tget 0 d.boot.rpmc (kind - 1) = counterOf d kind := rfl
    rw [hc]
    simp only [tget_tset_same]
    split
    · exact Nat.le_max_left _ _
    · exact Nat.le_refl _
  · exact Nat.le_of_eq (tget_tset_other _ _ _ hn).symm

theorem kept_enterService {b : Dev} : ∀ (d : Dev), Kept b d → Kept b (enterService d) := by
  intro d h
  unfold enterService
  repeat' first
    | with_reducible first
      | assumption | apply kept_relevel | apply kept_forEach | apply kept_commitCounter | apply kept_setStage
    | dsimp only | refine Kept.same ?_ rfl rfl rfl rfl rfl rfl rfl

theorem kept_endRestart {b : Dev} : ∀ (d : Dev), Kept b d → Kept b (endRestart d) := by
  intro d h
  unfold endRestart
  repeat' first
    | with_reducible first
      | assumption | apply kept_forEach | apply kept_showPress | apply kept_completeJob | apply kept_finishDesc
    | (intro _) | dsimp only | refine Kept.same ?_ rfl rfl rfl rfl rfl rfl rfl

theorem kept_execSchedulerReady {b : Dev} : ∀ (s : State), Kept b s.dev → KeptO b s (execSchedulerReady s) := by
  intro s h
  unfold execSchedulerReady
  repeat' first
    | with_reducible first
      | assumption | apply KeptO.ite | apply kept_whenDev | apply kept_endRestart | apply kept_enterService

theorem kept_execSchedulerLiveness {b : Dev} : ∀ (s : State), Kept b s.dev → KeptO b s (execSchedulerLiveness s) := by
  intro s h
  unfold execSchedulerLiveness
  repeat' first
    | with_reducible first
      | assumption | apply kept_whenDev
    | dsimp only | refine Kept.same ?_ rfl rfl rfl rfl rfl rfl rfl

theorem kept_stopService {b : Dev} : ∀ (d : Dev), Kept b d → Kept b (stopService d) := by
  intro d h
  unfold stopService
  repeat' first
    | with_reducible first
      | assumption | apply Kept.ite | apply kept_forEach | apply kept_faultSession | apply kept_stopQuiet
    | (intro _) | dsimp only | split | refine Kept.same ?_ rfl rfl rfl rfl rfl rfl rfl

theorem kept_noteRestart {b : Dev} : ∀ cause failed (d : Dev), Kept b d → Kept b (noteRestart cause failed d) := by
  intro cause failed d h
  unfold noteRestart
  repeat' first
    | with_reducible first
      | assumption | apply kept_setF | apply kept_raiseEvent
    | dsimp only | refine Kept.same ?_ rfl rfl rfl rfl rfl rfl rfl

theorem kept_restart {b : Dev} : ∀ cause (d : Dev), Kept b d → Kept b (restart cause d) := by
  intro cause d h
  unfold restart
  repeat' first
    | with_reducible first
      | assumption | apply Kept.ite | apply kept_noteRestart | apply kept_stopService | apply kept_setStage
    | dsimp only | split | refine Kept.same ?_ rfl rfl rfl rfl rfl rfl rfl

theorem kept_execSchedulerLivenessTimeout {b : Dev} : ∀ (s : State), Kept b s.dev → KeptO b s (execSchedulerLivenessTimeout s) := by
  intro s h
  unfold execSchedulerLivenessTimeout
  repeat' first
    | with_reducible first
      | assumption | apply KeptO.ite | apply kept_whenDev | apply kept_setStage | apply kept_restart
    | dsimp only | refine Kept.same ?_ rfl rfl rfl rfl rfl rfl rfl

theorem kept_execProtectionViolation {b : Dev} : ∀ (s : State), Kept b s.dev → KeptO b s (execProtectionViolation s) := by
  intro s h
  unfold execProtectionViolation
  repeat' first
    | with_reducible first
      | assumption | apply kept_whenDev | apply kept_restart | apply kept_bumpF

theorem kept_execRootWatchdogReport {b : Dev} : ∀ (s : State), Kept b s.dev → KeptO b s (execRootWatchdogReport s) := by
  intro s h
  unfold execRootWatchdogReport
  repeat' first
    | with_reducible first
      | assumption | apply kept_whenDev
    | dsimp only | refine Kept.same ?_ rfl rfl rfl rfl rfl rfl rfl

theorem kept_execRootWatchdogExpiry {b : Dev} : ∀ (s : State), Kept b s.dev → KeptO b s (execRootWatchdogExpiry s) := by
  intro s h
  unfold execRootWatchdogExpiry
  repeat' first
    | with_reducible first
      | assumption | apply kept_whenDev | apply kept_warmReset

theorem kept_doeStep {b : Dev} (f : Dev → Dev) (s : State) (hf : ∀ d, Kept b d → Kept b (f d)) (h : Kept b s.dev) : KeptO b s (doeStep f s) :=
  kept_whenDev _ _ _ (hf _ h)

theorem kept_execDoeDiscovery {b : Dev} : ∀ index (s : State), Kept b s.dev → KeptO b s (execDoeDiscovery index s) := by
  intro index s h
  unfold execDoeDiscovery
  repeat' first
    | with_reducible first
      | assumption | apply kept_doeStep | apply kept_emit

theorem kept_execDoeUnknownType {b : Dev} : ∀ (s : State), Kept b s.dev → KeptO b s (execDoeUnknownType s) := by
  intro s h
  unfold execDoeUnknownType
  repeat' first
    | with_reducible first
      | assumption | apply kept_doeStep | apply kept_emit

theorem kept_execDoeEvidenceRequest {b : Dev} : ∀ body (s : State), Kept b s.dev → KeptO b s (execDoeEvidenceRequest body s) := by
  intro body s h
  unfold execDoeEvidenceRequest
  repeat' first
    | with_reducible first
      | assumption | apply kept_doeStep | apply kept_emit
    | (intro _)

end Sys2Proof.Machine
end

