-- ==== Sys2Proof/Laws/KeptExec.lean ====
section
/-! SUPPORT. Every command keeps what Safety.lean calls Kept, and so does the passing of time but for the count of ACLK. -/

set_option Elab.async false

namespace Sys2Proof.Machine

/-- What one command keeps. -/
theorem kept_exec (i : Instr) (s : State) : KeptO s.dev s (exec i s) := by
  have h := Kept.refl s.dev
  cases i with
  | add x f => exact kept_execAdd x f s h
  | sub x f => exact kept_execSub x f s h
  | mul x f => exact kept_execMul x f s h
  | mulhs x f => exact kept_execMulhs x f s h
  | and x f => exact kept_execAnd x f s h
  | or x f => exact kept_execOr x f s h
  | xor x f => exact kept_execXor x f s h
  | shl x f => exact kept_execShl x f s h
  | shr x f => exact kept_execShr x f s h
  | sra x f => exact kept_execSra x f s h
  | min x f => exact kept_execMin x f s h
  | max x f => exact kept_execMax x f s h
  | addi x f => exact kept_execAddi x f s h
  | andi x f => exact kept_execAndi x f s h
  | ori x f => exact kept_execOri x f s h
  | xori x f => exact kept_execXori x f s h
  | shli x f => exact kept_execShli x f s h
  | shri x f => exact kept_execShri x f s h
  | srai x f => exact kept_execSrai x f s h
  | movi x f => exact kept_execMovi x f s h
  | cmpEq x f => exact kept_execCmpEq x f s h
  | cmpNe x f => exact kept_execCmpNe x f s h
  | cmpLt x f => exact kept_execCmpLt x f s h
  | cmpLtu x f => exact kept_execCmpLtu x f s h
  | cmpLe x f => exact kept_execCmpLe x f s h
  | cmpLeu x f => exact kept_execCmpLeu x f s h
  | pand x f => exact kept_execPand x f s h
  | por x f => exact kept_execPor x f s h
  | pnot x f => exact kept_execPnot x f s h
  | aaddi x f => exact kept_execAaddi x f s h
  | aadds x f => exact kept_execAadds x f s h
  | amovi x f => exact kept_execAmovi x f s h
  | ahi x f => exact kept_execAhi x f s h
  | amovs x f => exact kept_execAmovs x f s h
  | ld x f => exact kept_execLd x f s h
  | st x f => exact kept_execSt x f s h
  | lda x f => exact kept_execLda x f s h
  | sta x f => exact kept_execSta x f s h
  | b x f => exact kept_execB x f s h
  | bal x f => exact kept_execBal x f s h
  | br x f => exact kept_execBr x f s h
  | ctlRd x f => exact kept_execCtlRd x f s h
  | ctlWr x f => exact kept_execCtlWr x f s h
  | monCfgWrite x f => exact kept_execMonCfgWrite x f s h
  | monClose x f => exact kept_execMonClose x f s h
  | monClear x f => exact kept_execMonClear x f s h
  | warpLoad x f => exact kept_execWarpLoad x f s h
  | weftPass x f => exact kept_execWeftPass x f s h
  | sizeSet x f => exact kept_execSizeSet x f s h
  | sizeQuant x f => exact kept_execSizeQuant x f s h
  | calRot x f => exact kept_execCalRot x f s h
  | winSet x f => exact kept_execWinSet x f s h
  | vecAdd x f => exact kept_execVecAdd x f s h
  | vecSub x f => exact kept_execVecSub x f s h
  | vecMul x f => exact kept_execVecMul x f s h
  | vecFma x f => exact kept_execVecFma x f s h
  | vecNeg x f => exact kept_execVecNeg x f s h
  | vecAbs x f => exact kept_execVecAbs x f s h
  | vecMin x f => exact kept_execVecMin x f s h
  | vecMax x f => exact kept_execVecMax x f s h
  | vecCeq x f => exact kept_execVecCeq x f s h
  | vecCne x f => exact kept_execVecCne x f s h
  | vecClt x f => exact kept_execVecClt x f s h
  | vecCle x f => exact kept_execVecCle x f s h
  | vecSel x f => exact kept_execVecSel x f s h
  | vecCvt x f => exact kept_execVecCvt x f s h
  | vecRcp x f => exact kept_execVecRcp x f s h
  | vecRsq x f => exact kept_execVecRsq x f s h
  | vecExp2 x f => exact kept_execVecExp2 x f s h
  | vecLog2 x f => exact kept_execVecLog2 x f s h
  | vecTanh x f => exact kept_execVecTanh x f s h
  | vecErf x f => exact kept_execVecErf x f s h
  | vecGdn x f => exact kept_execVecGdn x f s h
  | vecIgdn x f => exact kept_execVecIgdn x f s h
  | vecPool x f => exact kept_execVecPool x f s h
  | strmGo x f => exact kept_execStrmGo x f s h
  | strmRearm x f => exact kept_execStrmRearm x f s h
  | quireCopy x f => exact kept_execQuireCopy x f s h
  | quireSignal x f => exact kept_execQuireSignal x f s h
  | strmWait x f => exact kept_execStrmWait x f s h
  | strmCancel x f => exact kept_execStrmCancel x f s h
  | semPost x f => exact kept_execSemPost x f s h
  | semWait x f => exact kept_execSemWait x f s h
  | timeWait x f => exact kept_execTimeWait x f s h
  | lineWait x f => exact kept_execLineWait x f s h
  | fence x f => exact kept_execFence x f s h
  | nop x f => exact kept_execNop x f s h
  | halt x f => exact kept_execHalt x f s h
  | semWaitGrant x => exact kept_execSemWaitGrant x s h
  | timeWaitEnd x => exact kept_execTimeWaitEnd x s h
  | lineWaitEnd x => exact kept_execLineWaitEnd x s h
  | fenceRelease x => exact kept_execFenceRelease x s h
  | strmWaitRelease x => exact kept_execStrmWaitRelease x s h
  | haltComplete x => exact kept_execHaltComplete x s h
  | watchdogExpiry x => exact kept_execWatchdogExpiry x s h
  | programLaunch x r => exact kept_execProgramLaunch x r s h
  | slotReturnIdle x => exact kept_execSlotReturnIdle x s h
  | unitOperationComplete core vector => exact kept_execUnitOperationComplete core vector s h
  | loomPassStart core loom => exact kept_execLoomPassStart core loom s h
  | warpFillStart core loom slot => exact kept_execWarpFillStart core loom slot s h
  | warpLoadComplete core loom => exact kept_execWarpLoadComplete core loom s h
  | warpReload core loom slot => exact kept_execWarpReload core loom slot s h
  | passComplete core loom empty => exact kept_execPassComplete core loom empty s h
  | truncationTokenReceived core loom => exact kept_execTruncationTokenReceived core loom s h
  | monitorWindowClose x mon => exact kept_execMonitorWindowClose x mon s h
  | streamStart x engine => exact kept_execStreamStart x engine s h
  | tileCreditTaken x engine pattern => exact kept_execTileCreditTaken x engine pattern s h
  | streamRequestIssue core engine => exact kept_execStreamRequestIssue core engine s h
  | streamRequestComplete x engine id r => exact kept_execStreamRequestComplete x engine id r s h
  | streamComplete x engine => exact kept_execStreamComplete x engine s h
  | cancelAbandon x engine => exact kept_execCancelAbandon x engine s h
  | hostPageAbsent u page => exact kept_execHostPageAbsent u page s h
  | pageRequestSuccess fn page => exact kept_execPageRequestSuccess fn page s h
  | pageRequestFailure fn page => exact kept_execPageRequestFailure fn page s h
  | pageResponseFailure fn page => exact kept_execPageResponseFailure fn page s h
  | quireWaitGrant core id => exact kept_execQuireWaitGrant core id s h
  | quireComplete core id r => exact kept_execQuireComplete core id r s h
  | st2110Packet p => exact kept_execSt2110Packet p s h
  | livePortDoorbell off value => exact kept_execLivePortDoorbell off value s h
  | deckleRow port img => exact kept_execDeckleRow port img s h
  | audioBlockWrite port img => exact kept_execAudioBlockWrite port img s h
  | mseBand port => exact kept_execMseBand port s h
  | leaseGrant => exact kept_execLeaseGrant s h
  | familyCopy engine fs r => exact kept_execFamilyCopy engine fs r s h
  | step engine window => exact kept_execStep engine window s h
  | load engine window => exact kept_execLoad engine window s h
  | close engine window => exact kept_execClose engine window s h
  | release engine window => exact kept_execRelease engine window s h
  | leaseForceRelease engine window => exact kept_execLeaseForceRelease engine window s h
  | sequenceHeader sess => exact kept_execSequenceHeader sess s h
  | frameHeader sess => exact kept_execFrameHeader sess s h
  | slice sess lease => exact kept_execSlice sess lease s h
  | audioFrame sess lease => exact kept_execAudioFrame sess lease s h
  | timeAnchor sess => exact kept_execTimeAnchor sess s h
  | padding sess => exact kept_execPadding sess s h
  | endOfSequence sess => exact kept_execEndOfSequence sess s h
  | userData sess => exact kept_execUserData sess s h
  | discardedUnit sess => exact kept_execDiscardedUnit sess s h
  | bundleLoad uid region => exact kept_execBundleLoad uid region s h
  | bundleCopyComplete handle r => exact kept_execBundleCopyComplete handle r s h
  | bundleUnload uid => exact kept_execBundleUnload uid s h
  | sessOpen uid ctx => exact kept_execSessOpen uid ctx s h
  | portBind uid port r plan => exact kept_execPortBind uid port r plan s h
  | portUnbind uid => exact kept_execPortUnbind uid s h
  | sessStart uid => exact kept_execSessStart uid s h
  | frameSubmit uid ops => exact kept_execFrameSubmit uid ops s h
  | outbufPost uid addr len tag => exact kept_execOutbufPost uid addr len tag s h
  | intraRefresh uid => exact kept_execIntraRefresh uid s h
  | sessAdapt uid steps reset => exact kept_execSessAdapt uid steps reset s h
  | sessCheckpoint uid addr len => exact kept_execSessCheckpoint uid addr len s h
  | sessRestore uid bundle ctx r => exact kept_execSessRestore uid bundle ctx r s h
  | sessReset uid => exact kept_execSessReset uid s h
  | sessClose uid => exact kept_execSessClose uid s h
  | sessQuery uid => exact kept_execSessQuery uid s h
  | frameDispatch w intra img => exact kept_execFrameDispatch w intra img s h
  | frameBoundary sess => exact kept_execFrameBoundary sess s h
  | sessionDrainEnd sess => exact kept_execSessionDrainEnd sess s h
  | shedStandardPause => exact kept_execShedStandardPause s h
  | shedLevelStep => exact kept_execShedLevelStep s h
  | shedUndoStep => exact kept_execShedUndoStep s h
  | timeSample off within_ => exact kept_execTimeSample off within_ s h
  | timeSampleTimeout => exact kept_execTimeSampleTimeout s h
  | calendarWrite => exact kept_execCalendarWrite s h
  | ppsInEdge within_ => exact kept_execPpsInEdge within_ s h
  | ppsInLoss => exact kept_execPpsInLoss s h
  | freqInWindow hz => exact kept_execFreqInWindow hz s h
  | timSetSecArm v => exact kept_execTimSetSecArm v s h
  | ptpMessage dom profile locked => exact kept_execPtpMessage dom profile locked s h
  | ppsOutEdge => exact kept_execPpsOutEdge s h
  | launchFire uid => exact kept_execLaunchFire uid s h
  | snapshotCapture t uid ranges region len => exact kept_execSnapshotCapture t uid ranges region len s h
  | snapshotCopyDone => exact kept_execSnapshotCopyDone s h
  | portEnable port v => exact kept_execPortEnable port v s h
  | portLinkUp port => exact kept_execPortLinkUp port s h
  | laneLockLoss port => exact kept_execLaneLockLoss port s h
  | portRetrain port => exact kept_execPortRetrain port s h
  | flitReceive port f => exact kept_execFlitReceive port f s h
  | flitTransmit link => exact kept_execFlitTransmit link s h
  | replayTimeout link => exact kept_execReplayTimeout link s h
  | credInit port f => exact kept_execCredInit port f s h
  | credInitResend link => exact kept_execCredInitResend link s h
  | credSync port f => exact kept_execCredSync port f s h
  | replayReq port f => exact kept_execReplayReq port f s h
  | ctrlResendTimeout link => exact kept_execCtrlResendTimeout link s h
  | timeProbeSend port => exact kept_execTimeProbeSend port s h
  | timeProbe port f => exact kept_execTimeProbe port f s h
  | timeProbeRsp port f => exact kept_execTimeProbeRsp port f s h
  | downNotice port f => exact kept_execDownNotice port f s h
  | timeMessageSend port => exact kept_execTimeMessageSend port s h
  | time port within_ => exact kept_execTime port within_ s h
  | put link => exact kept_execPut link s h
  | get link => exact kept_execGet link s h
  | signal link => exact kept_execSignal link s h
  | ack link => exact kept_execAck link s h
  | nak link => exact kept_execNak link s h
  | getRsp link => exact kept_execGetRsp link s h
  | mcast link => exact kept_execMcast link s h
  | xportTimeout dst tag => exact kept_execXportTimeout dst tag s h
  | recvWindowOpen core id r => exact kept_execRecvWindowOpen core id r s h
  | recvWindowClose core id r => exact kept_execRecvWindowClose core id r s h
  | barrier core id r => exact kept_execBarrier core id r s h
  | tbarrier core id r => exact kept_execTbarrier core id r s h
  | reduce core id r => exact kept_execReduce core id r s h
  | allreduce core id r => exact kept_execAllreduce core id r s h
  | reducescatter core id r => exact kept_execReducescatter core id r s h
  | allgather core id r => exact kept_execAllgather core id r s h
  | broadcast core id r => exact kept_execBroadcast core id r s h
  | collUp link => exact kept_execCollUp link s h
  | collDown link => exact kept_execCollDown link s h
  | collAbort link => exact kept_execCollAbort link s h
  | collectiveTimeout uid => exact kept_execCollectiveTimeout uid s h
  | reset link => exact kept_execReset link s h
  | hotspotWindow port => exact kept_execHotspotWindow port s h
  | ethFrameReceive port f => exact kept_execEthFrameReceive port f s h
  | tunnelDatagram tunnel good b => exact kept_execTunnelDatagram tunnel good b s h
  | tunnelTimeout tunnel => exact kept_execTunnelTimeout tunnel s h
  | ringEnable fn ring v => exact kept_execRingEnable fn ring v s h
  | ringDisable fn ring v => exact kept_execRingDisable fn ring v s h
  | sqTailDoorbell fn off size value => exact kept_execSqTailDoorbell fn off size value s h
  | cqHeadDoorbell fn off size value => exact kept_execCqHeadDoorbell fn off size value s h
  | sqEntryTake fn ring r => exact kept_execSqEntryTake fn ring r s h
  | descriptorEligible uid => exact kept_execDescriptorEligible uid s h
  | msixModerationTimeout fn ring => exact kept_execMsixModerationTimeout fn ring s h
  | msixUnmask fn vector => exact kept_execMsixUnmask fn vector s h
  | jobRun uid r => exact kept_execJobRun uid r s h
  | jobAbort uid => exact kept_execJobAbort uid s h
  | cancel uid => exact kept_execCancel uid s h
  | nopCmd uid => exact kept_execNopCmd uid s h
  | deviceReset uid => exact kept_execDeviceReset uid s h
  | fabricReset uid => exact kept_execFabricReset uid s h
  | fabricResetAct rid => exact kept_execFabricResetAct rid s h
  | atsInvalidate fn page => exact kept_execAtsInvalidate fn page s h
  | priEnable fn alloc => exact kept_execPriEnable fn alloc s h
  | doeDiscovery index => exact kept_execDoeDiscovery index s h
  | doeEvidenceRequest body => exact kept_execDoeEvidenceRequest body s h
  | flr fn => exact kept_execFlr fn s h
  | pcieHotReset => exact kept_execPcieHotReset s h
  | ddrRecalibrate ch => exact kept_execDdrRecalibrate ch s h
  | skewWindow sums => exact kept_execSkewWindow sums s h
  | scrubRead off r => exact kept_execScrubRead off r s h
  | scrubReport ch => exact kept_execScrubReport ch s h
  | dimmThermalRead ch hottest => exact kept_execDimmThermalRead ch hottest s h
  | pressDeflate uid => exact kept_execPressDeflate uid s h
  | pressInflate uid => exact kept_execPressInflate uid s h
  | pressFlush uid => exact kept_execPressFlush uid s h
  | pressDispatch => exact kept_execPressDispatch s h
  | pressCommandComplete engine r => exact kept_execPressCommandComplete engine r s h
  | engineReset x => exact kept_execEngineReset x s h
  | mediaCoreReset core => exact kept_execMediaCoreReset core s h
  | coldReset mode => exact kept_execColdReset mode s h
  | rstNAssert => exact kept_execRstNAssert s h
  | warmDeviceReset => exact kept_execWarmDeviceReset s h
  | romBoot err => exact kept_execRomBoot err s h
  | rootStage1 mfg plat => exact kept_execRootStage1 mfg plat s h
  | ddrTraining m => exact kept_execDdrTraining m s h
  | schedulerStart err region area areaLen => exact kept_execSchedulerStart err region area areaLen s h
  | schedulerReady => exact kept_execSchedulerReady s h
  | schedulerLiveness => exact kept_execSchedulerLiveness s h
  | schedulerLivenessTimeout => exact kept_execSchedulerLivenessTimeout s h
  | protectionViolation => exact kept_execProtectionViolation s h
  | rootWatchdogExpiry => exact kept_execRootWatchdogExpiry s h
  | mboxBegin => exact kept_execMboxBegin s h
  | mboxData v => exact kept_execMboxData v s h
  | mboxEnd => exact kept_execMboxEnd s h
  | mboxWriteDone => exact kept_execMboxWriteDone s h
  | mboxAbort => exact kept_execMboxAbort s h
  | mboxWarmReset => exact kept_execMboxWarmReset s h
  | powerLevelRequest v => exact kept_execPowerLevelRequest v s h
  | coreGate core => exact kept_execCoreGate core s h
  | corePowerUp core => exact kept_execCorePowerUp core s h
  | temperatureSample cd0 cd1 iod => exact kept_execTemperatureSample cd0 cd1 iod s h
  | powerWindow w => exact kept_execPowerWindow w s h
  | vidStep up => exact kept_execVidStep up s h
  | mgmtStatusRead => exact kept_execMgmtStatusRead s h
  | mctpMessage m => exact kept_execMctpMessage m s h
  | timNowLoRead ini size => exact kept_execTimNowLoRead ini size s h
  | livPortFrameOutRead ini port => exact kept_execLivPortFrameOutRead ini port s h
  | prsEngBytesLoRead ini engine => exact kept_execPrsEngBytesLoRead ini engine s h
  | registerWrite ini fn off size value => exact kept_execRegisterWrite ini fn off size value s h
  | bridgeTransferError bridge e => exact kept_execBridgeTransferError bridge e s h
  | rcRegisterRead ini fn off size pins => exact kept_execRcRegisterRead ini fn off size pins s h
  | bar4WindowAccess off len data => exact kept_execBar4WindowAccess off len data s h
  | doeUnknownType => exact kept_execDoeUnknownType s h
  | rootWatchdogReport => exact kept_execRootWatchdogReport s h
  | vddAuxInRange => exact kept_execVddAuxInRange s h
  | vddAuxRemoved => exact kept_execVddAuxRemoved s h
  | vbatRtcLow => exact kept_execVbatRtcLow s h
  | pcieLinkTraining speed width flit => exact kept_execPcieLinkTraining speed width flit s h
  | jtagDebugAccess op => exact kept_execJtagDebugAccess op s h

/-- An ACLK keeps the form of a device. -/
theorem inv_tick (d : Dev) (h : d.inv = true) : (tick d).inv = true := h

end Sys2Proof.Machine
end

