-- ==== Sys2Proof/Tests/Slice0.lean ====
section
/-! SUPPORT. Small checks: ill-formed commands are refused, worked examples of the specification, and for every statement a
state and operands that meet the hypotheses of its clauses. -/

set_option Elab.async false

namespace Sys2Proof.Tests

open Sys2Proof Sys2Proof.Machine

/-! States and operands of the checks. -/
def mk (f : Dev → Dev) : State := { dev := f Dev.reset, pending := [] }

def x0 : Site := ⟨0, 0⟩

def g0 : Guard := ⟨0, 0⟩

/-- A slot that runs a PF3-less program: 4 KiB of code, a window of 64 KiB, every semaphore in its mask, at its last instruction. -/
def sl0 : SlotSt := { phase := .running, codeSize := 4096, winSize := 65536, pc := 4088, semMask := 0xFFFFFFFFFFFFFFFF }

def withSlot (sl : SlotSt) : State := mk (updSlot 0 (fun _ => sl))

def run0 : State := withSlot sl0

/-- Slot 0 runs with words at window offset 8192. -/
def blk (ws : List Nat) (sl : SlotSt := sl0) : State := mk (fun d => wrMem 8192 (ws.flatMap (leBytes 4)) (updSlot 0 (fun _ => sl) d))

def fR : FmtR := { g := g0, rd := 31, rs1 := 31, rs2 := 0, rsvd := 0 }

def fI : FmtI := { g := g0, rd := 31, rs1 := 0, rsvd := 0, imm := 0xFFFFFFFF }

def fU (sel : Nat) : FmtU := { g := g0, ra := 0, sel := BitVec.ofNat 8 sel, q := 63, qEn := 1, rsvd := 0, off := 8192 }

def fU0 (sel : Nat) : FmtU := { fU sel with qEn := 0, q := 0 }

/-! Ill-formed commands (WellFormed): one for each check. -/

/-- A command whose operand does not have the shape of what it stands for is ill formed. -/
theorem test_wf_refuses :
    ((Instr.programLaunch x0 ⟨[], 0, List.replicate 9 0, [], false, 0, [], 1, []⟩).wf = false) ∧
    ((Instr.programLaunch x0 ⟨[], 0, [], List.replicate 5 0, false, 0, [], 1, []⟩).wf = false) ∧
    ((Instr.hostPageAbsent (.ring 0 0) 4095).wf = false) ∧
    ((Instr.pageRequestSuccess 0 1).wf = false) ∧
    ((Instr.pageRequestFailure 0 1).wf = false) ∧
    ((Instr.pageResponseFailure 0 1).wf = false) ∧
    ((Instr.atsInvalidate 0 1).wf = false) ∧
    ((Instr.flitReceive 0 (List.replicate 255 0)).wf = false) ∧
    ((Instr.credInit 0 []).wf = false) ∧
    ((Instr.credSync 0 []).wf = false) ∧
    ((Instr.replayReq 0 []).wf = false) ∧
    ((Instr.timeProbe 0 []).wf = false) ∧
    ((Instr.timeProbeRsp 0 []).wf = false) ∧
    ((Instr.downNotice 0 []).wf = false) ∧
    ((Instr.sqEntryTake 0 0 (.ok (List.replicate 63 0))).wf = false) ∧
    ((Instr.sqTailDoorbell 0 0 3 0).wf = false) ∧
    ((Instr.cqHeadDoorbell 0 0 16 0).wf = false) ∧
    ((Instr.registerWrite .host 0 0 0 0).wf = false) ∧
    ((Instr.rcRegisterRead .host 0 0 5 0).wf = false) ∧
    ((Instr.timNowLoRead .host 6).wf = false) ∧
    ((Instr.skewWindow (List.replicate 15 0)).wf = false) ∧
    ((Instr.pcieLinkTraining 0 8 true).wf = false) ∧
    ((Instr.pcieLinkTraining 7 8 true).wf = false) ∧
    ((Instr.pcieLinkTraining 5 16 true).wf = false) ∧
    ((Instr.pcieLinkTraining 6 8 false).wf = false) ∧
    ((Instr.bar4WindowAccess 0 4 (some [1])).wf = false) := by
  refine ⟨?_, ?_, ?_, ?_, ?_, ?_, ?_, ?_, ?_, ?_, ?_, ?_, ?_, ?_, ?_, ?_, ?_, ?_, ?_, ?_, ?_, ?_, ?_, ?_, ?_, ?_⟩ <;> decide +kernel

/-- Commands of the right shape are well formed. -/
theorem test_wf_takes :
    ((Instr.hostPageAbsent (.ring 0 0) 4096).wf = true) ∧
    ((Instr.flitReceive 0 (List.replicate 256 0)).wf = true) ∧
    ((Instr.sqEntryTake 0 0 (.ok (List.replicate 64 0))).wf = true) ∧
    ((Instr.pcieLinkTraining 6 8 true).wf = true) ∧
    ((Instr.add x0 fR).wf = true) := by
  refine ⟨?_, ?_, ?_, ?_, ?_⟩ <;> decide +kernel

/-! Hypotheses of the statements that can be met, clause by clause. -/
def fM (size : Nat) (imm : W32) : FmtM := { g := g0, r := 15, ra := 0, size := BitVec.ofNat 3 size, rsvd := 0, imm := imm }

def fB (imm : W32) : FmtB := { g := g0, r := 3, rsvd := 0, imm := imm }

def fN : FmtN := { g := g0, rsvd := 0 }

theorem wit_ScalarArithmetic :
    (takes run0.dev x0 fR.g = true) ∧
    (fR.rsvd = 0) := by
  refine ⟨?_, ?_⟩ <;> decide +kernel

theorem wit_ScalarImmediates :
    (takes run0.dev x0 fI.g = true) ∧
    (fI.rsvd = 0) ∧
    (fI.rs1 = 0) := by
  refine ⟨?_, ?_, ?_⟩ <;> decide +kernel

theorem wit_ComparesAndPredicates :
    (takes run0.dev x0 ({ fR with rd := 7, rs1 := 7, rs2 := 7 } : FmtR).g = true) ∧
    (({ fR with rd := 7, rs1 := 7, rs2 := 7 } : FmtR).rd.toNat < 8) ∧
    (({ fR with rd := 7, rs1 := 31, rs2 := 31 } : FmtR).rd.toNat < 8 ∧ fR.rsvd = 0) := by
  refine ⟨?_, ?_, ?_⟩ <;> decide +kernel

theorem wit_AddressRegisters :
    (takes run0.dev x0 g0 = true) ∧
    (({ fI with rd := 15, rs1 := 15 } : FmtI).rd.toNat < 16 ∧ ({ fI with rd := 15, rs1 := 15 } : FmtI).rs1.toNat < 16 ∧ fI.rsvd = 0) ∧
    (({ fR with rd := 15, rs1 := 15 } : FmtR).rd.toNat < 16 ∧ ({ fR with rd := 15, rs1 := 15 } : FmtR).rs1.toNat < 16 ∧ fR.rsvd = 0) ∧
    (({ fI with rd := 15, imm := 0xFFFF } : FmtI).imm.extractLsb' 16 16 = 0 ∧ ({ fI with rd := 15 } : FmtI).rs1 = 0) := by
  refine ⟨?_, ?_, ?_, ?_⟩ <;> decide +kernel

/-- The last bytes of the window, and the first bytes after the code. -/
theorem wit_LoadsAndStores :
    (takes run0.dev x0 (fM 4 65532).g = true ∧ (fM 4 65532).rsvd = 0) ∧
    (memOffset run0.dev x0 (fM 0 65535) + 1 ≤ (slotAt run0.dev (siteKey x0)).winSize) ∧
    (memOffset run0.dev x0 (fM 2 65534) + 2 ≤ (slotAt run0.dev (siteKey x0)).winSize ∧ memOffset run0.dev x0 (fM 2 65534) % 2 = 0) ∧
    (memOffset run0.dev x0 (fM 4 65532) + 4 ≤ (slotAt run0.dev (siteKey x0)).winSize ∧ memOffset run0.dev x0 (fM 4 65532) % 4 = 0) ∧
    ((fM 6 65528).size = 6 ∧ (fM 6 65528).r.toNat < 16 ∧ memOffset run0.dev x0 (fM 6 65528) + 8 ≤ (slotAt run0.dev (siteKey x0)).winSize ∧
      memOffset run0.dev x0 (fM 6 65528) % 8 = 0) ∧
    ((slotAt run0.dev (siteKey x0)).codeSize ≤ memOffset run0.dev x0 (fM 4 4096) ∧ memOffset run0.dev x0 (fM 4 4096) % 4 = 0) ∧
    ((slotAt run0.dev (siteKey x0)).codeSize ≤ memOffset run0.dev x0 (fM 6 4096) ∧ memOffset run0.dev x0 (fM 6 4096) % 8 = 0) := by
  refine ⟨?_, ?_, ?_, ?_, ?_, ?_, ?_⟩ <;> decide +kernel

/-- From the last instruction of the code to the first and to the last. -/
theorem wit_Branches :
    (takes run0.dev x0 (fB (-511)).g = true ∧ (fB (-511)).rsvd = 0) ∧
    (((slotAt run0.dev (siteKey x0)).pc.toNat : Int) + 8 * (fB (-511)).imm.toInt = (0 : Nat) ∧ 0 < (slotAt run0.dev (siteKey x0)).codeSize) ∧
    (((slotAt run0.dev (siteKey x0)).pc.toNat : Int) + 8 * (fB 0).imm.toInt = (4088 : Nat) ∧ 4088 < (slotAt run0.dev (siteKey x0)).codeSize ∧
      4088 % 8 = 0) ∧
    ((getS (slotAt (withSlot (setS 3 4088 sl0)).dev (siteKey x0)) (fB 0).r).toNat < (slotAt (withSlot (setS 3 4088 sl0)).dev (siteKey x0)).codeSize)
      ∧
    ((getS (slotAt (withSlot (setS 3 4088 sl0)).dev (siteKey x0)) (fB 0).r).toNat % 8 = 0 ∧
      takes (withSlot (setS 3 4088 sl0)).dev x0 (fB 0).g = true) := by
  refine ⟨?_, ?_, ?_, ?_, ?_⟩ <;> decide +kernel

theorem wit_FalseGuardRetires :
    (issuedBy (.add x0 { fR with g := ⟨1, 0⟩ }) = some (x0, ⟨1, 0⟩) ∧ canIssue run0.dev (siteKey x0) = true) ∧
    ((slotAt run0.dev (siteKey x0)).pc.toNat < (slotAt run0.dev (siteKey x0)).codeSize ∧
      guardHolds (slotAt run0.dev (siteKey x0)) ⟨1, 0⟩ = false) := by
  refine ⟨?_, ?_⟩ <;> decide +kernel

def fC (idx : Nat) : FmtC := { g := g0, r := 3, rsvd := 0, idx := BitVec.ofNat 12 idx }

def fMon (m : Fin 8) : FmtCMon := { g := g0, r := 3, rsvd := 0, mon := m }

/-- Monitor 7 of slot 0 holds a full window of 2^10 elements, of which all clipped and none vanished. -/
def monFull : State := withSlot { sl0 with mons := [(7, { winExp := 10, elem := 1024, sat := 1024, satThr := 0, vanThr := 0, satEvtEn := true, enable := true })] }

def monVan : State := withSlot { sl0 with mons := [(7, { winExp := 10, elem := 1024, van := 1024, vanThr := 0, vanEvtEn := true }), (6, { winExp := 10, elem := 1024, van := 1024, vanThr := 0, sat := 1, satThr := 0 })] }

theorem wit_ControlRegisterReads :
    (takes run0.dev x0 (fC 0x141).g = true ∧ (fC 0x141).rsvd = 0) ∧
    ((fC 0x000).idx.toNat = 0 ∧ (fC 0x141).idx.toNat = 0x141 ∧ (fC 0x004).idx = 0x004 ∧ (fC 0x00A).idx = 0x00A) := by
  refine ⟨?_, ?_⟩ <;> decide +kernel

theorem wit_ControlRegisterWrites :
    (takes (withSlot (setS 3 1 sl0)).dev x0 (fC 0x140).g = true ∧ (fC 0x140).rsvd = 0) ∧
    ((fC 0x000).idx = 0x000 ∧ (fC 0x008).idx = 0x008 ∧ (fC 0x009).idx = 0x009) ∧
    ((fC 0x140).idx = 0x140 ∧ (getS ((withSlot (setS 3 1 sl0)).slot x0) (fC 0x140).r).getLsbD 0 = true) ∧
    ((fC 0x141).idx.toNat ∈ [0x001, 0x002, 0x003, 0x004, 0x005, 0x006, 0x00A, 0x00B, 0x00C, 0x141]) := by
  refine ⟨?_, ?_, ?_, ?_⟩ <;> decide +kernel

theorem wit_MonitorRegisters :
    (monDue (monAt run0.dev 0 7) = false) ∧
    (takes (withSlot (setS 3 24 sl0)).dev x0 (fMon 7).g = true ∧ (fMon 7).rsvd = 0) ∧
    (monDue (monAt (withSlot (setS 3 24 sl0)).dev (siteKey x0) 7) = false ∧ (monAt (withSlot (setS 3 24 sl0)).dev (siteKey x0) 7).elem < 2 ^ 24) ∧
    (10 ≤ (getS ((withSlot (setS 3 10 sl0)).slot x0) (fMon 7).r).toNat % 32 ∧
      (getS ((withSlot (setS 3 24 sl0)).slot x0) (fMon 7).r).toNat % 32 ≤ 24) ∧
    ((getS ((withSlot (setS 3 9 sl0)).slot x0) (fMon 7).r).toNat % 32 < 10 ∧
      24 < (getS ((withSlot (setS 3 25 sl0)).slot x0) (fMon 7).r).toNat % 32) ∧
    ((getS ((withSlot (setS 3 2 sl0)).slot x0) (fMon 0).r).getLsbD 1 = true ∧ takes (withSlot (setS 3 2 sl0)).dev x0 (fMon 0).g = true) ∧
    ((getS ((withSlot (setS 3 1 sl0)).slot x0) (fMon 0).r).getLsbD 1 = false ∧
      (getS ((withSlot (setS 3 1 sl0)).slot x0) (fMon 0).r).getLsbD 0 = true) ∧
    ((fC (0x100 + 8 * 7 + 7)).idx.toNat = 0x100 + 8 * (7 : Fin 8).val + 7 ∧ (fC (0x100 + 3)).idx.toNat = 0x100 + 8 * (0 : Fin 8).val + 3) := by
  refine ⟨?_, ?_, ?_, ?_, ?_, ?_, ?_, ?_⟩ <;> decide +kernel

theorem wit_MonitorWindowCloses :
    (monDue (monAt monFull.dev (siteKey x0) 7) = true ∧ (monAt monFull.dev (siteKey x0) 7).waiting = []) ∧
    ((monAt monFull.dev 0 7).satThr * (monAt monFull.dev 0 7).elem < (monAt monFull.dev 0 7).sat * 65536 ∧
      (monAt monFull.dev 0 7).satEvtEn = true) ∧
    (monEvtFree monFull.dev.aclk (monAt monFull.dev 0 7).lastSatEvt = true) ∧
    ((monAt monFull.dev 0 7).van * 65536 ≤ (monAt monFull.dev 0 7).vanThr * (monAt monFull.dev 0 7).elem) ∧
    ((monAt monVan.dev 0 7).vanThr * (monAt monVan.dev 0 7).elem < (monAt monVan.dev 0 7).van * 65536 ∧ (monAt monVan.dev 0 7).vanEvtEn = true ∧
      monEvtFree monVan.dev.aclk (monAt monVan.dev 0 7).lastVanEvt = true ∧ monDue (monAt monVan.dev 0 7) = true) ∧
    ((monAt monVan.dev 0 6).satEvtEn = false ∧ (monAt monVan.dev 0 6).vanEvtEn = false ∧
      (monAt monVan.dev 0 6).satThr * (monAt monVan.dev 0 6).elem < (monAt monVan.dev 0 6).sat * 65536) := by
  refine ⟨?_, ?_, ?_, ?_, ?_, ?_⟩ <;> decide +kernel

theorem wit_ExceptionsStopTheSlot :
    (canIssue (withSlot { sl0 with pc := 4096 }).dev (siteKey x0) = true ∧
      ((withSlot { sl0 with pc := 4096 }).slot x0).codeSize ≤ ((withSlot { sl0 with pc := 4096 }).slot x0).pc.toNat) ∧
    (takes run0.dev x0 ({ fR with rsvd := 1 } : FmtR).g = true ∧ ({ fR with rsvd := 1 } : FmtR).rsvd ≠ 0) ∧
    ((run0.slot x0).ident.toNat < 65536 ∧ (run0.slot x0).fn ≠ 2) := by
  refine ⟨?_, ?_, ?_⟩ <;> decide +kernel

/-- A legal window set over a 4 × 4 tile of one INT8 block, words of Table 05-1; `mode` as given. -/
def winWords (mode fmt : Nat) : List Nat := [16384, mode * 2 ^ 30 + fmt * 2 ^ 20, 8 * 65536, 0, 4 * 65536 + 4, 0, 4 * 65536 + 4, 256, 4096,
    0x01010101, 0x01010101, 0, 0, 8, 0, 0]

/-- A store configuration to FP32, at 16384 with rows of 64 bytes; the last words are SIZE.QUANT's: rows of 16 from 20480. -/
def sizeWords (quant : Bool) : List Nat := [0x20, 0, 0, 0, 0, 0, 16384, 64, 0, if quant then 20480 else 0, if quant then 64 else 0, if quant then 16
    * 65536 + 1 else 0, 0, 0, 0, 0]

def rotWords : List Nat := [16384, 20480, 128, 2 ^ 30 + 32 * 65536 + 1]

/-- One FP32 element at the end of the window, and operands elsewhere; c is INT32 for VEC.SEL. -/
def vecWords (td tc : Nat) : List Nat := [65532, 16384, 20480, 24576, 1, td * 512 + tc * 64, 0, 0]

def gdnWords : List Nat := [16384, 20480, 24576, 28672, 1, 0, 1, 0]

def poolWords : List Nat := [15, 1, 65472, 64]

def someOp : UnitOp := { slot := 0, q := none, base := 0, mode := .rne, work := .vec .neg (vecParse (vecWords 0 0)) }

theorem wit_SlotConfiguration :
    (takes (blk (winWords 0 0)).dev x0 (fU0 3).g = true ∧ (fU0 3).rsvd = 0 ∧ (fU0 3).sel.toNat < 4 ∧ (fU0 3).qEn = 0 ∧
      paramOk (blk (winWords 0 0)).dev x0 (fU0 3) 16 = true) ∧
    (winRsvdOk (paramWords (blk (winWords 0 0)).dev x0 (fU0 3) 16) = true ∧
      winOk (winParse (paramWords (blk (winWords 0 0)).dev x0 (fU0 3) 16)) = true) ∧
    (winEnd (winParse (paramWords (blk (winWords 0 0)).dev x0 (fU0 3) 16)) ≤ ((blk (winWords 0 0)).slot x0).winSize) ∧
    (takes (blk (sizeWords false)).dev x0 (fU0 0).g = true ∧ (fU0 0).sel = 0 ∧ paramOk (blk (sizeWords false)).dev x0 (fU0 0) 16 = true) ∧
    (vetted ((blk (sizeWords false)).slot x0) (sizeRsvdOk (sizeWords false) && sizeOk (sizeParse (sizeWords false)) && (sizeParse (sizeWords
      false)).act != 3) (sizeNamed (sizeParse (sizeWords false))) (sizeAligned (sizeParse (sizeWords false)) true) = true) ∧
    (paramWords (blk (sizeWords false)).dev x0 (fU0 0) 16 = sizeWords false) := by
  refine ⟨?_, ?_, ?_, ?_, ?_, ?_⟩ <;> decide +kernel

theorem wit_VectorIssue :
    (∀ e ∈ [(VecFn.add, vecWords 0 0), (.sub, vecWords 0 0), (.mul, vecWords 0 0), (.fma, vecWords 0 0), (.neg, vecWords 0 0), (.abs, vecWords 0 0),
      (.min, vecWords 0 0), (.max, vecWords 0 0), (.ceq, vecWords 3 0), (.cne, vecWords 3 0), (.clt, vecWords 3 0), (.cle, vecWords 3 0), (.sel,
      vecWords 0 3), (.cvt, vecWords 0 0), (.rcp, vecWords 0 0), (.rsq, vecWords 0 0), (.exp2, vecWords 0 0), (.log2, vecWords 0 0), (.tanh,
      vecWords 0 0), (.erf, vecWords 0 0), (.gdn, gdnWords), (.igdn, gdnWords)],
      paramWords (blk e.2).dev x0 (vecToU { g := g0, ra := 0, q := 63, qEn := 1, rsvd := 0, off := 8192 } (vecSel e.1)) 8 = e.2 ∧
      uOk (blk e.2).dev x0 (vecToU { g := g0, ra := 0, q := 63, qEn := 1, rsvd := 0, off := 8192 } (vecSel e.1)) true = true ∧
      vetted ((blk e.2).slot x0) (vecRsvdOk e.2 && vecOk e.1 (vecParse e.2)) ((vecRanges e.1 (vecParse e.2)).map (·.1)) ((vecRanges e.1 (vecParse
      e.2)).map (fun r => (r.1.at_, r.2))) = true) ∧
    (takes (blk gdnWords).dev x0 g0 = true ∧
      paramOk (blk gdnWords).dev x0 (vecToU { g := g0, ra := 0, q := 63, qEn := 1, rsvd := 0, off := 8192 } 0) 8 = true) ∧
    (((unitAt (mk (updUnit 1 (fun u => { u with queue0 := List.replicate 15 someOp }))).dev 1).queue 0).length < 16) := by
  refine ⟨?_, ?_, ?_⟩ <;> decide +kernel

theorem wit_SizingAndPoolIssue :
    (takes (blk (sizeWords true)).dev x0 (fU 0).g = true ∧ uOk (blk (sizeWords true)).dev x0 (fU 0) ((fU 0).sel == 0) = true ∧
      paramOk (blk (sizeWords true)).dev x0 (fU 0) 16 = true) ∧
    (paramWords (blk (sizeWords true)).dev x0 (fU 0) 16 = sizeWords true) ∧
    (vetted sl0 (sizeRsvdOk (sizeWords true) && sizeOk (sizeParse (sizeWords true)) && (sizeParse (sizeWords true)).regroup == 0 && (sizeParse
      (sizeWords true)).qPitch % 64 == 0 && (sizeParse (sizeWords true)).qLen != 0 && (sizeParse (sizeWords true)).qRows != 0 && ((sizeParse
      (sizeWords true)).calH == 0 || (sizeParse (sizeWords true)).qLen % calSize (sizeParse (sizeWords true)).calH == 0)) (sizeSide (sizeParse
      (sizeWords true)) false 16 1 ++ sizeRows (sizeParse (sizeWords true)) 16 1 ++ rowsOf false 20480 64 64 1) (sizeAligned (sizeParse (sizeWords
      true)) false ++ [(20480, 64)]) = true) ∧
    (16 ≤ ((unitAt (mk (updUnit 0 (fun u => { u with queue0 := List.replicate 16 someOp }))).dev 0).queue 0).length) ∧
    (paramWords (blk rotWords).dev x0 (fU 0) 4 = rotWords ∧ paramOk (blk rotWords).dev x0 (fU 0) 4 = true) ∧
    (vetted sl0 ((rotWords.take 3).all (fun w => fld w 24 8 == 0) && (rotParse rotWords).calH != 0 && (rotParse rotWords).len != 0 && (rotParse
      rotWords).rows != 0 && (rotParse rotWords).pitch % 64 == 0 && (rotParse rotWords).len % calSize (rotParse rotWords).calH == 0) (rowsOf false
      (rotParse rotWords).src (rotParse rotWords).pitch (4 * (rotParse rotWords).len) (rotParse rotWords).rows ++ rowsOf true (rotParse
      rotWords).dst (rotParse rotWords).pitch (4 * (rotParse rotWords).len) (rotParse rotWords).rows) [((rotParse rotWords).src, 64), ((rotParse
      rotWords).dst, 64)] = true) ∧
    (getWin ((blk poolWords (setWin 3 (winParse (winWords 1 0)) sl0)).slot x0) (fU 3).sel.toNat = some (winParse (winWords 1 0)) ∧
      (winParse (winWords 1 0)).mode ≠ 0 ∧ uOk run0.dev x0 (fU 3) (decide ((fU 3).sel.toNat < 4)) = true) ∧
    ((poolParse poolWords).m ≤ 4096 ∧ (poolParse poolWords).pitch % 64 = 0 ∧ winEmpty (winParse (winWords 1 0)) = false ∧
      (poolParse poolWords).oFirst + (poolParse poolWords).m ≤ winPositions (winParse (winWords 1 0))) ∧
    (firstOutside (winParse (winWords 1 0)) (drawTaps (winParse (winWords 1 0)) 15 1) = none ∧ fld (poolWords.getD 1 0) 13 19 = 0 ∧
      fld (poolWords.getD 2 0) 24 8 = 0 ∧ fld (poolWords.getD 3 0) 24 8 = 0) ∧
    (vetted sl0 true (rowsOf true (poolParse poolWords).dst (poolParse poolWords).pitch (rowBytes (poolDst (winParse (winWords 1 0))) 8) 1)
      [((poolParse poolWords).dst, max 1 (dstBytes (poolDst (winParse (winWords 1 0)))))] = true) ∧
    (paramWords (blk poolWords).dev x0 (fU 3) 4 = poolWords) := by
  refine ⟨?_, ?_, ?_, ?_, ?_, ?_, ?_, ?_, ?_, ?_, ?_⟩ <;> decide +kernel

def warpWords : List Nat := [16384, 0, 256, 256 * 65536 + 256]

def warpB : WarpBlk := warpParse warpWords

/-- A pass of one row into partial sums, and one that draws the last position of window set 0 into the store configuration. -/
def weftWords1 : List Nat := [2 ^ 18 + 1, 16384, 0, 0, 65536 - 1024, 1024, 0, 0]

def weftWords2 : List Nat := [2 ^ 13 + 1, 15, 0, 0, 0, 0, 0, 0]

def loomSl : SlotSt := { sl0 with winSize := 262144, loadB := some warpB, win0 := some (winParse (winWords 0 0)), store := some (sizeParse (sizeWords false)) }

theorem wit_LoomIssue :
    (takes (blk warpWords loomSl).dev x0 (fU 1).g = true ∧ uOk (blk warpWords loomSl).dev x0 (fU 1) (decide ((fU 1).sel.toNat < 2)) = true ∧
      paramOk (blk warpWords loomSl).dev x0 (fU 1) 4 = true ∧ paramWords (blk warpWords loomSl).dev x0 (fU 1) 4 = warpWords) ∧
    (vetted loomSl (warpRsvdOk warpWords && warpOk (loomWidth (blk warpWords loomSl).dev 0 1) warpB) (rowsOf false warpB.src warpB.pitch warpB.n
      (tileRows warpB) ++ [rd warpB.scaleSrc (2 * warpB.n * ceilDiv warpB.kLen (gSize warpB.g))]) [(warpB.src, 64), (warpB.scaleSrc, 64)] = true) ∧
    (((loomAt (blk warpWords loomSl).dev 1).queue 0).length < 16 ∧ slotLoad loomSl 1 = some warpB) ∧
    (paramWords (blk weftWords1 loomSl).dev x0 (fU 1) 8 = weftWords1 ∧ weftRsvdOk weftWords1 (weftParse weftWords1) = true ∧
      weftOk (weftParse weftWords1) warpB = true) ∧
    ((weftParse weftWords1).selvedge = false ∧ (weftParse weftWords1).partialOut = true ∧
      vetted loomSl true (weftRanges (weftParse weftWords1) warpB none none) (weftAligned (weftParse weftWords1)) = true) ∧
    (paramWords (blk weftWords2 loomSl).dev x0 (fU 1) 8 = weftWords2 ∧ weftRsvdOk weftWords2 (weftParse weftWords2) = true ∧
      weftOk (weftParse weftWords2) warpB = true) ∧
    ((weftParse weftWords2).selvedge = true ∧ weftWinOk (weftParse weftWords2) (winParse (winWords 0 0)) = true ∧
      (sizeParse (sizeWords false)).calH = 0 ∧ (sizeParse (sizeWords false)).regroup = 0) ∧
    (firstOutside (winParse (winWords 0 0)) (drawTaps (winParse (winWords 0 0)) 15 (drawRows (weftParse weftWords2) (some (winParse (winWords 0
      0))))) = none) ∧
    (vetted loomSl true (weftRanges (weftParse weftWords2) warpB (some (winParse (winWords 0 0))) (some (sizeParse (sizeWords false)))) (weftAligned
      (weftParse weftWords2)) = true) := by
  refine ⟨?_, ?_, ?_, ?_, ?_, ?_, ?_, ?_, ?_⟩ <;> decide +kernel

/-- A stream of 16 bytes from host memory at 4096 to the window at 16384, in one tile; `w5` sets further bits of word 5. -/
def strmWords (w5 : Nat) (w2 : Nat := 2 ^ 31 + 16384) : List Nat := [4096, 0, w2, 64, 0, w5 + 2 ^ 18 + 2 ^ 15, 0, 0, 65536, 65536 + 16, 65536 + 1,
    1, 0, 0, 0, 0]

def strmB : StrmBlk := strmParse (strmWords (2 ^ 30))

def aRun : StrmRun := { slot := 0, q := some 63, blk := strmParse (strmWords 0), base := 0, winSize := 65536, ident := 0 }

def copyWords : List Nat := [65280, 0, 16384, 0, 256, 0, 0, 0]

def sigWords : List Nat := [0, 0, 0, 0, 2 ^ 27, 0, 63 * 2 ^ 26 + 2 ^ 20 + 2047, 0]

def persSt : Dev → Dev := updEng 0 (fun e => { e with queue0 := [.desc { aRun with blk := strmB }] })

def anOp : QuireOp := { id := 0, slot := 0, q := none, blk := quireParse copyWords, base := 0, winSize := 65536, ident := 0, started := true }

theorem wit_StreamIssue :
    (takes (blk (strmWords 0)).dev x0 (fU 3).g = true ∧ uOk (blk (strmWords 0)).dev x0 (fU 3) (decide ((fU 3).sel.toNat < 4)) = true ∧
      paramOk (blk (strmWords 0)).dev x0 (fU 3) 16 = true ∧ paramWords (blk (strmWords 0)).dev x0 (fU 3) 16 = strmWords 0) ∧
    ((strmParse (strmWords 0)).rearm = false ∧
      vetted sl0 (strmRsvdOk (strmWords 0) && strmOk sl0 0 (strmParse (strmWords 0))) (strmRanges (strmParse (strmWords 0)) 0) [] = true) ∧
    (((engAt (mk (updEng 3 (fun e => { e with queue0 := List.replicate 7 (.cancel none) }))).dev (engKey 0 3)).queue 0).length < 8) ∧
    ((strmParse (strmWords (2 ^ 29))).rearm = true ∧ (strmParse (strmWords (2 ^ 29))).persist = false ∧
      persistent (engAt (mk persSt).dev (engKey 0 0)) 0 = some { blk := strmB, tiles := 1 }) ∧
    (vetted sl0 (fld ((strmWords (2 ^ 29)).getD 2 0) 24 6 == 0 && (rearmed strmB (strmParse (strmWords (2 ^ 29)))).pkBase % 64 == 0 && strmSemsOk
      sl0 0 (rearmed strmB (strmParse (strmWords (2 ^ 29))))) (strmRanges (rearmed strmB (strmParse (strmWords (2 ^ 29)))) 1) [] = true) ∧
    ((rearmed strmB (strmParse (strmWords (2 ^ 29)))).patSpace = 2 ∧ (rearmed strmB (strmParse (strmWords (2 ^ 29)))).patDev = 0 ∧
      (rearmed strmB (strmParse (strmWords (2 ^ 29)))).mcast = false) ∧
    (({ fU 3 with off := 0 } : FmtU).ra = 0 ∧ ({ fU 3 with off := 0 } : FmtU).off = 0 ∧
      uOk run0.dev x0 { fU 3 with off := 0 } (decide ((fU 3).sel.toNat < 5)) = true ∧ (fU 3).sel.toNat < 4) ∧
    (uOk run0.dev x0 { fU 4 with off := 0 } (decide ((fU 4).sel.toNat < 5)) = true ∧ (fU 4).sel.toNat = 4) := by
  refine ⟨?_, ?_, ?_, ?_, ?_, ?_, ?_, ?_⟩ <;> decide +kernel

theorem wit_QuireIssue :
    (takes (blk copyWords).dev x0 (fU 4).g = true ∧ uOk (blk copyWords).dev x0 (fU 4) ((fU 4).sel == 4) = true ∧
      paramOk (blk copyWords).dev x0 (fU 4) 8 = true ∧ paramWords (blk copyWords).dev x0 (fU 4) 8 = copyWords ∧
      paramWords (blk sigWords).dev x0 (fU 4) 8 = sigWords) ∧
    ((quireParse copyWords).signal = false ∧
      vetted sl0 (quireRsvdOk copyWords && quireCommonOk (quireParse copyWords) && quireCopyOk (quireParse copyWords) && quireSemsOk sl0 0
      (quireParse copyWords)) (quireRanges (quireParse copyWords)) [] = true) ∧
    ((quireParse sigWords).signal = true ∧
      vetted sl0 (quireRsvdOk sigWords && quireCommonOk (quireParse sigWords) && quireSignalOk (quireParse sigWords) && quireSemsOk sl0 0
      (quireParse sigWords)) (quireRanges (quireParse sigWords)) [] = true) ∧
    ((quireAt (mk (updQuire 0 (fun q => { q with ops := List.replicate 63 anOp }))).dev 0).ops.length < 64 ∧ liveSlot run0.dev 0 1 = false) ∧
    ((quireParse copyWords).srcSpace ≠ 3 ∧ (quireParse copyWords).dstSpace ≠ 3) := by
  refine ⟨?_, ?_, ?_, ?_, ?_⟩ <;> decide +kernel

def fS (count : BitVec 12) : FmtS := { g := g0, q := 63, count := count, rsvd := 0 }

def semAt (v : Nat) (h : Hold := .none) : State := mk (fun d => semSet 0 63 v (updSlot 0 (fun _ => { sl0 with hold := h }) d))

theorem wit_SemaphorePost :
    (takes (semAt 65535).dev x0 (fS 2047).g = true ∧ (fS 2047).rsvd = 0 ∧ semOk ((semAt 65535).slot x0) (fS 2047).q.toNat = true ∧
      semGet (semAt 65535).dev 0 63 ≤ 65535) ∧
    (0 ≤ (semGet (semAt 2048).dev 0 63 : Int) + (fS (-2048)).count.toInt ∧ 65535 < (semGet (semAt 65535).dev 0 63 : Int) + (fS 1).count.toInt) ∧
    ((semGet (semAt 2047).dev 0 63 : Int) + (fS (-2048)).count.toInt < 0) := by
  refine ⟨?_, ?_, ?_⟩ <;> decide +kernel

def fL : FmtL := { g := g0, rf := 1, rl := 2, pd := 7, lp := 23, rsvd := 0 }

def fF (m : BitVec 16) : FmtF := { g := g0, rsvd := 0, mask := m }

def fT (pd : BitVec 3) : FmtT := { g := g0, rs := 30, pd := pd, rsvd := 0 }

def timed (lo hi : W32) : SlotSt := setS 30 lo (setS 31 hi sl0)

theorem wit_WaitsHoldIssue :
    (takes run0.dev x0 g0 = true ∧ (fS 1).rsvd = 0 ∧ (fS 1).count ≠ 0 ∧ semOk (run0.slot x0) 63 = true) ∧
    (fL.rsvd = 0 ∧ fL.lp.toNat ∈ ((withSlot { sl0 with ports := [23] }).slot x0).ports) ∧
    ((fF 511).rsvd = 0 ∧ (fF 511).mask.toNat < 512) ∧
    (({ fU0 4 with off := 0 } : FmtU).rsvd = 0 ∧ ({ fU0 4 with off := 0 } : FmtU).sel.toNat < 5 ∧ ({ fU0 4 with off := 0 } : FmtU).qEn = 0 ∧
      ({ fU0 4 with off := 0 } : FmtU).ra = 0) ∧
    (fN.rsvd = 0) ∧
    ((fT 7).rsvd = 0 ∧ (fT 7).rs.toNat % 2 = 0 ∧
      (getS ((withSlot (timed 0 0)).slot x0) (fT 7).rs).toNat + (getS ((withSlot (timed 0 0)).slot x0) ((fT 7).rs + 1)).toNat * 2 ^ 32 ≤ (withSlot
      (timed 0 0)).dev.time.ft / 65536) ∧
    ((getS ((withSlot (timed 0 256)).slot x0) (fT 7).rs).toNat + (getS ((withSlot (timed 0 256)).slot x0) ((fT 7).rs + 1)).toNat * 2 ^ 32 =
      (withSlot (timed 0 256)).dev.time.ft / 65536 + 2 ^ 40) ∧
    ((withSlot (timed 1 256)).dev.time.ft / 65536 + 2 ^ 40 < (getS ((withSlot (timed 1 256)).slot x0) (fT 7).rs).toNat + (getS ((withSlot (timed 1
      256)).slot x0) ((fT 7).rs + 1)).toNat * 2 ^ 32) := by
  refine ⟨?_, ?_, ?_, ?_, ?_, ?_, ?_, ?_⟩ <;> decide +kernel

theorem wit_WaitsEnd :
    (((semAt 1 (.semWait 63 1)).slot x0).phase = .running ∧ ((semAt 1 (.semWait 63 1)).slot x0).hold = .semWait 63 1 ∧
      1 ≤ semGet (semAt 1 (.semWait 63 1)).dev 0 63 ∧ semGet (semAt 1 (.semWait 63 1)).dev 0 63 ≤ 65535) ∧
    (((semAt 1 (.timeWait 0)).slot x0).hold = .timeWait 0 ∧ 0 ≤ (semAt 1 (.timeWait 0)).dev.time.ft / 65536) ∧
    (((semAt 1 (.lineWait 23 0 0 7)).slot x0).hold = .lineWait 23 0 0 7 ∧ tget none (semAt 1 (.lineWait 23 0 0 7)).dev.live.ports 23 = none) ∧
    (((semAt 1 (.fence 0)).slot x0).hold = .fence 0 ∧
      ∀ b, b < 9 → (0 : BitVec 16) = 0 ∨ (0 : BitVec 16).getLsbD b = true → queueClear (semAt 1 (.fence 0)).dev 0 0 b = true) ∧
    (((semAt 1 (.strmWait 4)).slot x0).hold = .strmWait 4 ∧ strmClear (semAt 1 (.strmWait 4)).dev 0 4 0 = true) := by
  refine ⟨?_, ?_, ?_, ?_, ?_⟩ <;> decide +kernel

/-- The boot chain at stage 6. -/
def up (d : Dev) : Dev := setF kBootStat 16 4 6 d

/-- An image of one instruction in a window of 64 KiB, and its launch for a PF2 job of tag 5 on a bundle at 0x2000_0000_0000. -/
def img0 : List Byte := [0x47505A55, 1, 0, 8, 64, 0, 65536, 0x10, 0xFFFFFFFF, 0, 64, 72, 72, 0, 0, 0].flatMap (leBytes 4) ++ leBytes 8
    0x7F00000000000000

def ddr0 : Nat := 0x200000000000

def req0 : LaunchReq := { image := img0, csBase := 0xFF0000, sArgs := [5], aArgs := [BitVec.ofNat 48 ddr0], live := false, ident := 5, ports := [], fn := 2, scales := [0x3F80] }

def job0 : Job := { uid := 1, tag := 5, ring := 0, fabric := 0, bundle := 0, bg := false, running := true }

def jobDev (d : Dev) : Dev := { up d with sess.bundles := [(0, some ⟨ddr0, 4096, none, []⟩)], host.jobs := [job0] }

theorem wit_ProgramLaunch :
    (((mk jobDev).slot x0).phase = .idle ∧ schedulerUp (mk jobDev).dev = true ∧ launchOk req0 = true) ∧
    (launchFits (mk jobDev).dev (siteKey x0) req0 (imgHdr req0.image) = true ∧ launchArgsOk (mk jobDev).dev req0 = true ∧
      0 ∉ (mk jobDev).dev.pwr.gated ∧ 0 ∉ (mk jobDev).dev.pwr.chosen) ∧
    ((BitVec.ofNat 64 (imgHdr req0.image).semMask).getLsbD 31 = true ∧ launchOk { req0 with scales := [0xBF80] } = false ∧
      65536 ≤ ({ req0 with ident := 65536 } : LaunchReq).ident.toNat) := by
  refine ⟨?_, ?_, ?_⟩ <;> decide +kernel

theorem wit_SlotEnds :
    (((withSlot { sl0 with hold := .halt }).slot x0).phase = .running ∧ ((withSlot { sl0 with hold := .halt }).slot x0).hold = .halt ∧
      ∀ b, b < 9 → queueClear (withSlot { sl0 with hold := .halt }).dev 0 0 b = true) ∧
    (((withSlot sl0).slot x0).ident.toNat < 65536 ∧ ((withSlot sl0).slot x0).fn ≠ 2) ∧
    (2 ^ ((withSlot { sl0 with wdExp := 16, wdCount := 65536 }).slot x0).wdExp ≤ ((withSlot { sl0 with wdExp := 16, wdCount := 65536 }).slot
      x0).wdCount) ∧
    (((withSlot { sl0 with phase := .halted }).slot x0).phase = .halted ∧
      ((withSlot { sl0 with phase := .stopped }).slot x0).phase = .stopped) := by
  refine ⟨?_, ?_, ?_, ?_⟩ <;> decide +kernel

def load0 : LoadOp := { slot := 0, q := none, base := 0, blk := warpB }

def warp0 : Warp := { slot := 0, blk := warpB, rows := [], scales := [], allFinite := true }

def pass0 : PassOp := { slot := 0, q := none, base := 0, mode := .rne, blk := weftParse weftWords1, store := none, rg := none, win := none }

def loomSt (l : LoomSt) : State := mk (updLoom 63 (fun _ => l))

/-- A window set with no output position. -/
def emptyWin : WinDesc := { winParse (winWords 0 0) with kh := 31 }

theorem wit_LoomEvents :
    ((loomAt (loomSt { queue0 := [.load load0] }).dev 63).queue 0 = .load load0 :: [] ∧
      standbyFree (loomSt { queue0 := [.load load0] }).dev 31 { queue0 := [.load load0] } 0 = true) ∧
    ((loomAt (loomSt { fill := some (load0, true) }).dev 63).fill = some (load0, true)) ∧
    ((loomAt (loomSt { lost0 := true, queue0 := [.pass pass0], lastLoad0 := some load0 }).dev 63).lost 0 = true ∧
      headIsPass { queue0 := [.pass pass0] } 0 = true ∧
      (loomAt (loomSt { lost0 := true, queue0 := [.pass pass0], lastLoad0 := some load0 }).dev 63).lastLoad 0 = some load0 ∧
      standbyFree Dev.reset 31 { queue0 := [.pass pass0] } 0 = true) ∧
    (loomPick Dev.reset 31 { standby := some warp0, queue0 := [.pass pass0] } = some 0 ∧
      passWarp { standby := some warp0, queue0 := [.pass pass0] } 0 = some warp0) ∧
    (rowsBeforeMark { Dev.reset with strm.marks := [{ lo := 16384, hi := 16384, slotKey := 0, engine := 0 }] }
      { op := pass0, warp := warp0, rows := 1 } < 1) ∧
    (takeFirst (fun f => f.empty == false) [({ op := pass0, warp := warp0, rows := 1 } : Flight)] = some (({ op := pass0, warp := warp0, rows := 1 }
      : Flight), []) ∧ rowsBeforeMark Dev.reset { op := pass0, warp := warp0, rows := 1 } = 1) ∧
    (takeFirst (fun f => f.empty == true) [({ op := { pass0 with blk := { pass0.blk with m := 0 } }, warp := warp0, rows := 0 } : Flight)] = some
      (({ op := { pass0 with blk := { pass0.blk with m := 0 } }, warp := warp0, rows := 0 } : Flight), []) ∧
      rowsBeforeMark Dev.reset { op := pass0, warp := warp0, rows := 0 } = 0) := by
  refine ⟨?_, ?_, ?_, ?_, ?_, ?_, ?_⟩ <;> decide +kernel

theorem wit_UnitCompletes :
    (unitAt (mk (updUnit 63 (fun u => { u with begun := [someOp] }))).dev (2 * 31 + true.toNat)).begun = someOp :: [] := by decide +kernel

def engSt (es : List StrmEntry) (d : Dev) : Dev := updEng 0 (fun e => { e with queue0 := es }) (updSlot 0 (fun _ => sl0) d)

/-- The stream with a packed-side link that waits on semaphore 63; core-store element 0 of the Crebor peer; a run with one request. -/
def linkRun : StrmRun := { aRun with started := true, blk := { strmParse (strmWords 0) with pk := { noLink with waitEn := true, waitQ := 63, cap := 1 } } }

def reqRun (b : StrmBlk) (e : Option ReqEnd) : StrmRun :=
    { aRun with started := true, blk := b, next := 16, reqs := [{ id := 7, first := 0, count := 16, ended := e }] }

def crbB : StrmBlk := { strmParse (strmWords 0) with patSpace := 3, patDev := 1 }

theorem wit_StreamEvents :
    (currentRun ((engAt (mk (engSt [.desc aRun])).dev 0).queue 0) = some aRun ∧ aRun.started = false ∧
      startFault (mk (engSt [.desc aRun])).dev 0 aRun = none ∧ aRun.next < totalElems aRun.blk) ∧
    (startFault Dev.reset 0 { aRun with blk := { aRun.blk with patSpace := 1 } } = some 4096) ∧
    (currentRun ((engAt (mk (engSt [.desc linkRun])).dev 0).queue 0) = some linkRun ∧ creditNeed linkRun false = some (63, 1) ∧
      1 ≤ semGet (semSet 0 63 65535 (mk (engSt [.desc linkRun])).dev) 0 63) ∧
    (∀ c ∈ claims (semSet 0 63 1 (mk (engSt [.desc linkRun])).dev) 0 63, c.1 < 0 + 1 → semGet (semSet 0 63 1 (mk (engSt [.desc linkRun])).dev) 0 63
      < c.2) ∧
    (requestSlot (mk (engSt [.desc { aRun with started := true }])).dev 0 0 = some 0 ∧
      currentRun [.desc { aRun with started := true }] = some { aRun with started := true } ∧ aRun.blk.patSpace ≠ 3) ∧
    (findRun (fun p => p.reqs.any (fun o => o.id == 7)) [.desc (reqRun aRun.blk none)] = some (reqRun aRun.blk none) ∧
      (reqRun aRun.blk none).reqs.find? (fun o => o.id == 7) = some { id := 7, first := 0, count := 16, ended := none }) ∧
    ((List.replicate 16 (0 : Byte)).length = (if !aRun.blk.dirOut && aRun.blk.patSpace == 2 then 16 * aRun.blk.esize else 0)) ∧
    (findRun (fun p => p.reqs.any (fun o => o.id == 7)) [.desc (reqRun crbB (some (.failed 1 0)))] = some (reqRun crbB (some (.failed 1 0))) ∧
      (reqRun crbB (some (.failed 1 0))).blk.patSpace = 3) ∧
    (runDone { aRun with started := true, delivered := 16, next := 16 } = true) ∧
    ((quireAt (mk (updQuire 0 (fun q => { q with cancels := [(0, 0, none)] }))).dev 0).cancels.find? (fun c => c.1 == 0) = some (0, 0, none) ∧
      (4 : Fin 5).val = 4) ∧
    (({ reqRun aRun.blk none with cancelled := true } : StrmRun).reqs ≠ [] ∧
      ({ reqRun aRun.blk none with cancelled := true } : StrmRun).cancelAt + 4000 ≤ ({ Dev.reset with aclk := 4000 } : Dev).aclk) := by
  refine ⟨?_, ?_, ?_, ?_, ?_, ?_, ?_, ?_, ?_, ?_, ?_⟩ <;> decide +kernel

def waitOp : QuireOp := { anOp with started := false, blk := { anOp.blk with waitEn := true, waitQ := 63, waitCount := 255 } }

def sigOp : QuireOp := { anOp with blk := quireParse sigWords }

def hostOp : QuireOp := { anOp with blk := { anOp.blk with dstSpace := 2 } }

def opsDev (o : QuireOp) (d : Dev) : Dev := updQuire 0 (fun q => { q with ops := [o] }) (updSlot 0 (fun _ => sl0) d)

theorem wit_QuireEvents :
    ((quireAt (mk (opsDev waitOp)).dev 0).ops.find? (fun o => o.id == 0) = some waitOp ∧ waitOp.started = false ∧
      waitOp.blk.waitCount ≤ semGet (semSet 0 63 255 (mk (opsDev waitOp)).dev) 0 63) ∧
    (∀ w ∈ claims (semSet 0 63 255 (mk (opsDev waitOp)).dev) 0 63, w.1 < 5 → semGet (semSet 0 63 255 (mk (opsDev waitOp)).dev) 0 63 < w.2) ∧
    (sigOp.started = true ∧ sigOp.page = none ∧ quireOrdered 0 [sigOp] sigOp = true ∧ sigOp.blk.signal = true ∧ sigOp.blk.dstSpace ≠ 3 ∧
      quirePostCore 0 sigOp.blk = some 0 ∧ semReach (mk (opsDev sigOp)).dev 0 0 sigOp.blk.postQ = true ∧ sigOp.slot < 2) ∧
    (anOp.blk.signal = false ∧ anOp.data = none ∧ quireData (mk (opsDev anOp)).dev anOp (.ok []) = some (.ok (List.replicate 256 0)) ∧
      isRecvPort 0 anOp.blk = false ∧ isCollPort anOp.blk = false) ∧
    (quireFault (mk (opsDev hostOp)).dev 0 hostOp = none ∧ isEntPort hostOp.blk = false ∧ hostOp.blk.dstSpace = 2) ∧
    (quireFault (mk (opsDev anOp)).dev 0 anOp = none ∧ isEntPort anOp.blk = false ∧ entWindow (mk (opsDev anOp)).dev 0 anOp.blk = none ∧
      anOp.blk.dstSpace ≠ 2 ∧ anOp.blk.dstSpace ≠ 3) ∧
    (({ sigOp with ended := some (.ok []), blk := { sigOp.blk with dstSpace := 3 } } : QuireOp).ended = some (.ok []) ∧
      ({ anOp with data := some [], ended := some (.ok []) } : QuireOp).data.isSome = true) := by
  refine ⟨?_, ?_, ?_, ?_, ?_, ?_, ?_⟩ <;> decide +kernel

/-- PF0 ring 8 enabled and running. -/
def ring8 (d : Dev) : Dev := setF (kRing 0 8 0x1C) 30 2 1 (setF (kRing 0 8 0x10) 31 1 1 (up d))

theorem wit_HostPages :
    (pageFn (mk ring8).dev (.ring 0 8) 0 = some 0 ∧ (0 : BitVec 64).toNat % 4096 = 0) ∧
    (pageSent { Dev.reset with strm.pages := [{ fn := 3, page := 4096, user := .ring 3 0, sent := true, dead := false }] } 3 4096 = true) ∧
    (pageInUse Dev.reset 3 4096 = false) := by
  refine ⟨?_, ?_, ?_⟩ <;> decide +kernel

/-- A host-fed port of 64 × 32 pictures, and an ST 2110 audio port. -/
def rec0 : LiveRec := { audio := false, st2110 := false, cb := 0, inFmt := 0, inW := 64, inH := 32, rateNum := 30, rateDen := 1, bt2020 := false, full := false, csc := 0, orient := 0, cropX := 0, cropY := 0, cropW := 64, cropH := 32, outW := 64, outH := 32, regroup := 0, bf16 := false, mseEn := false, inFrames := 2, ringRows := 64, mseSem := 0, ringBase := 0, yPitch := 256, planePitch := 16384, relAddr := 0, recAddr := 0, fieldBase := 0, fieldPitch := 64, cplRing := 0, vatArea := 0, inBase := 0, inLinePitch := 64, inPlanePitch := 2048, inFramePitch := 8192, pt := 96, udpPort := 5004, dstIp := [239, 0, 0, 1], srcIp := [10, 0, 0, 1] }

def port0 : LivePort := { cfg := rec0, session := 9, die := 0, deckle := 0, mse := 0, areaBase := vatBase 0, coefs := [], inRing := 0, ringLine := 64, ringPlane := 2048, ringFrame := 8192, luma := 0 }

def portDev (p : LivePort) (d : Dev) : Dev := { up d with live.ports := [(23, some p)] }

def fr0 : FrameIn := { no := 0, capture := 0, ts := 0, lines := 32, lost := [], ended := true, got := [] }

def portHost : LivePort := { port0 with frameIn := 0, frames := [fr0] }

def audioCfg : LiveRec := { rec0 with audio := true, st2110 := true, inW := 8, inH := 48 }

def portAud : LivePort := { port0 with cfg := audioCfg, frames := [{ fr0 with lines := 48 }] }

def pkt0 : St2110Pkt := { cb := 0, dstIp := [239, 0, 0, 1], srcIp := [10, 0, 0, 1], udpPort := 5004, pt := 96, ts := 0, marker := true, video := [], audio := [] }

/-- A bound port has reached a waited line -/
theorem wit_LineReached :
    tget none (mk (portDev { portHost with frameOut := 0, linesOut := 8 })).dev.live.ports 23 = some { portHost with frameOut := 0, linesOut := 8 }
      ∧ lineReached { portHost with frameOut := 0, linesOut := 8 } 0 7 = true := by decide +kernel

theorem wit_LivePorts :
    (portAt (mk (portDev portHost)).dev 23 = some portHost ∧ portHost.cfg.st2110 = false ∧ (0x2000000000 : W64).toNat / 2 ^ 48 = 0 ∧
      (0x2000000000 : W64).toNat % 2 ^ 32 = portHost.frameIn ∧ portHost.linesIn < (0x2000000000 : W64).toNat / 2 ^ 32 ∧
      (0x2000000000 : W64).toNat / 2 ^ 32 ≤ portHost.cfg.inH ∧ portHost.frameIn < 2 ^ 32) ∧
    (portAt (mk (portDev portHost)).dev 22 = none) ∧
    (portAt (mk (portDev portAud)).dev ((0x3017F - 0x30000) / 16) = some portAud ∧ portAud.cfg.st2110 = true) ∧
    (flowPort (mk (portDev portAud)).dev pkt0 = some (23, portAud)) ∧
    (portHost.cfg.audio = false ∧ outFrame portHost = some fr0 ∧ linesNeeded portHost.cfg 0 ≤ fr0.lines ∧
      released (mk (portDev portHost)).dev portHost portHost.rows = true) ∧
    (portAud.cfg.audio = true ∧ outFrame portAud = some { fr0 with lines := 48 } ∧
      released (mk (portDev portAud)).dev portAud portAud.rows = true) ∧
    (({ portHost with mseJobs := [{ frame := 0, bands := 0, hasRef := false, cur := 0 }], frameOut := 0, linesOut := 32 } : LivePort).mseJobs =
      [{ frame := 0, bands := 0, hasRef := false, cur := 0 }] ∧ min (32 * (0 + 1)) (condH rec0) ≤ 32) := by
  refine ⟨?_, ?_, ?_, ?_, ?_, ?_, ?_⟩ <;> decide +kernel

def open0 : OpenReq := { slotKey := 63, session := 9, live := false, bundle := 0, unitType := 0, dir := true, family := 0, symTotal := 10, replyQ := 0, doneQ := 1 }

def lease0 : Lease := { slotKey := 63, session := 9, live := false, bundle := 0, unitType := 0, dir := true, family := 0, famSlot := 1, symTotal := 10, doneQ := 1, tag := 0, phase := .failed }

/-- Window 4 of engine 15 holds a lease; bundle 0 has one family, whose image follows its section table. -/
def feltDev (l : Lease) (fam : Bool) (d : Dev) : Dev :=
  wrMem (ddr0 + 0x20) (leBytes 4 64 ++ leBytes 2 1)
    (wrMem (ddr0 + 64) (leBytes 2 5 ++ leBytes 6 0 ++ leBytes 8 128)
      (updEngSt 15 (fun e => { e with fam1 := some { bundle := 0, family := 0, nCdf := 1, ready := fam } })
        { up d with sess.bundles := [(0, some ⟨ddr0, 4096, none, []⟩)], felt.leases := [(leaseKey 15 4, some l)] }))

theorem wit_FeltLeases :
    ((nextGrant { up Dev.reset with felt.opens := [open0] }).isSome = true) ∧
    ((engStAt (mk (feltDev lease0 false)).dev 15).fam 1 = some { bundle := 0, family := 0, nCdf := 1, ready := false } ∧
      bundleAt (mk (feltDev lease0 false)).dev 0 = some ⟨ddr0, 4096, none, []⟩ ∧
      familyAt (mk (feltDev lease0 false)).dev ⟨ddr0, 4096, none, []⟩ 0 = some 128 ∧ poisonIn (mk (feltDev lease0 false)).dev ddr0 4096 = none) ∧
    (∀ c ∈ [EntCmd.step true 0 true 0 10 0, .load true 1 0 64, .close true 256, .release true, .release false], nextServed (mk (feltDev
      { lease0 with cmds := [c] } true)).dev 15 = some 4 ∧
      leaseAt (mk (feltDev { lease0 with cmds := [c] } true)).dev (leaseKey 15 4) = some { lease0 with cmds := [c] }) ∧
    (lease0.dropped = false ∧ ({ lease0 with cmdCount := 2 ^ 32 - 2 } : Lease).cmdCount < 2 ^ 32 - 1) ∧
    (leaseAt (mk (feltDev { lease0 with dropped := true } true)).dev (leaseKey 15 4) = some { lease0 with dropped := true }) := by
  refine ⟨?_, ?_, ?_, ?_, ?_⟩ <;> decide +kernel

def freq0 : FrameReq := { tag := 0, serial := 0, deadline := 0, addr := 0, len := 64, picAddr := 0, reportAddr := 0, qIndex := 0 }

def sess0 : Sess := { phase := .active, cls := 1, decode := true, media := 0, bundle := 0, repeatSeq := false, adaptSteps := 0, cplRing := 0, qIndex := 0, seqId := 0, picW := 64, picH := 64, rateNum := 30, rateDen := 1, colour := 0, ctx := 0, ctxLen := 0, start := false }

/-- Session 0xFFFF and its frame, whose next stored unit is `u`; bundle 0's limits say slices of 8 rows and 64 quality indices; leases 3
and 4 of engine 15 hold its slice and its audio block, closed. -/

def sessDev (x : Sess) (d : Dev) : Dev :=
  wrMem (ddr0 + 0x20) (leBytes 4 64 ++ leBytes 2 1)
    (wrMem (ddr0 + 64) (leBytes 2 1 ++ leBytes 6 0 ++ leBytes 8 128)
      (wrMem (ddr0 + 128) (leBytes 6 0 ++ leBytes 6 8 ++ leBytes 4 64)
        { up d with
          sess.bundles := [(0, some ⟨ddr0, 4096, none, []⟩)], sess.sess := [(0xFFFF, some x)]
          felt.leases := [(leaseKey 15 3, some { lease0 with session := 0xFFFF, unitType := 3, phase := .closed }), (leaseKey 15 4, some
          { lease0 with session := 0xFFFF, unitType := 4, phase := .closed })] }))

def unitOf (type : Nat) (b : List Byte) : List Byte := BitVec.ofNat 8 type :: protect b

def decSess (u : List Byte) (c : Dec) : Sess := { sess0 with frame := some { req := freq0, num := 0, intra := true, units := [u] }, dec := c }

def headIs (x : Sess) (u : List Byte) : Bool := headUnit (mk (sessDev x)).dev (0xFFFF : BitVec 16).toNat == some (x, u)

/-- A sequence header's body of 64 × 64 pictures, and one of audio. -/
def seqB : List Byte := withCrc (List.replicate 21 0 ++ [0, 64, 0, 64] ++ List.replicate 9 0)

def seqA : List Byte := withCrc (List.replicate 19 0 ++ [0x40, 0] ++ List.replicate 13 0)

def decS : Dec := { phase := .seq, body := seqB }

def decF : Dec := { decS with phase := .frame, open_ := some { num := 0, intra := true, q := 0 } }

def frB : List Byte := withCrc (List.replicate 8 0)

def anB : List Byte := withCrc (List.replicate 13 0)

def slB : List Byte := [0, 0, 0]

def auB : List Byte := [0, 0, 0, 0, 63]

theorem wit_DecoderUnits :
    (∀ t, t < 9 → headIs (decSess (unitOf t seqB) {}) (unitOf t seqB) = true ∧ unitType (unitOf t seqB) = t ∧
      unitBody (unitOf t seqB) = some seqB) ∧
    (headIs (decSess (unitOf 2 frB) decS) (unitOf 2 frB) = true ∧ unitBody (unitOf 2 frB) = some frB ∧
      frameHeaderOk (closeOpen 0xFFFF (mk (sessDev (decSess (unitOf 2 frB) decS))).dev) (decSess (unitOf 2 frB) decS) frB = true) ∧
    (headIs (decSess (unitOf 3 slB) decF) (unitOf 3 slB) = true ∧ unitBody (unitOf 3 slB) = some slB ∧
      sliceDecodes (mk (sessDev (decSess (unitOf 3 slB) decF))).dev (decSess (unitOf 3 slB) decF) slB = true ∧
      (endedLease (mk (sessDev (decSess (unitOf 3 slB) decF))).dev 0xFFFF 3 (some (15, 3))).isSome = true ∧
      sliceDecodes (mk (sessDev (decSess (unitOf 3 slB) decS))).dev (decSess (unitOf 3 slB) decS) slB = false) ∧
    (headIs (decSess (unitOf 4 auB) { decS with body := seqA }) (unitOf 4 auB) = true ∧ unitBody (unitOf 4 auB) = some auB ∧
      audioDecodes (mk (sessDev (decSess (unitOf 4 auB) { decS with body := seqA }))).dev (decSess (unitOf 4 auB) { decS with body := seqA }) auB =
      true ∧ (endedLease (mk (sessDev (decSess (unitOf 4 auB) decS))).dev 0xFFFF 4 (some (15, 4))).isSome = true ∧
      audioDecodes (mk (sessDev (decSess (unitOf 4 auB) decS))).dev (decSess (unitOf 4 auB) decS) auB = false) ∧
    (headIs (decSess (unitOf 5 anB) decS) (unitOf 5 anB) = true ∧ unitBody (unitOf 5 anB) = some anB ∧ anB.length = 17 ∧ crcOk anB = true ∧
      beAt anB 12 1 % 128 = 0 ∧ decS.anchor = none ∧ decS.open_ = none) ∧
    (headIs (decSess (unitOf 7 []) decS) (unitOf 7 []) = true ∧ unitBody (unitOf 7 []) = some [] ∧
      headIs (decSess (unitOf 7 []) { phase := .refused }) (unitOf 7 []) = true) ∧
    (headIs (decSess [] decS) [] = true ∧ 9 ≤ unitType (unitOf 255 []) ∧ unitBody (unitOf 3 [] ++ [0, 0, 1]) = none) := by
  refine ⟨?_, ?_, ?_, ?_, ?_, ?_, ?_⟩ <;> decide +kernel

/-- Descriptor 1 of a ring, eligible, and 64 GiB of trained DDR4. -/
def desc0 (fn op : Nat) (ws : List Nat := List.replicate 15 0) : Desc :=
    { uid := 1, fn := fn, ring := 0, words := op :: ws, phase := .eligible 0, after := [] }

def ddrUp (d : Dev) : Dev := { setF kMemCfg 24 4 2 d with ddr.trained := true }

def descDev (x : Desc) (d : Dev) : Dev := { up (ddrUp d) with host.descs := [x] }

def loadDesc : Desc := desc0 0 1 (List.replicate 5 0 ++ [4096] ++ List.replicate 9 0)

theorem wit_Bundles :
    (cmdDesc (mk (descDev loadDesc)).dev 1 0 0x01 = some loadDesc ∧ (mk (descDev loadDesc)).dev.ddr.trained = true ∧
      (upFrom 0 256).find? (fun h => (bundleAt (mk (descDev loadDesc)).dev h).isNone) = some 0 ∧
      regionExists (mk (descDev loadDesc)).dev false (loadDesc.w64 6) = true ∧
      regionFree (mk (descDev loadDesc)).dev false (ddrBase + liveBytes (mk (descDev loadDesc)).dev) (loadDesc.w64 6) = true) ∧
    (cmdDesc { (mk (descDev loadDesc)).dev with ddr.trained := false } 1 0 0x01 = some loadDesc) ∧
    (cmdDesc (mk (descDev { loadDesc with words := 1 :: List.replicate 15 0 })).dev 1 0 0x01 = some
      { loadDesc with words := 1 :: List.replicate 15 0 } ∧
      regionExists (mk (descDev { loadDesc with words := 1 :: List.replicate 15 0 })).dev false (Desc.w64
      { loadDesc with words := 1 :: List.replicate 15 0 } 6) = false) ∧
    (bundleAt { Dev.reset with sess.bundles := [(255, some ⟨ddr0, 8, some 1, []⟩)] } (255 : Fin 256).val = some ⟨ddr0, 8, some 1, []⟩ ∧
      ([0, 0, 0, 0, 0, 0, 0, 0] : List Byte).length = 8 ∧ descPaged Dev.reset 1 = false ∧ Dev.reset.boot.restarting = false) ∧
    (cmdDesc (mk (descDev (desc0 0 2))).dev 1 0 0x02 = some (desc0 0 2)) := by
  refine ⟨?_, ?_, ?_, ?_, ?_⟩ <;> decide +kernel

/-- The limits of a Live profile of 3840 × 2160 pictures, and a bundle 0 that holds them, an adaptation section, and nothing else. -/
def limits : List Byte := leBytes 2 3840 ++ leBytes 2 2160 ++ [60, 1, 3, 0, 0, 1, 1, 0, 64, 0] ++ List.replicate 18 0 ++ leBytes 4 4096 ++ leBytes 4
    0

/-- Session 0xFFFF with its bundle, and descriptor 1 of PF1 for it. -/
def cmdDev (x : Desc) (y : Option Sess) (d : Dev) : Dev :=
  wrMem (ddr0 + 0x20) (leBytes 4 64 ++ leBytes 2 2)
    (wrMem (ddr0 + 64) (leBytes 2 1 ++ leBytes 6 0 ++ leBytes 8 128 ++ leBytes 16 0 ++ leBytes 2 7 ++ leBytes 30 0)
      (wrMem (ddr0 + 128) limits
        { descDev x d with sess.bundles := [(0, some ⟨ddr0, 4096, none, []⟩)], sess.sess := [(0xFFFF, y)] }))

def desc1 (op : Nat) (ws : List Nat := []) : Desc := desc0 1 op ([0xFFFF0000] ++ ws ++ List.replicate (14 - ws.length) 0)

def isDesc (op : Nat) (y : Option Sess) : Bool := cmdDesc (mk (cmdDev (desc1 op) y)).dev 1 1 op == some (desc1 op) && sessAt (mk (cmdDev (desc1 op)
    y)).dev (desc1 op).ident == y

/-- A Live and a Standard session in a state. -/
def live0 (p : SessPhase) : Sess := { sess0 with phase := p, cls := 0, decode := false }

def std0 (p : SessPhase) : Sess := { sess0 with phase := p, decode := false }

def anyPhase : List SessPhase := [.opened, .active, .parked, .faulted, .draining]

theorem wit_SessionCommands :
    (∀ p ∈ anyPhase, ∀ op ∈ [0x13, 0x14, 0x15, 0x16, 0x17, 0x18, 0x1A, 0x1B, 0x1C], isDesc op (some (live0 p)) = true ∧
      isDesc op (some (std0 p)) = true ∧ isDesc op (some { sess0 with phase := p }) = true ∧
      isDesc op (some { live0 p with port := some 23 }) = true) ∧
    (submitOk (mk (cmdDev (desc1 0x14) (some (std0 .parked)))).dev (std0 .parked) ⟨0, 0, 0, 0, 63, 0⟩ = true ∧
      submitOk (mk (cmdDev (desc1 0x14) (some (std0 .parked)))).dev (std0 .parked) ⟨0, 0, 0, 0, 64, 0⟩ = false) ∧
    ((std0 .active).queue.length < 64 ∧ 64 ≤ ({ std0 .active with queue := List.replicate 64 freq0 } : Sess).queue.length ∧
      (std0 .active).bufs.length < 16 ∧ 16 ≤ ({ std0 .active with bufs := List.replicate 16 ⟨0, 0, 4096, 0⟩ } : Sess).bufs.length) ∧
    (adapts (mk (cmdDev (desc1 0x17) (some (std0 .opened)))).dev 0 = true ∧ adapts (mk (cmdDev (desc1 0x17) (some (std0 .opened)))).dev 1 = false ∧
      (std0 .faulted).closing = none) := by
  refine ⟨?_, ?_, ?_, ?_⟩ <;> decide +kernel

/-- SESS_OPEN's words for a Live video encode on bundle 0. -/
def openDesc (h : Nat) : Desc := desc1 0x10 [0, 0, h * 16777216]

/-- A host port's record: 64 × 32 pictures at 30 Hz in two 64 KiB units of Vat. -/
def recBytes : List Byte :=
  [0, 0, 0, 0] ++ leBytes 2 64 ++ leBytes 2 32 ++ leBytes 4 30 ++ leBytes 4 1 ++ leBytes 8 0 ++ leBytes 2 64 ++ leBytes 2 32 ++ leBytes 2 64 ++
    leBytes 2 32 ++
  [0, 0, 0, 2] ++ leBytes 2 32 ++ leBytes 10 0 ++ leBytes 4 2048 ++ leBytes 4 0 ++ leBytes 8 65536 ++ leBytes 8 65664 ++ leBytes 14 0 ++ leBytes 2 2
    ++
  leBytes 8 0 ++ leBytes 4 64 ++ leBytes 4 2048 ++ leBytes 4 6144 ++ leBytes 36 0

def plan0 : BindPlan := ⟨vatBase 0, 0, 0, 0, 0, 0, 0⟩

def liveDev : Dev := (mk (cmdDev (desc1 0x11) (some (live0 .opened)))).dev

theorem wit_SessionPlaces :
    (cmdDesc (mk (cmdDev (openDesc 0) none)).dev 1 1 0x10 = some (openDesc 0) ∧ (mk (cmdDev (openDesc 0) none)).dev.ddr.trained = true ∧
      sessAt (mk (cmdDev (openDesc 0) none)).dev (openDesc 0).ident = none) ∧
    (openOk (mk (cmdDev (openDesc 0) none)).dev (openedSess (mk (cmdDev (openDesc 0) none)).dev (openDesc 0) 0) = true ∧
      openOk (mk (cmdDev (openDesc 255) none)).dev (openedSess (mk (cmdDev (openDesc 255) none)).dev (openDesc 255) 0) = false) ∧
    (regionExists (setF kMemLive 0 7 1 (mk (cmdDev (openDesc 0) none)).dev) true 4096 = true ∧
      regionFree (setF kMemLive 0 7 1 (mk (cmdDev (openDesc 0) none)).dev) true ddrBase 4096 = true ∧
      (openedSess (mk (cmdDev (openDesc 0) none)).dev (openDesc 0) 0).ctxLen = 4096) ∧
    (isDesc 0x11 (some (live0 .opened)) = true ∧ isDesc 0x11 (some (live0 .active)) = true ∧ recOk liveDev (live0 .opened) recBytes = true) ∧
    (allow liveDev (live0 .opened) 23 (recOf recBytes) = .fits 0 0 0 [0] ∧ bindPlanOk liveDev (live0 .opened) 23 (.ok recBytes) plan0 = true) ∧
    (allow (portDev port0 liveDev) (live0 .opened) 23 (recOf recBytes) = .refused 1 ∧
      bindPlanOk (portDev port0 liveDev) (live0 .opened) 23 (.ok recBytes) plan0 = true) ∧
    (isDesc 0x12 (some { live0 .faulted with port := some 23 }) = true ∧ isDesc 0x12 (some (live0 .opened)) = true) ∧
    (isDesc 0x18 (some (std0 .parked)) = true ∧ isDesc 0x18 (some (std0 .active)) = true) ∧
    (isDesc 0x19 none = true ∧ restorePlaceOk (mk (cmdDev (desc1 0x19) none)).dev 255 0 [] = true ∧ isDesc 0x19 (some (std0 .opened)) = true) := by
  refine ⟨?_, ?_, ?_, ?_, ?_, ?_, ?_, ?_, ?_⟩ <;> decide +kernel

/-- Standard sessions 0 and 0xFFFF with a queued frame; a waiting job. -/
def queueDev (y : Sess) (d : Dev) : Dev := { up d with sess.sess := [(0xFFFF, some y)] }

def jobWait : Job := { job0 with running := false }

def livePortUp : LivePort := { portHost with session := 0xFFFF, running := true, frameOut := 7, linesOut := 1 }

def liveUp : Sess := { live0 .active with port := some 23 }

theorem wit_FrameFlow :
    (schedulerUp { up Dev.reset with host.jobs := [jobWait] } = true ∧
      (nextWork { up Dev.reset with host.jobs := [jobWait] }).map (·.id) = some (.job 1)) ∧
    (schedulerUp (queueDev { sess0 with phase := .parked, queue := [freq0] } Dev.reset) = true ∧
      (nextWork (queueDev { sess0 with phase := .parked, queue := [freq0] } Dev.reset)).map (·.id) = some (.frame 0xFFFF) ∧
      sessAt (queueDev { sess0 with phase := .parked, queue := [freq0] } Dev.reset) 0xFFFF = some { sess0 with phase := .parked, queue := [freq0] }
      ∧ liveFrame (queueDev { sess0 with phase := .parked, queue := [freq0] } Dev.reset) { sess0 with phase := .parked, queue := [freq0] } = none) ∧
    ((nextWork (queueDev { std0 .parked with queue := [freq0] } Dev.reset)).map (·.id) = some (.frame 0xFFFF) ∧ (std0 .parked).decode = false) ∧
    (schedulerUp (portDev livePortUp (queueDev liveUp Dev.reset)) = true ∧ (portDev livePortUp (queueDev liveUp Dev.reset)).pwr.allStop = false ∧
      sessAt (portDev livePortUp (queueDev liveUp Dev.reset)) 0xFFFF = some liveUp ∧
      liveFrame (portDev livePortUp (queueDev liveUp Dev.reset)) liveUp = some 7) ∧
    (frameDone (queueDev (decSess [] {}) Dev.reset) 0xFFFF (decSess [] {}) { req := freq0, num := 0, intra := true } = true) ∧
    (sessAt (queueDev (std0 .draining) Dev.reset) 0xFFFF = some (std0 .draining) ∧ (std0 .draining).frame = none) := by
  refine ⟨?_, ?_, ?_, ?_, ?_, ?_⟩ <;> decide +kernel

def hotDev (d : Dev) (step : Nat) : Dev := setF kPwrStat 28 2 step { d with pwr.hotT := true, aclk := 2000000 }

theorem wit_PowerAndShedding :
    (bootDone (up Dev.reset) = true) ∧
    (31 ∈ ({ Dev.reset with pwr.chosen := [31] } : Dev).pwr.chosen ∧ coreIdle { Dev.reset with pwr.chosen := [31] } 31 = true) ∧
    (31 ∈ ({ Dev.reset with pwr.gated := [31] } : Dev).pwr.gated ∧ 31 ∉ levelCores { Dev.reset with pwr.gated := [31] }) ∧
    (shedStep (hotDev Dev.reset 1) = 1 ∧ overLimit (hotDev Dev.reset 1) = true ∧
      (hotDev Dev.reset 1).pwr.stepAt + 200000 ≤ (hotDev Dev.reset 1).aclk) ∧
    (2 ≤ shedStep (hotDev Dev.reset 2) ∧ (hotDev Dev.reset 2).pwr.shed < 3 ∧
      (hotDev Dev.reset 2).pwr.stepAt + 2000000 ≤ (hotDev Dev.reset 2).aclk) ∧
    (shedStep (hotDev Dev.reset 3) ≠ 0 ∧ underLimit { hotDev Dev.reset 3 with pwr.coolT := true, pwr.coolP := true, pwr.calmAt := some 0 } = true ∧
      0 + 2000000 ≤ (hotDev Dev.reset 3).aclk) ∧
    (({ Dev.reset with pwr.tempAt := none, pwr.auxOff := true, boot.hold := false } : Dev).pwr.tempAt = none ∧
      ({ Dev.reset with boot.hold := false } : Dev).boot.hold = false ∧
      max (1839 : BitVec 16).toNat (max (0 : BitVec 16).toNat (0 : BitVec 16).toNat) < 1840 ∧
      1840 ≤ max (0 : BitVec 16).toNat (max (1840 : BitVec 16).toNat (0 : BitVec 16).toNat)) ∧
    (afterRom (up Dev.reset) = true ∧ ({ Dev.reset with pwr.vidAt := none } : Dev).pwr.vidAt = none ∧
      getF (setF kPwrVdd 0 5 29 Dev.reset) kPwrVdd 0 5 < 30 ∧ 0 < getF (setF kPwrVdd 0 5 1 Dev.reset) kPwrVdd 0 5) ∧
    (Dev.reset.pwr.auxOff = false ∧ ({ Dev.reset with pwr.auxOff := true } : Dev).pwr.auxOff = true) := by
  refine ⟨?_, ?_, ?_, ?_, ?_, ?_, ?_, ?_, ?_⟩ <;> decide +kernel

def timeDev (state source : Nat) (d : Dev) : Dev := setF kTimStatus 0 3 state (setF kTimStatus 8 4 source d)

/-- Crebor port 7 is an Ethernet link that is up, and the source of PTP. -/
def ptpDev (d : Dev) : Dev :=
  setF kTimSrcCfg 2 1 1 (setF kTimSrcCfg 13 3 7 (setF kTimSrcCfg 16 8 127 (setF (kCrbPort 7 4) 29 3 2
    { d with crb.links := [(7, { mode := 1 })] })))

theorem wit_FabricTime :
    (timeSource (timeDev 1 2 Dev.reset) = 2 ∧ ¬ (timeState (timeDev 1 2 Dev.reset) = 2 ∧ 4000 < (4001 : Int).natAbs) ∧
      ¬ (timeState (timeDev 2 2 Dev.reset) = 2 ∧ 4000 < (-4000 : Int).natAbs)) ∧
    (timeState (timeDev 2 2 Dev.reset) = 2 ∧ timeSource (timeDev 2 2 Dev.reset) = 2 ∧ 4000 < (-4001 : Int).natAbs) ∧
    (timeState (timeDev 1 3 Dev.reset) = 1 ∧ timeSource (timeDev 1 3 Dev.reset) ≠ 0 ∧
      ({ timeDev 1 3 Dev.reset with aclk := 800000 } : Dev).time.valid + sampleTimeout { timeDev 1 3 Dev.reset with aclk := 800000 } ≤ 800000) ∧
    (timeState { timeDev 2 2 Dev.reset with time.ft := 65536000000000 } = 2 ∧
      nowNs { timeDev 2 2 Dev.reset with time.ft := 65536000000000 } / 1000000000 ≠ ({ timeDev 2 2 Dev.reset with time.ft := 65536000000000 } :
      Dev).time.calSec) ∧
    (({ Dev.reset with time.ft := 65536000000000 } : Dev).time.ppsHigh = false ∧
      nowNs { Dev.reset with time.ft := 65536000000000 } % 1000000000 / 1000000 = 0 ∧
      nowNs { Dev.reset with time.ft := 65536000000000 } / 1000000000 ≠ ({ Dev.reset with time.ft := 65536000000000 } : Dev).time.ppsSec) ∧
    (({ Dev.reset with time.ppsHigh := true, time.ft := 65536000000 } : Dev).time.ppsHigh = true ∧
      nowNs { Dev.reset with time.ft := 65536000000 } % 1000000000 / 1000000 ≠ 0) ∧
    (timeSource Dev.reset ≠ 1 ∧ ({ Dev.reset with time.ppsAt := none } : Dev).time.ppsAt = none) ∧
    (({ Dev.reset with time.ppsOk := true, time.ppsAt := some 0, aclk := 220000000 } : Dev).time.ppsOk = true ∧
      0 + 220000000 ≤ ({ Dev.reset with aclk := 220000000 } : Dev).aclk) ∧
    (getF (ptpDev Dev.reset) kTimSrcCfg 2 1 = 1 ∧ (linkAt (ptpDev Dev.reset) (getF (ptpDev Dev.reset) kTimSrcCfg 13 3)).mode = 1 ∧
      linkUp (ptpDev Dev.reset) (getF (ptpDev Dev.reset) kTimSrcCfg 13 3) = true) ∧
    ((127 : BitVec 8).toNat = getF (ptpDev Dev.reset) kTimSrcCfg 16 8 ∧ (0 : Fin 4).val = getF (ptpDev Dev.reset) kTimSrcCfg 11 2 ∧
      ptpDomainOk 0 127 = true ∧ (128 : BitVec 8).toNat ≠ getF (ptpDev Dev.reset) kTimSrcCfg 16 8) := by
  refine ⟨?_, ?_, ?_, ?_, ?_, ?_, ?_, ?_, ?_, ?_⟩ <;> decide +kernel

/-- Ring 1023 of PF2 enabled and running with 256 entries each way. -/
def ringUp (d : Dev) : Dev := setF (kRing 2 1023 0x1C) 30 2 1 (setF (kRing 2 1023 0x10) 0 5 8 (setF (kRing 2 1023 0x10) 8 5 8 (setF (kRing 2 1023
    0x10) 31 1 1 (up d))))

theorem wit_RingCommands :
    (1023 < ringCount (2 : Fin 4).val ∧ bitAt (0x80000000 : W32).toNat 31 = true ∧ getF (up Dev.reset) (kRing 2 1023 0x10) 31 1 = 0 ∧
      bootDone (up Dev.reset) = true ∧ basesAligned (up Dev.reset) 2 1023 = true ∧ fld (0x87FF0000 : W32).toNat 16 11 < msixCount 2) ∧
    (getF (ringUp Dev.reset) (kRing 2 1023 0x10) 31 1 = 1 ∧
      ((ringUp Dev.reset).host.descs.any (fun x => x.fn == 2 && x.ring == 1023) || namedAsCplRing (ringUp Dev.reset) 2 1023) = false) ∧
    (((ringUp { Dev.reset with host.descs := [{ desc0 2 0x20 with ring := 1023 }] }).host.descs.any (fun x => x.fn == 2 && x.ring == 1023)) = true ∧
      getF (ringUp { Dev.reset with host.descs := [{ desc0 2 0x20 with ring := 1023 }] }) (kRing 2 1023 0x10) 31 1 = 1) ∧
    (ringDoorbell (2 : Fin 4).val (16 * 1023) = true ∧ ringRunning (ringUp Dev.reset) 2 1023 = true ∧
      (255 : W64).toNat < sqDepth (ringUp Dev.reset) 2 1023 ∧ sqDepth (ringUp Dev.reset) 2 1023 ≤ (256 : W64).toNat) ∧
    (ringDoorbell 3 0x3FFF8 = true ∧ (0x3FFF7 : Nat) % 16 < 8 ∧ ringRunning Dev.reset 3 (0x3FFF7 / 16) = false ∧ ¬((2 : Fin 4).val = 0 ∧
      1023 = 8)) ∧
    (ringDoorbell 2 (16 * 1023 + 8) = true ∧ (5 : W64).toNat < cqDepth (ringUp Dev.reset) 2 1023 ∧
      ((5 : W64).toNat + cqDepth (ringUp Dev.reset) 2 1023 - (ringAt (ringUp Dev.reset) 2 1023).cqHead) % cqDepth (ringUp Dev.reset) 2 1023 ≤
      (cqTail (setF (kRing 2 1023 0x18) 0 16 5 (ringUp Dev.reset)) 2 1023 + cqDepth (ringUp Dev.reset) 2 1023 - (ringAt (ringUp Dev.reset) 2
      1023).cqHead) % cqDepth (ringUp Dev.reset) 2 1023) ∧
    (ringRunning (setF (kRing 2 1023 0x10) 15 1 1 (setF (kRing 2 1023 0x14) 16 16 1 (updRing 2 1023 (fun r => { r with unsignalled := 1 }) (ringUp
      Dev.reset)))) 2 1023 = true ∧ (ringAt (updRing 2 1023 (fun r => { r with unsignalled := 1 }) (ringUp Dev.reset)) 2 1023).unsignalled ≠ 0 ∧
      0 + 1000 * getF (setF (kRing 2 1023 0x14) 16 16 1 (ringUp Dev.reset)) (kRing 2 1023 0x14) 16 16 ≤ nowNs
      { Dev.reset with time.ft := 65536000 }) ∧
    (255 < msixCount (3 : Fin 4).val) := by
  refine ⟨?_, ?_, ?_, ?_, ?_, ?_, ?_, ?_⟩ <;> decide +kernel

def tailRing (d : Dev) : Dev := updRing 2 1023 (fun r => { r with sqTail := 1 }) (ringUp d)

/-- Descriptor 1 in a phase, with the words of its condition. -/
def condDesc (p : DescPhase) (w1 w2 w3 : Nat) (after : List Nat) : Desc :=
    { uid := 1, fn := 2, ring := 0, words := [0x20, w1, w2, w3], phase := p, after := after }

def descIn (x : Desc) : Dev := { up Dev.reset with host.descs := [x] }

/-- JOB_RUN of a record of 64 zero bytes on a tensor model in bundle 255. -/
def jobDesc : Desc := desc0 2 0x20 [0, 0, 0, 255, 0, 0, 0, 64, 0, 0, 0, 0, 0, 0, 0]

def tensorDev : Dev := wrMem (ddr0 + 6) [1] { descDev jobDesc Dev.reset with sess.bundles := [(255, some ⟨ddr0, 4096, none, []⟩)] }

theorem wit_DescriptorCommands :
    (schedulerUp (tailRing Dev.reset) = true ∧ nextRing (tailRing Dev.reset) = some ((2 : Fin 4).val, 1023) ∧
      armedCount (tailRing Dev.reset) < 4096) ∧
    (opDefined 2 0x00 = false ∧ takeCheck Dev.reset (desc0 2 0x7F) = 0 ∧ (desc0 2 0x7F).launch = 0 ∧
      takeCheck Dev.reset (desc0 2 0x7F [1, 1, 0, 0, 0, 0, 0, 0, 0, 0, 0, 0, 0, 0, 0]) = 0 ∧
      takeCheck Dev.reset (desc0 2 0x7F [5, 1, 0, 0, 0, 0, 0, 0, 0, 0, 0, 0, 0, 0, 0]) ≠ 0) ∧
    (findDesc (descIn (condDesc .waiting 3 0 0 [7])) 1 = some (condDesc .waiting 3 0 0 [7]) ∧
      conditionHolds (descIn (condDesc .waiting 3 0 0 [7])) (condDesc .waiting 3 0 0 [7]) = true) ∧
    (conditionHolds (semSet 31 63 4095 (descIn (condDesc .waiting 4 0x1F3F 4095 []))) (condDesc .waiting 4 0x1F3F 4095 []) = true ∧
      conditionHolds (semSet 31 63 4094 (descIn (condDesc .waiting 4 0x1F3F 4095 []))) (condDesc .waiting 4 0x1F3F 4095 []) = false) ∧
    (findDesc (descIn (condDesc .armed 1 0 0 [])) 1 = some (condDesc .armed 1 0 0 []) ∧
      firesFirst (descIn (condDesc .armed 1 0 0 [])) (condDesc .armed 1 0 0 []) = true) ∧
    (∀ fn ∈ [0, 1, 2, 3], ∀ op ∈ [0x7E, 0x7F], cmdDesc (descDev (desc0 fn op) Dev.reset) 1 fn op = some (desc0 fn op) ∧
      findDesc (descDev (desc0 fn op) Dev.reset) 1 = some (desc0 fn op)) ∧
    (cmdDesc (descDev (desc0 0 8) Dev.reset) 1 0 0x08 = some (desc0 0 8) ∧ (descDev (desc0 0 8) Dev.reset).boot.warm = none ∧
      cmdDesc (descDev (desc0 0 9) Dev.reset) 1 0 0x09 = some (desc0 0 9)) ∧
    (({ Dev.reset with crb.timed := [(3, 0, none)] } : Dev).crb.timed.find? (fun e => e.1 == 3) = some (3, 0, none) ∧ 0 ≤ nowNs Dev.reset) ∧
    (cmdDesc tensorDev 1 2 0x20 = some jobDesc ∧ tensorDev.ddr.trained = true ∧ (List.replicate 64 (0 : Byte)).length = jobDesc.w 8 ∧
      (jobOf tensorDev jobDesc (List.replicate 64 0)).isSome = true ∧
      (jobOf tensorDev jobDesc (List.replicate 64 0)).all (fun j => j.fabric == 0) = true) ∧
    (jobOf tensorDev jobDesc (List.replicate 64 1) = none ∧ jobTargetOk tensorDev jobDesc = true) ∧
    (cmdDesc { tensorDev with sess.bundles := [] } 1 2 0x20 = some jobDesc ∧
      bundleAt { tensorDev with sess.bundles := [] } (fld (jobDesc.w 4) 0 8) = none) ∧
    (cmdDesc (descDev (desc0 2 0x21) Dev.reset) 1 2 0x21 = some (desc0 2 0x21) ∧ jobByTag (descDev (desc0 2 0x21) Dev.reset) 0 0 = none) ∧
    (jobByTag
      { Dev.reset with host.jobs := [{ job0 with uid := 2 }], host.descs := [desc0 2 0x21, { desc0 2 0x20 with uid := 2, phase := .begun }] } 0 0 =
      some { job0 with uid := 2 } ∧
      cmdDesc
      { Dev.reset with host.jobs := [{ job0 with uid := 2 }], host.descs := [desc0 2 0x21, { desc0 2 0x20 with uid := 2, phase := .begun }] } 1 2
      0x21 = some (desc0 2 0x21)) := by
  refine ⟨?_, ?_, ?_, ?_, ?_, ?_, ?_, ?_, ?_, ?_, ?_, ?_, ?_⟩ <;> decide +kernel

/-- A Press descriptor: first and last command of a raw stream 255, 8 bytes at host address 64 to 3 bytes at 128. -/
def pressDesc (op flags : Nat) : Desc := desc0 3 op [0, 0, 0, 0xFF03, 64, 0, 8, 128, 0, 3, flags, 0, 0, 0, 0]

def pressDev (op flags : Nat) : Dev := descDev (pressDesc op flags) Dev.reset

/-- A final stored block of the bytes of "abc". -/
def storedBlock : List Byte := [1, 3, 0, 0xFC, 0xFF, 0x61, 0x62, 0x63]

def inf0 : PressCmd := pressOf (pressDesc 0x31 0)

def pressRun (c : PressCmd) : Dev := { up Dev.reset with press.engs := [(3, [c])] }

theorem wit_PressCommands :
    (∀ op ∈ [0x30, 0x31], cmdDesc (pressDev op 0) 1 3 op = some (pressDesc op 0) ∧ (pressOf (pressDesc op 0)).srcDdr = false ∧
      pressRangesOk (pressDev op 0) (pressOf (pressDesc op 0)) = true ∧
      pressStateOk (pressOf (pressDesc op 0)) (pressCtx (pressDev op 0) 255) = true ∧ pressBusy (pressDev op 0) 255 = false) ∧
    (∀ op ∈ [0x30, 0x31, 0x32], cmdDesc (pressDev op 1) 1 3 op = some (pressDesc op 1) ∧ (pressOf (pressDesc op 1)).srcDdr = true ∧
      pressRangesOk (pressDev op 1) (pressOf (pressDesc op 1)) = false ∧ (pressDev op 1).ddr.trained = true) ∧
    (cmdDesc (pressDev 0x32 0) 1 3 0x32 = some (pressDesc 0x32 0) ∧
      pressStateOk (pressOf (pressDesc 0x32 0)) (pressCtx (pressDev 0x32 0) 255) = false ∧
      pressStateOk (pressOf (pressDesc 0x32 0)) (pressCtx { pressDev 0x32 0 with press.ctxs := [(255, some { inflate := false, framing := 0 })] }
      255) = true) ∧
    (cmdDesc { pressDev 0x30 1 with ddr.trained := false } 1 3 0x30 = some (pressDesc 0x30 1)) ∧
    (schedulerUp { up Dev.reset with press.waiting := [inf0] } = true ∧ nextPress { up Dev.reset with press.waiting := [inf0] } = some inf0 ∧
      pressStateOk inf0 none = true) ∧
    (pressQueue (pressRun inf0) (3 : Fin 4).val = inf0 :: [] ∧ inf0.srcDdr = false ∧ inf0.dstDdr = false ∧ storedBlock.length = inf0.srcLen ∧
      descPaged (pressRun inf0) 1 = false ∧ pressCtx (pressRun inf0) inf0.stream = none) ∧
    (runPress inf0 (pressStart inf0 none) storedBlock = .good { inflate := true, framing := 0, data := storedBlock, done := 3 } [0x61, 0x62, 0x63] 8
      3) ∧
    (runPress inf0 (pressStart inf0 none) (List.replicate 8 0xFF) = .bad 0x50 0) := by
  refine ⟨?_, ?_, ?_, ?_, ?_, ?_, ?_, ?_⟩ <;> decide +kernel

def evenWindow : List Nat := List.replicate 16 4

theorem wit_MemoryReliability :
    ((ddrUp Dev.reset).ddr.trained = true ∧ evenWindow.length = 16 ∧ ∀ c, c < 16 → 16 * evenWindow.getD c 0 ≤ 4 * evenWindow.foldl (· + ·) 0) ∧
    (4 * (List.replicate 15 0 ++ [4]).foldl (· + ·) 0 < 16 * (List.replicate 15 0 ++ [4]).getD 15 0 ∧
      ∀ j, j < 15 → 16 * (List.replicate 15 0 ++ [4]).getD j 0 ≤ 4 * (List.replicate 15 0 ++ [4]).foldl (· + ·) 0) ∧
    ((0xFFFFFFFFF : BitVec 42).toNat < ddrSize (ddrUp Dev.reset) ∨ ddrSize (ddrUp Dev.reset) ≤ 0xFFFFFFFFF) ∧
    ((63 : BitVec 42).toNat < ddrSize (ddrUp Dev.reset) ∧
      (ddrUp Dev.reset).ddr.retired.contains ((ddrBase + (63 : BitVec 42).toNat / 64 * 64) / 4096 * 4096) = false) ∧
    (scrubDue { Dev.reset with ddr.scrubCorr := [(15, 1)] } 15 = true) := by
  refine ⟨?_, ?_, ?_, ?_, ?_⟩ <;> decide +kernel

theorem wit_UnoccupiedOffsets :
    (Dev.reset.boot.hold = false ∧ (0xFFFF8 : Nat) < 0x100000 ∧ 0xFFFF8 % 8 = 0 ∧ regSpecAt (0 : Fin 4).val 0xFFFF8 = none ∧
      regSpecAt 0 (0xFFFF8 + 4) = none) ∧
    (regSpecAt (3 : Fin 4).val 4 = none ∧ 4 % 4 = 0) := by
  refine ⟨?_, ?_⟩ <;> decide +kernel

theorem wit_RegisterAccesses :
    (Dev.reset.boot.hold = false ∧ accessOk 2 4 = false ∧ accessOk 0 2 = false ∧ accessOk 4 8 = false ∧ (0xFFFF8 : Nat) % 8 = 0) ∧
    (bootDone (up Dev.reset) = true ∧ (up Dev.reset).boot.hold = false ∧ (0xFFFFFFFF : W64).toNat < 2 ^ 32 ∧
      regVal (up Dev.reset) (kEvtCount 16) < 65536) := by
  refine ⟨?_, ?_⟩ <;> decide +kernel

theorem wit_ManagementAndDebug :
    ((∀ x ∈ upFrom 0xFFF 2, barWrites (up (ddrUp Dev.reset)) x = true) ∧ (up (ddrUp Dev.reset)).ddr.poison = [] ∧
      (up (ddrUp Dev.reset)).boot.hold = false) ∧
    ((∀ x ∈ upFrom 0xFFF 2, barByte (up (ddrUp Dev.reset)) x = true) ∧
      ∀ x ∈ upFrom 0xFFF 2, poisonIn (up (ddrUp Dev.reset)) (ddrBase + x) 1 = none) ∧
    (debugEn (setF kBootStat 23 1 1 Dev.reset) = true ∧ debugEn Dev.reset = false ∧ DebugOp.inspectSlot x0 ≠ .idcode) ∧
    ((8 : Nat) ∈ [1, 2, 4, 8] ∧ (1 : Nat) ≤ 6 ∧ jobAt { Dev.reset with host.jobs := [job0] } 1 = some job0) := by
  refine ⟨?_, ?_, ?_, ?_⟩ <;> decide +kernel

def held : Dev := { Dev.reset with boot.hold := true }

def atDev (n : Nat) : Dev := setF kBootStat 16 4 n Dev.reset

theorem wit_Resets :
    (Dev.reset.boot.hold = false ∧ held.boot.hold = true ∧ held.pwr.tripped = false ∧ held.pwr.auxOff = false) ∧
    (({ Dev.reset with boot.warm := some (7, 0) } : Dev).boot.warm = some (7, 0) ∧ 0 ≤ ({ Dev.reset with boot.warm := some (7, 0) } : Dev).aclk ∧
      (7 : Nat) < 8) ∧
    (coreResetDue { up Dev.reset with boot.cores := [31] } 31 = true ∧ schedulerUp { up Dev.reset with boot.cores := [31] } = true) ∧
    (schedulerUp (pressRun inf0) = true ∧ pressQueue (pressRun inf0) (3 : Fin 4).val = inf0 :: []) := by
  refine ⟨?_, ?_, ?_, ?_⟩ <;> decide +kernel

theorem wit_RootWatchdog :
    (afterRom (atDev 1) = true ∧ (atDev 1).boot.hold = false ∧
      (atDev 1).boot.rootAt + 200000000 ≤ ({ atDev 1 with aclk := 200000000 } : Dev).aclk) ∧
    (({ atDev 1 with aclk := 199999999 } : Dev).aclk < (atDev 1).boot.rootAt + 200000000) := by
  refine ⟨?_, ?_⟩ <;> decide +kernel

def ddr1 : Modules := { dpc2 := false, log2 := 3, type_ := 0, x4 := false, rate := 2400, serials := [], uniform := true, fastFails := [], fails := [] }

theorem wit_BootChain :
    (∀ n, n < 5 → atStage (atDev n) n = true) ∧
    (bootMode (atDev 0) < 2 ∧ 2 ≤ bootMode (setF kBootStat 30 2 3 (atDev 0))) ∧
    (bootDone { up Dev.reset with boot.restarting := true } = true ∧ schedulerRuns (atDev 4) = true ∧ schedulerRuns (up Dev.reset) = true) ∧
    ((atDev 4).boot.live + 400000000 ≤ ({ atDev 4 with aclk := 400000000 } : Dev).aclk ∧ (up Dev.reset).boot.restarting = false ∧
      (up Dev.reset).boot.live + 100000000 ≤ ({ up Dev.reset with aclk := 100000000 } : Dev).aclk) ∧
    ((({ Dev.reset with boot.restarts := [0, 0], aclk := 11999999999 } : Dev).boot.restarts.filter (fun t => decide
      (({ Dev.reset with aclk := 11999999999 } : Dev).aclk < t + 12000000000))).length ≥ 2) ∧
    (rootPlanOk (ddrUp (atDev 3)) (ddrBase + 0x10000) 64 (ddrBase + 0x20000) 4096 = true ∧ objCommit (objAt (atDev 4) 1) = false ∧
      objCommit (objAt { atDev 4 with boot.objs := [(1, List.replicate 7 0 ++ [1])] } 1) = true) := by
  refine ⟨?_, ?_, ?_, ?_, ?_, ?_⟩ <;> decide +kernel

/-- Objects of the four kinds of boot, as small as their rules allow, with a signature block of zeros. -/
def objBody (kind : Nat) : List Byte :=
  match kind with
  | 3 => leBytes 8 0 ++ leBytes 2 0x960 ++ List.replicate 0xCBE 0 ++ [1] ++ List.replicate 7447 0
  | 4 => leBytes 2 300 ++ leBytes 2 2400 ++ List.replicate 5756 0
  | _ => List.replicate 64 0

def objSize (kind : Nat) : Nat := ceilDiv (64 + (objBody kind).length) 64 * 64

def sigBlk : List Byte := leBytes 4 0x42535A55 ++ [1, 0] ++ List.replicate 5370 0

def objHdr (kind : Nat) : List Byte :=
  leBytes 4 (kindMagic kind) ++ [1, 0, BitVec.ofNat 8 kind, 0] ++ leBytes 8 (objSize kind) ++ leBytes 8 (objSize kind) ++ leBytes 8 (objSize kind +
    5376) ++
  leBytes 4 0 ++ leBytes 4 (objBody kind).length ++ leBytes 8 (if kind = 3 then 1 else 0) ++ leBytes 16 0

def objPart (kind : Nat) : List Byte := objHdr kind ++ (objBody kind ++ List.replicate (objSize kind - 64 - (objBody kind).length) 0)

def obj0 (kind : Nat) : List Byte := objPart kind ++ sigBlk

def objDev (kind : Nat) (d : Dev) : Dev := { d with boot.flash := tsetRun 0xFF [] (copyBase kind 0) (obj0 kind) }
theorem objBody_length (k : Nat) : (objBody k).length = if k = 3 then 10720 else if k = 4 then 5760 else 64 := by
  unfold objBody
  split
  · simp only [List.length_append, List.length_replicate, length_leBytes, List.length_cons, List.length_nil]; rfl
  · simp only [List.length_append, List.length_replicate, length_leBytes]; rfl
  · rename_i h3 h4
    rw [if_neg h3, if_neg h4, List.length_replicate]
theorem objHdr_length (k : Nat) : (objHdr k).length = 64 := by
  unfold objHdr
  simp only [List.length_append, length_leBytes, List.length_cons, List.length_nil]
theorem objPart_length (k : Nat) (hk : k ∈ [1, 2, 3, 4]) : (objPart k).length = objSize k := by
  have h : 64 + (objBody k).length ≤ objSize k := by
    unfold objSize; rw [objBody_length]; revert k; decide
  unfold objPart
  simp only [List.length_append, List.length_replicate, objHdr_length]
  omega
theorem sigBlk_length : sigBlk.length = 5376 := by
  unfold sigBlk
  simp only [List.length_append, List.length_replicate, length_leBytes, List.length_cons, List.length_nil]
theorem obj_length (k : Nat) (hk : k ∈ [1, 2, 3, 4]) : (obj0 k).length = objSize k + 5376 := by
  unfold obj0; rw [List.length_append, objPart_length k hk, sigBlk_length]
theorem obj_signed (k : Nat) (hk : k ∈ [1, 2, 3, 4]) : objSigned (obj0 k) = objSize k ∧ bytesNat (obj0 k) 0x24 4 = (objBody k).length := by
  rw [objBody_length]; revert k; decide +kernel
theorem obj_block (k : Nat) (hk : k ∈ [1, 2, 3, 4]) : objBlock (obj0 k) = sigBlk := by
  unfold objBlock slice
  rw [(obj_signed k hk).1, ← objPart_length k hk]
  unfold obj0
  rw [List.drop_left]; exact List.take_of_length_le (Nat.le_of_eq sigBlk_length)
theorem obj_body (k : Nat) (hk : k ∈ [1, 2, 3, 4]) : bodyOf (obj0 k) = objBody k := by
  unfold bodyOf slice
  rw [(obj_signed k hk).2, ← objHdr_length k]
  unfold obj0 objPart
  rw [List.append_assoc, List.drop_left, List.append_assoc, List.take_left]
theorem obj_pad (k : Nat) : slice (obj0 k) (0x40 + (objBody k).length) (objSize k - 0x40 - (objBody k).length) =
    List.replicate (objSize k - 64 - (objBody k).length) 0 := by
  unfold slice obj0 objPart
  have h : 0x40 + (objBody k).length = (objHdr k ++ objBody k).length := by rw [List.length_append, objHdr_length]
  rw [h, List.append_assoc, List.append_assoc, ← List.append_assoc, List.drop_left, List.take_left' List.length_replicate]
theorem obj_shape (k : Nat) (hk : k ∈ [1, 2, 3, 4]) : objHeaderOk k (obj0 k) = true ∧ blockOk (objBlock (obj0 k)) = true ∧
    objBodyOk k (obj0 k) = true ∧
    objSvn (obj0 k) = 0 := by
  refine ⟨?_, ?_, ?_, by revert k; decide +kernel⟩
  · unfold objHeaderOk
    simp only [obj_length k hk, (obj_signed k hk).1, (obj_signed k hk).2, obj_pad k]
    rw [objBody_length]
    revert k; decide +kernel
  · rw [obj_block k hk]; decide +kernel
  · simp only [List.mem_cons, List.not_mem_nil, or_false] at hk
    rcases hk with rfl | rfl | rfl | rfl
    · rfl
    · rfl
    · unfold objBodyOk mfgBodyOk
      simp only [obj_body 3 (by decide)]
      rw [objBody_length]; decide +kernel
    · unfold objBodyOk platBodyOk
      simp only [obj_body 4 (by decide)]
      rw [objBody_length]; decide +kernel
theorem obj_inFlash (k : Nat) (hk : k ∈ [1, 2, 3, 4]) : flashObj (objDev k Dev.reset) k 0 = obj0 k := by
  have h (n : Nat) (hn : n ≤ (obj0 k).length) : flashRd (objDev k Dev.reset) (copyBase k 0) n = (obj0 k).take n := by
    simp only [flashRd, objDev]; exact tgetRun_tsetRun _ _ _ _ _ hn
  have hl : 64 ≤ (obj0 k).length := by rw [obj_length k hk]; omega
  have ht (off n : Nat) (hn : off + n ≤ 64) : bytesNat ((obj0 k).take 64) off n = bytesNat (obj0 k) off n := by
    unfold bytesNat; rw [List.drop_take, List.take_take, Nat.min_eq_left (by omega)]
  have h1 : bytesNat ((obj0 k).take 64) 0 4 = kindMagic k := by rw [ht 0 4 (by omega)]; clear ht hl h; revert k; decide +kernel
  have h2 : bytesNat ((obj0 k).take 64) 0x18 8 = (obj0 k).length := by
    rw [ht 0x18 8 (by omega), obj_length k hk]; clear ht h1 hl h; revert k; decide +kernel
  have h3 : (obj0 k).length ≤ kindLimit k := by
    rw [obj_length k hk]; unfold objSize; rw [objBody_length]; clear ht h1 h2 hl h; revert k; decide +kernel
  unfold flashObj
  simp only [h 64 hl, h1, h2, h3, h _ (Nat.le_refl _), decide_true, BEq.rfl, Bool.and_true, if_true, List.take_length]

/-- Two copies that cannot be read select none. -/
theorem wit_noCopy (d : Dev) (k : Nat) : selectCopy d k ⟨true, true⟩ = .error 7 := rfl

/-- The signature functions are free, so a verified object is shown under what they must answer: the vendor's key and both signatures hold. -/
theorem wit_objectVerifies (k : Nat) (hk : k ∈ [1, 2, 3, 4]) (d : Dev) (hr : d.boot.rpmc = []) (ho : ownSerial d = 0)
    (hv : Config.vendorKey false = keyHash (objBlock (obj0 k))) (hs : sigsOk k (objContent (obj0 k)) (objBlock (obj0 k)) = true) :
    verifyObj d k (obj0 k) = 0 := by
  obtain ⟨h1, h2, h3, h4⟩ := obj_shape k hk
  have hc : counterOf d k = 0 := by simp [counterOf, hr, tget]
  have ha : (acceptedKeys d k).contains (keyHash (objBlock (obj0 k))) = true := by
    simp only [acceptedKeys]; split <;> simp [vendorKeys, hv]
  have hr : sigReason k (acceptedKeys d k) (objContent (obj0 k)) (objBlock (obj0 k)) = 0 := by
    unfold sigReason; rw [h2, ha, hs]; rfl
  simp [verifyObj, h1, hr, ho, hc, h4, h3]
theorem wit_copySelected (k : Nat) (hk : k ∈ [1, 2, 3, 4]) (hv : Config.vendorKey false = keyHash (objBlock (obj0 k)))
    (hs : sigsOk k (objContent (obj0 k)) (objBlock (obj0 k)) = true) : selectCopy (objDev k Dev.reset) k ⟨false, true⟩ = .ok 0 := by
  have h := wit_objectVerifies k hk (objDev k Dev.reset) (by simp only [objDev]; decide) (by simp only [ownSerial, objAt, objDev]; decide) hv hs
  simp [selectCopy, copyReason, obj_inFlash k hk, h]

/-- The secret is free as well: with an answer of the PUF, stage 0 finds it; without one, it finds none. -/
theorem wit_secret (k : List Byte) (h : Config.pufSecret (flashRd Dev.reset 0 1024) = some k) : findSecret Dev.reset = some k := by
  simp [findSecret, h]
theorem wit_noSecret (h : ∀ b, Config.pufSecret b = none) : findSecret Dev.reset = none := by simp [findSecret, h]

/-- A mailbox that is at RECEIVING with a length and a count. -/
def mboxDev (len count : Nat) : Dev := setF kMboxStat 28 4 1 (regPut kMboxLen len (regPut kMboxCount count (up Dev.reset)))

theorem wit_MailboxAndEvidence :
    ((up Dev.reset).boot.hold = false ∧ mboxBusy (up Dev.reset) = false ∧ (up Dev.reset).boot.wait ≠ 10 ∧ mboxState (up Dev.reset) ≠ 1) ∧
    (mboxBusy (setF kMboxStat 28 4 2 Dev.reset) = true ∧ mboxBusy (setF kMboxStat 28 4 3 Dev.reset) = true) ∧
    (mboxState (mboxDev 64 15) = 1 ∧ regVal (mboxDev 64 15) kMboxCount < 2 ^ 32 - 1 ∧
      4 * regVal (mboxDev 64 15) kMboxCount + 4 ≤ regVal (mboxDev 64 15) kMboxLen) ∧
    (mboxState (mboxDev 64 16) = 1 ∧ regVal (mboxDev 64 16) kMboxLen < 4 * regVal (mboxDev 64 16) kMboxCount + 4 ∧
      4 * regVal (mboxDev 64 16) kMboxCount = regVal (mboxDev 64 16) kMboxLen) ∧
    (4 * regVal (mboxDev 63 16) kMboxCount ≠ regVal (mboxDev 63 16) kMboxLen ∧ bootDone (mboxDev 64 16) = true) ∧
    ((up Dev.reset).boot.warm = none ∧ afterRom (up Dev.reset) = true ∧ evidenceOk ([1, 1, 0, 0] ++ List.replicate 32 0) = true ∧
      getF (setF kBootStat 24 1 1 (up Dev.reset)) kBootStat 24 1 = 1) := by
  refine ⟨?_, ?_, ?_, ?_, ?_, ?_⟩ <;> decide +kernel

/-- What the mailbox has staged is what memory holds at its place; a part of no kind is refused. -/
theorem wit_staged (k : Nat) (hk : k ∈ [1, 2, 3, 4]) :
    stagedObj (wrMem stagePlace (obj0 k) (mboxDev (objSize k + 5376) ((objSize k + 5376) / 4))) = obj0 k := by
  have hl : regVal (mboxDev (objSize k + 5376) ((objSize k + 5376) / 4)) kMboxLen = (obj0 k).length := by
    rw [obj_length k hk]; unfold objSize; rw [objBody_length]; revert k; decide +kernel
  unfold stagedObj
  have hr : ∀ d, regVal (wrMem stagePlace (obj0 k) d) kMboxLen = regVal d kMboxLen := fun _ => rfl
  rw [hr, hl]
  exact rdMem_wrMem _ _ _
theorem wit_kinds : ∀ k, k ∈ [1, 2, 3, 4] → (mboxKinds (mboxDev 64 16)).contains (objKind (obj0 k)) = true ∧
    (mboxKinds (mboxDev 64 16)).contains 0 = false := by
  decide +kernel

theorem wit_FlashWrite :
    (({ Dev.reset with boot.mbox := some { kind := 1, bytes := [0], copy := 1 } } : Dev).boot.mbox).isSome = true := by decide +kernel

/-- Port 7 in a state of its link. -/
def portSt (st : Nat) (f : LinkSt → LinkSt) (d : Dev) : Dev := setF (kCrbPort 7 4) 29 3 st (updLink 7 f (up d))

def nat7 (f : LinkSt → LinkSt) : Dev := portSt 2 f Dev.reset

def eth7 : Dev := portSt 2 (fun x => { x with mode := 1 }) Dev.reset

def frame0 : EthFrame := { len := 64, fcsOk := true, tags := [], content := .other }

theorem wit_FabricPorts :
    (bootDone (up Dev.reset) = true ∧ getF (up Dev.reset) (kCrbPort 7 0) 31 1 = 0 ∧ bitAt (0xE0000000 : W32).toNat 31 = true ∧
      fld (0xE0000000 : W32).toNat 28 2 ≤ 2) ∧
    (getF (portSt 1 id Dev.reset) (kCrbPort (7 : Fin 8).val 4) 29 3 = 1 ∧ (linkAt (portSt 1 id Dev.reset) 7).mode = 0 ∧
      (linkAt (portSt 1 (fun x => { x with mode := 1 }) Dev.reset) 7).mode ≠ 0) ∧
    (linkUp (nat7 id) (7 : Fin 8).val = true) ∧
    (getF (portSt 3 id Dev.reset) (kCrbPort 7 4) 29 3 = 3 ∧
      (linkAt (portSt 3 id Dev.reset) 7).downAt + 200000 ≤ ({ portSt 3 id Dev.reset with aclk := 200000 } : Dev).aclk) ∧
    (15 ≤ ((linkAt (nat7 (fun x => { x with viol := List.replicate 15 0 })) 7).viol.filter (fun t => decide ((nat7 id).aclk < t + 200000))).length ∧
      linkUp (nat7 (fun x => { x with viol := List.replicate 15 0 })) 7 = true) ∧
    (nativeUp (nat7 id) 7 = true ∧ (linkAt (nat7 id) 7).winAt + 200000 ≤ ({ nat7 id with aclk := 200000 } : Dev).aclk ∧ (2 : Nat) ≠ 0 ∧
      0x8000 * 2 < 2 * 65536) ∧
    (ethUp eth7 (7 : Fin 8).val = true ∧ frameOk eth7 7 frame0 = true ∧ frameKept eth7 7 frame0 = false ∧
      frameOk eth7 7 { frame0 with len := 9217 } = false) ∧
    (ethUp (ptpDev eth7) 7 = true ∧ frameOk (ptpDev eth7) 7 { frame0 with content := .ptp 0 } = true ∧
      frameKept (ptpDev eth7) 7 { frame0 with content := .ptp 0 } = true) := by
  refine ⟨?_, ?_, ?_, ?_, ?_, ?_, ?_, ?_⟩ <;> decide +kernel

/-- A GET of 4 bytes from this device, as it stands in a flit. -/
def get0 : Pkt := { dst := 0, src := 1, type := 2, hop := 0, flow := 0, tag := 0, len := 4, job := 0, post := 0, addr := 0, status := 0, rsvd := 0, time := 0, data := [] }

/-- Flits that acknowledge nothing sent: DATA with number n, and control code `bs` after `ack`. -/
def dataF (n : Nat) : List Byte := buildFlit 1 0 1 1 n (4095 * 2 ^ 24) (pktBytes get0)

def ctrlF (ack : Nat) (bs : List Byte) : List Byte := buildFlit 2 0 0 0 0 (ack * 2 ^ 24) bs

def tx0 : TxFlit := { vl := 7, sop := true, eop := true, payload := List.replicate 244 0 }

/-- The flits above are good and say their codes; one with another CRC is not. -/
theorem wit_dataFlit (n : Nat) : (dataF n).length = 256 ∧ flitGood (dataF n) = true :=
  ⟨length_buildFlit _ _ _ _ _ _ _ (by decide), flitGood_buildFlit _ _ _ _ _ _ _ (by decide)⟩
theorem wit_ctrlFlit (c : Nat) (hc : c ∈ [1, 2, 4, 5, 6]) : ctrlCode (ctrlF 4095 [BitVec.ofNat 8 c]) = some c :=
  ctrlCode_of (flitGood_buildFlit _ _ _ _ _ _ _ (by simp)) (by revert c; decide +kernel) (by revert c; decide +kernel) (by revert c; decide)
theorem wit_replayFlit : ctrlCode (ctrlF 4 [3, 5, 0]) = some 3 :=
  ctrlCode_of (flitGood_buildFlit _ _ _ _ _ _ _ (by simp)) (by decide +kernel) (by decide +kernel) (by decide)
theorem wit_badFlit : (List.replicate 252 0 ++ leBytes 4 (crc32c (List.replicate 252 0) + 1)).length = 256 ∧
    flitGood (List.replicate 252 0 ++ leBytes 4 (crc32c (List.replicate 252 0) + 1)) = false :=
  ⟨by rw [List.length_append, List.length_replicate, length_leBytes], flitGood_wrong _ List.length_replicate⟩

theorem wit_LinkLayer :
    (nativeUp (nat7 id) 7 = true ∧ flitKind (dataF 4095) = 1 ∧ ackUnsent (linkAt (nat7 id) 7) (fld (flitHead (dataF 4095)) 24 12) = false ∧
      fld (flitHead (dataF 4095)) 36 12 ≠ (linkAt (nat7 id) 7).expect ∧ (linkAt (nat7 id) 7).viol = []) ∧
    (fld (flitHead (dataF 0)) 36 12 = (linkAt (nat7 (fun x => { x with partner := [(0, 1)] })) 7).expect ∧
      0 < tget 0 (linkAt (nat7 (fun x => { x with partner := [(0, 1)] })) 7).partner (fld (flitHead (dataF 0)) 57 3) ∧
      tget [] (linkAt (nat7 id) 7).part (fld (flitHead (dataF 0)) 57 3) = [] ∧ fld (flitHead (dataF 0)) 56 1 = 1 ∧
      fld (flitHead (dataF 0)) 55 1 = 1 ∧ pktRow 7 (fld (flitHead (dataF 0)) 57 3) 1 (flitPayload (dataF 0)) = none) ∧
    (linkLive (nat7 id) (7 : Fin 24).val = true ∧ linkLive (setF (kCrbTunnel 15) 30 1 1 Dev.reset) (23 : Fin 24).val = true) ∧
    ((linkAt (nat7 (fun x => { x with ctrl := [[4]] })) 7).ctrl = [4] :: []) ∧
    ((linkAt (nat7 (fun x => { x with replay := [tx0], resend := 1 })) 7).ctrl = [] ∧
      0 < (linkAt (nat7 (fun x => { x with replay := [tx0], resend := 1 })) 7).resend ∧
      (linkAt (nat7 (fun x => { x with replay := [tx0], resend := 1 })) 7).resend ≤ [tx0].length) ∧
    (replayMax 7 ≤ (List.replicate 64 tx0).length ∧ tget 0 (linkAt (nat7 id) 7).credits tx0.vl = 0) ∧
    ((linkAt (nat7 (fun x => { x with sizes := true, tx := [tx0], credits := [(7, 1)] })) 7).tx = tx0 :: [] ∧
      0 < tget 0 (linkAt (nat7 (fun x => { x with sizes := true, tx := [tx0], credits := [(7, 1)] })) 7).credits tx0.vl ∧
      (linkAt (nat7 (fun x => { x with sizes := true, tx := [tx0], credits := [(7, 1)] })) 7).replay.length < replayMax 7) ∧
    (∀ c ∈ [1, 2, 4, 5, 6], ackUnsent (linkAt (nat7 id) 7) (fld (flitHead (ctrlF 4095 [BitVec.ofNat 8 c])) 24 12) = false) ∧
    (ctrlClean (ctrlF 4095 [4]) 10 = true ∧ ctrlClean (ctrlF 4095 [5]) 30 = true ∧
      (((2 ^ 39 - 1 : Nat) : Int) - (timeNat (ctrlF 4095 [5]) 0 : Int)) - ((timeNat (ctrlF 4095 [5]) 20 : Int) - (timeNat (ctrlF 4095 [5]) 10 :
      Int)) = ((2 ^ 39 - 1 : Nat) : Int) ∧ (2 ^ 39 - 1) / 32768 < 2 ^ 24) ∧
    (ctrlNat (ctrlF 4 [3, 5, 0]) 0 2 % 4096 = 5 ∧
      ackUnsent (linkAt (nat7 (fun x => { x with seq := 6, replay := [{ tx0 with seq := 5 }] })) 7) (fld (flitHead (ctrlF 4 [3, 5, 0])) 24 12) =
      false ∧
      (ackLink (fld (flitHead (ctrlF 4 [3, 5, 0])) 24 12) (linkAt (nat7 (fun x => { x with seq := 6, replay := [{ tx0 with seq := 5 }] }))
      7)).replay.any (fun x => x.seq == 5) = true) ∧
    ((linkAt (nat7 (fun x => { x with replay := [tx0] })) 7).replay = tx0 :: [] ∧ tx0.sentAt + ackTimeout 7 ≤ 4000 ∧
      tx0.sentAt + ackTimeout 23 ≤ 400000 ∧ (linkAt (nat7 (fun x => { x with replay := [tx0] })) 7).resend ≤ ([] : List TxFlit).length) ∧
    ((linkAt (nat7 (fun x => { x with initAt := some 0 })) 7).initAt = some 0 ∧
      (linkAt (nat7 (fun x => { x with gap := some (0, 0) })) 7).gap = some (0, 0) ∧
      (linkAt (nat7 (fun x => { x with gap := some (0, 0) })) 7).sync = none ∧ (linkAt (nat7 (fun x => { x with sync := some 0 })) 7).gap = none ∧
      (linkAt (nat7 (fun x => { x with sync := some 0 })) 7).sync = some 0) := by
  refine ⟨?_, ?_, ?_, ?_, ?_, ?_, ?_, ?_, ?_, ?_, ?_, ?_⟩ <;> decide +kernel

def timePkt : Pkt := { get0 with type := 0x20, len := 32, data := List.replicate 32 0 }

def rxDev (p : Pkt) (vl : Nat) : Dev := nat7 (fun x => { x with rx := [{ vl := vl, flits := 1, bytes := pktBytes p }] })

theorem wit_TimeMessagesAndTunnels :
    (nativeUp (nat7 id) 7 = true ∧ msDue (nat7 id).aclk (linkAt (nat7 id) 7).probeAt = true ∧
      msDue (nat7 id).aclk (linkAt (nat7 id) 7).timeAt = true) ∧
    ((linkAt (rxDev timePkt 6) 7).rx = { vl := 6, flits := 1, bytes := pktBytes timePkt } :: [] ∧ (pktOf (pktBytes timePkt)).type = 0x20 ∧
      timeMsgOk (pktOf (pktBytes timePkt)) = true ∧ timeMsgOk (pktOf (pktBytes { timePkt with rsvd := 1 })) = false) ∧
    (getF (setF (kCrbTunnel 15) 31 1 1 (portSt 2 (fun x => { x with mode := 1 }) Dev.reset)) (kCrbTunnel (15 : Fin 16).val) 31 1 = 1 ∧
      ethUp (setF (kCrbTunnel 15) 31 1 1 (setF (kCrbPort 0 4) 29 3 2 (updLink 0 (fun x => { x with mode := 1 }) Dev.reset))) (linkPort Dev.reset (8
      + 15)) = true) ∧
    (linkUp (setF (kCrbTunnel 15) 31 1 1 Dev.reset) 23 = false ∧ linkUp (setF (kCrbTunnel 15) 30 1 1 Dev.reset) 23 = true ∧
      (linkAt Dev.reset 23).heard + 20000000 ≤ 20000000) := by
  refine ⟨?_, ?_, ?_, ?_⟩ <;> decide +kernel

/-- A packet to device 5 and to this device, and link 7 with one of them at its head. -/
def pktTo (dst type : Nat) : Pkt := { get0 with dst := dst, type := type, hop := 3, len := 4, addr := 0x20000000, data := if type = 1 ∨ type = 0x0A ∨ type = 0x10 then [1, 2, 3, 4] else [] }

def routed (d : Dev) : Dev := regPut (kCrbMemberRt 5) (2 ^ 31 + 2 ^ 24 + 7) d

theorem wit_PacketsAreForwarded :
    (∀ t ∈ [1, 2, 3, 8, 9, 10, 0x18, 0x19, 0x1A], (pktOf (pktBytes (pktTo 5 t))).dst ≠ ownId (rxDev (pktTo 5 t) 0) ∧
      (pktOf (pktBytes (pktTo 5 t))).type = t) ∧
    (outLink (routed (nat7 id)) { pktTo 5 1 with hop := 3 - 1 } = some 7 ∧ outLink (nat7 id) { pktTo 5 1 with hop := 3 - 1 } = none ∧
      isResponse (pktTo 5 8).type = true ∧ isResponse (pktTo 5 1).type = false) ∧
    (outLink (routed (nat7 id)) (pktTo 5 0x18) = some 7 ∧ isColl (pktTo 5 0x18).type = true) := by
  refine ⟨?_, ?_, ?_⟩ <;> decide +kernel

def xreq0 (type : Nat) : XReq := { tag := 0, dst := 1, job := 0, user := .quire 0 0, addr := 0, packet := pktBytes (pktTo 1 type), sentAt := 0, resent := 0 }

def jobF : Job := { job0 with fabric := 1, exports := [leBytes 8 0x20000000 ++ leBytes 6 4096 ++ [3, 0]], groups := [leBytes 4 1 ++ leBytes 4 10 ++ leBytes 24 0] }

def jobbed (d : Dev) : Dev := { d with host.jobs := [jobF] }

def snap0 : Snap := { t := 0, job := 1, tag := 0, fabric := 1, ranges := [], region := ddr0, regionLen := 64, log := [] }

theorem wit_TransportEffects :
    (∀ t ∈ [1, 2, 3], (linkAt (rxDev (pktTo 0 t) 0) 7).rx = { vl := 0, flits := 1, bytes := pktBytes (pktTo 0 t) } :: [] ∧
      (pktOf (pktBytes (pktTo 0 t))).dst = ownId (rxDev (pktTo 0 t) 0) ∧ (rxDev (pktTo 0 t) 0).crb.snap = none ∧
      seenAnswer (rxDev (pktTo 0 t) 0) (pktOf (pktBytes (pktTo 0 t))) = none ∧ (pktOf (pktBytes (pktTo 0 t))).type = t) ∧
    (nakCode (nat7 id) (pktOf (pktBytes (pktTo 0 1))) = 0 ∧ nakCode (nat7 id) (pktOf (pktBytes (pktTo 0 2))) = 0 ∧
      nakCode (nat7 id) (pktOf (pktBytes { pktTo 0 1 with post := 63 + 31 * 256 + 32768 })) = 0 ∧
      nakCode (nat7 id) (pktOf (pktBytes { pktTo 0 3 with post := 63 + 31 * 256 + 32768, addr := 2047 })) = 0) ∧
    (∀ t ∈ [1, 2, 3], nakCode (nat7 id) (pktOf (pktBytes { pktTo 0 t with job := 9 })) ≠ 0) ∧
    (seenAnswer { nat7 id with crb.seen := [{ src := 1, tag := 0, at_ := 0, answer := [7] }] } (pktOf (pktBytes (pktTo 0 1))) = some [7]) ∧
    ((pktOf (pktBytes { pktTo 0 1 with job := 1, time := 0 })).job = snap0.fabric ∧
      snap0.t ≤ (pktOf (pktBytes { pktTo 0 1 with job := 1, time := 0 })).time ∧ snap0.fabric ≠ 0) ∧
    (∀ t ∈ [1, 2, 3], ∀ a ∈ [8, 9, 10], (answered { nat7 id with crb.outstanding := [xreq0 t] } (pktOf (pktBytes (pktTo 0 a)))) = some (xreq0 t) ∧
      (pktOf (xreq0 t).packet).type = t ∧ (pktOf (pktBytes (pktTo 0 a))).len = (pktOf (xreq0 t).packet).len) ∧
    (answered (nat7 id) (pktOf (pktBytes (pktTo 0 8))) = none) ∧
    (({ nat7 id with crb.outstanding := [xreq0 1] } : Dev).crb.outstanding.find? (fun r => r.tag == 0 && r.dst == 1) = some (xreq0 1) ∧
      (xreq0 1).sentAt + xportNs (nat7 id) ≤ nowNs { nat7 id with time.ft := 65536000000000 } ∧
      (xreq0 1).resent < getF (regPut kCrbXport (2 ^ 28) (nat7 id)) kCrbXport 28 3 ∧
      getF (regPut kCrbXport 0 (nat7 id)) kCrbXport 28 3 ≤ (xreq0 1).resent) ∧
    ((pktOf (pktBytes (pktTo 0 0x10))).type = 0x10 ∧ fabricJob (nat7 id) 0 = none) ∧
    (fabricJob (jobbed (nat7 id)) 1 = some jobF ∧ exportHolds jobF 0x20000000 4 1 = true ∧
      rangeOk (jobbed (nat7 id)) (some jobF) 0x20000000 4 true = true ∧ poisonPartial (jobbed (nat7 id)) 0x20000000 4 = none ∧
      exportHolds jobF 0x20001000 4 1 = false) ∧
    (jobAt (jobbed (up (ddrUp Dev.reset))) 1 = some jobF ∧ schedulerUp (jobbed (up (ddrUp Dev.reset))) = true ∧ jobF.running = true ∧
      inside (ddrBase + 4096) 4096 ddrBase (ddrSize (ddrUp Dev.reset)) = true ∧
      lockedIn (jobbed (up (ddrUp Dev.reset))) (ddrBase + 4096) 4096 = false) ∧
    (({ Dev.reset with crb.snap := some snap0 } : Dev).crb.snap = some snap0 ∧
      (∀ k ∈ jobSlots { Dev.reset with crb.snap := some snap0 } snap0.tag, fenceClear { Dev.reset with crb.snap := some snap0 } (k / 2) (k % 2) 0 =
      true) ∧ ({ Dev.reset with crb.snap := some snap0 } : Dev).crb.heldPkts = []) := by
  refine ⟨?_, ?_, ?_, ?_, ?_, ?_, ?_, ?_, ?_, ?_, ?_, ?_⟩ <;> decide +kernel

/-- A copy from host memory to a port of core 31, and its slot. -/
def portOp (dst size : Nat) : QuireOp := { anOp with blk := { anOp.blk with srcSpace := 2, dstSpace := 1, dst := dst, size := size } }

def portOpDev (o : QuireOp) : Dev := updQuire 31 (fun q => { q with ops := [o] }) (updSlot 62 (fun _ => { sl0 with fn := 2, ident := 5 }) (jobbed
    Dev.reset))

def winWordsOk : List Byte := [2 ^ 24 + 3, 4096, 64, 3, 0, 0, 0, 0].flatMap (leBytes 4)

def winWordsBad : List Byte := [2 ^ 24 + 3, 4095, 64, 3, 0, 0, 0, 0].flatMap (leBytes 4)

def winWordsClose : List Byte := [2 ^ 25 + 3, 0, 0, 0, 0, 0, 0, 0].flatMap (leBytes 4)

/-- A request of an operation on group 0 of the job above, its sequence number 1 and its completion record in the Vat. -/
def collWords (op : Nat) (cmpl : Nat := 0x20000000) (seq : Nat := 1) : List Byte :=
  [op * 2 ^ 24 + 63 * 64 + 32, seq, 0, 0, 0, 0, if op ≤ 2 then 0 else 1, 0, cmpl, 0, 0, 0, 0, 0, 0, 0].flatMap (leBytes 4)

def coll0 (rank : Nat) : Coll := { uid := 7, slotKey := 62, job := 1, fabric := 1, op := 1, fmt := 0, group := 0, rnd := 0, replyQ := none, seq := 1, src := 0, dst := 0, count := 0, cmpl := 0, t := 0, guard_ := 0, rank := rank, members := [0, 1], timeoutUs := 10, mcast := none, startedAt := 0 }

def collPkt (type src : Nat) : Pkt := { get0 with src := src, type := type, len := 32, job := 1, data := leBytes 2 0 ++ leBytes 4 1 ++ leBytes 26 0 }

theorem wit_Collectives :
    ((quireAt (portOpDev (portOp (recvPort 31) 32)) (31 : Fin 32).val).ops.find? (fun o => o.id == 0) = some (portOp (recvPort 31) 32) ∧
      (portOp (recvPort 31) 32).started = true ∧ (portOp (recvPort 31) 32).page = none ∧
      quireOrdered 31 [portOp (recvPort 31) 32] (portOp (recvPort 31) 32) = true ∧ (portOp (recvPort 31) 32).blk.signal = false ∧
      (portOp (recvPort 31) 32).blk.postEn = false) ∧
    (quireData (portOpDev (portOp (recvPort 31) 32)) (portOp (recvPort 31) 32) (.ok winWordsOk) = some (.ok winWordsOk) ∧
      quireFault (portOpDev (portOp (recvPort 31) 32)) 62 (portOp (recvPort 31) 32) = none ∧ isRecvPort 31 (portOp (recvPort 31) 32).blk = true) ∧
    (copyOp winWordsOk ≠ 2 ∧ winOpenOk (portOpDev (portOp (recvPort 31) 32)) 62 (leWords 8 winWordsOk) = true ∧
      winOpenOk (portOpDev (portOp (recvPort 31) 32)) 62 (leWords 8 winWordsBad) = false) ∧
    (copyOp winWordsClose = 2 ∧ fld ((leWords 8 winWordsClose).getD 0 0) 2 22 = 0 ∧ ((leWords 8 winWordsClose).drop 1).all (· == 0) = true) ∧
    (isCollPort (portOp collPort 64).blk = true ∧ quireFault (portOpDev (portOp collPort 64)) 62 (portOp collPort 64) = none ∧
      ∀ op, op < 9 → quireData (portOpDev (portOp collPort 64)) (portOp collPort 64) (.ok (collWords op)) = some (.ok (collWords op)) ∧
      copyOp (collWords op) = op) ∧
    (slotJob (portOpDev (portOp collPort 64)) 62 = some jobF ∧ (jobF.groups[fld ((leWords 16 (collWords 1)).getD 0 0) 12 4]?).isSome = true ∧
      ∀ op, op < 8 → op = 0 ∨ collFieldsOk (leWords 16 (collWords op)) = true) ∧
    ((slotAt (portOpDev (portOp collPort 64)) 62).semMask.getLsbD 63 = true ∧
      (collOf (portOpDev (portOp collPort 64)) 62 jobF (leBytes 4 1 ++ leBytes 4 10 ++ leBytes 24 0) (leWords 16 (collWords 1))).seq = (lastSeq
      (portOpDev (portOp collPort 64)) 1 0 + 1) % 2 ^ 32 ∧ (2 : Nat) ≠ (lastSeq (portOpDev (portOp collPort 64)) 1 0 + 1) % 2 ^ 32) ∧
    (collAddrsOk (portOpDev (portOp collPort 64)) jobF (collOf (portOpDev (portOp collPort 64)) 62 jobF (leBytes 4 1 ++ leBytes 4 10 ++ leBytes 24
      0) (leWords 16 (collWords 1))) = true ∧
      collAddrsOk (portOpDev (portOp collPort 64)) jobF (collOf (portOpDev (portOp collPort 64)) 62 jobF (leBytes 4 1 ++ leBytes 4 10 ++ leBytes 24
      0) (leWords 16 (collWords 1 1))) = false) ∧
    (collFull (portOpDev (portOp collPort 64)) (coll0 0) = false ∧
      collFull { Dev.reset with crb.colls := List.replicate 64 (coll0 0) } (coll0 0) = true) ∧
    (∀ t ∈ [0x18, 0x19, 0x1A], (pktOf (pktBytes (collPkt t 1))).type = t ∧ (pktOf (pktBytes (collPkt t 1))).dst = ownId Dev.reset ∧
      seenAnswer Dev.reset (pktOf (pktBytes (collPkt t 1))) = none ∧
      fabricJob (jobbed Dev.reset) (pktOf (pktBytes (collPkt t 1))).job = some jobF ∧
      fabricJob Dev.reset (pktOf (pktBytes (collPkt t 1))).job = none) ∧
    (msgColl { Dev.reset with crb.colls := [coll0 0] } 1 (collHdr (collPkt 0x18 1).data) = some (coll0 0) ∧
      rankOf (coll0 0).members (collPkt 0x18 1).src = some 1 ∧ 1 ∈ collChildren (coll0 0) ∧ rankOf (coll0 1).members 0 = some 0 ∧
      (coll0 1).rank ≠ 0 ∧ 0 = collParent (coll0 1).rank ∧ 0 ∉ collChildren (coll0 1)) ∧
    (collAt { Dev.reset with crb.colls := [coll0 1] } 7 = some (coll0 1) ∧ collWaits (coll0 1) = true ∧
      (coll0 1).startedAt + 1000 * (coll0 1).timeoutUs ≤ nowNs { Dev.reset with time.ft := 655360000 } ∧ (coll0 1).downEnd = false ∧
      collWaits { coll0 1 with downEnd := true } = true) ∧
    (findDesc Dev.reset 7 = none ∧
      collAt { Dev.reset with crb.colls := [{ coll0 0 with op := 2, running := true }] } 7 = some { coll0 0 with op := 2, running := true } ∧
      (coll0 0).t ≤ nowNs Dev.reset ∧ nowNs Dev.reset < (coll0 0).t + 10 ∧ (coll0 0).t + 10 ≤ nowNs { Dev.reset with time.ft := 655360 }) ∧
    ((pktOf (pktBytes { get0 with type := 0x28, len := 16, data := [9, 0, 1, 0, 0, 0, 0, 0] ++ leBytes 8 5 })).type = 0x28 ∧
      bytesNat ([9, 0, 1, 0, 0, 0, 0, 0] ++ leBytes 8 5) 2 1 ≤ 1 ∧ bytesNat ([9, 0, 1, 0, 0, 0, 0, 0] ++ leBytes 8 5) 3 5 = 0 ∧
      resetSeen Dev.reset 9 = false ∧ resetSeen { Dev.reset with crb.resets := [(9, 0)] } 9 = true) := by
  refine ⟨?_, ?_, ?_, ?_, ?_, ?_, ?_, ?_, ?_, ?_, ?_, ?_, ?_, ?_⟩ <;> decide +kernel

theorem wit_MinMaxAndCompare :
    val32 0 ≠ .nan ∧ val32 0x7FC00000 = .nan ∧ (2 : Nat) ≠ 3 ∧ (2, 0x7E00) ∈ [(0, 0x7FC00000), (1, 0x7FC0), (2, 0x7E00)] := by decide +kernel

theorem wit_StepRunsFront :
    State.reset.pending = [] := by decide +kernel

/-- The reset state meets the invariant, and a step from it answers a next state: the statements on steps have a state to speak of. -/
theorem wit_StepKeepsInv : ∃ t, State.reset.dev.inv = true ∧ step State.reset = .next t := ⟨_, by decide +kernel, rfl⟩
theorem wit_HistoryIsKept : ∃ t, step { State.reset with pending := [.mgmtStatusRead] } = .next t := ⟨_, rfl⟩

theorem wit_CompletionEntries :
    (ringRunning Dev.reset 2 1023 = false ∧ ringRunning (ringUp Dev.reset) 2 1023 = true ∧ cqFull (ringUp Dev.reset) 2 1023 = false ∧
      (ringAt (ringUp Dev.reset) 2 1023).pageWait = false ∧ (ringAt (ringUp Dev.reset) 2 1023).held = [] ∧
      getF (ringUp Dev.reset) (kRing 2 1023 0x10) 8 5 ≤ 16) ∧
    (cqFull (setF (kRing 2 1023 0x18) 0 16 255 (ringUp Dev.reset)) 2 1023 = true ∧
      ringRunning (setF (kRing 2 1023 0x18) 0 16 255 (ringUp Dev.reset)) 2 1023 = true) ∧
    (getF Dev.reset kEvtMask 16 1 = 1 ∧ getF (regPut kEvtMask 0 Dev.reset) kEvtMask 16 1 = 0 ∧ ringRunning Dev.reset 0 8 = false ∧
      ringRunning (ring8 Dev.reset) 0 8 = true ∧ cqFull (ring8 Dev.reset) 0 8 = false ∧ (ringAt (ring8 Dev.reset) 0 8).pageWait = false) := by
  refine ⟨?_, ?_, ?_⟩ <;> decide +kernel

/-! Worked examples of the specification; expected values are the specification's. -/

/-- "Two INT8 groups with station rounding under both modes" (Worked examples, after R44) -/
theorem test_numeric_twoGroups :
    (runNum (do let a ← station .rne (val32 0) (2 ^ 19) (val32 0x43000000); let b ← station .rne a 8 (val32 0x3F000000); pure (code32 a, code32 b))
      = ((0x4C800000, 0x4C800000), flagInexact)) ∧
    ((runNum (do let a ← station .rna (val32 0) (2 ^ 19) (val32 0x43000000); let b ← station .rna a 8 (val32 0x3F000000); pure (code32 b))).1 =
      0x4C800001) := by
  refine ⟨?_, ?_⟩ <;> decide +kernel

/-- "A subnormal scale and signed zero" -/
theorem test_numeric_subnormalScale :
    ((runNum (round32 .rne (xrMul (valBf16 0x1A40) (valBf16 0x1A20)))).1 = val32 1 ∧
      (runNum (round32 .rne (xrMul (valBf16 0x1A40) (valBf16 0x1A20)))).2 = flagUnderflow.or flagInexact) ∧
    (runNum (do let a ← station .rna (val32 0) (-3) (val32 1); let b ← station .rna a 3 (val32 1); pure (code32 a, code32 b)) = ((0x80000003, 0),
      Flags.none)) := by
  refine ⟨?_, ?_⟩ <;> decide +kernel

/-- The first entries of the tables (after R51) -/
theorem test_elementary_tables :
    tRcp 0 = 65281 ∧ tRsq0 0 = 65281 ∧ tRsq1 0 = 46160 := by decide +kernel

/-- Table 05-2 -/
theorem test_window_outSizes :
    outSize 3 5 1 1 2 2 = 3 ∧ outSize 3 5 1 1 0 0 = -1 ∧ outSize 10 3 10 1 0 0 = -10 ∧ outSize 64 2 1 8 0 0 = 8 ∧ outSize 5 3 1 64 0 0 = 1 ∧
      outSize 64 3 200 1 200 200 = 64 ∧ outSize 15 4 1 1 2 2 = 16 ∧ outSize 320 31 1 2 15 15 = 160 := by decide +kernel

/-- "Selection and offsets" and "One rANS substream" -/
theorem test_rans_selection :
    (∀ p ∈ [(0x3F000000, 2), (0x3EFFFFFF, 1), (0x80000000, 0), (0x7F800000, 3)], (runNum (selectCdf [val32 0x3E800000, val32 0x3F000000, val32
      0x3F800000] (val32 p.1))).1 = p.2) ∧
    (encodeStep (List.replicate 17 (512, 65024)) = [0x7F, 0xFE, 0x20, 0] ++ (List.replicate 7 [0, 0xFE, 0x7F, 0x40]).flatten ++ [0, 0xFE]) ∧
    (rawBytes ((List.replicate 17 [true, false]).flatten) = [0xAA, 0xAA, 0xAA, 0xAA, 0x80]) := by
  refine ⟨?_, ?_, ?_⟩ <;> decide +kernel

/-- Emulation prevention (after R250) and the complete slice (after R259) -/
theorem test_framing_protect :
    (protect [0, 0, 1, 0, 0, 0, 0x2A, 0, 0] = [0, 0, 3, 1, 0, 0, 3, 0, 0x2A, 0, 0] ∧
      (unprotect [0, 0, 3, 1, 0, 0, 3, 0, 0x2A, 0, 0]).toOption = some [0, 0, 1, 0, 0, 0, 0x2A, 0, 0]) ∧
    ((storedUnit 3 ([0, 0, 0, 1, 0, 0, 0x22, 0, 0, 5] ++ encodeStep (List.replicate 17 (512, 65024)) ++ [0xAA, 0xAA, 0xAA, 0xAA, 0x80])).length =
      54) := by
  refine ⟨?_, ?_⟩ <;> decide +kernel

/-- "One address": its channel under the seed -/
theorem test_ddr_oneAddress :
    hashChannel 0x30000900000000FF 0x1234567A00 = List.foldl Nat.xor 3 [0xA, 2, 6, 5, 4, 3, 2, 1, 0, 0] := by decide +kernel

/-- "The 12 bytes abcabcabcabc" in framing 1, and back -/
theorem test_press_stored :
    (deflateOut 1 (ascii "abcabcabcabc") [] true = [0x78, 1, 1, 12, 0, 0xF3, 0xFF] ++ ascii "abcabcabcabc" ++ [0x1D, 0xE0, 4, 0x99]) ∧
    ((inflate 1 ([0x78, 1, 1, 12, 0, 0xF3, 0xFF] ++ ascii "abcabcabcabc" ++ [0x1D, 0xE0, 4, 0x99])).1 = ascii "abcabcabcabc") := by
  refine ⟨?_, ?_⟩ <;> decide +kernel

/-- Ring 5 of PF1 with both depths 16, and the SESS_START of the example taken from it. -/
def ring5 (d : Dev) : Dev := regPut (kRing 1 5 0x18) 0x10000 (setF (kRing 1 5 0x1C) 30 2 1 (regPut (kRing 1 5 0x14) 1 (regPut (kRing 1 5 0x10)
    (0x80008404) { d with host.msixOpen := [(4096, true)] })))

def startDesc : Desc := { uid := 1, fn := 1, ring := 5, words := [0x01020013, 0x002A0000], phase := .eligible 0, after := [] }

def startDev : Dev := ring5 (up { Dev.reset with host.descs := [startDesc], sess.sess := [(0x2A, some { live0 .opened with port := some 0 })] })

def outOf : Host.Outcome State Fault Refusal → List Out
  | .next t => t.dev.out
  | _ => []

/-- "One command on PF1 ring 5": the completion's words, the words before word 0, then the MSI-X message -/
theorem test_host_ring5 :
    outOf (exec (.sessStart 1) (mk (fun _ => startDev))) = [.hostWrite 1 4 ([0x00010005, 0x2A, 0, 0, 0, 0, 0].flatMap (leBytes 4)), .hostWrite 1 0
      (leBytes 4 0x01020001), .msix 1 0] := by decide +kernel

/-- "Locating registers" and "Bypass and tiling": two words of one register -/
theorem test_register_locations :
    (kLoomWidth 15 = 0x13C) ∧
    (kCrbPort 5 4 = 0x501A4 ∧ kRing 0 8 0x10 = 0x21210) := by
  refine ⟨?_, ?_⟩ <;> decide +kernel

def devOf : Host.Outcome State Fault Refusal → Dev
  | .next t => t.dev
  | _ => Dev.reset

def statDev : Dev := regPut (kCrbPort 5 4) 0x50000001 (up Dev.reset)

/-- "Locating registers": a read returns CRB_PORT_STAT and clears downs, and a write of 1 clears down_event -/
theorem test_register_clears :
    (outOf (exec (.rcRegisterRead .host 0 0x501A4 4 0) (mk (fun _ => statDev))) = [.regRead (iniNo .host) 0 0x501A4 0x50000001] ∧
      regVal (devOf (exec (.rcRegisterRead .host 0 0x501A4 4 0) (mk (fun _ => statDev)))) 0x501A4 = 0x50000000) ∧
    (regVal (devOf (exec (.registerWrite .host 0 0x501A4 4 0x10000000) (mk (fun _ => statDev)))) 0x501A4 = 0x40000001) := by
  refine ⟨?_, ?_⟩ <;> decide +kernel

end Sys2Proof.Tests
end

section
/-! SUPPORT. Accesses to offsets that no register occupies (R9): every offset at which the model treats an access in a way of its own
(a latch, the mailbox, a ring's or a port's configuration) is the offset of a register, so at any other a read returns 0 and a write is
ignored. -/

namespace Sys2Proof.Machine

/-! Which offsets hold a register. -/

theorem regSpec_regKey {fn off : Nat} (h : off < 0x100000) : regSpec (regKey fn off) = regSpecAt fn off := by
  have hdiv : (fn * 0x100000 + off) / 0x100000 = fn := by omega
  have hmod : (fn * 0x100000 + off) % 0x100000 = off := by omega
  rw [regSpec, regKey, hdiv, hmod]

theorem regKey_zero (off : Nat) : regKey 0 off = off := by simp [regKey]

theorem ne_of_regSpec_none {off k : Nat} (h : regSpec off = none) (hk : (regSpec k).isSome = true) : off ≠ k := by
  rintro rfl
  simp [h] at hk

/-- An index of a run of registers names the offset it was counted from. -/
theorem eq_of_strideIdx {off base stride n i : Nat} (h : strideIdx off base stride n = some i) : off = base + stride * i ∧ i < n := by
  simp only [strideIdx, Option.ite_none_right_eq_some, Option.some.injEq, Bool.and_eq_true, decide_eq_true_eq, beq_iff_eq] at h
  obtain ⟨⟨⟨hlo, hhi⟩, hmod⟩, rfl⟩ := h
  have hoff : stride * ((off - base) / stride) = off - base := Nat.mul_div_cancel' (Nat.dvd_of_mod_eq_zero hmod)
  refine ⟨by omega, Nat.lt_of_mul_lt_mul_left (a := stride) (by omega)⟩

theorem strideIdx_none_of_vacant {off base stride n : Nat} (h : regSpec off = none)
    (hrun : ∀ i < n, (regSpec (base + stride * i)).isSome = true) : strideIdx off base stride n = none := by
  cases hidx : strideIdx off base stride n with
  | none => rfl
  | some i =>
    obtain ⟨hoff, hi⟩ := eq_of_strideIdx hidx
    exact absurd hoff (ne_of_regSpec_none h (hrun i hi))

theorem livIdx_none_of_vacant {o off : Nat} (h : regSpec off = none) (ho : o = 4 ∨ o = 8) : livIdx o off = none := by
  refine strideIdx_none_of_vacant h ?_
  rcases ho with rfl | rfl <;> decide

theorem prsIdx_none_of_vacant {o off : Nat} (h : regSpec off = none) (ho : o = 4 ∨ o = 8) : prsIdx o off = none := by
  refine strideIdx_none_of_vacant h ?_
  rcases ho with rfl | rfl <;> decide

/-- A function other than PF0 has at most 1,024 ring pairs (Table 14-2). -/
theorem ringCount_le_of_ne_zero {fn : Nat} (h : fn ≠ 0) : ringCount fn ≤ 1024 := by
  rw [ringCount, if_neg (mt beq_iff_eq.mp h)]
  split <;> decide

/-- Every ring of a function has a configuration register (Tables 14-11 to 14-16, R386). -/
theorem regSpec_ringCfg_isSome {fn r : Nat} (hr : r < ringCount fn) : (regSpec (kRing fn r 0x10)).isSome = true := by
  cases fn with
  | zero =>
    have hall : ∀ r < 9, (regSpec (kRing 0 r 0x10)).isSome = true := by decide
    exact hall r hr
  | succ n =>
    have hcount : ringCount (n + 1) ≤ 1024 := ringCount_le_of_ne_zero (Nat.succ_ne_zero n)
    have hkey : kRing (n + 1) r 0x10 = regKey (n + 1) (0x1010 + 0x40 * r) := by
      rw [kRing, ringBase, if_neg (by simp), regKey, regKey]
      omega
    have hin : 0x1010 + 0x40 * r < 0x1000 + 0x40 * ringCount (n + 1) := by omega
    have hcol : (0x1010 + 0x40 * r - 0x1000) % 0x40 = 0x10 := by omega
    have hlow : 0x1000 ≤ 0x1010 + 0x40 * r := by omega
    rw [hkey, regSpec_regKey (by omega)]
    simp [regSpecAt, hlow, hin, hcol, ringSpec]

/-- A port's configuration register stands at every multiple of 0x20 in the range of the Crebor ports (Table 20-10). -/
theorem not_portCfg_of_vacant {off : Nat} (h : regSpec off = none) :
    ¬ ((0x50100 ≤ off ∧ off < 0x50200) ∧ off % 0x20 = 0) := by
  rintro ⟨⟨hlo, hhi⟩, hmod⟩
  have hall : ∀ n < 8, (regSpec (kCrbPort n 0)).isSome = true := by decide
  have hoff : off = kCrbPort ((off - 0x50100) / 0x20) 0 := by simp only [kCrbPort]; omega
  exact ne_of_regSpec_none h (hall _ (by omega)) hoff

theorem ringOf_eq_some {fn off r o : Nat} (h : ringOf fn off = some (r, o)) : kRing fn r o = regKey fn off ∧ r < ringCount fn := by
  simp only [ringOf, Option.ite_none_right_eq_some, Option.some.injEq, Bool.and_eq_true, decide_eq_true_eq, Prod.mk.injEq] at h
  obtain ⟨⟨hlo, hhi⟩, rfl, rfl⟩ := h
  simp only [kRing]
  omega

/-! Writes. -/

theorem plainWrite_vacant {key : Nat} (h : regSpec key = none) (v : Nat) (d : Dev) : plainWrite key v d = d := by
  simp [plainWrite, h]

theorem writePf0_vacant {off : Nat} (h : regSpec off = none) (ini : Initiator) (v : Nat) (d : Dev) : writePf0 ini off v d = d := by
  have hne {k : Nat} (hk : (regSpec k).isSome = true) : off ≠ k := ne_of_regSpec_none h hk
  have hset : off ≠ kTimSetLo ∧ off ≠ kTimSetHi ∧ off ≠ kTimSrcCfg := ⟨hne (by decide), hne (by decide), hne (by decide)⟩
  have hmbox : off ≠ kMboxCtl ∧ off ≠ kMboxLen ∧ off ≠ kMboxData := ⟨hne (by decide), hne (by decide), hne (by decide)⟩
  have hcrb : off ≠ kCrbDevId ∧ off ≠ kCrbRoute := ⟨hne (by decide), hne (by decide)⟩
  have hret : off ≠ kRetIdx := hne (by decide)
  have hpwr : off ≠ kPwrCtl := hne (by decide)
  simp only [writePf0, beq_iff_eq, hset, hmbox, hcrb, hret, hpwr, beq_eq_false_iff_ne.mpr hcrb.2, Bool.false_and, Bool.false_eq_true,
    Bool.and_eq_true, decide_eq_true_eq, not_portCfg_of_vacant h, if_false, plainWrite_vacant h]

theorem writeRing_vacant {fn r o : Nat} (hr : r < ringCount fn) (h : regSpec (kRing fn r o) = none) (v : Nat) (d : Dev) :
    writeRing fn r o v d = d := by
  have ho : o ≠ 0x10 := by
    rintro rfl
    exact ne_of_regSpec_none h (regSpec_ringCfg_isSome hr) rfl
  simp [writeRing, ho, plainWrite_vacant h]

theorem writeReg_vacant {fn off : Nat} (hoff : off < 0x100000) (h : regSpecAt fn off = none) (ini : Initiator) (v : Nat) (d : Dev) :
    writeReg ini fn off v d = d := by
  have hkey : regSpec (regKey fn off) = none := by rw [regSpec_regKey hoff, h]
  unfold writeReg
  split
  · rfl
  · split
    · next r o hring =>
      obtain ⟨hk, hr⟩ := ringOf_eq_some hring
      exact writeRing_vacant hr (by rw [hk, hkey]) v d
    · split
      · next hfn =>
        rw [beq_iff_eq.mp hfn, regKey_zero] at hkey
        exact writePf0_vacant hkey ini v d
      · rfl

/-- Pins move only where an access has changed their levels. -/
theorem driveGpio_self (d : Dev) : driveGpio d d = d := by
  have hsame : (upFrom 0 16).filter (fun n => gpioLevel d n != gpioLevel d n) = [] :=
    List.filter_eq_nil_iff.mpr (fun n _ => by rw [bne_self_eq_false]; exact Bool.false_ne_true)
  rw [driveGpio, hsame]
  rfl

theorem writeAccess_vacant {fn off size : Nat} (hoff : off < 0x100000) (hlo : regSpecAt fn off = none)
    (hhi : size = 8 → off + 4 < 0x100000 ∧ regSpecAt fn (off + 4) = none) (ini : Initiator) (v : Nat) (d : Dev) :
    writeAccess ini fn off size v d = d := by
  unfold writeAccess
  split
  · rfl
  · rw [writeReg_vacant hoff hlo]
    split
    · next hsize =>
      obtain ⟨hoff4, hspec4⟩ := hhi (beq_iff_eq.mp hsize)
      rw [writeReg_vacant hoff4 hspec4, driveGpio_self]
    · exact driveGpio_self d

/-! Reads. -/

theorem readPf0_vacant {off : Nat} (h : regSpec off = none) (ini : Initiator) (pins : Nat) (d : Dev) : readPf0 ini off pins d = (0, d) := by
  have hne {k : Nat} (hk : (regSpec k).isSome = true) : off ≠ k := ne_of_regSpec_none h hk
  have htim : off ≠ kTimNowLo ∧ off ≠ kTimNowHi ∧ off ≠ kTimNowFrac := ⟨hne (by decide), hne (by decide), hne (by decide)⟩
  have hgpio : off ≠ kGpioIn := hne (by decide)
  simp [readPf0, htim, hgpio, livIdx_none_of_vacant h, prsIdx_none_of_vacant h, h]

theorem readReg_vacant {fn off : Nat} (hoff : off < 0x100000) (h : regSpecAt fn off = none) (ini : Initiator) (pins : Nat) (d : Dev) :
    readReg ini fn off pins d = (0, d) := by
  unfold readReg
  split
  · rfl
  · split
    · next hfn =>
      rw [beq_iff_eq.mp hfn] at h
      exact readPf0_vacant (by rw [← regKey_zero off, regSpec_regKey hoff, h]) ini pins d
    · simp [h]

theorem readAccess_vacant {fn off size : Nat} (hoff : off < 0x100000) (hlo : regSpecAt fn off = none)
    (hhi : size = 8 → off + 4 < 0x100000 ∧ regSpecAt fn (off + 4) = none) (ini : Initiator) (pins : Nat) (d : Dev) :
    readAccess ini fn off size pins d = emit (.regRead (iniNo ini) fn off 0) d := by
  unfold readAccess
  dsimp only
  split
  · rfl
  · rw [readReg_vacant hoff hlo]
    split
    · next hsize =>
      obtain ⟨hoff4, hspec4⟩ := hhi (beq_iff_eq.mp hsize)
      simp [readReg_vacant hoff4 hspec4]
    · rfl

/-- The upper word of an aligned access of 8 bytes lies in the function's BAR0 as the lower word does. -/
theorem upperWord_vacant {fn off size : Nat} (hoff : off < 0x100000) (halign : off % size = 0)
    (hhi : size = 8 → regSpecAt fn (off + 4) = none) (hsize : size = 8) : off + 4 < 0x100000 ∧ regSpecAt fn (off + 4) = none := by
  have hspec := hhi hsize
  subst hsize
  exact ⟨by omega, hspec⟩

end Sys2Proof.Machine

namespace Sys2Proof.Proofs

open Sys2Proof Sys2Proof.Machine

/-- Settles O42: no register means no special behaviour either, for reads (`readAccess_vacant`) and writes (`writeAccess_vacant`). -/
theorem unoccupiedOffsets : Obligations.UnoccupiedOffsets := by
  unfold Obligations.UnoccupiedOffsets
  refine ⟨?_, ?_⟩
  · intro ini fn off size pins s hhold hoff _ halign hlo hhi
    calc exec (.rcRegisterRead ini fn off size pins) s
        = s.goes (readAccess ini fn.val off size pins.toNat s.dev) := whenDev_go (by simp [hhold])
      _ = s.goes (emit (.regRead (iniNo ini) fn.val off 0) s.dev) := by rw [readAccess_vacant hoff hlo (upperWord_vacant hoff halign hhi)]
  · intro ini fn off size v s hhold hoff _ halign hlo hhi
    calc exec (.registerWrite ini fn off size v) s
        = s.goes (writeAccess ini fn.val off size v.toNat s.dev) := whenDev_go (by simp [hhold])
      _ = s.goes s.dev := by rw [writeAccess_vacant hoff hlo (upperWord_vacant hoff halign hhi)]

end Sys2Proof.Proofs
end

section
/-! SUPPORT. The numeric contract: minimum, maximum and comparisons (R45). What each does with a NaN operand, with zeros and with other
values, and what the vector unit makes of the result. -/

namespace Sys2Proof.Machine

@[simp] theorem runNum_pure {α : Type} (a : α) : runNum (pure a) = (a, Flags.none) := rfl

/-! The order of exact values. -/

theorem xrLt_asymm {x y : XR} (h : xrLt x y = true) : xrLt y x = false := by
  cases x with
  | nan => cases h
  | inf s =>
    cases y with
    | nan => cases h
    | inf t => cases s <;> cases t <;> simp_all [xrLt]
    | fin t m e => simpa [xrLt] using h
  | fin s n d =>
    cases y with
    | nan => cases h
    | inf t => simpa [xrLt] using h
    | fin t m e =>
      simp only [xrLt, decide_eq_true_eq, decide_eq_false_iff_not] at h ⊢
      exact Int.lt_asymm h

@[simp] theorem xrLt_self (x : XR) : xrLt x x = false :=
  Bool.eq_false_iff.mpr fun h => Bool.eq_false_iff.mp (xrLt_asymm h) h

/-- One operand is below the other, or neither is. -/
theorem xrLt_cases (x y : XR) :
    (xrLt x y = true ∧ xrLt y x = false) ∨ (xrLt x y = false ∧ xrLt y x = true) ∨ (xrLt x y = false ∧ xrLt y x = false) := by
  cases hxy : xrLt x y with
  | true => exact .inl ⟨rfl, xrLt_asymm hxy⟩
  | false =>
    cases xrLt y x with
    | true => exact .inr (.inl ⟨rfl, rfl⟩)
    | false => exact .inr (.inr ⟨rfl, rfl⟩)

/-- Zeros of either sign are equal (R45). -/
theorem xrLt_zeros (s t : Bool) (d e : Nat) : xrLt (.fin s 0 d) (.fin t 0 e) = false := by simp [xrLt]

theorem xrLt_nan {x y : XR} (h : x = .nan ∨ y = .nan) : xrLt x y = false := by
  obtain rfl | rfl := h
  · rfl
  · cases x <;> rfl

theorem xrEq_nan {x y : XR} (h : x = .nan ∨ y = .nan) : xrEq x y = false := by
  obtain rfl | rfl := h
  · rfl
  · cases x <;> rfl

theorem xrLe_nan {x y : XR} (h : x = .nan ∨ y = .nan) : xrLe x y = false := by
  rw [xrLe, xrLt_nan h, xrEq_nan h, Bool.or_false]

theorem xrIsNan_eq_false {x : XR} (h : x ≠ .nan) : xrIsNan x = false := by
  cases x with
  | nan => exact absurd rfl h
  | inf s => rfl
  | fin s n d => rfl

theorem xrIsNan_or_eq_true {x y : XR} (h : x = .nan ∨ y = .nan) : (xrIsNan x || xrIsNan y) = true := by
  obtain rfl | rfl := h
  · rfl
  · exact Bool.or_true _

/-! Minimum and maximum. -/

theorem numMin_nan {x y : XR} (h : x = .nan ∨ y = .nan) : numMin x y = passNan .nan := by
  rw [numMin, if_pos (xrIsNan_or_eq_true h)]
  rfl

theorem numMax_nan {x y : XR} (h : x = .nan ∨ y = .nan) : numMax x y = passNan .nan := by
  rw [numMax, if_pos (xrIsNan_or_eq_true h)]
  rfl

/-- The minimum is one of the operands, neither operand is below it, and no flag is raised. -/
theorem numMin_least {x y : XR} (hx : x ≠ .nan) (hy : y ≠ .nan) :
    ∃ r, runNum (numMin x y) = (r, Flags.none) ∧ (r = x ∨ r = y) ∧ xrLt x r = false ∧ xrLt y r = false := by
  have hnum : (xrIsNan x || xrIsNan y) = false := by rw [xrIsNan_eq_false hx, xrIsNan_eq_false hy, Bool.or_false]
  obtain ⟨hxy, hyx⟩ | ⟨hxy, hyx⟩ | ⟨hxy, hyx⟩ := xrLt_cases x y
  · exact ⟨x, by simp [numMin, hnum, hxy], .inl rfl, xrLt_self x, hyx⟩
  · exact ⟨y, by simp [numMin, hnum, hxy, hyx], .inr rfl, hxy, xrLt_self y⟩
  · cases hs : xrSign x with
    | true => exact ⟨x, by simp [numMin, hnum, hxy, hyx, hs], .inl rfl, xrLt_self x, hyx⟩
    | false => exact ⟨y, by simp [numMin, hnum, hxy, hyx, hs], .inr rfl, hxy, xrLt_self y⟩

/-- The maximum is one of the operands, it is below neither operand, and no flag is raised. -/
theorem numMax_greatest {x y : XR} (hx : x ≠ .nan) (hy : y ≠ .nan) :
    ∃ r, runNum (numMax x y) = (r, Flags.none) ∧ (r = x ∨ r = y) ∧ xrLt r x = false ∧ xrLt r y = false := by
  have hnum : (xrIsNan x || xrIsNan y) = false := by rw [xrIsNan_eq_false hx, xrIsNan_eq_false hy, Bool.or_false]
  obtain ⟨hxy, hyx⟩ | ⟨hxy, hyx⟩ | ⟨hxy, hyx⟩ := xrLt_cases x y
  · exact ⟨y, by simp [numMax, hnum, hxy], .inr rfl, hyx, xrLt_self y⟩
  · exact ⟨x, by simp [numMax, hnum, hxy, hyx], .inl rfl, xrLt_self x, hxy⟩
  · cases hs : xrSign x with
    | true => exact ⟨y, by simp [numMax, hnum, hxy, hyx, hs], .inr rfl, hyx, xrLt_self y⟩
    | false => exact ⟨x, by simp [numMax, hnum, hxy, hyx, hs], .inl rfl, xrLt_self x, hxy⟩

/-- The minimum of two zeros is −0 when either is. -/
theorem numMin_zeros (s t : Bool) (d : Nat) : numMin (.fin s 0 d) (.fin t 0 d) = pure (.fin (s || t) 0 d) := by
  cases s <;> simp [numMin, xrIsNan, xrLt_zeros, xrSign]

/-- The maximum of two zeros is −0 only when both are. -/
theorem numMax_zeros (s t : Bool) (d : Nat) : numMax (.fin s 0 d) (.fin t 0 d) = pure (.fin (s && t) 0 d) := by
  cases s <;> simp [numMax, xrIsNan, xrLt_zeros, xrSign]

/-! Minimum, maximum and comparisons in the vector unit (Table 06-9). -/

theorem vtOperand_of_ne_int32 {t : Nat} (ht : t ≠ 3) (md : Mode) (v : XR) : vtOperand md t v = pure v := by simp [vtOperand, ht]

theorem vecScalar_min {ta tb : Nat} (ha : ta ≠ 3) (hb : tb ≠ 3) (md : Mode) (tc td : Nat) (a b c : XR) :
    vecScalar md .min ta tb tc td a b c = numMin a b >>= vtRound md td := by
  simp [vecScalar, ha, vtOperand_of_ne_int32 ha, vtOperand_of_ne_int32 hb]

theorem vecScalar_max {ta tb : Nat} (ha : ta ≠ 3) (hb : tb ≠ 3) (md : Mode) (tc td : Nat) (a b c : XR) :
    vecScalar md .max ta tb tc td a b c = numMax a b >>= vtRound md td := by
  simp [vecScalar, ha, vtOperand_of_ne_int32 ha, vtOperand_of_ne_int32 hb]

section
variable (md : Mode) (ta tb tc td : Nat) (a b c : XR)

@[simp] theorem vecScalar_ceq : vecScalar md .ceq ta tb tc td a b c = pure (xrEq a b).toNat := rfl
@[simp] theorem vecScalar_cne : vecScalar md .cne ta tb tc td a b c = pure (!xrEq a b).toNat := rfl
@[simp] theorem vecScalar_clt : vecScalar md .clt ta tb tc td a b c = pure (xrLt a b).toNat := rfl
@[simp] theorem vecScalar_cle : vecScalar md .cle ta tb tc td a b c = pure (xrLe a b).toNat := rfl

end

/-- A zero rounds to binary32 with its sign and without a flag. -/
theorem vtRound_zero (md : Mode) (s : Bool) (d : Nat) : vtRound md 0 (.fin s 0 d) = pure (if s then 0x80000000 else 0) := by
  cases s <;> rfl

/-- A NaN result of each floating-point type is that type's canonical NaN and raises INVALID and nothing else (R36). -/
theorem runNum_passNan_vtRound (md : Mode) {p : Nat × Nat} (hp : p ∈ [(0, 0x7FC00000), (1, 0x7FC0), (2, 0x7E00)]) :
    runNum (passNan .nan >>= vtRound md p.1) = (p.2, flagInvalid) := by
  simp only [List.mem_cons, List.not_mem_nil, or_false] at hp
  obtain rfl | rfl | rfl := hp <;> rfl

theorem val32_zero : val32 0 = .fin false 0 (2 ^ 149) := by decide +kernel

theorem val32_negZero : val32 0x80000000 = .fin true 0 (2 ^ 149) := by decide +kernel

/-- Minimum and maximum order −0 below +0, in either order of the operands. -/
theorem vecScalar_minMax_zeros (md : Mode) (tc : Nat) (c : XR) :
    runNum (vecScalar md .min 0 0 tc 0 (val32 0x80000000) (val32 0) c) = (0x80000000, Flags.none) ∧
    runNum (vecScalar md .min 0 0 tc 0 (val32 0) (val32 0x80000000) c) = (0x80000000, Flags.none) ∧
    runNum (vecScalar md .max 0 0 tc 0 (val32 0x80000000) (val32 0) c) = (0, Flags.none) ∧
    runNum (vecScalar md .max 0 0 tc 0 (val32 0) (val32 0x80000000) c) = (0, Flags.none) := by
  simp [vecScalar_min, vecScalar_max, val32_zero, val32_negZero, numMin_zeros, numMax_zeros, vtRound_zero]

theorem vecScalar_minMax_nan {f : VecFn} (hf : f ∈ [VecFn.min, VecFn.max]) {ta tb : Nat} (ha : ta ≠ 3) (hb : tb ≠ 3) {a b : XR}
    (hnan : a = .nan ∨ b = .nan) (md : Mode) (tc td : Nat) (c : XR) :
    vecScalar md f ta tb tc td a b c = passNan .nan >>= vtRound md td := by
  simp only [List.mem_cons, List.not_mem_nil, or_false] at hf
  obtain rfl | rfl := hf
  · rw [vecScalar_min ha hb, numMin_nan hnan]
  · rw [vecScalar_max ha hb, numMax_nan hnan]

end Sys2Proof.Machine

namespace Sys2Proof.Proofs

open Sys2Proof Sys2Proof.Machine

/-- Settles O55: the minimum and maximum of numbers are `numMin_least` and `numMax_greatest`, a NaN operand makes the result the NaN
that `runNum_passNan_vtRound` rounds, and a comparison is a pure Boolean. -/
theorem minMaxAndCompare : Obligations.MinMaxAndCompare := by
  unfold Obligations.MinMaxAndCompare
  refine ⟨vecScalar_minMax_zeros, fun a b ha hb => ⟨numMin_least ha hb, numMax_greatest ha hb⟩, ?_, ?_, ?_⟩
  · intro f hf md ta tb tc a b c hnan hta htb p hp
    have hrun : runNum (vecScalar md f ta tb tc p.1 a b c) = (p.2, flagInvalid) := by
      rw [vecScalar_minMax_nan hf hta htb hnan, runNum_passNan_vtRound md hp]
    exact ⟨congrArg Prod.fst hrun, congrArg Prod.snd hrun⟩
  · intro md ta tb tc td a b c hnan
    simp [xrEq_nan hnan, xrLt_nan hnan, xrLe_nan hnan]
  · intro f hf md ta tb tc td a b c
    simp only [List.mem_cons, List.not_mem_nil, or_false] at hf
    obtain rfl | rfl | rfl | rfl := hf <;> simp

end Sys2Proof.Proofs
end

section
/-! SUPPORT. The root watchdog (R463): what a warm device reset leaves in TOP_RESET_CAUSE, behind the pins that it drives. -/

namespace Sys2Proof.Machine

theorem whenDev_stop {ok : Bool} {why : String} {d : Dev} {s : State} (h : ok = false) : whenDev ok why d s = .refused (.notEnabled why) := by
  rw [whenDev, h]
  rfl

/-! Driving pins says what changed and leaves every register as it is. -/

theorem getF_driveGpio (before d : Dev) (k lo w : Nat) : getF (driveGpio before d) k lo w = getF d k lo w := by
  unfold driveGpio
  exact forEach_inv (fun e => getF e k lo w) _ _ (fun _ _ => getF_emit _ _ _ _ _) d

theorem getF_drivePins (before d : Dev) (k lo w : Nat) : getF (drivePins before d) k lo w = getF d k lo w := by
  unfold drivePins
  dsimp only
  split <;> split <;> simp only [getF_emit, getF_driveGpio]

/-- A warm device reset records its cause. -/
theorem getF_warmReset_cause {cause : Nat} (h : cause < 8) (d : Dev) : getF (warmReset cause d) kResetCause 0 3 = cause := by
  rw [warmReset, getF_drivePins, warmBase, getF_setF_same _ _ _ _ _ (by decide)]
  exact Nat.mod_eq_of_lt h

/-! The two commands. -/

/-- A report puts the present time into `rootAt`, and nothing else changes. -/
theorem exec_rootWatchdogReport {s : State} (hrom : afterRom s.dev = true) (hhold : s.dev.boot.hold = false) :
    exec .rootWatchdogReport s = s.goes { s.dev with boot.rootAt := s.dev.aclk } :=
  whenDev_go (by rw [hrom, hhold]; rfl)

/-- Within 1 s (200,000,000 ACLK) of a report the watchdog does not expire. -/
theorem exec_rootWatchdogExpiry_early {s : State} (h : s.dev.aclk < s.dev.boot.rootAt + 200000000) :
    exec .rootWatchdogExpiry s = .refused (.notEnabled "1 s has not passed") :=
  whenDev_stop (by rw [decide_eq_false (Nat.not_le_of_lt h), Bool.and_false])

/-- After it, the watchdog of a running root firmware resets the device. -/
theorem exec_rootWatchdogExpiry_due {s : State} (hrom : afterRom s.dev = true) (hhold : s.dev.boot.hold = false)
    (h : s.dev.boot.rootAt + 200000000 ≤ s.dev.aclk) : exec .rootWatchdogExpiry s = s.goes (warmReset 4 s.dev) :=
  whenDev_go (by rw [hrom, hhold, decide_eq_true h]; rfl)

end Sys2Proof.Machine

namespace Sys2Proof.Proofs

open Sys2Proof Sys2Proof.Machine

/-- Settles O46: the watchdog compares the time with the last report, and a warm device reset records the cause it is given
(`getF_warmReset_cause`). -/
theorem rootWatchdog : Obligations.RootWatchdog := by
  unfold Obligations.RootWatchdog
  refine ⟨?_, ?_, ?_⟩
  · intro s hrom hhold
    exact ⟨_, exec_rootWatchdogReport hrom hhold, rfl, rfl⟩
  · intro s hearly
    exact ⟨_, exec_rootWatchdogExpiry_early hearly⟩
  · intro s hrom hhold hdue
    exact ⟨exec_rootWatchdogExpiry_due hrom hhold hdue, getF_warmReset_cause (by decide) s.dev⟩

end Sys2Proof.Proofs
end

section
/-! SUPPORT. The step of the block as a whole: what every step keeps, from what every command keeps (`kept_exec`) and from what the
passing of one ACLK leaves alone. -/

namespace Sys2Proof.Machine

/-! One step. -/

theorem step_idle {s : State} (h : s.pending = []) : step s = .next { s with dev := tick s.dev } := by
  rw [step, h]

theorem step_front {s : State} {c : Instr} {rest : List Instr} (h : s.pending = c :: rest) :
    step s = exec c { s with pending := rest } := by
  rw [step, h]

/-- A step either passes one ACLK on an empty queue or runs the command at the front on the queue's rest. -/
theorem step_cases {s t : State} (h : step s = .next t) :
    (s.pending = [] ∧ t = { s with dev := tick s.dev }) ∨
    ∃ c rest, s.pending = c :: rest ∧ Kept s.dev t.dev ∧ t.pending = rest := by
  cases hq : s.pending with
  | nil =>
    rw [step_idle hq] at h
    cases h
    exact .inl ⟨rfl, by rw [hq]⟩
  | cons c rest =>
    rw [step_front hq] at h
    have hk := kept_exec c { s with pending := rest }
    exact .inr ⟨c, rest, rfl, hk.next t h, hk.queue t h⟩

theorem Kept.inv {b d : Dev} (h : Kept b d) (hb : b.inv = true) : d.inv = true := by
  simp only [Dev.inv, Bool.and_eq_true] at hb ⊢
  obtain ⟨⟨⟨hmem, hregs⟩, hsems⟩, hret⟩ := hb
  exact ⟨⟨⟨h.mem hmem, h.regs hregs⟩, h.sems hsems⟩, h.retOk hret⟩

end Sys2Proof.Machine

namespace Sys2Proof.Proofs

open Sys2Proof Sys2Proof.Machine

/-- Settles O58: a command keeps the form because it keeps each part of it (`Kept.inv`), an idle step because it touches no part. -/
theorem stepKeepsInv : Obligations.StepKeepsInv := by
  unfold Obligations.StepKeepsInv
  intro s t hinv hstep
  obtain ⟨_, rfl⟩ | ⟨_, _, _, hkept, _⟩ := step_cases hstep
  · exact inv_tick s.dev hinv
  · exact hkept.inv hinv

/-- Settles O59: what a command never undoes is part of `Kept`; an idle step only moves time. -/
theorem historyIsKept : Obligations.HistoryIsKept := by
  unfold Obligations.HistoryIsKept
  intro s t hstep
  obtain ⟨hq, rfl⟩ | ⟨c, rest, hq, hkept, hrest⟩ := step_cases hstep
  · exact ⟨fun _ => Nat.le_refl _, List.prefix_rfl, List.prefix_rfl, by simp [hq], by simp [hq, tick]⟩
  · exact ⟨hkept.counters, hkept.ret, hkept.out, by simp [hq, hrest], by simp [hq, hkept.aclk]⟩

/-- Settles O56. -/
theorem stepRunsFront : Obligations.StepRunsFront := by
  unfold Obligations.StepRunsFront
  refine ⟨fun c rest s => step_front rfl, fun s hq => ⟨_, step_idle hq, hq, rfl, rfl, rfl, rfl, rfl, rfl⟩⟩

end Sys2Proof.Proofs
end

section
/-! SUPPORT. The scalar, predicate and address-register instructions (R139, R143, Table 06-3): one lemma for each shape of instruction
says what it leaves of the state, and each row of the table is one case of it. -/

namespace Sys2Proof.Machine

variable {x : Site} {s : State}

theorem aluR_slotOnly (op : BitVec 8) (fn : W32 → W32 → W32) {f : FmtR} (h : takes s.dev x f.g = true) (hr : f.rsvd = 0) :
    ∃ t, aluR op fn x f s = .next t ∧
      SlotOnly s t (siteKey x) (retired (setS f.rd (fn (getS (slotAt s.dev (siteKey x)) f.rs1) (getS (slotAt s.dev (siteKey x)) f.rs2))
        (slotAt s.dev (siteKey x)))) :=
  issue_slot (setS f.rd _) h (beq_iff_eq.mpr hr) rfl rfl

theorem aluI_slotOnly (op : BitVec 8) (fn : W32 → W32 → W32) {f : FmtI} (h : takes s.dev x f.g = true) (hr : f.rsvd = 0) :
    ∃ t, aluI op fn x f s = .next t ∧
      SlotOnly s t (siteKey x) (retired (setS f.rd (fn (getS (slotAt s.dev (siteKey x)) f.rs1) f.imm) (slotAt s.dev (siteKey x)))) :=
  issue_slot (setS f.rd _) h (beq_iff_eq.mpr hr) rfl rfl

/-- A predicate write moves no pc. -/
@[simp] theorem setP_pc (n : Nat) (v : Bool) (sl : SlotSt) : (setP n v sl).pc = sl.pc := by
  unfold setP
  split <;> rfl

theorem cmpR_slotOnly (op : BitVec 8) (fn : W32 → W32 → Bool) {f : FmtR} (h : takes s.dev x f.g = true) (hr : f.rsvd = 0)
    (hd : f.rd.toNat < 8) : ∃ t, cmpR op fn x f s = .next t ∧
      SlotOnly s t (siteKey x) (retired (setP f.rd.toNat (fn (getS (slotAt s.dev (siteKey x)) f.rs1)
        (getS (slotAt s.dev (siteKey x)) f.rs2)) (slotAt s.dev (siteKey x)))) :=
  issue_slot (setP f.rd.toNat _) h (by simp [hr, namesP, hd]) rfl (setP_pc _ _ _)

theorem predR_slotOnly (op : BitVec 8) (two : Bool) (fn : Bool → Bool → Bool) {f : FmtR} (h : takes s.dev x f.g = true) (hr : f.rsvd = 0)
    (hd : f.rd.toNat < 8) (h1 : f.rs1.toNat < 8) (h2 : two = true → f.rs2.toNat < 8) : ∃ t, predR op two fn x f s = .next t ∧
      SlotOnly s t (siteKey x) (retired (setP f.rd.toNat (fn (getP (slotAt s.dev (siteKey x)) f.rs1.toNat)
        (getP (slotAt s.dev (siteKey x)) f.rs2.toNat)) (slotAt s.dev (siteKey x)))) := by
  have henc : (f.rsvd == 0 && namesP f.rd && namesP f.rs1 && (!two || namesP f.rs2)) = true := by
    cases two with
    | false => simp [hr, namesP, hd, h1]
    | true => simp [hr, namesP, hd, h1, h2 rfl]
  exact issue_slot (setP f.rd.toNat _) h henc rfl (setP_pc _ _ _)

end Sys2Proof.Machine

namespace Sys2Proof.Proofs

open Sys2Proof Sys2Proof.Machine

/-- Settles O1: every row is `aluR` of its function (`aluR_slotOnly`); MIN and MAX compare as signed numbers. -/
theorem scalarArithmetic : Obligations.ScalarArithmetic := by
  unfold Obligations.ScalarArithmetic
  have hmin (a b : W32) : (if a.slt b then a else b) = if a.toInt < b.toInt then a else b := by simp [BitVec.slt]
  have hmax (a b : W32) : (if a.slt b then b else a) = if a.toInt < b.toInt then b else a := by simp [BitVec.slt]
  simp only [List.forall_mem_cons]
  refine ⟨?_, ?_, ?_, ?_, ?_, ?_, ?_, ?_, ?_, ?_, ?_, ?_, fun _ hmem => absurd hmem List.not_mem_nil⟩ <;> intro x f s h hr
  · exact aluR_slotOnly 0x01 (fun a b => a + b) h hr
  · exact aluR_slotOnly 0x02 (fun a b => a - b) h hr
  · exact aluR_slotOnly 0x03 (fun a b => a * b) h hr
  · exact aluR_slotOnly 0x04 (fun a b => BitVec.ofInt 32 ((a.toInt * b.toInt) / 2 ^ 32)) h hr
  · exact aluR_slotOnly 0x05 (fun a b => a &&& b) h hr
  · exact aluR_slotOnly 0x06 (fun a b => a ||| b) h hr
  · exact aluR_slotOnly 0x07 (fun a b => a ^^^ b) h hr
  · exact aluR_slotOnly 0x08 (fun a b => a <<< (b &&& 31).toNat) h hr
  · exact aluR_slotOnly 0x09 (fun a b => a >>> (b &&& 31).toNat) h hr
  · exact aluR_slotOnly 0x0A (fun a b => a.sshiftRight (b &&& 31).toNat) h hr
  · have hrow := aluR_slotOnly 0x0B (fun a b => if a.slt b then a else b) h hr
    rw [hmin] at hrow
    exact hrow
  · have hrow := aluR_slotOnly 0x0C (fun a b => if a.slt b then b else a) h hr
    rw [hmax] at hrow
    exact hrow

/-- Settles O2: every row but MOVI is `aluI` of its function. -/
theorem scalarImmediates : Obligations.ScalarImmediates := by
  unfold Obligations.ScalarImmediates
  refine ⟨?_, fun x f s h hr h1 => issue_slot (setS f.rd f.imm) h (by simp [hr, h1]) rfl rfl⟩
  simp only [List.forall_mem_cons]
  refine ⟨?_, ?_, ?_, ?_, ?_, ?_, ?_, fun _ hmem => absurd hmem List.not_mem_nil⟩ <;> intro x f s h hr
  · exact aluI_slotOnly 0x10 (fun a b => a + b) h hr
  · exact aluI_slotOnly 0x11 (fun a b => a &&& b) h hr
  · exact aluI_slotOnly 0x12 (fun a b => a ||| b) h hr
  · exact aluI_slotOnly 0x13 (fun a b => a ^^^ b) h hr
  · exact aluI_slotOnly 0x14 (fun a b => a <<< (b &&& 31).toNat) h hr
  · exact aluI_slotOnly 0x15 (fun a b => a >>> (b &&& 31).toNat) h hr
  · exact aluI_slotOnly 0x16 (fun a b => a.sshiftRight (b &&& 31).toNat) h hr

/-- Settles O3: a comparison is `cmpR`, predicate logic `predR`, and PNOT the `predR` that names no second operand. -/
theorem comparesAndPredicates : Obligations.ComparesAndPredicates := by
  unfold Obligations.ComparesAndPredicates
  simp only [List.forall_mem_cons]
  refine ⟨⟨?_, ?_, ?_, ?_, ?_, ?_, fun _ hmem => absurd hmem List.not_mem_nil⟩, ⟨?_, ?_, fun _ hmem => absurd hmem List.not_mem_nil⟩, ?_⟩
  · intro x f s h hr hd
    exact cmpR_slotOnly 0x18 (fun a b => a == b) h hr hd
  · intro x f s h hr hd
    exact cmpR_slotOnly 0x19 (fun a b => a != b) h hr hd
  · intro x f s h hr hd
    exact cmpR_slotOnly 0x1A (fun a b => a.slt b) h hr hd
  · intro x f s h hr hd
    exact cmpR_slotOnly 0x1B (fun a b => a.ult b) h hr hd
  · intro x f s h hr hd
    exact cmpR_slotOnly 0x1C (fun a b => a.sle b) h hr hd
  · intro x f s h hr hd
    exact cmpR_slotOnly 0x1D (fun a b => a.ule b) h hr hd
  · intro x f s h hr hd h1 h2
    exact predR_slotOnly 0x1E true (fun a b => a && b) h hr hd h1 (fun _ => h2)
  · intro x f s h hr hd h1 h2
    exact predR_slotOnly 0x1F true (fun a b => a || b) h hr hd h1 (fun _ => h2)
  · intro x f s h hr hd h1
    exact predR_slotOnly 0x20 false (fun a _ => !a) h hr hd h1 (fun h2 => absurd h2 Bool.false_ne_true)

/-- Settles O4: each row puts one value into one register of its slot, with an encoding whose register numbers are in range. -/
theorem addressRegisters : Obligations.AddressRegisters := by
  unfold Obligations.AddressRegisters
  refine ⟨?_, ?_, ?_, ?_, ?_⟩
  · intro x f s h hr hd h1
    exact issue_slot (setA f.rd.toNat _) h (by simp [hr, namesA, hd, h1]) rfl rfl
  · intro x f s h hr hd h1
    exact issue_slot (setA f.rd.toNat _) h (by simp [hr, namesA, hd, h1]) rfl rfl
  · intro x f s h hr hd h1
    exact issue_slot (setA f.rd.toNat _) h (by simp [hr, namesA, hd, h1]) rfl rfl
  · intro x f s h hr hd h1 hi
    exact issue_slot (setA f.rd.toNat _) h (by simp [hr, namesA, hd, h1, hi]) rfl rfl
  · intro x f s h hr h1
    exact issue_slot (setS f.rd _) h (by simp [hr, namesA, h1]) rfl rfl

end Sys2Proof.Proofs
end

section
/-! SUPPORT. Every media-core instruction is an issue from its slot (R139), and one whose guard is false retires (R141). -/

namespace Sys2Proof.Machine

/-- A media-core instruction is issued from its slot under its guard, whatever its word, its constraints and its body. -/
theorem exec_eq_issue {i : Instr} {x : Site} {g : Guard} (h : issuedBy i = some (x, g)) (s : State) :
    ∃ insn enc body, exec i s = issue x g insn enc body s := by
  cases i <;> cases h <;> exact ⟨_, _, _, rfl⟩

end Sys2Proof.Machine

namespace Sys2Proof.Proofs

open Sys2Proof Sys2Proof.Machine

/-- Settles O7: the guard is looked at before the encoding and the body (`issue_skip`), which are all that tells one instruction from
another (`exec_eq_issue`). -/
theorem falseGuardRetires : Obligations.FalseGuardRetires := by
  unfold Obligations.FalseGuardRetires
  intro i x g s hi hcan hpc hguard
  obtain ⟨insn, enc, body, hexec⟩ := exec_eq_issue hi s
  exact ⟨_, hexec.trans (issue_skip hcan hpc hguard), slotOnly_retired rfl rfl (fun _ _ => rfl) rfl⟩

end Sys2Proof.Proofs
end

section
/-! SUPPORT. Loads, stores and branches (R137, R138, R143, R144): an access that meets the checks, and a branch whose target does. -/

namespace Sys2Proof.Machine

variable {x : Site} {g : Guard} {insn : W64} {enc : Bool} {body : Dev → Issued} {s : State}

/-- An instruction that updates its slot on a device `d` that has the slots of the device it began in. -/
theorem issue_slotOver {d : Dev} (f : SlotSt → SlotSt) (h : takes s.dev x g = true) (he : enc = true)
    (hb : body s.dev = .done (updSlot (siteKey x) f d)) (hd : ∀ j, slotAt d j = slotAt s.dev j)
    (hpc : (f (slotAt s.dev (siteKey x))).pc = (slotAt s.dev (siteKey x)).pc) :
    ∃ t, issue x g insn enc body s = .next t ∧ SlotOnly { s with dev := d } t (siteKey x) (retired (f (slotAt s.dev (siteKey x)))) := by
  refine ⟨_, issue_done h he hb, slotOnly_retired ?_ ?_ ?_ rfl⟩
  · rw [slotAt_updSlot_same, hd]
  · rw [nextPc, hpc]
  · intro j hj
    exact slotAt_updSlot_other f d hj

/-- A branch: the slot goes on at the target. -/
theorem slotOnly_jump (k : Nat) (pc : BitVec 24) (f : SlotSt → SlotSt) (s : State) :
    SlotOnly s { s with dev := retireAt k pc (updSlot k f s.dev) } k { retired (f (slotAt s.dev k)) with pc := pc } := by
  refine ⟨by simp [retired], fun j hj => ?_, rfl⟩
  rw [slotAt_retireAt_other pc _ hj, slotAt_updSlot_other f _ hj]

/-! Accesses. -/

theorem accessExc_none {sl : SlotSt} {a n : Nat} {store : Bool} (hwin : a + n ≤ sl.winSize) (halign : a % n = 0)
    (hcode : store = true → sl.codeSize ≤ a) : accessExc sl a n store = none := by
  have hin : (decide (sl.winSize < a + n) || (store && decide (a < sl.codeSize))) = false := by
    cases store with
    | false => simp [hwin]
    | true => simp [hwin, hcode rfl]
  simp [accessExc, hin, halign]

/-- A load within the window that is aligned. -/
theorem loadBody_ok {f : FmtM} {n : Nat} {wr : Nat → SlotSt → SlotSt} {d : Dev} (hwin : memOffset d x f + n ≤ (slotAt d (siteKey x)).winSize)
    (halign : memOffset d x f % n = 0) :
    loadBody x f n wr d =
      .done (updSlot (siteKey x) (wr (unitNat d (winBase d (siteKey x) + memOffset d x f) n)) (drawFree d)) := by
  simp only [loadBody, accessExc_none hwin halign (fun h => absurd h Bool.false_ne_true)]

/-- An instruction that loads: its slot gets what `wr` makes of the number read. -/
theorem issue_loads {f : FmtM} {n : Nat} (wr : Nat → SlotSt → SlotSt) (h : takes s.dev x g = true) (he : enc = true)
    (hwin : memOffset s.dev x f + n ≤ (slotAt s.dev (siteKey x)).winSize) (halign : memOffset s.dev x f % n = 0)
    (hpc : ∀ v sl, (wr v sl).pc = sl.pc) :
    ∃ t, issue x g insn enc (loadBody x f n wr) s = .next t ∧ SlotOnly { s with dev := drawFree s.dev } t (siteKey x)
      (retired (wr (unitNat s.dev (winBase s.dev (siteKey x) + memOffset s.dev x f) n) (slotAt s.dev (siteKey x)))) :=
  issue_slotOver (wr _) h he (loadBody_ok hwin halign) (slotAt_drawFree s.dev) (hpc _ _)

/-- A store within the window, outside the code, that is aligned. -/
theorem storeBody_ok {f : FmtM} {n v : Nat} {d : Dev} (hcode : (slotAt d (siteKey x)).codeSize ≤ memOffset d x f)
    (hwin : memOffset d x f + n ≤ (slotAt d (siteKey x)).winSize) (halign : memOffset d x f % n = 0) :
    storeBody x f n v d = .done (wrMem (winBase d (siteKey x) + memOffset d x f) (leBytes n v) d) := by
  simp only [storeBody, accessExc_none hwin halign (fun _ => hcode)]

/-- An instruction that writes bytes: its slot goes on, and every byte outside those written stays. -/
theorem issue_stores {a n v : Nat} (h : takes s.dev x g = true) (he : enc = true) (hb : body s.dev = .done (wrMem a (leBytes n v) s.dev)) :
    ∃ t, issue x g insn enc body s = .next t ∧
      SlotOnly { s with dev := { s.dev with mem := t.dev.mem } } t (siteKey x) (retired (slotAt s.dev (siteKey x))) ∧
      ∀ j, tget 0 t.dev.mem j = if a ≤ j ∧ j < a + n then (leBytes n v).getD (j - a) 0 else tget 0 s.dev.mem j := by
  refine ⟨_, issue_done h he hb, slotOnly_retired rfl rfl (fun _ _ => rfl) rfl, fun j => ?_⟩
  rw [retireAt_mem, mem_wrMem, length_leBytes]

/-! Sizes (Table 06-3). -/

/-- The sizes an LD names, with their bytes. -/
theorem ldBytes_of_listed {size : BitVec 3} {n : Nat} (h : (size, n) ∈ [((0 : BitVec 3), 1), (1, 1), (2, 2), (3, 2), (4, 4)]) :
    ldBytes size = n ∧ n ≠ 0 := by
  simp only [List.mem_cons, Prod.mk.injEq, List.not_mem_nil, or_false] at h
  obtain ⟨rfl, rfl⟩ | ⟨rfl, rfl⟩ | ⟨rfl, rfl⟩ | ⟨rfl, rfl⟩ | ⟨rfl, rfl⟩ := h <;> decide

/-- The sizes an ST names, with their bytes. -/
theorem stBytes_of_listed {size : BitVec 3} {n : Nat} (h : (size, n) ∈ [((0 : BitVec 3), 1), (2, 2), (4, 4)]) : stBytes size = n ∧ n ≠ 0 := by
  simp only [List.mem_cons, Prod.mk.injEq, List.not_mem_nil, or_false] at h
  obtain ⟨rfl, rfl⟩ | ⟨rfl, rfl⟩ | ⟨rfl, rfl⟩ := h <;> decide

theorem ldValue_eq (size : BitVec 3) (v : Nat) :
    ldValue size v = if size = 0 then (BitVec.ofNat 8 v).signExtend 32 else if size = 2 then (BitVec.ofNat 16 v).signExtend 32
      else BitVec.ofNat 32 v := by
  simp [ldValue]

/-! Branches. -/

/-- A branch to a multiple of 8 inside the code is taken. -/
theorem branchTo_ok {k p : Nat} {d : Dev} (hcode : p < (slotAt d k).codeSize) (halign : p % 8 = 0) :
    branchTo k (p : Int) d = .jump d (BitVec.ofNat 24 p) := by
  have hmod : ((p : Int) % 8 != 0) = false := by
    rw [bne_eq_false_iff_eq]
    omega
  simp [branchTo, hmod, hcode]

end Sys2Proof.Machine

namespace Sys2Proof.Proofs

open Sys2Proof Sys2Proof.Machine

/-- Settles O5: an access that keeps the rules meets no exception (`accessExc_none`), a load writes one register (`issue_loads`) and
a store writes its bytes (`issue_stores`). -/
theorem loadsAndStores : Obligations.LoadsAndStores := by
  unfold Obligations.LoadsAndStores
  refine ⟨?_, ?_, ?_, ?_⟩
  · intro x f s n h hr hsize hwin halign
    obtain ⟨rfl, hn⟩ := ldBytes_of_listed hsize
    dsimp only
    rw [← ldValue_eq]
    exact issue_loads (fun v => setS f.r (ldValue f.size v)) h (by simp [hr, hn]) hwin halign (fun _ _ => rfl)
  · intro x f s h hr hsize hreg hwin halign
    exact issue_loads (fun v => setA f.r.toNat (BitVec.ofNat 48 v)) h (by simp [hr, hsize, namesA, hreg]) hwin halign (fun _ _ => rfl)
  · intro x f s n h hr hsize hcode hwin halign
    obtain ⟨rfl, hn⟩ := stBytes_of_listed hsize
    exact issue_stores h (by simp [hr, hn]) (storeBody_ok hcode hwin halign)
  · intro x f s h hr hsize hreg hcode hwin halign
    exact issue_stores h (by simp [hr, hsize, namesA, hreg]) (storeBody_ok hcode hwin halign)

/-- Settles O6: the targets that keep R144 are taken (`branchTo_ok`), and NOP has the empty body. -/
theorem branches : Obligations.Branches := by
  unfold Obligations.Branches
  refine ⟨?_, ?_, ?_⟩
  · intro x f s p h hr htarget hcode halign _
    have henc : (f.rsvd == 0) = true := beq_iff_eq.mpr hr
    have hb : branchTo (siteKey x) (branchTarget s.dev (siteKey x) f) s.dev = .jump s.dev (BitVec.ofNat 24 p) := by
      rw [branchTarget, htarget, branchTo_ok hcode halign]
    have hbal (g : SlotSt → SlotSt) (hg : (g (slotAt s.dev (siteKey x))).codeSize = (slotAt s.dev (siteKey x)).codeSize) :
        branchTo (siteKey x) (branchTarget s.dev (siteKey x) f) (updSlot (siteKey x) g s.dev) =
          .jump (updSlot (siteKey x) g s.dev) (BitVec.ofNat 24 p) := by
      rw [branchTarget, htarget, branchTo_ok (by rwa [slotAt_updSlot_same, hg]) halign]
    exact ⟨⟨_, issue_jump h henc hb, ⟨slotAt_retireAt_same _ _ _, fun j hj => slotAt_retireAt_other _ _ hj, rfl⟩⟩,
      ⟨_, issue_jump h henc (hbal (setS f.r _) rfl), slotOnly_jump _ _ _ _⟩⟩
  · intro x f s h hr himm hcode halign
    exact ⟨_, issue_jump h (by simp [hr, himm]) (branchTo_ok hcode halign),
      ⟨slotAt_retireAt_same _ _ _, fun j hj => slotAt_retireAt_other _ _ hj, rfl⟩⟩
  · intro x f s h hr
    exact ⟨_, issue_done h (beq_iff_eq.mpr hr) rfl, slotOnly_retired rfl rfl (fun _ _ => rfl) rfl⟩

end Sys2Proof.Proofs
end

section
/-! SUPPORT. The control registers (R155, R158, Table 06-12) and the registers of a monitor (R99, R103, Table 04-4): what CTL.RD and
CTL.WR do at each index. -/

namespace Sys2Proof.Machine

variable {x : Site} {s : State}

theorem siteKey_div (x : Site) : siteKey x / 2 = x.core.val := by
  have := x.slot.isLt
  simp only [siteKey, slotKey]
  omega

theorem siteKey_mod (x : Site) : siteKey x % 2 = x.slot.val := by
  have := x.slot.isLt
  simp only [siteKey, slotKey]
  omega

/-! Reads. -/

theorem slotAt_ctlLatch_other {j k : Nat} (i : Nat) (d : Dev) (h : j ≠ k) : slotAt (ctlLatch k i d) j = slotAt d j := by
  simp only [ctlLatch]
  split
  · exact slotAt_updSlot_other _ d h
  · split
    · exact slotAt_updSlot_other _ d h
    · rfl

/-- Only the slot's latches can change. -/
theorem ctlLatch_eq (k i : Nat) (d : Dev) :
    ctlLatch k i d = { d with core := { d.core with slots := (ctlLatch k i d).core.slots } } := by
  simp only [ctlLatch]
  split
  · rfl
  · split <;> rfl

theorem ctlLatch_ftLo (k : Nat) (d : Dev) : slotAt (ctlLatch k 0x004 d) k = { slotAt d k with
    ftHi := BitVec.ofNat 32 (nowNs d / 2 ^ 32)
    ftFrac := BitVec.ofNat 16 (d.time.ft % 65536) } := slotAt_updSlot_same _ _ _

theorem ctlLatch_cyclesLo (k : Nat) (d : Dev) : slotAt (ctlLatch k 0x00A d) k = { slotAt d k with
    cyclesHi := BitVec.ofNat 32 (slotCycles d k / 2 ^ 32) } := slotAt_updSlot_same _ _ _

/-- A CTL.RD whose access closes no window: the value goes to s[rd] beside the latches it sets. -/
theorem ctlRd_slotOnly {f : FmtC} {i : Nat} (h : takes s.dev x f.g = true) (hr : f.rsvd = 0) (hi : f.idx.toNat = i) (hok : ctlIdxOk i = true)
    (hsettle : ctlSettle (siteKey x) i s.dev = s.dev) : ∃ t, exec (.ctlRd x f) s = .next t ∧
      SlotOnly s t (siteKey x) (retired (setS f.r (BitVec.ofNat 32 (ctlRead s.dev (siteKey x) i))
        (slotAt (ctlLatch (siteKey x) i s.dev) (siteKey x)))) := by
  subst hi
  have hpc : (slotAt (ctlLatch (siteKey x) f.idx.toNat s.dev) (siteKey x)).pc = (slotAt s.dev (siteKey x)).pc := by
    simp only [ctlLatch]
    split
    · rw [slotAt_updSlot_same]
    · split
      · rw [slotAt_updSlot_same]
      · rfl
  refine ⟨_, issue_done h (by simp [hr, hok]) rfl, ?_⟩
  rw [hsettle]
  refine slotOnly_retired (slotAt_updSlot_same _ _ _) ?_ ?_ ?_
  · rw [nextPc, ← hpc]
    rfl
  · intro j hj
    rw [slotAt_updSlot_other _ _ hj, slotAt_ctlLatch_other _ _ hj]
  · rw [updSlot, ctlLatch_eq]

/-! Writes. -/

/-- A CTL.WR that is legal. -/
theorem ctlWrIssue_done {f : FmtC} {i : Nat} (h : takes s.dev x f.g = true) (hr : f.rsvd = 0) (hi : f.idx.toNat = i) (hok : ctlIdxOk i = true)
    (hw : ctlWriteOk i (getS (s.slot x) f.r).toNat = true) : ctlWrIssue x f s = .next { s with
      dev := retireAt (siteKey x) (nextPc s.dev (siteKey x)) (ctlWrite (siteKey x) i (getS (s.slot x) f.r).toNat s.dev) } := by
  subst hi
  exact issue_done h (by simp [hr, hok]) (if_pos hw)

/-- A CTL.WR with a value that its field does not admit is an illegal instruction. -/
theorem ctlWrIssue_exc {f : FmtC} {i : Nat} (h : takes s.dev x f.g = true) (hr : f.rsvd = 0) (hi : f.idx.toNat = i) (hok : ctlIdxOk i = true)
    (hw : ctlWriteOk i (getS (s.slot x) f.r).toNat = false) : ctlWrIssue x f s = .next { s with
      dev := stopSlot (siteKey x) 1 (wordC 0x3D f) 0 s.dev } := by
  subst hi
  exact issue_exc h (by simp [hr, hok]) (if_neg (by simp [hw]))

/-- An offset that is no monitor's has no value that a write refuses. -/
theorem ctlWriteOk_low {i : Nat} (v : Nat) (h : i < 0x100 ∨ 0x140 ≤ i) : ctlWriteOk i v = true := by
  have hmon : (decide (0x100 ≤ i) && decide (i < 0x140) && (i - 0x100) % 8 == 0) = false := by
    simp only [Bool.and_eq_false_iff, decide_eq_false_iff_not]
    omega
  simp [ctlWriteOk, hmon]

theorem bitAt_toNat {w : Nat} (v : BitVec w) (n : Nat) : bitAt v.toNat n = v.getLsbD n := by
  rw [BitVec.getLsbD, Nat.testBit_eq_decide_div_mod_eq, bitAt, Nat.shiftRight_eq_div_pow]
  rfl

theorem clearFlags_bits (v : W32) (f : Flags) : clearFlags v.toNat f =
    { invalid := f.invalid && !v.getLsbD 11, inexact := f.inexact && !v.getLsbD 10, underflow := f.underflow && !v.getLsbD 9,
      overflow := f.overflow && !v.getLsbD 8 } := by
  simp only [clearFlags, bitAt_toNat]

/-- A CTL.WR of a register other than SEMOVF and the monitors' changes only its slot, by `g`. -/
theorem ctlWr_slotOnly {f : FmtC} {i : Nat} (g : SlotSt → SlotSt) (h : takes s.dev x f.g = true) (hr : f.rsvd = 0) (hi : f.idx.toNat = i)
    (hok : ctlIdxOk i = true) (hlow : i < 0x100 ∨ 0x140 ≤ i)
    (hw : ctlWrite (siteKey x) i (getS (s.slot x) f.r).toNat s.dev = updSlot (siteKey x) g s.dev)
    (hpc : (g (slotAt s.dev (siteKey x))).pc = (slotAt s.dev (siteKey x)).pc) :
    ∃ t, exec (.ctlWr x f) s = .next t ∧ SlotOnly s t (siteKey x) (retired (g (s.slot x))) := by
  refine ⟨_, ctlWrIssue_done h hr hi hok (ctlWriteOk_low _ hlow), ?_⟩
  rw [hw]
  exact slotOnly_retire s (siteKey x) g hpc

/-- A write of a read-only register. -/
theorem ctlWr_readOnly {f : FmtC} {i : Nat} (h : takes s.dev x f.g = true) (hr : f.rsvd = 0) (hi : f.idx.toNat = i)
    (hok : ctlIdxOk i = true) (hlow : i < 0x100 ∨ 0x140 ≤ i) (hw : ∀ k v d, ctlWrite k i v d = d) :
    ∃ t, exec (.ctlWr x f) s = .next t ∧ SlotOnly s t (siteKey x) (retired (s.slot x)) := by
  refine ⟨_, ctlWrIssue_done h hr hi hok (ctlWriteOk_low _ hlow), ?_⟩
  rw [hw]
  exact slotOnly_retired rfl rfl (fun _ _ => rfl) rfl

/-- A write of SEMOVF (R155). -/
theorem ctlWr_semovf {f : FmtC} {i : Nat} {bits : W64} (h : takes s.dev x f.g = true) (hr : f.rsvd = 0) (hi : f.idx.toNat = i)
    (hok : ctlIdxOk i = true) (hlow : i < 0x100 ∨ 0x140 ≤ i)
    (hw : ctlWrite (siteKey x) i (getS (s.slot x) f.r).toNat s.dev = clearSemovf (siteKey x) bits s.dev) :
    ∃ t, exec (.ctlWr x f) s = .next t ∧
      (∀ c, tget 0 t.dev.core.semovf c = if c = x.core.val then tget 0 s.dev.core.semovf c &&& ~~~(bits &&& (s.slot x).semMask)
        else tget 0 s.dev.core.semovf c) ∧
      SlotOnly { s with dev := { s.dev with core := { s.dev.core with semovf := t.dev.core.semovf } } } t (siteKey x) (retired (s.slot x)) := by
  refine ⟨_, ctlWrIssue_done h hr hi hok (ctlWriteOk_low _ hlow), fun c => ?_, ?_⟩
  · dsimp only
    rw [hw, retireAt_core_semovf, clearSemovf, siteKey_div]
    dsimp only
    rw [tmod, tget_tset]
    split
    · next hc => rw [hc]
    · rfl
  · rw [hw]
    exact slotOnly_retired rfl rfl (fun _ _ => rfl) rfl

/-! Monitors. -/

@[simp] theorem monAt_updMon_same (k m : Nat) (f : Mon → Mon) (d : Dev) : monAt (updMon k m f d) k m = f (monAt d k m) := by
  rw [monAt, updMon, slotAt_updSlot_same]
  exact tget_tmod_same _ _ _ _

/-- A slot that retires keeps its monitors. -/
@[simp] theorem monAt_retireAt (k m : Nat) (pc : BitVec 24) (d : Dev) : monAt (retireAt k pc d) k m = monAt d k m := by
  rw [monAt, slotAt_retireAt_same]
  rfl

/-- No window of the monitor is full: an access closes none. -/
theorem monSettled_idle {k m : Nat} {d : Dev} (h : monDue (monAt d k m) = false) : monSettled k m d = d := by
  rw [monSettled, monSettle, if_neg (by simp [h])]

/-- A window that is closed starts its counts again. -/
theorem monAt_monEvaluate (k m : Nat) (d : Dev) : (monAt (monEvaluate k m d) k m).elem = 0 ∧ (monAt (monEvaluate k m d) k m).sat = 0 ∧
    (monAt (monEvaluate k m d) k m).van = 0 := by
  simp only [monEvaluate, monAt_updMon_same, and_self]

/-- A monitor's own update and the retirement of its slot are all that changes. -/
theorem slotOnly_updMon (s : State) (k m : Nat) (f : Mon → Mon) :
    SlotOnly s { s with dev := retireAt k (nextPc s.dev k) (updMon k m f s.dev) } k
      (retired { slotAt s.dev k with mons := (slotAt (retireAt k (nextPc s.dev k) (updMon k m f s.dev)) k).mons }) := by
  refine slotOnly_retired ?_ rfl (fun j hj => slotAt_updSlot_other _ _ hj) rfl
  rw [slotAt_retireAt_same, updMon, slotAt_updSlot_same]

/-! The registers of monitor `m` stand at 0x100 + 8 × m. -/

theorem monIdx_toNat (f : FmtCMon) {o : Nat} (ho : o < 8) : (monToC f o).idx.toNat = 0x100 + 8 * f.mon.val + o := by
  have := f.mon.isLt
  simp only [monToC, BitVec.toNat_ofNat]
  omega

theorem ctlIdxOk_mon {m o : Nat} (hm : m < 8) (ho : o < 8) : ctlIdxOk (0x100 + 8 * m + o) = true := by
  simp only [ctlIdxOk, Bool.or_eq_true, Bool.and_eq_true, decide_eq_true_eq]
  omega

theorem monIdx_parts (m : Nat) {o : Nat} (ho : o < 8) : (0x100 + 8 * m + o - 0x100) / 8 = m ∧ (0x100 + 8 * m + o - 0x100) % 8 = o := by
  omega

theorem monIdx_in {m o : Nat} (hm : m < 8) (ho : o < 8) :
    (decide (0x100 ≤ 0x100 + 8 * m + o) && decide (0x100 + 8 * m + o < 0x140)) = true := by
  simp only [Bool.and_eq_true, decide_eq_true_eq]
  omega

theorem ctlRead_mon (d : Dev) (k : Nat) {m o : Nat} (hm : m < 8) (ho : o < 8) :
    ctlRead d k (0x100 + 8 * m + o) = monRead (monAt d k m) o := by
  obtain ⟨hdiv, hmod⟩ := monIdx_parts m ho
  unfold ctlRead
  split
  case h_15 => rw [hdiv, hmod]
  all_goals omega

theorem ctlSettle_mon (d : Dev) (k : Nat) {m o : Nat} (hm : m < 8) (ho : o < 8) :
    ctlSettle k (0x100 + 8 * m + o) d = monSettled k m d := by
  rw [ctlSettle, if_pos (monIdx_in hm ho), (monIdx_parts m ho).1]

theorem ctlLatch_mon (d : Dev) (k m o : Nat) : ctlLatch k (0x100 + 8 * m + o) d = d := by
  have h4 : (0x100 + 8 * m + o == 0x004) = false := by rw [beq_eq_false_iff_ne]; omega
  have hA : (0x100 + 8 * m + o == 0x00A) = false := by rw [beq_eq_false_iff_ne]; omega
  simp [ctlLatch, h4, hA]

theorem ctlWrite_monCfg (k v : Nat) (d : Dev) {m : Nat} (hm : m < 8) : ctlWrite k (0x100 + 8 * m + 0) v d = monCfgWrite k m v d := by
  obtain ⟨hdiv, hmod⟩ := monIdx_parts m (o := 0) (by decide)
  unfold ctlWrite
  split
  case h_5 =>
    rw [if_pos (monIdx_in hm (by decide))]
    dsimp only
    rw [hdiv, hmod]
    rfl
  all_goals omega

theorem ctlWrite_monCtl (k v : Nat) (d : Dev) {m : Nat} (hm : m < 8) : ctlWrite k (0x100 + 8 * m + 2) v d = monCtlWrite k m v d := by
  obtain ⟨hdiv, hmod⟩ := monIdx_parts m (o := 2) (by decide)
  unfold ctlWrite
  split
  case h_5 =>
    rw [if_pos (monIdx_in hm (by decide))]
    dsimp only
    rw [hdiv, hmod]
    rfl
  all_goals omega

theorem ctlWriteOk_monCfg {m v : Nat} (hm : m < 8) : ctlWriteOk (0x100 + 8 * m + 0) v = (decide (10 ≤ v % 32) && decide (v % 32 ≤ 24)) := by
  have hcfg : (decide (0x100 ≤ 0x100 + 8 * m + 0) && decide (0x100 + 8 * m + 0 < 0x140) && (0x100 + 8 * m + 0 - 0x100) % 8 == 0) = true := by
    rw [monIdx_in hm (by decide), (monIdx_parts m (by decide)).2]
    rfl
  rw [ctlWriteOk, if_pos hcfg]
  rfl

theorem ctlWriteOk_mon {m o v : Nat} (ho : o < 8) (h : o ≠ 0) : ctlWriteOk (0x100 + 8 * m + o) v = true := by
  rw [ctlWriteOk, (monIdx_parts m ho).2]
  simp [h]

end Sys2Proof.Machine

namespace Sys2Proof.Proofs

open Sys2Proof Sys2Proof.Machine

/-- Settles O8: a read of each index, with the latches of FT_LO and CYCLES_LO (`ctlRd_slotOnly`). -/
theorem controlRegisterReads : Obligations.ControlRegisterReads := by
  unfold Obligations.ControlRegisterReads
  simp only [List.forall_mem_cons]
  refine ⟨⟨?_, ?_, ?_, ?_, ?_, ?_, ?_, ?_, ?_, ?_, ?_, ?_, fun _ hmem => absurd hmem List.not_mem_nil⟩, ?_, ?_⟩
  iterate 12
    · intro x f s h hr hi
      exact ctlRd_slotOnly h hr hi rfl rfl
  · intro x f s h hr hi
    have hread := ctlRd_slotOnly (i := 0x004) h hr (by rw [hi]; rfl) rfl rfl
    rwa [ctlLatch_ftLo] at hread
  · intro x f s h hr hi
    have hread := ctlRd_slotOnly (i := 0x00A) h hr (by rw [hi]; rfl) rfl rfl
    rwa [ctlLatch_cyclesLo] at hread

/-- Settles O9. -/
theorem controlRegisterWrites : Obligations.ControlRegisterWrites := by
  unfold Obligations.ControlRegisterWrites
  intro x f s h hr
  refine ⟨fun hi => ?_, fun hi => ?_, fun hi hbit => ?_, fun hi => ?_⟩
  · have hrow := ctlWr_slotOnly (i := 0x000) _ h hr (by rw [hi]; rfl) rfl (by decide) rfl rfl
    rwa [clearFlags_bits] at hrow
  · obtain hi | hi := hi
    · have hbits : BitVec.ofNat 64 (getS (s.slot x) f.r).toNat = (getS (s.slot x) f.r).zeroExtend 64 := by
        apply BitVec.eq_of_toNat_eq
        simp
      rw [if_pos hi, ← hbits]
      exact ctlWr_semovf (i := 0x008) h hr (by rw [hi]; rfl) rfl (by decide) rfl
    · have hbits : BitVec.ofNat 64 ((getS (s.slot x) f.r).toNat * 2 ^ 32) = (getS (s.slot x) f.r).zeroExtend 64 <<< 32 := by
        apply BitVec.eq_of_toNat_eq
        simp [BitVec.toNat_shiftLeft, Nat.shiftLeft_eq]
      rw [if_neg (by rw [hi]; decide), ← hbits]
      exact ctlWr_semovf (i := 0x009) h hr (by rw [hi]; rfl) rfl (by decide) rfl
  · have hv : bitAt (getS (s.slot x) f.r).toNat 0 = true := (bitAt_toNat _ _).trans hbit
    have hrow := ctlWr_slotOnly (i := 0x140) _ h hr (by rw [hi]; rfl) rfl (by decide) rfl rfl
    simpa only [hv, if_true] using hrow
  · simp only [List.mem_cons, List.not_mem_nil, or_false] at hi
    obtain hi | hi | hi | hi | hi | hi | hi | hi | hi | hi := hi
    all_goals exact ctlWr_readOnly h hr hi rfl (by decide) (fun _ _ _ => rfl)

/-- Settles O10: the index of a monitor's register names the monitor and the register (`ctlRead_mon`, `ctlWrite_monCfg`, `ctlWrite_monCtl`), and where no
window is full the access closes none (`monSettled_idle`). -/
theorem monitorRegisters : Obligations.MonitorRegisters := by
  unfold Obligations.MonitorRegisters
  refine ⟨fun k m d => monSettled_idle, ?_, ?_, ?_, ?_, ?_⟩
  · intro x f s h hr hdue hlo hhi helem
    have hw := ctlWrite_monCfg (siteKey x) (getS (s.slot x) f.r).toNat s.dev f.mon.isLt
    have hfld : fld (getS (s.slot x) f.r).toNat 0 5 = (getS (s.slot x) f.r).toNat % 32 := by simp [fld]
    rw [monCfgWrite, monSettled_idle hdue] at hw
    rw [if_neg (by simp [monDue, hfld, helem]), hfld] at hw
    have hrow := ctlWrIssue_done (f := monToC f 0) h hr (monIdx_toNat f (by decide)) (ctlIdxOk_mon f.mon.isLt (by decide))
      (by rw [ctlWriteOk_monCfg f.mon.isLt]; simp [monToC, hlo, hhi])
    refine ⟨_, hrow, ?_⟩
    rw [show (monToC f 0).r = f.r from rfl, hw]
    exact ⟨by simp only [monAt_retireAt, monAt_updMon_same, bitAt_toNat], slotOnly_updMon s (siteKey x) f.mon.val _⟩
  · intro x f s h hr hwin
    refine ⟨_, ctlWrIssue_exc (f := monToC f 0) h hr (monIdx_toNat f (by decide)) (ctlIdxOk_mon f.mon.isLt (by decide)) ?_, rfl⟩
    rw [ctlWriteOk_monCfg f.mon.isLt, show (monToC f 0).r = f.r from rfl]
    simp only [Bool.and_eq_false_iff, decide_eq_false_iff_not]
    omega
  · intro x f s h hr hclose
    have hv : bitAt (getS (s.slot x) f.r).toNat 1 = true := (bitAt_toNat _ _).trans hclose
    have hw := ctlWrite_monCtl (siteKey x) (getS (s.slot x) f.r).toNat s.dev f.mon.isLt
    simp only [monCtlWrite, hv, if_true] at hw
    have hrow := ctlWrIssue_done (f := monToC f 2) h hr (monIdx_toNat f (by decide)) (ctlIdxOk_mon f.mon.isLt (by decide))
      (ctlWriteOk_mon (by decide) (by decide))
    rw [show (monToC f 2).r = f.r from rfl, hw] at hrow
    refine ⟨_, hrow, rfl, ?_⟩
    simp only [monAt_retireAt]
    exact monAt_monEvaluate _ _ _
  · intro x f s h hr hdue hclose hclear
    have hv1 : bitAt (getS (s.slot x) f.r).toNat 1 = false := (bitAt_toNat _ _).trans hclose
    have hv0 : bitAt (getS (s.slot x) f.r).toNat 0 = true := (bitAt_toNat _ _).trans hclear
    have hw := ctlWrite_monCtl (siteKey x) (getS (s.slot x) f.r).toNat s.dev f.mon.isLt
    simp only [monCtlWrite, hv1, hv0, monSettled_idle hdue, if_true, Bool.false_eq_true, if_false] at hw
    have hrow := ctlWrIssue_done (f := monToC f 2) h hr (monIdx_toNat f (by decide)) (ctlIdxOk_mon f.mon.isLt (by decide))
      (ctlWriteOk_mon (by decide) (by decide))
    rw [show (monToC f 2).r = f.r from rfl, hw] at hrow
    refine ⟨_, hrow, ?_, slotOnly_updMon s (siteKey x) f.mon.val _⟩
    simp only [monAt_retireAt, monAt_updMon_same]
  · have counter {o : Nat} (ho : o < 8) (x : Site) (f : FmtC) (m : Fin 8) (s : State) (h : takes s.dev x f.g = true) (hr : f.rsvd = 0)
        (hi : f.idx.toNat = 0x100 + 8 * m.val + o) (hdue : monDue (monAt s.dev (siteKey x) m.val) = false) :
        ∃ t, exec (.ctlRd x f) s = .next t ∧
          SlotOnly s t (siteKey x) (retired (setS f.r (BitVec.ofNat 32 (monRead (monAt s.dev (siteKey x) m.val) o)) (s.slot x))) := by
      have hrow := ctlRd_slotOnly h hr hi (ctlIdxOk_mon m.isLt ho) (by rw [ctlSettle_mon _ _ m.isLt ho, monSettled_idle hdue])
      rwa [ctlRead_mon _ _ m.isLt ho, ctlLatch_mon] at hrow
    simp only [List.forall_mem_cons]
    exact ⟨counter (by decide), counter (by decide), counter (by decide), counter (by decide), counter (by decide),
      fun _ hmem => absurd hmem List.not_mem_nil⟩

end Sys2Proof.Proofs
end

section
/-! SUPPORT. Unit instructions at issue (R104, R113, R145 to R149): the shared parts (what may change beside a queue, the queue of a unit,
the queue of a loom), then WIN.SET and SIZE.SET, the vector and Sizing units, and the looms. -/

namespace Sys2Proof.Machine

variable {x : Site} {g : Guard} {insn : W64} {enc : Bool} {body : Dev → Issued} {s : State} {b d : Dev}

/-! Slots and free values. -/

/-- `d` is `b` but for the slots and the count of free values. -/
def SlotsFree (b d : Dev) : Prop := ∃ n sl, d = { b with free := n, core := { b.core with slots := sl } }

theorem drawFree_eq (d : Dev) : ∃ n, drawFree d = { d with free := n } := by
  unfold drawFree
  split
  · exact ⟨d.free, rfl⟩
  · exact ⟨_, rfl⟩

theorem slotsFree_drawFree (d : Dev) : SlotsFree d (drawFree d) := by
  obtain ⟨n, hn⟩ := drawFree_eq d
  exact ⟨n, d.core.slots, hn⟩

theorem SlotsFree.trans {c : Dev} (h : SlotsFree b c) (h' : SlotsFree c d) : SlotsFree b d := by
  obtain ⟨n, sl, rfl⟩ := h
  obtain ⟨m, sm, rfl⟩ := h'
  exact ⟨m, sm, rfl⟩

theorem slotsFree_updSlot (k : Nat) (f : SlotSt → SlotSt) (d : Dev) : SlotsFree d (updSlot k f d) := ⟨d.free, _, rfl⟩

theorem SlotsFree.unitAt (h : SlotsFree b d) (j : Nat) : unitAt d j = unitAt b j := by
  obtain ⟨n, sl, rfl⟩ := h
  rfl

theorem SlotsFree.loomAt (h : SlotsFree b d) (j : Nat) : loomAt d j = loomAt b j := by
  obtain ⟨n, sl, rfl⟩ := h
  rfl

@[simp] theorem winBase_drawFree (d : Dev) (k : Nat) : winBase (drawFree d) k = winBase d k := by
  rw [winBase, winBase, slotAt_drawFree]

@[simp] theorem unitAt_drawFree (d : Dev) (j : Nat) : unitAt (drawFree d) j = unitAt d j := (slotsFree_drawFree d).unitAt j

@[simp] theorem loomAt_drawFree (d : Dev) (j : Nat) : loomAt (drawFree d) j = loomAt d j := (slotsFree_drawFree d).loomAt j

/-! The queue of a unit (R149, R152). -/

@[simp] theorem UnitSt.queue_setQueue_same (u : UnitSt) (i : Nat) (q : List UnitOp) : (u.setQueue i q).queue i = q := by
  unfold UnitSt.setQueue UnitSt.queue
  split <;> rfl

@[simp] theorem UnitSt.begun_setQueue (u : UnitSt) (i : Nat) (q : List UnitOp) : (u.setQueue i q).begun = u.begun := by
  unfold UnitSt.setQueue
  split <;> rfl

/-- A unit with work to begin moves the head of one of its queues to the operations begun, or leaves all as it is. -/
theorem unitKick_cases (core v : Nat) (d : Dev) :
    unitKick core v d = d ∨ ∃ sl, unitKick core v d = updUnit (2 * core + v) (fun u => unitBegin u sl) d := by
  unfold unitKick
  dsimp only
  split
  · split
    · exact .inr ⟨_, rfl⟩
    · exact .inl rfl
  · split
    · exact .inr ⟨_, rfl⟩
    · exact .inl rfl

theorem unitKick_idle {core v i : Nat} (hbegun : (unitAt d (2 * core + v)).begun = []) (hpick : unitPick d core (unitAt d (2 * core + v)) = some i) :
    unitKick core v d = updUnit (2 * core + v) (fun u => unitBegin u i) d := by
  simp only [unitKick, hbegun, hpick]

theorem unitBegin_begun {u : UnitSt} {i : Nat} {o : UnitOp} {q : List UnitOp} (h : u.queue i = o :: q) : (unitBegin u i).begun = o :: u.begun := by
  simp only [unitBegin, h]

/-- The only operation that waits is the one begun next, whichever slot was served last. -/
theorem unitPick_single {core : Nat} {u : UnitSt} {i : Nat} {o : UnitOp} (hi : i < 2) (h0 : u.queue0 = []) (h1 : u.queue1 = []) (d : Dev) :
    ∃ j, unitPick d core (u.setQueue i [o]) = some j ∧ (u.setQueue i [o]).queue j = [o] := by
  obtain rfl | rfl : i = 0 ∨ i = 1 := by omega
  · cases hlive : liveSlot d core 0 with
    | true => exact ⟨0, by simp [unitPick, UnitSt.setQueue, hlive], rfl⟩
    | false =>
      by_cases hlast : u.last = 0
      · exact ⟨0, by simp [unitPick, UnitSt.setQueue, UnitSt.queue, hlive, h1, hlast], rfl⟩
      · have ho : 1 - u.last = 0 := by omega
        exact ⟨0, by simp [unitPick, UnitSt.setQueue, UnitSt.queue, hlive, h1, ho], rfl⟩
  · cases hlive : liveSlot d core 1 with
    | true => exact ⟨1, by simp [unitPick, UnitSt.setQueue, hlive, h0], rfl⟩
    | false =>
      by_cases hlast : u.last = 0
      · exact ⟨1, by simp [unitPick, UnitSt.setQueue, UnitSt.queue, hlive, h0, hlast], rfl⟩
      · have ho : 1 - u.last = 0 := by omega
        exact ⟨u.last, by simp [unitPick, UnitSt.setQueue, UnitSt.queue, hlive, h0, ho, hlast],
          by simp [UnitSt.setQueue, UnitSt.queue, hlast]⟩

/-- The device after an operation has joined the queue of a unit. -/
def unitJoined (x : Site) (v : Nat) (o : UnitOp) (d : Dev) : Dev :=
  unitKick x.core.val v (updUnit (2 * x.core.val + v) (fun u => u.setQueue x.slot.val (u.queue x.slot.val ++ [o])) d)

theorem unitQueue_joined {v : Nat} {q : Option Nat} {w : UnitWork} (h : ((unitAt s.dev (2 * x.core.val + v)).queue x.slot.val).length < 16) :
    unitQueue x v q w (drawFree s.dev) = .done (unitJoined x v (unitOpOf s x q w) (drawFree s.dev)) := by
  have hfull : ¬ 16 ≤ ((unitAt (drawFree s.dev) (2 * x.core.val + v)).queue x.slot.val).length := by
    rw [unitAt_drawFree]
    omega
  rw [unitQueue]
  dsimp only
  rw [if_neg hfull, winBase_drawFree, slotAt_drawFree]
  rfl

theorem unitQueue_full {v : Nat} {q : Option Nat} {w : UnitWork} (h : 16 ≤ ((unitAt s.dev (2 * x.core.val + v)).queue x.slot.val).length) :
    unitQueue x v q w (drawFree s.dev) = .full := by
  rw [unitQueue]
  dsimp only
  rw [if_pos (by rwa [unitAt_drawFree])]

/-- The unit then holds the operation last in that queue, or has begun the head of one of its queues. -/
theorem unitAt_unitJoined (x : Site) (v : Nat) (o : UnitOp) (d : Dev) :
    let u := unitAt d (2 * x.core.val + v)
    let u1 := u.setQueue x.slot.val (u.queue x.slot.val ++ [o])
    unitAt (unitJoined x v o d) (2 * x.core.val + v) = u1 ∨ ∃ sl, unitAt (unitJoined x v o d) (2 * x.core.val + v) = unitBegin u1 sl := by
  unfold unitJoined
  obtain h | ⟨sl, h⟩ := unitKick_cases x.core.val v (updUnit (2 * x.core.val + v) (fun u => u.setQueue x.slot.val (u.queue x.slot.val ++ [o])) d)
  · exact .inl (by rw [h, unitAt_updUnit_same])
  · exact .inr ⟨sl, by rw [h, unitAt_updUnit_same, unitAt_updUnit_same]⟩

theorem unitAt_unitJoined_other {v j : Nat} (o : UnitOp) (d : Dev) (hj : j ≠ 2 * x.core.val + v) :
    unitAt (unitJoined x v o d) j = unitAt d j := by
  unfold unitJoined
  obtain h | ⟨sl, h⟩ := unitKick_cases x.core.val v (updUnit (2 * x.core.val + v) (fun u => u.setQueue x.slot.val (u.queue x.slot.val ++ [o])) d)
  · rw [h, unitAt_updUnit_other _ _ hj]
  · rw [h, unitAt_updUnit_other _ _ hj, unitAt_updUnit_other _ _ hj]

/-- Only the units change. -/
theorem unitJoined_units (x : Site) (v : Nat) (o : UnitOp) (d : Dev) :
    ∃ us, unitJoined x v o d = { d with core := { d.core with units := us } } := by
  unfold unitJoined
  obtain h | ⟨sl, h⟩ := unitKick_cases x.core.val v (updUnit (2 * x.core.val + v) (fun u => u.setQueue x.slot.val (u.queue x.slot.val ++ [o])) d)
  · exact ⟨_, h⟩
  · exact ⟨_, h⟩

/-- A unit with nothing to do begins the operation. -/
theorem begun_unitJoined {v : Nat} (o : UnitOp) (hbegun : (unitAt d (2 * x.core.val + v)).begun = [])
    (h0 : (unitAt d (2 * x.core.val + v)).queue0 = []) (h1 : (unitAt d (2 * x.core.val + v)).queue1 = []) :
    (unitAt (unitJoined x v o d) (2 * x.core.val + v)).begun = [o] := by
  have hempty : (unitAt d (2 * x.core.val + v)).queue x.slot.val = [] := by
    rw [UnitSt.queue]
    split
    · exact h0
    · exact h1
  obtain ⟨j, hpick, hqueue⟩ := unitPick_single (core := x.core.val) (o := o) x.slot.isLt h0 h1
    (updUnit (2 * x.core.val + v) (fun u => u.setQueue x.slot.val (u.queue x.slot.val ++ [o])) d)
  rw [unitJoined, unitKick_idle (i := j) (by simp [hbegun]) (by simpa [hempty] using hpick), unitAt_updUnit_same, unitAt_updUnit_same,
    hempty, List.nil_append, unitBegin_begun hqueue, UnitSt.begun_setQueue, hbegun]

/-- A unit instruction whose body queues an operation where the queue has room. -/
theorem issue_unitGains {v : Nat} {q : Option Nat} {w : UnitWork} (h : takes s.dev x g = true) (he : enc = true)
    (hb : body s.dev = unitQueue x v q w (drawFree s.dev)) (hlen : ((unitAt s.dev (2 * x.core.val + v)).queue x.slot.val).length < 16) :
    ∃ t, issue x g insn enc body s = .next t ∧ UnitGains s t x v (unitOpOf s x q w) := by
  obtain ⟨us, hus⟩ := unitJoined_units x v (unitOpOf s x q w) (drawFree s.dev)
  obtain ⟨n, hn⟩ := drawFree_eq s.dev
  have hslot (j : Nat) : slotAt (unitJoined x v (unitOpOf s x q w) (drawFree s.dev)) j = slotAt s.dev j := by
    rw [hus, hn]
    rfl
  refine ⟨_, issue_done h he (hb.trans (unitQueue_joined hlen)), ?_, ?_, ?_, ?_, ?_, ?_⟩
  · rw [slotAt_retireAt_same, hslot]
    rfl
  · intro j hj
    rw [slotAt_retireAt_other _ _ hj, hslot]
  · have hq := unitAt_unitJoined x v (unitOpOf s x q w) (drawFree s.dev)
    rwa [unitAt_drawFree] at hq
  · intro hbegun h0 h1
    exact begun_unitJoined (x := x) (d := drawFree s.dev) _ (by rwa [unitAt_drawFree]) (by rwa [unitAt_drawFree]) (by rwa [unitAt_drawFree])
  · intro j hj
    exact (unitAt_unitJoined_other _ _ hj).trans (unitAt_drawFree _ _)
  · rw [hus, hn]
    rfl

/-- The same where the queue is full: issue is held (R149). -/
theorem issue_unitFull {v : Nat} {q : Option Nat} {w : UnitWork} (h : takes s.dev x g = true) (he : enc = true)
    (hb : body s.dev = unitQueue x v q w (drawFree s.dev)) (hlen : 16 ≤ ((unitAt s.dev (2 * x.core.val + v)).queue x.slot.val).length) :
    ∃ t, issue x g insn enc body s = .next t ∧ SlotOnly s t (siteKey x) { s.slot x with hold := .fullQueue, headInsn := insn } :=
  ⟨_, issue_full h he (hb.trans (unitQueue_full hlen)), slotAt_updSlot_same _ _ _, fun _ hj => slotAt_updSlot_other _ _ hj, rfl⟩

/-- An instruction that reads a block and vets it, where the block is in place and passes. -/
theorem withBlock_vetDev {f : FmtU} {n : Nat} {legal : List Nat → Dev → Bool} {ranges : List Nat → List Rng} {aligned : List Nat → List (Nat × Nat)}
    {act : List Nat → Dev → Issued} (hp : paramOk s.dev x f n = true) (hl : ∀ ws, legal ws (drawFree s.dev) = legal ws s.dev)
    (hv : vetted (s.slot x) (legal (paramWords s.dev x f n) s.dev) (ranges (paramWords s.dev x f n)) (aligned (paramWords s.dev x f n)) = true) :
    withBlock x f n (fun ws d => vet (slotAt d (siteKey x)) (legal ws d) (ranges ws) (aligned ws) (act ws d)) s.dev =
      act (paramWords s.dev x f n) (drawFree s.dev) := by
  rw [withBlock_ok hp, slotAt_drawFree, hl, vet_ok hv]

/-- The same where the rules need only the block. -/
theorem withBlock_vet {f : FmtU} {n : Nat} {legal : List Nat → Bool} {ranges : List Nat → List Rng} {aligned : List Nat → List (Nat × Nat)}
    {act : List Nat → Dev → Issued} (hp : paramOk s.dev x f n = true)
    (hv : vetted (s.slot x) (legal (paramWords s.dev x f n)) (ranges (paramWords s.dev x f n)) (aligned (paramWords s.dev x f n)) = true) :
    withBlock x f n (fun ws d => vet (slotAt d (siteKey x)) (legal ws) (ranges ws) (aligned ws) (act ws d)) s.dev =
      act (paramWords s.dev x f n) (drawFree s.dev) :=
  withBlock_vetDev (legal := fun ws _ => legal ws) hp (fun _ => rfl) hv

/-! WIN.SET and SIZE.SET. -/

theorem setWin_pc (n : Nat) (w : WinDesc) (sl : SlotSt) : (setWin n w sl).pc = sl.pc := by
  unfold setWin
  split <;> rfl

/-- A window set that ends inside the window lies inside it, whatever its first byte. -/
theorem rngOk_window {sl : SlotSt} {w : WinDesc} (h : winEnd w ≤ sl.winSize) : rngOk sl (rd w.src (winEnd w - w.src)) = true := by
  unfold rngOk rd
  dsimp only
  simp only [Bool.not_false, Bool.true_or, Bool.and_true, Bool.or_eq_true, beq_iff_eq, decide_eq_true_eq]
  omega

/-! Pooling. -/

theorem poolBody_ok {f : FmtU} {ws : List Nat} {w : WinDesc} (hw : getWin (slotAt d (siteKey x)) f.sel.toNat = some w) (hmode : w.mode ≠ 0)
    (h1 : fld (ws.getD 1 0) 13 19 = 0) (h2 : fld (ws.getD 2 0) 24 8 = 0) (h3 : fld (ws.getD 3 0) 24 8 = 0)
    (hm : (poolParse ws).m ≤ 4096) (hpitch : (poolParse ws).pitch % 64 = 0) (hne : winEmpty w = false)
    (hlast : (poolParse ws).oFirst + (poolParse ws).m ≤ winPositions w)
    (hin : firstOutside w (drawTaps w (poolParse ws).oFirst (poolParse ws).m) = none)
    (hv : vetted (slotAt d (siteKey x)) true
      (rowsOf true (poolParse ws).dst (poolParse ws).pitch (rowBytes (poolDst w) w.kLen) (poolParse ws).m)
      [((poolParse ws).dst, max 1 (dstBytes (poolDst w)))] = true) :
    poolBody x f ws d = unitQueue x 1 (qOpt f) (.pool (poolParse ws) w f.sel.toNat) d := by
  have hlegal : ((fld (ws.getD 1 0) 13 19 == 0 && fld (ws.getD 2 0) 24 8 == 0 && fld (ws.getD 3 0) 24 8 == 0) && w.mode != 0 &&
      decide ((poolParse ws).m ≤ 4096) && (poolParse ws).pitch % 64 == 0 &&
      (winEmpty w || decide ((poolParse ws).oFirst + (poolParse ws).m ≤ winPositions w))) = true := by
    rw [h1, h2, h3]
    simp [hm, hpitch, hlast, hmode]
  rw [poolBody]
  dsimp only
  rw [hw]
  dsimp only
  rw [if_neg (by rw [hlegal]; decide), if_neg (by rw [hne]; decide), hin]
  exact vet_ok hv

/-! The queue of a loom (R149). -/

@[simp] theorem loomAt_retireAt (k : Nat) (pc : BitVec 24) (d : Dev) (j : Nat) : loomAt (retireAt k pc d) j = loomAt d j := rfl

/-- A loom instruction whose body queues an operation on `d`, which has the slots but this one of the device it began in. -/
theorem issue_loomGains {l : Nat} {o : LoomOp} {sl : SlotSt} (h : takes s.dev x g = true) (he : enc = true)
    (hb : body s.dev = loomQueue x.core.val l x.slot.val o d) (hd : SlotsFree s.dev d) (hsl : slotAt d (siteKey x) = sl)
    (hpc : sl.pc = (s.slot x).pc) (hoth : ∀ j, j ≠ siteKey x → slotAt d j = slotAt s.dev j)
    (hlen : ((loomAt s.dev (2 * x.core.val + l)).queue x.slot.val).length < 16) :
    ∃ t, issue x g insn enc body s = .next t ∧
      slotAt t.dev (siteKey x) = retired sl ∧ (∀ j, j ≠ siteKey x → slotAt t.dev j = slotAt s.dev j) ∧
      (∀ j, loomAt t.dev j = if j = 2 * x.core.val + l
        then (loomAt s.dev j).setQueue x.slot.val ((loomAt s.dev j).queue x.slot.val ++ [o]) else loomAt s.dev j) ∧
      t = { s with dev := { s.dev with
        free := t.dev.free, core := { s.dev.core with slots := t.dev.core.slots, looms := t.dev.core.looms } } } := by
  have hfull : ¬ 16 ≤ ((loomAt d (2 * x.core.val + l)).queue x.slot.val).length := by
    rw [hd.loomAt]
    omega
  refine ⟨_, issue_done h he (hb.trans (if_neg hfull)), ?_, ?_, ?_, ?_⟩
  · rw [slotAt_retireAt_same, slotAt_updLoom, hsl, nextPc, ← hpc]
    rfl
  · intro j hj
    rw [slotAt_retireAt_other _ _ hj, slotAt_updLoom, hoth j hj]
  · intro j
    rw [loomAt_retireAt]
    split
    · next hj =>
      subst hj
      rw [loomAt_updLoom_same, hd.loomAt]
    · next hj => rw [loomAt_updLoom_other _ _ hj, hd.loomAt]
  · obtain ⟨n, slots, rfl⟩ := hd
    rfl

theorem setSlotLoad_pc (l : Nat) (w : WarpBlk) (sl : SlotSt) : (setSlotLoad l w sl).pc = sl.pc := by
  unfold setSlotLoad
  split <;> rfl

/-! WEFT.PASS: its checks in their order. -/

theorem weftIssue_ok {f : FmtU} {b : WeftBlk} {ld : WarpBlk} {w : Option WinDesc} {st : Option SizeBlk} {rg : Option RegroupRec}
    (htile : ∀ v, w = some v → firstOutside v (drawTaps v b.src (drawRows b w)) = none)
    (hplace : ∀ c r v, st = some c → rg = some r → w = some v →
      rgOutside (slotAt d (siteKey x)) c r v b.src ld.n (drawRows b w) = none)
    (hv : vetted (slotAt d (siteKey x)) true (weftRanges b ld w st) (weftAligned b) = true) :
    weftIssue x f b ld w st rg d = loomQueue x.core.val f.sel.toNat x.slot.val
      (.pass { slot := x.slot.val, q := qOpt f, base := winBase d (siteKey x), mode := slotMode (slotAt d (siteKey x)), blk := b,
               store := st, rg := rg, win := w }) d := by
  unfold weftIssue
  dsimp only
  cases w with
  | none => cases st <;> cases rg <;> exact vet_ok hv
  | some v =>
    dsimp only
    rw [htile v rfl]
    cases st with
    | none => exact vet_ok hv
    | some c =>
      cases rg with
      | none => exact vet_ok hv
      | some r =>
        dsimp only
        rw [hplace c r v rfl rfl rfl]
        exact vet_ok hv

/-- Without a regroup the pass goes on to its last checks; with one it reads its record first (R146). -/
theorem weftRegroup_ok {f : FmtU} {b : WeftBlk} {ld : WarpBlk} {w : Option WinDesc} {st : Option SizeBlk} {rg : Option RegroupRec}
    (h : (rg = none ∧ ∀ c, st = some c → c.regroup = 0) ∨ ∃ c r, rg = some r ∧ st = some c ∧ c.regroup ≠ 0 ∧
      c.rgLayout + 16 ≤ (slotAt d (siteKey x)).winSize ∧
      (let rs := leWords 4 (unitBytes d (winBase d (siteKey x) + c.rgLayout) 16)
       r = rgParse rs ∧ rgOk rs r = true)) :
    weftRegroup x f b ld w st d = weftIssue x f b ld w st rg d ∨ weftRegroup x f b ld w st d = weftIssue x f b ld w st rg (drawFree d) := by
  unfold weftRegroup
  dsimp only
  obtain ⟨rfl, hst⟩ | ⟨c, r, rfl, rfl, hreg, hwin, rfl, hok⟩ := h
  · left
    cases st with
    | none => rfl
    | some c => exact if_pos (beq_iff_eq.mpr (hst c rfl))
  · right
    dsimp only
    rw [if_neg (by simpa using hreg), if_neg (by omega), if_pos hok]

/-- A block, a window set and a store configuration that keep the rules. -/
theorem weftBody_ok {f : FmtU} {ws : List Nat} {ld : WarpBlk} {w : Option WinDesc} {st : Option SizeBlk}
    (hld : slotLoad (slotAt d (siteKey x)) f.sel.toNat = some ld) (hr : weftRsvdOk ws (weftParse ws) = true) (hok : weftOk (weftParse ws) ld = true)
    (hw : (weftParse ws).selvedge = false ∧ w = none ∨
      (weftParse ws).selvedge = true ∧ getWin (slotAt d (siteKey x)) (weftParse ws).ws = w ∧ ∃ v, w = some v ∧ weftWinOk (weftParse ws) v = true)
    (hst : (weftParse ws).partialOut = true ∧ st = none ∨ (weftParse ws).partialOut = false ∧ (slotAt d (siteKey x)).store = st ∧
      ∃ c, st = some c ∧ (c.calH = 0 ∨ ld.n % calSize c.calH = 0) ∧ (c.regroup = 0 ∨ (weftParse ws).selvedge = true)) :
    weftBody x f ws d = weftRegroup x f (weftParse ws) ld w st d := by
  unfold weftBody
  dsimp only
  rw [hld]
  obtain ⟨hs, rfl⟩ | ⟨hs, hget, v, rfl, hv⟩ := hw <;> obtain ⟨hp, rfl⟩ | ⟨hp, hget', c, rfl, hcal, hreg⟩ := hst
  · simp [hs, hp, hr, hok]
  · simp [hs, hp, hr, hok, hget', hcal, hreg.resolve_right (by simp [hs])]
  · simp [hs, hp, hr, hok, hget, hv]
  · simp [hs, hp, hr, hok, hget, hv, hget', hcal]

end Sys2Proof.Machine

namespace Sys2Proof.Proofs

open Sys2Proof Sys2Proof.Machine

/-- Settles O13: both read their block, vet it and update their slot (`issue_slotOver`). -/
theorem slotConfiguration : Obligations.SlotConfiguration := by
  unfold Obligations.SlotConfiguration
  refine ⟨?_, ?_⟩
  · intro x f s h hr hsel hq hp hrsvd hok hend
    have hv : vetted (s.slot x) (winRsvdOk (paramWords s.dev x f 16) && winOk (winParse (paramWords s.dev x f 16)))
        [rd (winParse (paramWords s.dev x f 16)).src (winEnd (winParse (paramWords s.dev x f 16)) - (winParse (paramWords s.dev x f 16)).src)]
        [] = true := by
      simp [vetted, hrsvd, hok, rngOk_window hend]
    exact issue_slotOver (setWin f.sel.toNat (winParse (paramWords s.dev x f 16))) h (by simp [uOk, hr, hsel, hq])
      (withBlock_vet (legal := fun ws => winRsvdOk ws && winOk (winParse ws)) (aligned := fun _ => []) hp hv) (slotAt_drawFree s.dev)
      (setWin_pc _ _ _)
  · intro x f s h hr hsel hq hp hv
    exact issue_slotOver (fun sl => { sl with store := some (sizeParse (paramWords s.dev x f 16)) }) h (by simp [uOk, hr, hsel, hq])
      (withBlock_vet (ranges := fun ws => sizeNamed (sizeParse ws)) (aligned := fun ws => sizeAligned (sizeParse ws) true) hp hv)
      (slotAt_drawFree s.dev) rfl

/-- The post of a U-format instruction (R145). -/
theorem qOpt_eq (f : FmtU) : qOpt f = if f.qEn = 1 then some f.q.toNat else none := by simp [qOpt]

/-- Settles O14: every row is `vecIssue` of its function, which queues one operation on the vector unit (`issue_unitGains`). -/
theorem vectorIssue : Obligations.VectorIssue := by
  unfold Obligations.VectorIssue
  have row (fn : VecFn) (x : Site) (f : FmtV) (s : State) (h : takes s.dev x f.g = true) (he : uOk s.dev x (vecToU f (vecSel fn)) true = true)
      (hp : paramOk s.dev x (vecToU f (vecSel fn)) 8 = true)
      (hv : let ws := paramWords s.dev x (vecToU f (vecSel fn)) 8
        vetted (s.slot x) (vecRsvdOk ws && vecOk fn (vecParse ws)) ((vecRanges fn (vecParse ws)).map (·.1))
          ((vecRanges fn (vecParse ws)).map (fun r => (r.1.at_, r.2))) = true)
      (hlen : ((unitAt s.dev (2 * x.core.val + 1)).queue x.slot.val).length < 16) : ∃ t, vecIssue fn x f s = .next t ∧
        UnitGains s t x 1 (unitOpOf s x (if f.qEn = 1 then some f.q.toNat else none)
          (.vec fn (vecParse (paramWords s.dev x (vecToU f (vecSel fn)) 8)))) := by
    rw [show (if f.qEn = 1 then some f.q.toNat else none) = qOpt (vecToU f (vecSel fn)) from (qOpt_eq (vecToU f (vecSel fn))).symm]
    exact issue_unitGains (insn := wordU 0x58 (vecToU f (vecSel fn))) (q := qOpt (vecToU f (vecSel fn))) h he
      (withBlock_vet (legal := fun ws => vecRsvdOk ws && vecOk fn (vecParse ws)) (ranges := fun ws => (vecRanges fn (vecParse ws)).map (·.1))
        (aligned := fun ws => (vecRanges fn (vecParse ws)).map (fun r => (r.1.at_, r.2)))
        (act := fun ws d => unitQueue x 1 (qOpt (vecToU f (vecSel fn))) (.vec fn (vecParse ws)) d) hp hv) hlen
  simp only [List.forall_mem_cons]
  refine ⟨row .add, row .sub, row .mul, row .fma, row .neg, row .abs, row .min, row .max, row .ceq, row .cne, row .clt, row .cle, row .sel,
    row .cvt, row .rcp, row .rsq, row .exp2, row .log2, row .tanh, row .erf, row .gdn, row .igdn, fun _ hmem => absurd hmem List.not_mem_nil⟩

/-- Settles O15: SIZE.QUANT and CAL.ROT queue on the Sizing unit, VEC.POOL on the vector unit; a full queue is `issue_unitFull`. -/
theorem sizingAndPoolIssue : Obligations.SizingAndPoolIssue := by
  unfold Obligations.SizingAndPoolIssue
  refine ⟨?_, ?_, ?_⟩
  · intro x f s h he hp hv
    have hb := withBlock_vet (act := fun ws d => unitQueue x 0 (qOpt f) (.quant (sizeParse ws)) d)
      (legal := fun ws => sizeRsvdOk ws && sizeOk (sizeParse ws) && (sizeParse ws).regroup == 0 && (sizeParse ws).qPitch % 64 == 0 &&
        (sizeParse ws).qLen != 0 && (sizeParse ws).qRows != 0 && ((sizeParse ws).calH == 0 || (sizeParse ws).qLen % calSize (sizeParse ws).calH == 0))
      (ranges := fun ws => sizeSide (sizeParse ws) false (sizeParse ws).qLen (sizeParse ws).qRows ++
        sizeRows (sizeParse ws) (sizeParse ws).qLen (sizeParse ws).qRows ++
        rowsOf false (sizeParse ws).qSrc (sizeParse ws).qPitch (4 * (sizeParse ws).qLen) (sizeParse ws).qRows)
      (aligned := fun ws => sizeAligned (sizeParse ws) false ++ [((sizeParse ws).qSrc, 64)]) hp hv
    exact ⟨issue_unitGains h he hb, issue_unitFull h he hb⟩
  · intro x f s h he hp hv
    have hb := withBlock_vet (act := fun ws d => unitQueue x 0 (qOpt f) (.rot (rotParse ws)) d)
      (legal := fun ws => (ws.take 3).all (fun w => fld w 24 8 == 0) && (rotParse ws).calH != 0 && (rotParse ws).len != 0 &&
        (rotParse ws).rows != 0 && (rotParse ws).pitch % 64 == 0 && (rotParse ws).len % calSize (rotParse ws).calH == 0)
      (ranges := fun ws => rowsOf false (rotParse ws).src (rotParse ws).pitch (4 * (rotParse ws).len) (rotParse ws).rows ++
        rowsOf true (rotParse ws).dst (rotParse ws).pitch (4 * (rotParse ws).len) (rotParse ws).rows)
      (aligned := fun ws => [((rotParse ws).src, 64), ((rotParse ws).dst, 64)]) hp hv
    exact issue_unitGains h he hb
  · intro x f s w h he hp hw hmode hchecks
    obtain ⟨h1, h2, h3, hm, hpitch, hne, hlast, hin, hv⟩ := hchecks
    refine issue_unitGains h he ((withBlock_ok hp).trans (poolBody_ok ?_ hmode h1 h2 h3 hm hpitch hne hlast hin ?_))
    · rwa [slotAt_drawFree]
    · rwa [slotAt_drawFree]

/-- Settles O16: both queue one operation on the loom (`issue_loomGains`), WARP.LOAD after it has noted the load in its slot. -/
theorem loomIssue : Obligations.LoomIssue := by
  unfold Obligations.LoomIssue
  refine ⟨?_, ?_⟩
  · intro x f s h he hp hv hlen
    have hwidth : loomWidth (drawFree s.dev) x.core.val f.sel.toNat = loomWidth s.dev x.core.val f.sel.toNat := by
      rw [loomWidth, getF, regVal, drawFree_regs]
      rfl
    have hb := withBlock_vetDev (act := fun ws d => loomQueue x.core.val f.sel.toNat x.slot.val
        (.load { slot := x.slot.val, q := qOpt f, base := winBase d (siteKey x), blk := warpParse ws })
        (updSlot (siteKey x) (setSlotLoad f.sel.toNat (warpParse ws)) d))
      (legal := fun ws d => warpRsvdOk ws && warpOk (loomWidth d x.core.val f.sel.toNat) (warpParse ws))
      (ranges := fun ws => rowsOf false (warpParse ws).src (warpParse ws).pitch (warpParse ws).n (tileRows (warpParse ws)) ++
        [rd (warpParse ws).scaleSrc (2 * (warpParse ws).n * ceilDiv (warpParse ws).kLen (gSize (warpParse ws).g))])
      (aligned := fun ws => [((warpParse ws).src, 64), ((warpParse ws).scaleSrc, 64)]) hp (fun _ => by rw [hwidth]) hv
    rw [winBase_drawFree] at hb
    refine issue_loomGains h he hb ((slotsFree_drawFree _).trans (slotsFree_updSlot _ _ _)) ?_ (setSlotLoad_pc _ _ _) ?_ hlen
    · rw [slotAt_updSlot_same, slotAt_drawFree]
    · intro j hj
      rw [slotAt_updSlot_other _ _ hj, slotAt_drawFree]
  · intro x f s ld w st rg h he hp hld hchecks hlen
    obtain ⟨hr, hok, hw, hst, hrg, htile, hplace, hv⟩ := hchecks
    have queued {d : Dev} (hd : SlotsFree s.dev d) (hslot : ∀ j, slotAt d j = slotAt s.dev j)
        (hb : withBlock x f 8 (weftBody x f) s.dev = weftIssue x f (weftParse (paramWords s.dev x f 8)) ld w st rg d) := by
      rw [weftIssue_ok htile (by rwa [hslot]) (by rwa [hslot]), winBase, hslot] at hb
      exact issue_loomGains (insn := wordU 0x41 f) h he hb hd (hslot _) rfl (fun j _ => hslot j) hlen
    have hb := (withBlock_ok (body := weftBody x f) hp).trans (weftBody_ok (by rwa [slotAt_drawFree]) hr hok (by rwa [slotAt_drawFree])
      (by rwa [slotAt_drawFree]))
    obtain hreg | hreg := weftRegroup_ok (f := f) (b := weftParse (paramWords s.dev x f 8)) (ld := ld) (w := w) (st := st) (rg := rg)
      (d := drawFree s.dev) (x := x) (by rwa [slotAt_drawFree, winBase_drawFree])
    · exact queued (slotsFree_drawFree _) (slotAt_drawFree _) (hb.trans hreg)
    · exact queued ((slotsFree_drawFree _).trans (slotsFree_drawFree _)) (fun j => by rw [slotAt_drawFree, slotAt_drawFree]) (hb.trans hreg)

end Sys2Proof.Proofs
end

section
/-! SUPPORT. Streams and the Quire path at issue (R149, R167, R173, R180, R186, R189): a descriptor joins its slot's queue of an engine,
a cancellation acts on the slot's descriptors and transfers, and a transfer joins those of its core. -/

namespace Sys2Proof.Machine

variable {x : Site} {g : Guard} {insn : W64} {enc : Bool} {body : Dev → Issued} {s : State} {d : Dev}

@[simp] theorem engAt_retireAt (k : Nat) (pc : BitVec 24) (d : Dev) (j : Nat) : engAt (retireAt k pc d) j = engAt d j := rfl

@[simp] theorem quireAt_retireAt (k : Nat) (pc : BitVec 24) (d : Dev) (j : Nat) : quireAt (retireAt k pc d) j = quireAt d j := rfl

/-! What counting a use of free values leaves. -/

@[simp] theorem engAt_drawFree (d : Dev) (j : Nat) : engAt (drawFree d) j = engAt d j := by rw [engAt, drawFree_strm]; rfl

@[simp] theorem quireAt_drawFree (d : Dev) (j : Nat) : quireAt (drawFree d) j = quireAt d j := by rw [quireAt, drawFree_strm]; rfl

@[simp] theorem newRun_drawFree (d : Dev) (k : Nat) (q : Option Nat) (b : StrmBlk) (tb : Nat) : newRun (drawFree d) k q b tb = newRun d k q b tb := by
  simp only [newRun, winBase_drawFree, slotAt_drawFree]

@[simp] theorem liveSlot_drawFree (d : Dev) (c i : Nat) : liveSlot (drawFree d) c i = liveSlot d c i := by
  simp only [liveSlot, isRunning, slotAt_drawFree]

@[simp] theorem nextId_drawFree (d : Dev) : (drawFree d).nextId = d.nextId := by
  obtain ⟨n, hn⟩ := drawFree_eq d
  rw [hn]

/-! Queues of an engine. -/

@[simp] theorem StrmSt.queue_setQueue_same (e : StrmSt) (i : Nat) (q : List StrmEntry) : (e.setQueue i q).queue i = q := by
  unfold StrmSt.setQueue StrmSt.queue
  split <;> rfl

theorem StrmSt.queue_setQueue_other (e : StrmSt) {i : Nat} (hi : i < 2) (q : List StrmEntry) :
    (e.setQueue i q).queue (1 - i) = e.queue (1 - i) := by
  obtain rfl | rfl : i = 0 ∨ i = 1 := by omega
  · rfl
  · rfl

@[simp] theorem StrmSt.queue_setArmed (e : StrmSt) (i j : Nat) (a : Option Armed) : (e.setArmed i a).queue j = e.queue j := by
  unfold StrmSt.setArmed
  split <;> rfl

@[simp] theorem StrmSt.armed_setArmed_same (e : StrmSt) (i : Nat) (a : Option Armed) : (e.setArmed i a).armed i = a := by
  unfold StrmSt.setArmed StrmSt.armed
  split <;> rfl

@[simp] theorem StrmSt.armed_setQueue (e : StrmSt) (i j : Nat) (q : List StrmEntry) : (e.setQueue i q).armed j = e.armed j := by
  unfold StrmSt.setQueue
  split <;> rfl

/-- An engine with a descriptor queued behind those of a slot; a first descriptor that is no re-arm disarms the one kept. -/
def engJoined (i : Nat) (r : StrmRun) (st : StrmSt) : StrmSt :=
  let st := st.setQueue i (st.queue i ++ [.desc r])
  if (st.queue i).length == 1 && !r.blk.rearm then st.setArmed i none else st

theorem queue_engJoined (i j : Nat) (r : StrmRun) (st : StrmSt) :
    (engJoined i r st).queue j = (st.setQueue i (st.queue i ++ [.desc r])).queue j := by
  unfold engJoined
  dsimp only
  split
  · rw [StrmSt.queue_setArmed]
  · rfl

theorem strmQueue_joined {e : Nat} (r : StrmRun) (h : ((engAt d (engKey x.core.val e)).queue x.slot.val).length < 8) :
    strmQueue x e r d = .done (updEng (engKey x.core.val e) (engJoined x.slot.val r)
      (dropMarks (siteKey x) (r.base + r.blk.pkBase) (pkSpan r.blk r.tileBase) d)) :=
  if_neg (Nat.not_le.mpr h)

/-- An instruction whose body queues a descriptor where the queue has room. -/
theorem issue_streamGains {e : Nat} {r : StrmRun} (h : takes s.dev x g = true) (he : enc = true) (hb : body s.dev = strmQueue x e r (drawFree s.dev))
    (hlen : ((engAt s.dev (engKey x.core.val e)).queue x.slot.val).length < 8) :
    ∃ t, issue x g insn enc body s = .next t ∧ StreamGains s t x e r := by
  obtain ⟨n, hn⟩ := drawFree_eq s.dev
  rw [strmQueue_joined r (by rwa [engAt_drawFree]), hn] at hb
  refine ⟨_, issue_done h he hb, ?_, ?_, ?_, ?_, ?_, ?_, ?_⟩
  · rw [slotAt_retireAt_same, slotAt_updEng]
    rfl
  · intro j hj
    rw [slotAt_retireAt_other _ _ hj, slotAt_updEng]
    rfl
  · rw [engAt_retireAt, engAt_updEng_same, queue_engJoined, StrmSt.queue_setQueue_same]
    rfl
  · rw [engAt_retireAt, engAt_updEng_same, queue_engJoined, StrmSt.queue_setQueue_other _ x.slot.isLt]
    rfl
  · intro j hj
    rw [engAt_retireAt, engAt_updEng_other _ _ hj]
    rfl
  · rw [retireAt_strm, updEng_strm_marks]
    rfl
  · rfl

/-! STRM.GO and STRM.REARM. -/

theorem strmGoBody_go {f : FmtU} {ws : List Nat} (hrearm : (strmParse ws).rearm = false)
    (hv : vetted (slotAt d (siteKey x)) (strmRsvdOk ws && strmOk (slotAt d (siteKey x)) x.core.val (strmParse ws)) (strmRanges (strmParse ws) 0) [] = true) :
    strmGoBody x f ws d = strmQueue x f.sel.toNat (newRun d (siteKey x) (qOpt f) (strmParse ws) 0) d := by
  unfold strmGoBody
  dsimp only
  rw [if_neg (by rw [hrearm]; decide), vet_ok hv]

theorem strmGoBody_rearm {f : FmtU} {ws : List Nat} {a : Armed} (hrearm : (strmParse ws).rearm = true)
    (ha : persistent (engAt d (engKey x.core.val f.sel.toNat)) x.slot.val = some a)
    (hv : let b := strmParse ws
      let n := rearmed a.blk b
      vetted (slotAt d (siteKey x)) (!b.persist && fld (ws.getD 2 0) 24 6 == 0 && (n.patSpace == 2 || decide (n.patBase < 2 ^ 48)) &&
          n.pkBase % 64 == 0 && (n.patSpace == 3 || n.patDev == 0) && (!n.mcast || n.patSpace == 1) &&
          strmSemsOk (slotAt d (siteKey x)) x.core.val n)
        (strmRanges n a.tiles) [] = true) :
    strmGoBody x f ws d =
      strmQueue x f.sel.toNat (newRun d (siteKey x) (qOpt f) (rearmed a.blk (strmParse ws)) a.tiles) d := by
  refine (if_pos hrearm).trans ?_
  rw [ha]
  exact vet_ok hv

/-! Cancellation (R189): the links' semaphores, the engine's entries, the marks and the page requests. -/

/-- Setting a link touches semaphores alone. -/
theorem resetLink_sems (core : Nat) (lk : Link) (isSource mcast remote : Bool) (mask : Nat) (d : Dev) :
    ∃ sems, resetLink core lk isSource mcast remote mask d = { d with core.sems := sems } := by
  have hall (l : List Nat) (q : Nat) (d : Dev) : ∃ sems, forEach l (fun c => semSet c q 0) d = { d with core.sems := sems } := by
    induction l generalizing d with
    | nil => exact ⟨d.core.sems, rfl⟩
    | cons c l ih =>
      obtain ⟨sems, h⟩ := ih (semSet c q 0 d)
      exact ⟨sems, h⟩
  unfold resetLink
  dsimp only
  generalize hd : (if lk.waitEn then _ else d : Dev) = e
  have hwait : ∃ sems, e = { d with core.sems := sems } := by
    subst hd
    split
    · exact ⟨_, rfl⟩
    · exact ⟨d.core.sems, rfl⟩
  obtain ⟨sems, rfl⟩ := hwait
  split
  · exact ⟨d.core.sems, rfl⟩
  · split
    · split
      · obtain ⟨sems', h⟩ := hall ((upFrom 0 32).filter (bitAt mask)) lk.postQ { d with core.sems := sems }
        exact ⟨sems', h⟩
      · exact ⟨_, rfl⟩
    · exact ⟨sems, rfl⟩

theorem resetLinks_sems (core : Nat) (b : StrmBlk) (d : Dev) : ∃ sems, resetLinks core b d = { d with core.sems := sems } := by
  unfold resetLinks
  obtain ⟨sems, h⟩ := resetLink_sems core b.pk b.dirOut b.mcast false b.mask d
  dsimp only
  rw [h]
  split
  · exact ⟨sems, rfl⟩
  · obtain ⟨sems', h'⟩ := resetLink_sems core b.pt (!b.dirOut) false (b.patSpace == 3) 0 { d with core.sems := sems }
    exact ⟨sems', h'⟩

/-- An engine after the cancellation of a slot's descriptors, the armed one included. -/
def engCancelled (now i : Nat) (st : StrmSt) : StrmSt := (st.setQueue i ((st.queue i).map (cancelEntry now))).setArmed i none

theorem cancelEngine_eq (core e i : Nat) (d : Dev) : ∃ sems marks pages,
    cancelEngine core e i d = { updEng (engKey core e) (engCancelled d.aclk i) { d with core.sems := sems } with
      strm := { (updEng (engKey core e) (engCancelled d.aclk i) { d with core.sems := sems }).strm with marks := marks, pages := pages } } := by
  unfold cancelEngine
  dsimp only
  cases (engAt d (engKey core e)).armed i with
  | none => exact ⟨d.core.sems, _, _, rfl⟩
  | some a =>
    obtain ⟨sems, h⟩ := resetLinks_sems core a.blk d
    dsimp only
    rw [h]
    exact ⟨sems, _, _, rfl⟩

theorem engAt_cancelEngine (core e i : Nat) (d : Dev) :
    engAt (cancelEngine core e i d) (engKey core e) = engCancelled d.aclk i (engAt d (engKey core e)) := by
  obtain ⟨sems, marks, pages, h⟩ := cancelEngine_eq core e i d
  rw [h]
  exact engAt_updEng_same _ _ _

/-- A cancellation on an engine leaves slots and memory. -/
theorem cancelEngine_frame (core e i : Nat) (d : Dev) :
    (∀ k, slotAt (cancelEngine core e i d) k = slotAt d k) ∧ (cancelEngine core e i d).mem = d.mem := by
  obtain ⟨sems, marks, pages, h⟩ := cancelEngine_eq core e i d
  rw [h]
  exact ⟨fun _ => rfl, rfl⟩

theorem quireAt_cancelQuire (core i : Nat) (d : Dev) : quireAt (cancelQuire core i d) core = { quireAt d core with
    ops := (quireAt d core).ops.filter (fun o => !(o.slot == i && (!o.started || o.page.isSome))) } := by
  unfold cancelQuire
  dsimp only
  exact quireAt_updQuire_same core (fun q => { q with ops := q.ops.filter (fun o => !(o.slot == i && (!o.started || o.page.isSome))) }) d

/-! The Quire path. -/

/-- What a transfer names of its slot, on a device that differs in the count of free values. -/
theorem quireQueue_joined {f : FmtU} {b : QuireBlk} (hlen : (quireAt s.dev x.core.val).ops.length < 64)
    (hlive : liveSlot s.dev x.core.val (1 - x.slot.val) = false ∨ liveSlot s.dev x.core.val x.slot.val = true ∨
      ((quireAt s.dev x.core.val).ops.filter (fun o => o.slot == x.slot.val)).length < 32) :
    quireQueue x f b (drawFree s.dev) =
      .done (let e := updQuire x.core.val (fun q => { q with ops := q.ops ++ [transferOf s x (qOpt f) b] })
               { drawFree s.dev with nextId := s.dev.nextId + 1 }
             if b.waitEn then e else quireStart (siteKey x) (transferOf s x (qOpt f) b) e) := by
  have hroom : (decide (64 ≤ (quireAt s.dev x.core.val).ops.length) || (liveSlot s.dev x.core.val (1 - x.slot.val) &&
      !liveSlot s.dev x.core.val x.slot.val && decide (32 ≤ ((quireAt s.dev x.core.val).ops.filter (fun o => o.slot == x.slot.val)).length))) =
      false := by
    rw [Bool.or_eq_false_iff, decide_eq_false_iff_not]
    refine ⟨Nat.not_le.mpr hlen, ?_⟩
    obtain hl | hl | hl := hlive
    · simp [hl]
    · simp [hl]
    · simp [hl]
  unfold quireQueue
  dsimp only
  rw [quireAt_drawFree, liveSlot_drawFree, liveSlot_drawFree, if_neg (by rw [hroom]; decide), winBase_drawFree, slotAt_drawFree, nextId_drawFree]
  rfl

/-- A transfer that names no other device asks nothing of one when it starts. -/
theorem quireStart_local {k : Nat} {o : QuireOp} (hsrc : o.blk.srcSpace ≠ 3) (hdst : o.blk.dstSpace ≠ 3) (d : Dev) : quireStart k o d = d := by
  simp [quireStart, hsrc, hdst]

end Sys2Proof.Machine

namespace Sys2Proof.Proofs

open Sys2Proof Sys2Proof.Machine

/-- Settles O17: a descriptor joins by `issue_streamGains`; a cancellation maps the slot's entries (`engAt_cancelEngine`) or drops its
transfers that have not started (`quireAt_cancelQuire`) before its own entry joins. -/
theorem streamIssue : Obligations.StreamIssue := by
  unfold Obligations.StreamIssue
  refine ⟨?_, ?_, ?_⟩
  · intro x f s h he hp hrearm hv hlen
    have hb := (withBlock_ok (body := strmGoBody x f) hp).trans (strmGoBody_go hrearm (by rwa [slotAt_drawFree]))
    rw [newRun_drawFree] at hb
    exact issue_streamGains h he hb hlen
  · intro x f s a h he hp hrearm ha hv hlen
    have hb := (withBlock_ok (body := strmGoBody x f) hp).trans
      (strmGoBody_rearm hrearm (by rwa [engAt_drawFree]) (by rwa [slotAt_drawFree]))
    rw [newRun_drawFree] at hb
    exact issue_streamGains h he hb hlen
  · intro x f s h he hra hoff
    have henc : (uOk s.dev x f (decide (f.sel.toNat < 5)) && f.ra == 0 && f.off == 0) = true := by simp [he, hra, hoff]
    refine ⟨fun hsel hlen => ?_, fun hsel => ?_⟩
    · obtain ⟨hslots, hmem⟩ := cancelEngine_frame x.core.val f.sel.toNat x.slot.val s.dev
      refine ⟨_, issue_done h henc ((if_neg (by simp; omega)).trans (if_neg (Nat.not_le.mpr hlen))), ?_, ?_, ?_, hmem⟩
      · rw [slotAt_retireAt_same, slotAt_updEng, hslots]
        rfl
      · rw [engAt_retireAt, engAt_updEng_same, engAt_cancelEngine, StrmSt.queue_setQueue_same, engCancelled, StrmSt.queue_setArmed, StrmSt.queue_setQueue_same]
      · rw [engAt_retireAt, engAt_updEng_same, engAt_cancelEngine, StrmSt.armed_setQueue, engCancelled, StrmSt.armed_setArmed_same]
    · refine ⟨_, issue_done h henc (if_pos (by simp [hsel])), ?_, ?_, rfl⟩
      · rw [slotAt_retireAt_same, slotAt_updQuire]
        rfl
      · rw [quireAt_retireAt, quireAt_updQuire_same, quireAt_cancelQuire]
        rfl

/-- Settles O18: both rows have one body (`quireBody`), which queues the transfer and, without a wait, starts it. -/
theorem quireIssue : Obligations.QuireIssue := by
  unfold Obligations.QuireIssue
  have row (x : Site) (f : FmtU) (s : State) (h : takes s.dev x f.g = true) (he : uOk s.dev x f (f.sel == 4) = true)
      (hp : paramOk s.dev x f 8 = true)
      (hv : let b := quireParse (paramWords s.dev x f 8)
        vetted (s.slot x) (quireRsvdOk (paramWords s.dev x f 8) && quireCommonOk b && (if b.signal then quireSignalOk b else quireCopyOk b) &&
          quireSemsOk (s.slot x) x.core.val b) (quireRanges b) [] = true)
      (hlen : (quireAt s.dev x.core.val).ops.length < 64)
      (hlive : liveSlot s.dev x.core.val (1 - x.slot.val) = false ∨ liveSlot s.dev x.core.val x.slot.val = true ∨
        ((quireAt s.dev x.core.val).ops.filter (fun o => o.slot == x.slot.val)).length < 32) :
      ∃ t, issue x f.g (wordU 0x60 f) (uOk s.dev x f (f.sel == 4)) (withBlock x f 8 (quireBody x f)) s = .next t ∧
        (let b := quireParse (paramWords s.dev x f 8)
         let o := transferOf s x (qOpt f) b
         (b.waitEn = true ∨ (b.srcSpace ≠ 3 ∧ b.dstSpace ≠ 3) →
           quireAt t.dev x.core.val = { quireAt s.dev x.core.val with ops := (quireAt s.dev x.core.val).ops ++ [o] } ∧
           t.dev.nextId = s.dev.nextId + 1 ∧
           SlotOnly { s with dev := { s.dev with free := t.dev.free, nextId := t.dev.nextId, strm := t.dev.strm } } t (siteKey x)
             (retired (s.slot x))) ∧
         ∃ d, (quireAt d x.core.val).ops = (quireAt s.dev x.core.val).ops ++ [o] ∧
           t.dev = retireAt (siteKey x) (nextPc s.dev (siteKey x)) (if b.waitEn then d else quireStart (siteKey x) o d)) := by
    obtain ⟨n, hn⟩ := drawFree_eq s.dev
    have hbody : quireBody x f (paramWords s.dev x f 8) (drawFree s.dev) = quireQueue x f (quireParse (paramWords s.dev x f 8)) (drawFree s.dev) := by
      rw [quireBody, slotAt_drawFree]
      exact vet_ok hv
    have hb := ((withBlock_ok (body := quireBody x f) hp).trans hbody).trans (quireQueue_joined hlen hlive)
    rw [hn] at hb
    refine ⟨_, issue_done h he hb, ?_, ?_⟩
    · intro hplain
      have hstart (e : Dev) : (if (quireParse (paramWords s.dev x f 8)).waitEn then e
          else quireStart (siteKey x) (transferOf s x (qOpt f) (quireParse (paramWords s.dev x f 8))) e) = e := by
        split
        · rfl
        · next hw =>
          obtain ⟨hsrc, hdst⟩ := hplain.resolve_left hw
          exact quireStart_local hsrc hdst e
      dsimp only
      rw [hstart]
      refine ⟨?_, rfl, slotOnly_retired rfl rfl (fun _ _ => rfl) rfl⟩
      rw [quireAt_retireAt, quireAt_updQuire_same]
      rfl
    · refine ⟨_, ?_, rfl⟩
      rw [quireAt_updQuire_same]
      rfl
  simp only [List.forall_mem_cons]
  exact ⟨fun x f s h he hp _ => row x f s h he hp, fun x f s h he hp _ => row x f s h he hp, fun _ hmem => absurd hmem List.not_mem_nil⟩

end Sys2Proof.Proofs
end

section
/-! SUPPORT. Semaphore posts and the instructions that wait (R151, R153, R154, R156, R157, R162, R188): how each holds its slot's issue,
and how the slot goes on. -/

namespace Sys2Proof.Machine

variable {x : Site} {g : Guard} {insn : W64} {enc : Bool} {body : Dev → Issued} {s : State}

/-! Semaphores. -/

theorem semKey_ne {c c' q q' : Nat} (hq : q < 64) (hq' : q' < 64) (h : (c', q') ≠ (c, q)) : semKey c' q' ≠ semKey c q := by
  intro hkey
  simp only [semKey] at hkey
  exact h (by rw [Prod.mk.injEq]; omega)

/-- A positive post: the sum, held at 65,535, and the overflow bit where the sum passes it (R154). -/
theorem semPost_facts (c q n : Nat) (hq : q < 64) (d : Dev) :
    semGet (semPost c q n d) c q = min 65535 (semGet d c q + n) ∧
    (∀ c' q', q' < 64 → (c', q') ≠ (c, q) → semGet (semPost c q n d) c' q' = semGet d c' q') ∧
    (∀ c', tget 0 (semPost c q n d).core.semovf c' =
      if c' = c ∧ 65535 < semGet d c q + n then tget 0 d.core.semovf c' ||| (1 <<< q) else tget 0 d.core.semovf c') ∧
    ∃ sems ovf, semPost c q n d = { d with core := { d.core with sems := sems, semovf := ovf } } := by
  unfold semPost
  dsimp only
  by_cases hover : 65535 < semGet d c q + n
  · rw [if_pos hover]
    refine ⟨?_, fun c' q' hq' hne => ?_, fun c' => ?_, _, _, rfl⟩
    · rw [Nat.min_eq_left (by omega)]
      exact (semGet_semSet_same c q 65535 d).trans (Nat.min_self _)
    · exact semGet_semSet_other 65535 d (semKey_ne hq hq' hne)
    · dsimp only
      rw [tmod, tget_tset, semSet_core_semovf]
      by_cases hc : c' = c
      · rw [if_pos hc, if_pos ⟨hc, hover⟩, hc]
        rfl
      · rw [if_neg hc, if_neg (fun h => hc h.1)]
  · rw [if_neg hover]
    refine ⟨semGet_semSet_same _ _ _ _, fun c' q' hq' hne => semGet_semSet_other _ d (semKey_ne hq hq' hne), fun c' => ?_, _, _, rfl⟩
    rw [if_neg (fun h => hover h.2)]
    rfl

/-! Holds. -/

/-- An instruction that waits changes its slot by `f` and holds its issue. -/
theorem issue_holds {h : Hold} (f : SlotSt → SlotSt) (ht : takes s.dev x g = true) (he : enc = true)
    (hb : body s.dev = .wait h (updSlot (siteKey x) f s.dev)) : ∃ t, issue x g insn enc body s = .next t ∧
      SlotOnly s t (siteKey x) { f (s.slot x) with hold := h, headInsn := insn } := by
  refine ⟨_, issue_wait ht he hb, ?_, fun j hj => ?_, rfl⟩
  · rw [slotAt_updSlot_same, slotAt_updSlot_same]
  · rw [slotAt_updSlot_other _ _ hj, slotAt_updSlot_other _ _ hj]

/-- The same where nothing but the hold changes. -/
theorem issue_holds_only {h : Hold} (ht : takes s.dev x g = true) (he : enc = true) (hb : body s.dev = .wait h s.dev) :
    ∃ t, issue x g insn enc body s = .next t ∧ SlotOnly s t (siteKey x) { s.slot x with hold := h, headInsn := insn } :=
  ⟨_, issue_wait ht he hb, slotAt_updSlot_same _ _ _, fun _ hj => slotAt_updSlot_other _ _ hj, rfl⟩

/-- An instruction that held its slot's issue retires, with `f` done to the slot. -/
theorem slotOnly_release (s : State) (k : Nat) (f : SlotSt → SlotSt) :
    SlotOnly s { s with dev := releaseHold k (updSlot k f s.dev) } k (retired (f (slotAt s.dev k))) := by
  refine slotOnly_retired (slotAt_updSlot_same _ _ _) ?_ (fun j hj => slotAt_updSlot_other _ _ hj) rfl
  rw [nextPc, slotAt_updSlot_same]

theorem slotOnly_release_only (s : State) (k : Nat) : SlotOnly s { s with dev := releaseHold k s.dev } k (retired (slotAt s.dev k)) :=
  slotOnly_retired rfl rfl (fun _ _ => rfl) rfl

/-! The ends of waits. -/

theorem isRunning_of {d : Dev} {k : Nat} (h : (slotAt d k).phase = .running) : isRunning d k = true := by
  rw [isRunning, h]
  rfl

/-- The wait of a SEM.WAIT outranks every other: its count suffices (R154). -/
theorem grantable_first {d : Dev} {c q n : Nat} (h : n ≤ semGet d c q) : grantable d c q n 0 = true := by
  simp [grantable, h]

theorem mem_upFrom_zero {n b : Nat} (h : b ∈ upFrom 0 n) : b < n := by
  have := mem_upFrom h
  omega

theorem fenceClear_of {d : Dev} {core slot : Nat} {m : BitVec 16}
    (h : ∀ b, b < 9 → m = 0 ∨ m.getLsbD b = true → queueClear d core slot b = true) : fenceClear d core slot m.toNat = true := by
  simp only [fenceClear, List.all_eq_true]
  intro b hb
  have hlt := mem_upFrom_zero hb
  by_cases hm : m = 0
  · rw [h b hlt (.inl hm), Bool.or_true]
  · cases hbit : m.getLsbD b with
    | true => rw [h b hlt (.inr hbit), Bool.or_true]
    | false =>
      have hne : (m.toNat != 0) = true := by
        rw [bne_iff_ne]
        exact fun h0 => hm (BitVec.eq_of_toNat_eq h0)
      rw [bitAt_toNat, hbit, hne]
      rfl

end Sys2Proof.Machine

namespace Sys2Proof.Proofs

open Sys2Proof Sys2Proof.Machine

/-- Settles O19: a count of 0 or more is `semPost`, a decrease that the semaphore has is `semSet`, and any other is the exception. -/
theorem semaphorePost : Obligations.SemaphorePost := by
  unfold Obligations.SemaphorePost
  intro x f s h hr hq hmax
  have hq64 : f.q.toNat < 64 := f.q.isLt
  have henc : (f.rsvd == 0 && semOk (slotAt s.dev (siteKey x)) f.q.toNat) = true := by simpa [hr] using hq
  refine ⟨fun hsum => ?_, fun hsum => ?_⟩
  · by_cases hc : 0 ≤ f.count.toInt
    · obtain ⟨hval, hother, hovf, sems, ovf, heq⟩ := semPost_facts x.core.val f.q.toNat f.count.toInt.toNat hq64 s.dev
      refine ⟨_, issue_done h henc (if_pos hc), ?_, hother, fun c => ?_, ?_⟩
      · refine hval.trans ?_
        congr 1
        omega
      · refine (hovf c).trans ?_
        have hiff : 65535 < semGet s.dev x.core.val f.q.toNat + f.count.toInt.toNat ↔
            65535 < (semGet s.dev x.core.val f.q.toNat : Int) + f.count.toInt := by omega
        simp only [hiff]
      · rw [heq]
        exact slotOnly_retired rfl rfl (fun _ _ => rfl) rfl
    · have hno : ¬ semGet s.dev x.core.val f.q.toNat < (-f.count.toInt).toNat := by omega
      refine ⟨_, issue_done h henc ((if_neg hc).trans (if_neg hno)), ?_, fun c q hlt hne => ?_, fun c => ?_,
        slotOnly_retired rfl rfl (fun _ _ => rfl) rfl⟩
      · refine (semGet_semSet_same _ _ _ _).trans ?_
        congr 1
        omega
      · exact semGet_semSet_other _ s.dev (semKey_ne hq64 hlt hne)
      · rw [if_neg (by omega)]
        rfl
  · exact ⟨_, issue_exc h henc ((if_neg (by omega)).trans (if_pos (by omega))), rfl⟩

/-- Settles O20: every row but TIME.WAIT only holds (`issue_holds_only`). -/
theorem waitsHoldIssue : Obligations.WaitsHoldIssue := by
  unfold Obligations.WaitsHoldIssue
  refine ⟨?_, ?_, ?_, ?_, ?_, ?_⟩
  · intro x f s h hr hcount hq
    exact issue_holds_only h (by rw [hr, bne_iff_ne.mpr hcount, hq]; rfl) rfl
  · intro x f s h hr hport
    exact issue_holds_only h (by simp [hr, hport]) rfl
  · intro x f s h hr hmask
    exact issue_holds_only h (by simp [hr, hmask]) rfl
  · intro x f s h hr hsel hq hra hoff
    exact issue_holds_only h (by simp [uOk, hr, hsel, hq, hra, hoff]) rfl
  · intro x f s h hr
    exact issue_holds_only h (by simp [hr]) rfl
  · intro x f s h hr heven
    have henc : (f.rsvd == 0 && f.rs.toNat % 2 == 0) = true := by simp [hr, heven]
    refine ⟨fun hpast => ?_, fun hahead hnear => ?_, fun hfar => ?_⟩
    · exact issue_slot (setP f.pd.toNat false) h henc ((if_neg (Nat.not_lt.mpr (Nat.le_add_right_of_le hpast))).trans (if_pos hpast)) (setP_pc _ _ _)
    · exact issue_holds (setP f.pd.toNat true) h henc ((if_neg (Nat.not_lt.mpr hnear)).trans (if_neg (Nat.not_le.mpr hahead)))
    · exact ⟨_, issue_exc h henc (if_pos hfar), rfl⟩

/-- Settles O21: with its condition met each event releases the hold (`slotOnly_release`, `slotOnly_release_only`). -/
theorem waitsEnd : Obligations.WaitsEnd := by
  unfold Obligations.WaitsEnd
  refine ⟨?_, ?_, ?_, ?_, ?_, ?_⟩
  · intro x s q n hrun hhold hcount
    have hexec : exec (.semWaitGrant x) s = s.goes (releaseHold (siteKey x) (semTake x.core.val q n s.dev)) := by
      change execSemWaitGrant x s = _
      unfold execSemWaitGrant
      dsimp only
      rw [hhold]
      exact whenDev_go (by rw [isRunning_of hrun, grantable_first hcount]; rfl)
    refine ⟨_, hexec, fun c p hp hq hmax => ?_, slotOnly_retired rfl rfl (fun _ _ => rfl) rfl⟩
    change semGet (semSet x.core.val q (semGet s.dev x.core.val q - n) s.dev) c p = _
    by_cases hcp : (c, p) = (x.core.val, q)
    · obtain ⟨rfl, rfl⟩ := Prod.mk.inj hcp
      rw [if_pos rfl, semGet_semSet_same]
      omega
    · rw [if_neg hcp, semGet_semSet_other _ _ (semKey_ne hq hp hcp)]
  · intro x s i hrun hhold htime
    have hexec : exec (.timeWaitEnd x) s = s.goes (releaseHold (siteKey x) s.dev) := by
      change execTimeWaitEnd x s = _
      unfold execTimeWaitEnd
      dsimp only
      rw [hhold]
      exact whenDev_go (by rw [isRunning_of hrun, Bool.true_and]; exact decide_eq_true htime)
    exact ⟨_, hexec, slotOnly_release_only s (siteKey x)⟩
  · intro x s lp f l pd p hrun hhold hport hline
    have hexec : exec (.lineWaitEnd x) s = s.goes (releaseHold (siteKey x) (updSlot (siteKey x) (setP pd true) s.dev)) := by
      change execLineWaitEnd x s = _
      unfold execLineWaitEnd portAt
      dsimp only
      rw [hhold]
      dsimp only
      rw [hport]
      exact whenDev_go (by rw [isRunning_of hrun, hline]; rfl)
    exact ⟨_, hexec, slotOnly_release s (siteKey x) (setP pd true)⟩
  · intro x s lp f l pd hrun hhold hport
    have hexec : exec (.lineWaitEnd x) s = s.goes (releaseHold (siteKey x) (updSlot (siteKey x) (setP pd false) s.dev)) := by
      change execLineWaitEnd x s = _
      unfold execLineWaitEnd portAt
      dsimp only
      rw [hhold]
      dsimp only
      rw [hport]
      exact whenDev_go (isRunning_of hrun)
    exact ⟨_, hexec, slotOnly_release s (siteKey x) (setP pd false)⟩
  · intro x s m hrun hhold hclear
    have hexec : exec (.fenceRelease x) s = s.goes (releaseHold (siteKey x) s.dev) := by
      change execFenceRelease x s = _
      unfold execFenceRelease
      dsimp only
      rw [hhold]
      exact whenDev_go (by rw [isRunning_of hrun, fenceClear_of hclear]; rfl)
    exact ⟨_, hexec, slotOnly_release_only s (siteKey x)⟩
  · intro x s e hrun hhold hclear
    have hexec : exec (.strmWaitRelease x) s = s.goes (releaseHold (siteKey x) s.dev) := by
      change execStrmWaitRelease x s = _
      unfold execStrmWaitRelease
      dsimp only
      rw [hhold]
      exact whenDev_go (by rw [isRunning_of hrun, hclear]; rfl)
    exact ⟨_, hexec, slotOnly_release_only s (siteKey x)⟩

end Sys2Proof.Proofs
end

section
/-! SUPPORT. The launch of a program (R163 to R166) and the end of one (R134, R160 to R162): the memory that a launch writes, and
what the end of a slot's work leaves. -/

namespace Sys2Proof.Machine

variable {x : Site} {s : State} {d : Dev}

/-! What the end of a program leaves. -/

/-- `d` has the slots and the memory of `b`. -/
structure SlotsMem (b d : Dev) : Prop where
  slots : d.core.slots = b.core.slots
  mem : d.mem = b.mem

theorem SlotsMem.refl (b : Dev) : SlotsMem b b := ⟨rfl, rfl⟩

theorem SlotsMem.trans {b c : Dev} (h : SlotsMem b c) (h' : SlotsMem c d) : SlotsMem b d :=
  ⟨h'.slots.trans h.slots, h'.mem.trans h.mem⟩

theorem SlotsMem.slotAt {b : Dev} (h : SlotsMem b d) (j : Nat) : slotAt d j = slotAt b j := slotAt_of_slots h.slots j

theorem HostOnly.slotsMem {b : Dev} (h : HostOnly b d) : SlotsMem b d := ⟨congrArg CoreGrp.slots h.core, h.mem⟩

theorem slotsMem_forEach {α : Type} (l : List α) (f : α → Dev → Dev) (h : ∀ a d, SlotsMem d (f a d)) (d : Dev) :
    SlotsMem d (forEach l f d) := by
  induction l generalizing d with
  | nil => exact .refl d
  | cons a l ih => exact (h a d).trans (ih (f a d))

theorem slotsMem_disarm (core slot : Nat) (d : Dev) : SlotsMem d (disarm core slot d) := by
  unfold disarm
  refine slotsMem_forEach _ _ (fun _ _ => ?_) d
  exact ⟨rfl, rfl⟩

theorem slotsMem_discardQueues (core slot : Nat) (d : Dev) : SlotsMem d (discardQueues core slot d) := by
  unfold discardQueues
  refine SlotsMem.trans (c := forEach [0, 1] (fun l => updLoom (2 * core + l) (fun st => st.setQueue slot [])) d) ?_ ?_
  · refine slotsMem_forEach _ _ (fun _ _ => ?_) d
    exact ⟨rfl, rfl⟩
  · refine slotsMem_forEach _ _ (fun _ _ => ?_) _
    exact ⟨rfl, rfl⟩

theorem slotsMem_cancelEngine (core e slot : Nat) (d : Dev) : SlotsMem d (cancelEngine core e slot d) := by
  obtain ⟨sems, marks, pages, heq⟩ := cancelEngine_eq core e slot d
  rw [heq]
  exact ⟨rfl, rfl⟩

theorem slotsMem_cancelStreams (core slot : Nat) (d : Dev) : SlotsMem d (cancelStreams core slot d) :=
  (slotsMem_forEach _ _ (fun e d => slotsMem_cancelEngine core e slot d) d).trans ⟨rfl, rfl⟩

theorem slotsMem_dropSlotLeases (k : Nat) (d : Dev) : SlotsMem d (dropSlotLeases k d) := by
  have hdrop : SlotsMem d (dropLeases (fun l => l.slotKey == k) d) := by
    refine slotsMem_forEach _ _ (fun e d => ?_) d
    split
    · exact ⟨rfl, rfl⟩
    · exact .refl d
  exact hdrop.trans ⟨rfl, rfl⟩

theorem slotsMem_endSlot (k : Nat) (d : Dev) : SlotsMem d (endSlot k d) := by
  unfold endSlot
  refine (slotsMem_dropSlotLeases k d).trans (.trans ?_ (hostOnly_sweepSems _).slotsMem)
  exact ⟨rfl, rfl⟩

theorem slotSession_none {k : Nat} (h : (slotAt d k).ident.toNat < 65536) : slotSession d k = none := if_neg (Nat.not_le.mpr h)

theorem slotJob_none {k : Nat} (h : (slotAt d k).fn ≠ 2) : slotJob d k = none := by
  refine if_neg ?_
  rw [beq_false_of_ne h]
  exact Bool.false_ne_true

/-- The end of a slot that serves no session and no job. -/
theorem haltWork_alone {k : Nat} (hid : (slotAt d k).ident.toNat < 65536) (hfn : (slotAt d k).fn ≠ 2) : haltWork k d = endSlot k d := by
  have heq := (slotsMem_endSlot k d).slotAt k
  rw [haltWork]
  dsimp only
  rw [slotSession_none (by rwa [heq]), slotJob_none (by rwa [heq])]

theorem faultWork_alone {k : Nat} (st : Nat) (hid : (slotAt d k).ident.toNat < 65536) (hfn : (slotAt d k).fn ≠ 2) :
    faultWork k st d = endSlot k d := by
  rw [faultWork, slotSession_none hid]
  dsimp only
  rw [slotJob_none hfn]

/-- The stop of such a slot: STOPPED, and no other slot and no byte changes. -/
theorem stopSlot_alone {k : Nat} (cause : Nat) (insn : W64) (addr : Nat) (hid : (slotAt d k).ident.toNat < 65536) (hfn : (slotAt d k).fn ≠ 2) :
    (slotAt (stopSlot k cause insn addr d) k).phase = .stopped ∧
    (∀ j, j ≠ k → slotAt (stopSlot k cause insn addr d) j = slotAt d j) ∧ (stopSlot k cause insn addr d).mem = d.mem := by
  unfold stopSlot
  extract_lets rep d1 d2
  have hcut : SlotsMem d1 (emit (.excReport rep) d2) :=
    (slotsMem_discardQueues (k / 2) (k % 2) d1).trans ((slotsMem_cancelStreams (k / 2) (k % 2) _).trans ⟨rfl, rfl⟩)
  have hk : slotAt (emit (.excReport rep) d2) k = { slotAt d k with phase := .stopped, hold := .none, report := some rep } :=
    (hcut.slotAt k).trans (slotAt_updSlot_same _ _ _)
  have hall : SlotsMem d1 (faultWork k stEngine (emit (.excReport rep) d2)) := by
    rw [faultWork_alone stEngine (by rw [hk]; exact hid) (by rw [hk]; exact hfn)]
    exact hcut.trans (slotsMem_endSlot k _)
  refine ⟨?_, fun j hj => (hall.slotAt j).trans (slotAt_updSlot_other _ d hj), hall.mem⟩
  rw [hall.slotAt, slotAt_updSlot_same]

/-! The memory and the slot of a launch. -/

/-- Consecutive writes leave a byte that none of them covers. -/
theorem mem_forEach_wrMem {α : Type} (l : List α) (a : α → Nat) (bs : α → Dev → List Byte) (j : Nat)
    (h : ∀ f ∈ l, ∀ d, ¬ (a f ≤ j ∧ j < a f + (bs f d).length)) (d : Dev) :
    tget 0 (forEach l (fun f d => wrMem (a f) (bs f d) d) d).mem j = tget 0 d.mem j := by
  induction l generalizing d with
  | nil => rfl
  | cons f l ih =>
    refine (ih (fun g hg => h g (List.mem_cons_of_mem _ hg)) _).trans ?_
    rw [mem_wrMem, if_neg (h f List.mem_cons_self d)]

/-- The rules of an image that a launch's memory rests on: code, then data, then the end of the window; fixups in the data; code and
data inside the image. -/
structure ImgLayout (img : List Byte) (h : ImgHdr) : Prop where
  code : h.codeSize ≤ h.dataOffset
  data : h.dataOffset + h.dataSize ≤ h.windowSize
  codeIn : h.codePtr + h.codeSize ≤ img.length
  dataIn : h.dataPtr + h.dataSize ≤ img.length
  fixes : ∀ f ∈ fixups img h, h.dataOffset ≤ f.offset ∧ f.offset + 4 ≤ h.dataOffset + h.dataSize

theorem imgLayout_of_launchOk {r : LaunchReq} (h : launchOk r = true) : ImgLayout r.image (imgHdr r.image) := by
  simp only [launchOk, imgOk, Bool.and_eq_true, decide_eq_true_eq, List.all_eq_true] at h
  refine ⟨by omega, by omega, by omega, by omega, fun f hf => ?_⟩
  have hfix := h.1.2 f hf
  simp only [fixupOk, Bool.and_eq_true, decide_eq_true_eq] at hfix
  omega

/-- The memory of a launch: the window is cleared, the code stands at its base, the data behind it, and each fixup in the data. -/
theorem mem_launchSlot (k : Nat) (r : LaunchReq) (h : ImgHdr) (d : Dev) : ∃ (e : Dev) (w : Fixup → Dev → List Byte),
    (∀ f e, (w f e).length = 4) ∧
    e.mem = (wrMem (0x1000000 * (k / 2) + r.csBase.toNat) ((r.image.drop h.codePtr).take h.codeSize)
      (zeroMem (0x1000000 * (k / 2) + r.csBase.toNat) h.windowSize d)).mem ∧
    (launchSlot k r h d).mem = (forEach (fixups r.image h) (fun f d => wrMem (0x1000000 * (k / 2) + r.csBase.toNat + f.offset) (w f d) d)
      (wrMem (0x1000000 * (k / 2) + r.csBase.toNat + h.dataOffset) ((r.image.drop h.dataPtr).take h.dataSize) e)).mem :=
  ⟨wrMem (0x1000000 * (k / 2) + r.csBase.toNat) ((r.image.drop h.codePtr).take h.codeSize)
    { zeroMem (0x1000000 * (k / 2) + r.csBase.toNat) h.windowSize d with
      strm.marks := d.strm.marks.filter (fun m => m.slotKey != k)
      strm.kept := tset [] d.strm.kept k []
      felt.grants := tset 0 d.felt.grants k 0 },
    fun f d => leBytes 4 (fixupVal (loomWidth d (k / 2) f.loom) f), fun _ _ => length_leBytes _ _, rfl, rfl⟩

/-- A byte below the data keeps what the code and the cleared window give it, and so does one behind the window. -/
theorem mem_launchSlot_apart {r : LaunchReq} {h : ImgHdr} (hl : ImgLayout r.image h) (k : Nat) (d : Dev) {j : Nat}
    (hj : j < 0x1000000 * (k / 2) + r.csBase.toNat + h.dataOffset ∨ 0x1000000 * (k / 2) + r.csBase.toNat + h.windowSize ≤ j) :
    tget 0 (launchSlot k r h d).mem j =
      tget 0 (wrMem (0x1000000 * (k / 2) + r.csBase.toNat) ((r.image.drop h.codePtr).take h.codeSize)
        (zeroMem (0x1000000 * (k / 2) + r.csBase.toNat) h.windowSize d)).mem j := by
  obtain ⟨hcode, hdata, -, -, hfix⟩ := hl
  obtain ⟨e, w, hlen, he, heq⟩ := mem_launchSlot k r h d
  have hbelow : ∀ f ∈ fixups r.image h, ∀ e, ¬ (0x1000000 * (k / 2) + r.csBase.toNat + f.offset ≤ j ∧
      j < 0x1000000 * (k / 2) + r.csBase.toNat + f.offset + (w f e).length) := by
    intro f hf e
    have := hfix f hf
    rw [hlen]
    omega
  rw [heq, mem_forEach_wrMem _ _ _ _ hbelow, mem_wrMem, if_neg (by rw [List.length_take]; omega), he]

theorem mem_launchSlot_outside {r : LaunchReq} {h : ImgHdr} (hl : ImgLayout r.image h) (k : Nat) (d : Dev) {j : Nat}
    (hj : j < 0x1000000 * (k / 2) + r.csBase.toNat ∨ 0x1000000 * (k / 2) + r.csBase.toNat + h.windowSize ≤ j) :
    tget 0 (launchSlot k r h d).mem j = tget 0 d.mem j := by
  have hcode := hl.code
  have hdata := hl.data
  rw [mem_launchSlot_apart hl k d (by omega), mem_wrMem, if_neg (by rw [List.length_take]; omega), mem_zeroMem, if_neg (by omega)]

theorem mem_launchSlot_code {r : LaunchReq} {h : ImgHdr} (hl : ImgLayout r.image h) (k : Nat) (d : Dev) {i : Nat} (hi : i < h.codeSize) :
    tget 0 (launchSlot k r h d).mem (0x1000000 * (k / 2) + r.csBase.toNat + i) = r.image.getD (h.codePtr + i) 0 := by
  have hcode := hl.code
  have hin := hl.codeIn
  rw [mem_launchSlot_apart hl k d (by omega), mem_wrMem, if_pos (by rw [List.length_take, List.length_drop]; omega), Nat.add_sub_cancel_left,
    List.getD_eq_getElem?_getD, List.getD_eq_getElem?_getD, List.getElem?_take_of_lt hi, List.getElem?_drop]

/-- A launch beside its memory: marks, kept status and grants of the slot, its semaphores, the warps it forgets, and the slot itself. -/
theorem launchSlot_eq (k : Nat) (r : LaunchReq) (h : ImgHdr) (d : Dev) : ∃ e : Dev, e.core = d.core ∧ e.aclk = d.aclk ∧
    launchSlot k r h d = updSlot k (fun _ => launched e r h)
      (forEach [0, 1] (fun l => updLoom (2 * (k / 2) + l) (forgetSlot (k % 2))) (clearSems (k / 2) (BitVec.ofNat 64 h.semMask) e)) := by
  refine ⟨_, ?_, ?_, rfl⟩
  · exact forEach_inv (fun d => d.core) (fixups r.image h)
      (fun f d => wrMem (0x1000000 * (k / 2) + r.csBase.toNat + f.offset) (leBytes 4 (fixupVal (loomWidth d (k / 2) f.loom) f)) d) (fun _ _ => rfl) _
  · exact forEach_inv (fun d => d.aclk) (fixups r.image h)
      (fun f d => wrMem (0x1000000 * (k / 2) + r.csBase.toNat + f.offset) (leBytes 4 (fixupVal (loomWidth d (k / 2) f.loom) f)) d) (fun _ _ => rfl) _

/-- What a launch makes of the slots, the semaphores and their overflow bits. -/
theorem launchSlot_core (k : Nat) (r : LaunchReq) (h : ImgHdr) (d : Dev) :
    slotAt (launchSlot k r h d) k = launched d r h ∧ (∀ j, j ≠ k → slotAt (launchSlot k r h d) j = slotAt d j) ∧
    (launchSlot k r h d).core.sems =
      tclear d.core.sems (fun i => i / 64 == k / 2 && (BitVec.ofNat 64 h.semMask).getLsbD (i % 64)) ∧
    (launchSlot k r h d).core.semovf = tmod 0 d.core.semovf (k / 2) (fun b => b &&& ~~~BitVec.ofNat 64 h.semMask) := by
  obtain ⟨e, hcore, haclk, heq⟩ := launchSlot_eq k r h d
  rw [heq]
  refine ⟨?_, fun j hj => ?_, ?_, ?_⟩
  · rw [slotAt_updSlot_same, launched, haclk]
    rfl
  · rw [slotAt_updSlot_other _ _ hj]
    exact slotAt_of_slots (congrArg CoreGrp.slots hcore) j
  · rw [← hcore]
    rfl
  · rw [← hcore]
    rfl

theorem launchRefused_sess {fn : Nat} {ident : BitVec 17} (h : 65536 ≤ ident.toNat) (d : Dev) :
    (launchRefused fn ident d).core = d.core ∧ (launchRefused fn ident d).mem = d.mem := by
  rw [launchRefused, if_pos h]
  unfold noteFrame updSess
  split
  · exact ⟨rfl, rfl⟩
  · exact ⟨rfl, rfl⟩

end Sys2Proof.Machine

namespace Sys2Proof.Proofs

open Sys2Proof Sys2Proof.Machine

/-- Settles O22: an accepted launch is `launchSlot`, whose code, data and fixups lie in the window in this order. -/
theorem programLaunch : Obligations.ProgramLaunch := by
  unfold Obligations.ProgramLaunch
  refine ⟨?_, ?_⟩
  · intro x r s hidle hup hok hfits hargs hgated hchosen
    have hl := imgLayout_of_launchOk hok
    have hon : (s.dev.pwr.gated ++ s.dev.pwr.chosen).contains (siteKey x / 2) = false := by
      rw [siteKey_div]
      simp [hgated, hchosen]
    have hexec : exec (.programLaunch x r) s = s.goes (launchSlot (siteKey x) r (imgHdr r.image) s.dev) := by
      change execProgramLaunch x r s = _
      unfold execProgramLaunch
      dsimp only
      rw [if_pos hok]
      refine whenDev_go ?_
      rw [hidle, hfits, hargs, hon, hup]
      simp
    obtain ⟨hslot, hother, hsems, hovf⟩ := launchSlot_core (siteKey x) r (imgHdr r.image) s.dev
    rw [siteKey_div] at hsems hovf
    refine ⟨_, hexec, rfl, hslot, hother, fun q hq hbit => ⟨?_, ?_⟩, fun j hj => ?_, fun i hi => ?_⟩
    · have hkey : semKey x.core.val q / 64 = x.core.val ∧ semKey x.core.val q % 64 = q := by
        simp only [semKey]
        omega
      simp only [semGet]
      rw [hsems, tget_tclear, hkey.1, hkey.2, hbit, beq_self_eq_true]
      rfl
    · rw [hovf, tget_tmod_same, BitVec.getLsbD_and, BitVec.getLsbD_not, hbit]
      simp
    · refine mem_launchSlot_outside hl _ s.dev ?_
      rwa [siteKey_div]
    · have hcode := mem_launchSlot_code hl (siteKey x) s.dev hi
      rwa [siteKey_div] at hcode
  · intro x r s hidle hup hbad
    have hexec : exec (.programLaunch x r) s = s.goes (launchRefused r.fn.val r.ident s.dev) := by
      change execProgramLaunch x r s = _
      unfold execProgramLaunch
      dsimp only
      rw [hbad, if_neg Bool.false_ne_true]
      refine whenDev_go ?_
      rw [hidle, hup]
      rfl
    exact ⟨_, hexec, rfl, fun hid => launchRefused_sess hid s.dev⟩

/-- Settles O23: a slot without a session or a job ends with `endSlot`, which leaves every slot and byte. -/
theorem slotEnds : Obligations.SlotEnds := by
  unfold Obligations.SlotEnds
  refine ⟨?_, ?_, ?_⟩
  · intro x s hrun hhold hclear
    refine ⟨_, whenDev_go ?_, rfl, fun hid hfn => ?_⟩
    · have hall : fenceClear s.dev x.core.val x.slot.val 0 = true := fenceClear_of (m := 0) (fun b hb _ => hclear b hb)
      rw [isRunning_of hrun, hall, hhold]
      rfl
    · generalize hd : updSlot (siteKey x) (fun sl => { sl with phase := .halted, hold := .none, wdCount := 0 }) s.dev = d
      have hend : SlotsMem d (disarm x.core.val x.slot.val d) := slotsMem_disarm _ _ d
      have hk : slotAt d (siteKey x) = { s.slot x with phase := .halted, hold := .none, wdCount := 0 } := by
        rw [← hd, slotAt_updSlot_same]
      have hall : SlotsMem d (haltWork (siteKey x) (disarm x.core.val x.slot.val d)) := by
        rw [haltWork_alone (by rw [hend.slotAt, hk]; exact hid) (by rw [hend.slotAt, hk]; exact hfn)]
        exact hend.trans (slotsMem_endSlot _ _)
      refine ⟨(hall.slotAt _).trans hk, fun j hj => (hall.slotAt j).trans ?_, hall.mem.trans ?_⟩
      · rw [← hd, slotAt_updSlot_other _ _ hj]
      · rw [← hd, updSlot_mem]
  · intro x s hrun hcount
    refine ⟨_, whenDev_go ?_, rfl, fun hid hfn => ?_⟩
    · rw [isRunning_of hrun]
      exact decide_eq_true hcount
    · generalize hd : raiseEvent 0x0E 1 (siteKey x) [(s.slot x).ident.toNat, (s.slot x).pc.toNat] s.dev = d
      have hev : SlotsMem s.dev d := hd ▸ (hostOnly_raiseEvent _ _ _ _ _).slotsMem
      obtain ⟨hphase, hother, hmem⟩ := stopSlot_alone (d := d) 5 (headWord s.dev (siteKey x)) (holdKind (s.slot x).hold)
        (by rw [hev.slotAt]; exact hid) (by rw [hev.slotAt]; exact hfn)
      exact ⟨hphase, fun j hj => (hother j hj).trans (hev.slotAt j), hmem.trans hev.mem⟩
  · intro x s hended
    refine ⟨_, whenDev_go ?_, slotAt_updSlot_same _ _ _, fun j hj => slotAt_updSlot_other _ _ hj, rfl⟩
    rcases hended with h | h
    · rw [h]
      rfl
    · rw [h]
      rfl

end Sys2Proof.Proofs
end

section
/-! SUPPORT. The events of a loom (R68 to R73, R80, R82) and of the Sizing and vector units (R145, R152): what the registers of a loom
keep, and the saturating integer functions of the vector unit. -/

namespace Sys2Proof.Machine

variable {s : State} {d : Dev}

/-! The post of an operation. -/

/-- A post changes a semaphore and its overflow bit, and nothing else. -/
theorem postOpt_eq (c : Nat) (q : Option Nat) (d : Dev) :
    ∃ sems ovf, postOpt c q d = { d with core := { d.core with sems := sems, semovf := ovf } } := by
  cases q with
  | none => exact ⟨_, _, rfl⟩
  | some q =>
    change ∃ sems ovf, semPost c q 1 d = _
    unfold semPost
    dsimp only
    split
    · exact ⟨_, _, rfl⟩
    · exact ⟨_, _, rfl⟩

@[simp] theorem loomAt_postOpt (c : Nat) (q : Option Nat) (d : Dev) (j : Nat) : loomAt (postOpt c q d) j = loomAt d j := by
  obtain ⟨sems, ovf, heq⟩ := postOpt_eq c q d
  rw [heq]
  rfl

@[simp] theorem postOpt_slots (c : Nat) (q : Option Nat) (d : Dev) : (postOpt c q d).core.slots = d.core.slots := by
  obtain ⟨sems, ovf, heq⟩ := postOpt_eq c q d
  rw [heq]

@[simp] theorem postOpt_mem (c : Nat) (q : Option Nat) (d : Dev) : (postOpt c q d).mem = d.mem := by
  obtain ⟨sems, ovf, heq⟩ := postOpt_eq c q d
  rw [heq]

/-- The semaphores after a post depend on those before it alone. -/
theorem postOpt_sems_congr (c : Nat) (q : Option Nat) {b : Dev} (h : d.core.sems = b.core.sems) :
    (postOpt c q d).core.sems = (postOpt c q b).core.sems := by
  cases q with
  | none => exact h
  | some q =>
    change (semPost c q 1 d).core.sems = (semPost c q 1 b).core.sems
    unfold semPost semGet
    dsimp only
    rw [h]
    split
    · rw [semSet, semSet, h]
    · rw [semSet, semSet, h]

/-! The registers of a loom. -/

@[simp] theorem LoomSt.queue_setQueue_same (l : LoomSt) (i : Nat) (q : List LoomOp) : (l.setQueue i q).queue i = q := by
  unfold LoomSt.setQueue LoomSt.queue
  split <;> rfl

@[simp] theorem LoomSt.standby_setQueue (l : LoomSt) (i : Nat) (q : List LoomOp) : (l.setQueue i q).standby = l.standby := by
  unfold LoomSt.setQueue
  split <;> rfl

@[simp] theorem LoomSt.active_setQueue (l : LoomSt) (i : Nat) (q : List LoomOp) : (l.setQueue i q).active = l.active := by
  unfold LoomSt.setQueue
  split <;> rfl

@[simp] theorem LoomSt.flights_setQueue (l : LoomSt) (i : Nat) (q : List LoomOp) : (l.setQueue i q).flights = l.flights := by
  unfold LoomSt.setQueue
  split <;> rfl

@[simp] theorem LoomSt.lost_setLost_same (l : LoomSt) (i : Nat) (v : Bool) : (l.setLost i v).lost i = v := by
  unfold LoomSt.setLost LoomSt.lost
  split <;> rfl

/-- A lost mark changes nothing else. -/
theorem LoomSt.setLost_eq (l : LoomSt) (i : Nat) (v : Bool) : ∃ a b, l.setLost i v = { l with lost0 := a, lost1 := b } := by
  unfold LoomSt.setLost
  split <;> exact ⟨_, _, rfl⟩

theorem LoomSt.setLastLoad_eq (l : LoomSt) (i : Nat) (o : LoadOp) : ∃ a b, l.setLastLoad i o = { l with lastLoad0 := a, lastLoad1 := b } := by
  unfold LoomSt.setLastLoad
  split <;> exact ⟨_, _, rfl⟩

/-- Freed standby registers hold no warp, and at most a lost mark changes beside. -/
theorem dropStandby_eq (l : LoomSt) (i : Nat) : ∃ a b, dropStandby l i = { l with lost0 := a, lost1 := b, standby := none } := by
  cases hs : l.standby with
  | none =>
    refine ⟨l.lost0, l.lost1, ?_⟩
    rw [dropStandby, hs]
    exact congrArg (fun y => { l with standby := y }) hs
  | some w =>
    rw [dropStandby, hs]
    dsimp only
    split
    · exact ⟨_, _, rfl⟩
    · obtain ⟨a, b, heq⟩ := l.setLost_eq w.slot true
      rw [heq]
      exact ⟨_, _, rfl⟩

/-- The front of a pass: its warp is then in the active registers; at most that, the standby registers and a lost mark change. -/
theorem takeFront_eq {l : LoomSt} {i : Nat} {w : Warp} (h : passWarp l i = some w) :
    ∃ a b y, takeFront l i = { l with lost0 := a, lost1 := b, standby := y, active := some w } := by
  have hkeep : ∀ p : Warp → Bool, l.active.filter p = some w → l = { l with lost0 := l.lost0, lost1 := l.lost1, standby := l.standby, active := some w } := by
    intro p hp
    rw [← (Option.filter_eq_some_iff.mp hp).1]
  cases hs : l.standby with
  | none =>
    rw [passWarp, hs] at h
    rw [takeFront, hs]
    exact ⟨_, _, _, hkeep _ h⟩
  | some v =>
    rw [passWarp, hs] at h
    rw [takeFront, hs]
    dsimp only at h ⊢
    split at h
    case isTrue hown =>
      obtain rfl := Option.some.inj h
      rw [if_pos hown]
      split
      · split
        · exact ⟨_, _, _, rfl⟩
        · next u _ _ =>
          obtain ⟨a, b, heq⟩ := l.setLost_eq u.slot true
          rw [heq]
          exact ⟨_, _, _, rfl⟩
      · exact ⟨_, _, _, rfl⟩
    case isFalse hother =>
      rw [if_neg hother]
      exact ⟨_, _, _, hkeep _ h⟩

theorem loomOnly_updLoom (s : State) (k : Nat) (f : LoomSt → LoomSt) : LoomOnly s { s with dev := updLoom k f s.dev } k :=
  ⟨fun _ hj => loomAt_updLoom_other _ _ hj, rfl⟩

/-! The integers of the vector unit. -/

theorem xrToInt_xrInt (i : Int) : xrToInt (xrInt i) = i := by
  unfold xrInt
  by_cases hi : i < 0
  · rw [decide_eq_true hi, xrToInt, Nat.div_one]
    omega
  · rw [decide_eq_false hi, xrToInt, Nat.div_one]
    omega

theorem xrLt_xrInt (i j : Int) : xrLt (xrInt i) (xrInt j) = decide (i < j) := by
  have hval (n : Int) : (if decide (n < 0) = true then -((n.natAbs * 1 : Nat) : Int) else ((n.natAbs * 1 : Nat) : Int)) = n := by
    split
    case isTrue hn => have := of_decide_eq_true hn; omega
    case isFalse hn => have : ¬ n < 0 := fun h => hn (decide_eq_true h); omega
  change decide ((if decide (i < 0) = true then -((i.natAbs * 1 : Nat) : Int) else ((i.natAbs * 1 : Nat) : Int)) <
    (if decide (j < 0) = true then -((j.natAbs * 1 : Nat) : Int) else ((j.natAbs * 1 : Nat) : Int))) = _
  rw [hval, hval]

/-- A saturated sum or difference, as a code of 32 bits. -/
theorem runNum_sat32 (v : Int) :
    (runNum (do let r ← sat32 v; pure (codeOf 32 r))).1 = codeOf 32 (max (-2147483648) (min 2147483647 v)) := by
  unfold sat32
  by_cases hhi : 2147483647 < v
  · rw [if_pos hhi, Int.min_eq_left (Int.le_of_lt hhi)]
    rfl
  · rw [if_neg hhi, Int.min_eq_right (Int.not_lt.mp hhi)]
    by_cases hlo : v < -2147483648
    · rw [if_pos hlo, Int.max_eq_left (Int.le_of_lt hlo)]
      rfl
    · rw [if_neg hlo, Int.max_eq_right (Int.not_lt.mp hlo)]
      rfl

end Sys2Proof.Machine

namespace Sys2Proof.Proofs

open Sys2Proof Sys2Proof.Machine

/-- Settles O24: each event is one update of its loom, or that and a post; `dropStandby_eq` and `takeFront_eq` say what a fill and a
front leave. -/
theorem loomEvents : Obligations.LoomEvents := by
  unfold Obligations.LoomEvents
  refine ⟨?_, ?_, ?_, ?_, ?_, ?_⟩
  · intro c l sl s o rest hq hfree
    have hexec : exec (.warpFillStart c l sl) s = s.goes (updLoom (2 * c.val + l.val)
        (fun l => { ((dropStandby l sl.val).setQueue sl.val rest) with fill := some (o, false) }) s.dev) := by
      change execWarpFillStart c l sl s = _
      unfold execWarpFillStart headIsLoad
      dsimp only
      rw [hq]
      exact whenDev_go hfree
    obtain ⟨a, b, heq⟩ := dropStandby_eq (loomAt s.dev (2 * c.val + l.val)) sl.val
    refine ⟨_, hexec, loomOnly_updLoom _ _ _, ?_, ?_, ?_, ?_⟩
    · rw [loomAt_updLoom_same]
    · rw [loomAt_updLoom_same]
      exact LoomSt.queue_setQueue_same _ _ _
    · rw [loomAt_updLoom_same, heq]
      exact LoomSt.standby_setQueue _ _ _
    · rw [loomAt_updLoom_same, heq]
      exact LoomSt.active_setQueue _ _ _
  · intro c l s o rep hfill
    have hexec : exec (.warpLoadComplete c l) s = s.goes (postOpt c.val (if rep then none else o.q)
        (drawFree (updLoom (2 * c.val + l.val) (fun l =>
          { ((l.setLastLoad o.slot o).setLost o.slot false) with
            fill := none
            standby := some (readWarp s.dev o) }) s.dev))) := by
      change execWarpLoadComplete c l s = _
      unfold execWarpLoadComplete
      dsimp only
      rw [hfill]
      exact whenDev_go rfl
    obtain ⟨a, b, h1⟩ := (loomAt s.dev (2 * c.val + l.val)).setLastLoad_eq o.slot o
    obtain ⟨a', b', h2⟩ := ((loomAt s.dev (2 * c.val + l.val)).setLastLoad o.slot o).setLost_eq o.slot false
    refine ⟨_, hexec, ?_, ?_, ?_, ?_, ?_, ?_, ?_⟩
    · rw [loomAt_postOpt, loomAt_drawFree, loomAt_updLoom_same]
    · rw [loomAt_postOpt, loomAt_drawFree, loomAt_updLoom_same]
    · rw [loomAt_postOpt, loomAt_drawFree, loomAt_updLoom_same, h2, h1]
    · rw [loomAt_postOpt, loomAt_drawFree, loomAt_updLoom_same, h2, h1]
    · exact postOpt_sems_congr _ _ (by rw [drawFree_core, updLoom_core_sems])
    · rw [postOpt_slots, drawFree_core, updLoom_core_slots]
    · rw [postOpt_mem, drawFree_mem, updLoom_mem]
  · intro c l sl s o hlost hpass hload hfree
    have hexec : exec (.warpReload c l sl) s = s.goes (updLoom (2 * c.val + l.val)
        (fun l => { ((dropStandby l sl.val).setLost sl.val false) with fill := some (o, true) }) s.dev) := by
      change execWarpReload c l sl s = _
      unfold execWarpReload
      dsimp only
      rw [hload]
      exact whenDev_go (by rw [hlost, hpass, hfree]; rfl)
    refine ⟨_, hexec, loomOnly_updLoom _ _ _, ?_, ?_, ?_⟩
    · rw [loomAt_updLoom_same]
    · rw [loomAt_updLoom_same]
      exact LoomSt.lost_setLost_same _ _ _
    · rw [loomAt_updLoom_same]
      obtain ⟨a, b, h1⟩ := dropStandby_eq (loomAt s.dev (2 * c.val + l.val)) sl.val
      obtain ⟨a', b', h2⟩ := (dropStandby (loomAt s.dev (2 * c.val + l.val)) sl.val).setLost_eq sl.val false
      rw [h2, h1]
      rfl
  · intro c l s sl o rest w hpick hq hwarp
    have hexec : exec (.loomPassStart c l) s = s.goes (updLoom (2 * c.val + l.val) (fun l =>
        { ((takeFront l sl).setQueue sl rest) with
          flights := ((takeFront l sl).setQueue sl rest).flights ++ [{ op := o, warp := w, rows := drawRows o.blk o.win }]
          served := sl }) s.dev) := by
      change execLoomPassStart c l s = _
      unfold execLoomPassStart
      dsimp only
      rw [hpick]
      dsimp only
      rw [hq, hwarp]
      exact whenDev_go rfl
    obtain ⟨a, b, y, heq⟩ := takeFront_eq hwarp
    refine ⟨_, hexec, loomOnly_updLoom _ _ _, ?_, ?_, ?_, ?_⟩
    · rw [loomAt_updLoom_same, heq]
      dsimp only
      rw [LoomSt.flights_setQueue]
    · rw [loomAt_updLoom_same, heq]
      exact LoomSt.active_setQueue _ _ _
    · rw [loomAt_updLoom_same]
    · rw [loomAt_updLoom_same]
      exact LoomSt.queue_setQueue_same _ _ _
  · intro c l s hmark
    exact ⟨_, whenDev_go hmark, loomOnly_updLoom _ _ _, loomAt_updLoom_same _ _ _⟩
  · intro c l e s f rest htake hrows
    have hexec : exec (.passComplete c l e) s = s.goes (postOpt c.val f.op.q
        (let d := updLoom (2 * c.val + l.val) (fun u => { u with flights := rest }) s.dev
         let d := match f.op.win with
           | some w => if winEmpty w then drawEmpty (slotKey c.val f.op.slot) f.op.blk.ws d else d
           | none => d
         if e then d else drawFree (runPass c.val f d))) := by
      change execPassComplete c l e s = _
      unfold execPassComplete
      dsimp only
      rw [htake]
      exact whenDev_go (decide_eq_true hrows)
    refine ⟨_, hexec, fun he hwin => ?_, rfl⟩
    subst he
    dsimp only
    rw [hwin, if_pos rfl]
    refine ⟨?_, ?_, ?_, ?_⟩
    · rw [loomAt_postOpt, loomAt_updLoom_same]
    · rw [postOpt_mem, updLoom_mem]
    · rw [postOpt_slots, updLoom_core_slots]
    · exact postOpt_sems_congr _ _ (updLoom_core_sems _ _ _)

/-- Settles O25: the operation that runs completes in one step; `runNum_sat32` and `xrLt_xrInt` give the integers. -/
theorem unitCompletes : Obligations.UnitCompletes := by
  unfold Obligations.UnitCompletes
  refine ⟨?_, ?_⟩
  · intro c v s o rest hbegun
    have hexec : exec (.unitOperationComplete c v) s = s.goes (unitKick c.val v.toNat (postOpt c.val o.q
        (drawFree (runUnit c.val o (updUnit (2 * c.val + v.toNat) (fun u => { u with begun := rest }) s.dev))))) := by
      change execUnitOperationComplete c v s = _
      unfold execUnitOperationComplete
      dsimp only
      rw [hbegun]
      exact whenDev_go rfl
    exact ⟨_, hexec, rfl, rfl⟩
  · intro md a b tc z
    refine ⟨?_, ?_, ?_⟩
    · have hadd := runNum_sat32 (xrToInt (xrInt a.toInt) + xrToInt (xrInt b.toInt))
      refine Eq.trans hadd ?_
      rw [xrToInt_xrInt, xrToInt_xrInt]
    · have hsub := runNum_sat32 (xrToInt (xrInt a.toInt) - xrToInt (xrInt b.toInt))
      refine Eq.trans hsub ?_
      rw [xrToInt_xrInt, xrToInt_xrInt]
    · rw [vecScalar_clt, runNum_pure, xrLt_xrInt]
      by_cases h : a.toInt < b.toInt
      · rw [if_pos h, decide_eq_true h]
        rfl
      · rw [if_neg h, decide_eq_false h]
        rfl

end Sys2Proof.Proofs
end

section
/-! SUPPORT. The events of stream descriptors (R167, R174, R176, R181, R184, R189) and of Quire transfers (R154, R186, R187). -/

namespace Sys2Proof.Machine

variable {x : Site} {s : State} {d : Dev}

/-! Engines. -/

/-- An update of an engine is what it makes of the engine's present state. -/
theorem updEng_congr {k : Nat} {f g : StrmSt → StrmSt} (h : f (engAt d k) = g (engAt d k)) : updEng k f d = updEng k g d := by
  rw [updEng, updEng, tmod, tmod]
  exact congrArg (fun v => { d with strm.engines := tset {} d.strm.engines k v }) h

@[simp] theorem engAt_postOpt (c : Nat) (q : Option Nat) (d : Dev) (j : Nat) : engAt (postOpt c q d) j = engAt d j := by
  obtain ⟨sems, ovf, heq⟩ := postOpt_eq c q d
  rw [heq]
  rfl

theorem queue_updRun (key i : Nat) (p : StrmRun → Bool) (g : StrmRun → StrmRun) (d : Dev) :
    (engAt (updRun key i p g d) key).queue i = mapRun p g ((engAt d key).queue i) := by
  rw [updRun, engAt_updEng_same, StrmSt.queue_setQueue_same]

@[simp] theorem keepStatus_mem (k st : Nat) (info : List Nat) (d : Dev) : (keepStatus k st info d).mem = d.mem := by
  unfold keepStatus
  split <;> rfl

/-- The credit of an engine is granted before every other wait whose count is short. -/
theorem grantable_of {c q n rank : Nat} (hn : n ≤ semGet d c q) (h : ∀ w ∈ claims d c q, w.1 < rank → semGet d c q < w.2) :
    grantable d c q n rank = true := by
  simp only [grantable, Bool.and_eq_true, decide_eq_true_eq, List.all_eq_true, Bool.not_eq_true', Bool.and_eq_false_iff, decide_eq_false_iff_not]
  refine ⟨hn, fun w hw => ?_⟩
  by_cases hr : w.1 < rank
  · exact .inr (Nat.not_le.mpr (h w hw hr))
  · exact .inl hr

theorem findRun_holds {p : StrmRun → Bool} {l : List StrmEntry} {r : StrmRun} (h : findRun p l = some r) : p r = true := by
  induction l with
  | nil => cases h
  | cons e l ih =>
    cases e with
    | cancel q => exact ih h
    | desc y =>
      rw [findRun] at h
      split at h
      case isTrue hy => exact Option.some.inj h ▸ hy
      case isFalse hy => exact ih h

/-- A descriptor that begins is the one that issues its requests next. -/
theorem currentRun_started {key i : Nat} {r : StrmRun} {g : StrmRun → StrmRun} (hcur : currentRun ((engAt d key).queue i) = some r)
    (hg : g r = { r with started := true }) (hleft : r.next < totalElems r.blk) :
    currentRun ((engAt (updRun key i (fun r => !runIssued r) g d) key).queue i) = some { r with started := true } := by
  have hopen : runIssued r = false := by
    simpa using findRun_holds hcur
  rw [queue_updRun, ← hg]
  refine findRun_mapRun hcur ?_
  rw [hg]
  simp only [runIssued, Bool.or_eq_false_iff] at hopen
  simp [runIssued, hopen.1.1, hopen.1.2, hleft]

/-- The record of a descriptor that completes stands where its block says. -/
theorem rdMem_finishRun {k key : Nat} {r : StrmRun} {rest : List StrmEntry} (h : r.blk.cmplEn = true) :
    rdMem (finishRun k key r rest d) (r.base + r.blk.cmpl) 32 = (strmRecord r).flatMap (leBytes 4) := by
  have hmem : ∀ b : Dev, (wrMem (r.base + r.blk.cmpl) ((strmRecord r).flatMap (leBytes 4)) b).mem = (finishRun k key r rest d).mem →
      rdMem (finishRun k key r rest d) (r.base + r.blk.cmpl) 32 = (strmRecord r).flatMap (leBytes 4) := by
    intro b hb
    have hlen : ((strmRecord r).flatMap (leBytes 4)).length = 32 := length_words _
    have hread := rdMem_wrMem (r.base + r.blk.cmpl) ((strmRecord r).flatMap (leBytes 4)) b
    rw [hlen, rdMem, hb] at hread
    exact hread
  refine hmem (if r.cancelled && r.started then resetLinks (k / 2) r.blk d else d) ?_
  rw [finishRun, if_pos h, postOpt_mem]
  refine Eq.symm ?_
  exact (keepStatus_mem _ _ _ _)

theorem queue_finishRun {key : Nat} {r : StrmRun} {rest : List StrmEntry} :
    (engAt (finishRun (siteKey x) key r rest d) key).queue x.slot.val = rest := by
  rw [finishRun, engAt_postOpt, engAt_updEng_same, siteKey_mod, StrmSt.queue_setArmed, StrmSt.queue_setQueue_same]

/-! Transfers. -/

/-- A transfer that may complete now. -/
theorem quireReady {c : Nat} {o : QuireOp} {ops : List QuireOp} (hstart : o.started = true) (hpage : o.page = none) (hord : quireOrdered c ops o = true) :
    (o.started && o.page.isNone && quireOrdered c ops o) = true := by
  rw [hstart, hpage, hord]
  rfl

/-- A COPY with no fault on the way writes its bytes and ends. -/
theorem quireCopyData_ok {k : Nat} {o : QuireOp} {bs : List Byte} (hfault : quireFault d k o = none) (hent : isEntPort o.blk = false)
    (hdst : o.blk.dstSpace ≠ 3) :
    quireCopyData k o (.ok bs) d = quireEnd k stSuccess 0 o (quirePost k o.blk (quireWrite k o bs d)) := by
  rw [quireCopyData, hent, hfault]
  exact if_neg (by simp [hdst])

end Sys2Proof.Machine

namespace Sys2Proof.Proofs

open Sys2Proof Sys2Proof.Machine

/-- Settles O26: each event acts on the current descriptor (`queue_updRun`) or on the head of the queue. -/
theorem streamEvents : Obligations.StreamEvents := by
  unfold Obligations.StreamEvents
  refine ⟨?_, ?_, ?_, ?_, ?_, ?_, ?_, ?_, ?_⟩
  · intro x e s r he hcur hnew
    have hexec : exec (.streamStart x e) s = s.goes (updRun (engKey x.core.val e.val) x.slot.val (fun r => !runIssued r)
        (fun r => match startFault s.dev (siteKey x) r with
          | some a => { r with term := some (stBadAddr, a) }
          | none => { r with started := true }) s.dev) := by
      change execStreamStart x e s = _
      unfold execStreamStart
      dsimp only
      rw [hcur]
      exact whenDev_go (by rw [decide_eq_true he, hnew]; rfl)
    refine ⟨_, hexec, rfl, fun j hj => engAt_updEng_other _ _ hj, fun hok hleft => ?_, fun a _ => queue_updRun _ _ _ _ _⟩
    exact currentRun_started hcur (by rw [hok]) hleft
  · intro x e pt s r q n hcur hneed hn hmax hclaims
    have hexec : exec (.tileCreditTaken x e pt) s = s.goes (semTake x.core.val q n
        (updRun (engKey x.core.val e.val) x.slot.val (fun r => !runIssued r)
          (fun r => if pt then { r with ptTaken := r.next / tileElems r.blk + 1 } else { r with pkTaken := r.next / tileElems r.blk + 1 }) s.dev)) := by
      change execTileCreditTaken x e pt s = _
      unfold execTileCreditTaken
      dsimp only
      rw [hcur]
      dsimp only
      rw [hneed]
      exact whenDev_go (grantable_of hn hclaims)
    refine ⟨_, hexec, ?_, fun j hj => tget_tset_other _ _ _ hj, rfl⟩
    refine (semGet_semSet_same _ _ _ _).trans ?_
    exact Nat.min_eq_right (Nat.le_trans (Nat.sub_le _ _) hmax)
  · intro c e s sl r hslot hcur
    by_cases hfar : r.blk.patSpace = 3
    · have hexec : ∃ d, exec (.streamRequestIssue c e) s = s.goes d := by
        change ∃ d, execStreamRequestIssue c e s = _
        unfold execStreamRequestIssue
        dsimp only
        rw [hslot]
        dsimp only
        rw [hcur]
        dsimp only
        split
        · exact ⟨_, whenDev_go rfl⟩
        · exact ⟨_, whenDev_go rfl⟩
      obtain ⟨d, hd⟩ := hexec
      exact ⟨_, hd, rfl, fun h => absurd hfar h⟩
    · have hexec : exec (.streamRequestIssue c e) s = s.goes (updRun (engKey c.val e.val) sl (fun r => !runIssued r)
          (fun y => { y with
            next := y.next + requestLen r.blk (totalElems r.blk - r.next) r.next
            reqs := y.reqs ++
              [{ id := s.dev.nextId, first := r.next, count := requestLen r.blk (totalElems r.blk - r.next) r.next, ended := none }] })
          (updEng (engKey c.val e.val) (fun st => { st with served := sl }) { s.dev with nextId := s.dev.nextId + 1 })) := by
        change execStreamRequestIssue c e s = _
        unfold execStreamRequestIssue
        dsimp only
        rw [hslot]
        dsimp only
        rw [hcur]
        dsimp only
        rw [beq_false_of_ne hfar]
        exact whenDev_go rfl
      exact ⟨_, hexec, rfl, fun _ => rfl⟩
  · intro x e id bs s p q hrun hreq hspace hlen
    change execStreamRequestComplete x e id (.ok bs) s = _
    unfold execStreamRequestComplete
    dsimp only
    rw [hrun]
    dsimp only
    rw [hreq, beq_false_of_ne hspace]
    refine whenDev_go ?_
    split
    · next h => cases h
    · next h _ => exact rfl
    · next h _ => cases h; exact beq_iff_eq.mpr hlen
    · next h _ => cases h
    · next h _ _ => cases h
  · intro x e id r a s p q hrun hreq hspace hended
    change execStreamRequestComplete x e id r s = _
    unfold execStreamRequestComplete
    dsimp only
    rw [hrun]
    dsimp only
    rw [hreq, hspace]
    dsimp only
    rw [if_pos (beq_self_eq_true 3), hended]
    cases a with
    | ok bs => exact whenDev_go rfl
    | failed st a => exact whenDev_go rfl
  · intro x e s r rest he hq hdone
    have hexec : exec (.streamComplete x e) s = s.goes (finishRun (siteKey x) (engKey x.core.val e.val) r rest s.dev) := by
      change execStreamComplete x e s = _
      unfold execStreamComplete
      dsimp only
      rw [if_neg (by simp; omega), hq]
      exact whenDev_go hdone
    exact ⟨_, hexec, queue_finishRun, fun h => rdMem_finishRun h, rfl⟩
  · intro x e s q rest he hq
    change execStreamComplete x e s = _
    unfold execStreamComplete
    dsimp only
    rw [if_neg (by simp; omega), hq]
    exact whenDev_go rfl
  · intro x e s c he hc hops
    change execStreamComplete x e s = _
    unfold execStreamComplete
    dsimp only
    rw [if_pos (by simp [he]), hc]
    refine whenDev_go (List.all_eq_true.mpr fun o ho => ?_)
    by_cases hs : o.slot = x.slot.val
    · rw [decide_eq_false (Nat.not_lt.mpr (hops o ho hs)), Bool.and_false]
      rfl
    · rw [beq_false_of_ne hs]
      rfl
  · intro x e s r rest he hq hcancel hreqs hold
    have hexec : exec (.cancelAbandon x e) s = s.goes (updRun (engKey x.core.val e.val) x.slot.val (fun q => q.cancelled)
        (fun q => { q with reqs := [] }) s.dev) := by
      change execCancelAbandon x e s = _
      unfold execCancelAbandon
      dsimp only
      rw [hq]
      exact whenDev_go (by simp [he, hcancel, hreqs, hold])
    rw [hexec, updRun]
    refine congrArg s.goes (updEng_congr ?_)
    rw [hq, mapRun, if_pos hcancel]

/-- Settles O27: a transfer that may go on is `quireStart`, `quireSignalHere`, `quireCopyData` or `quireAnswer` of the state. -/
theorem quireEvents : Obligations.QuireEvents := by
  unfold Obligations.QuireEvents
  refine ⟨?_, ?_, ?_, ?_, ?_, ?_⟩
  · intro c id s o hop hnew hn hclaims
    change execQuireWaitGrant c id s = _
    unfold execQuireWaitGrant
    dsimp only
    rw [hop]
    exact whenDev_go (by rw [hnew, grantable_of hn hclaims]; rfl)
  · intro c id r s o k hop hstart hpage hord hsig hdst hcore hreach hslot
    have hdiv : slotKey c.val o.slot / 2 = c.val := by
      simp only [slotKey]
      omega
    have hpost : quirePost (slotKey c.val o.slot) o.blk s.dev =
        if o.blk.postEn then semPost k o.blk.postQ o.blk.count s.dev else s.dev := by
      rw [quirePost, hdiv, hcore, hsig]
      cases o.blk.postEn <;> rfl
    change execQuireComplete c id r s = _
    unfold execQuireComplete
    dsimp only
    rw [hop]
    dsimp only
    rw [if_pos hsig, if_neg (by simp [hdst])]
    refine (whenDev_go (quireReady hstart hpage hord)).trans (congrArg s.goes ?_)
    rw [quireSignalHere, hdiv, hcore]
    dsimp only
    rw [if_pos hreach, hpost]
    rfl
  · intro c id r e s o hop hstart hpage hord hsig hnone hdata hrecv hcoll
    change execQuireComplete c id r s = _
    unfold execQuireComplete
    dsimp only
    rw [hop]
    dsimp only
    rw [if_neg (by simp [hsig]), if_neg (by simp [hnone]), hdata]
    exact whenDev_go (by rw [quireReady hstart hpage hord, hrecv, hcoll]; rfl)
  · intro k o bs d hfault hent hdst
    rw [quireCopyData_ok hfault hent (by omega), quireWrite, if_pos (by simp [hdst])]
    rfl
  · intro k o bs d hfault hent hwin hhost hdev
    rw [quireCopyData_ok hfault hent hdev, quireWrite, if_neg (by simp [hhost]), if_neg (by simp [hent]), hwin]
    rfl
  · intro c id r e s o hop hstart hpage hord hended hkind
    change execQuireComplete c id r s = _
    unfold execQuireComplete
    dsimp only
    rw [hop]
    dsimp only
    rcases hkind with ⟨hsig, hdst⟩ | ⟨hsig, hdata⟩
    · rw [if_pos hsig, if_pos (by simp [hdst]), hended]
      exact whenDev_go (quireReady hstart hpage hord)
    · rw [if_neg (by simp [hsig]), if_pos hdata, hended]
      exact whenDev_go (quireReady hstart hpage hord)

end Sys2Proof.Proofs
end

section
/-! SUPPORT. The leases of the Felt (R222, R225, R234 to R239, R243, R247), the decoder's units (R252, R254, R262 to R268) and the loading
of bundles (R277 to R279, R391). -/

namespace Sys2Proof.Machine

variable {s : State} {d : Dev}

/-- Two conditionals with equivalent conditions and the same branches. -/
theorem ite_of_iff {α : Type} {P Q : Prop} [Decidable P] [Decidable Q] {x y u v : α} (h : P ↔ Q) (hx : x = u) (hy : y = v) :
    (if P then x else y) = if Q then u else v := ite_congr (propext h) (fun _ => hx) (fun _ => hy)

/-! Posts. -/

@[simp] theorem semPost_mem (c q n : Nat) (d : Dev) : (semPost c q n d).mem = d.mem := by
  unfold semPost
  dsimp only
  split <;> rfl

@[simp] theorem semPost_felt (c q n : Nat) (d : Dev) : (semPost c q n d).felt = d.felt := by
  unfold semPost
  dsimp only
  split <;> rfl

@[simp] theorem semPost_slots (c q n : Nat) (d : Dev) : (semPost c q n d).core.slots = d.core.slots := by
  unfold semPost
  dsimp only
  split <;> rfl

theorem semGet_semPost_same (c q n : Nat) (d : Dev) : semGet (semPost c q n d) c q = min 65535 (semGet d c q + n) := by
  unfold semPost
  dsimp only
  split
  case isTrue hover =>
    rw [Nat.min_eq_left (Nat.le_of_lt hover)]
    exact (semGet_semSet_same c q 65535 d).trans (Nat.min_self _)
  case isFalse hfits => exact semGet_semSet_same _ _ _ _

theorem rdMem_semPost (c q n : Nat) (d : Dev) (a m : Nat) : rdMem (semPost c q n d) a m = rdMem d a m := by
  rw [rdMem, rdMem, semPost_mem]

theorem rdMem_wrMem_length {bs : List Byte} {n : Nat} (h : bs.length = n) (a : Nat) (d : Dev) : rdMem (wrMem a bs d) a n = bs := by
  rw [← h, rdMem_wrMem]

/-! Leases. -/

theorem leaseAt_of_felt {b : Dev} (h : d.felt.leases = b.felt.leases) (k : Nat) : leaseAt d k = leaseAt b k := by
  rw [leaseAt, leaseAt, h]

@[simp] theorem leaseAt_semPost (c q n : Nat) (d : Dev) (k : Nat) : leaseAt (semPost c q n d) k = leaseAt d k := by
  rw [leaseAt, leaseAt, semPost_felt]

@[simp] theorem leaseAt_wrMem (a : Nat) (bs : List Byte) (d : Dev) (k : Nat) : leaseAt (wrMem a bs d) k = leaseAt d k := rfl

@[simp] theorem leaseAt_setF (key lo n v : Nat) (d : Dev) (k : Nat) : leaseAt (setF key lo n v d) k = leaseAt d k := rfl

@[simp] theorem setLease_core (e w : Nat) (l : Lease) (d : Dev) : (setLease e w l d).core = d.core := rfl

@[simp] theorem showEng_felt (e : Nat) (d : Dev) : (showEng e d).felt = d.felt := rfl

@[simp] theorem setLease_opens (e w : Nat) (l : Lease) (d : Dev) : (setLease e w l d).felt.opens = d.felt.opens := by
  rw [setLease, showEng_felt]

@[simp] theorem leaseAt_setLease_same (e w : Nat) (l : Lease) (d : Dev) : leaseAt (setLease e w l d) (leaseKey e w) = some l := by
  rw [setLease, leaseAt, showEng_felt]
  exact tget_tset_same none d.felt.leases (leaseKey e w) (some l)

theorem leaseAt_setLease_other {e w j : Nat} (l : Lease) (d : Dev) (h : j ≠ leaseKey e w) : leaseAt (setLease e w l d) j = leaseAt d j := by
  rw [setLease, leaseAt, showEng_felt]
  exact tget_tset_other none d.felt.leases (some l) h

@[simp] theorem leaseAt_freeWindow_same (e w : Nat) (d : Dev) : leaseAt (freeWindow e w d) (leaseKey e w) = none := by
  rw [freeWindow, leaseAt, showEng_felt]
  exact tget_tset_same none d.felt.leases (leaseKey e w) none

@[simp] theorem length_statusBlock (l : Lease) : (statusBlock l).length = 32 := length_words _

/-- A command of a lease that has not been dropped completes: the lease, its status block and its post. -/
theorem completeCmd_facts {e w st : Nat} {l : Lease} (hdrop : l.dropped = false) (hcount : l.cmdCount < 2 ^ 32 - 1) :
    leaseAt (completeCmd e w st l d) (leaseKey e w) = some { l with cmdStatus := st, cmdCount := l.cmdCount + 1 } ∧
    rdMem (completeCmd e w st l d) (feltWindow e w) 32 = statusBlock { l with cmdStatus := st, cmdCount := l.cmdCount + 1 } ∧
    semGet (completeCmd e w st l d) (l.slotKey / 2) l.doneQ = min 65535 (semGet d (l.slotKey / 2) l.doneQ + 1) := by
  have hn : (l.cmdCount + 1) % 2 ^ 32 = l.cmdCount + 1 := Nat.mod_eq_of_lt (by omega)
  have heq : completeCmd e w st l d = semPost (l.slotKey / 2) l.doneQ 1 (wrMem (feltWindow e w)
      (statusBlock { l with cmdStatus := st, cmdCount := l.cmdCount + 1 })
      (setLease e w { l with cmdStatus := st, cmdCount := l.cmdCount + 1 } d)) := by
    rw [completeCmd, hn, if_neg (by rw [hdrop]; exact Bool.false_ne_true)]
  rw [heq]
  refine ⟨?_, ?_, ?_⟩
  · rw [leaseAt_semPost, leaseAt_wrMem, leaseAt_setLease_same]
  · rw [rdMem_semPost, rdMem_wrMem_length (length_statusBlock _)]
  · rw [semGet_semPost_same, semGet, wrMem_core, setLease_core, semGet]

/-- The head command of the window whose turn it is runs. -/
theorem onHead_go {e : Fin 16} {w : Fin 5} {pick : EntCmd → Bool} {f : EntCmd → Lease → Dev → Dev} {l : Lease} {c : EntCmd} {cs : List EntCmd}
    (hl : leaseAt s.dev (leaseKey e.val w.val) = some l) (hc : l.cmds = c :: cs) (hpick : pick c = true) (hturn : nextServed s.dev e.val = some w.val) :
    onHead e w pick f s = s.goes (f c { l with cmds := cs }
      (updEngSt e.val (fun x => if l.live then { x with servedLive := w.val } else { x with served := w.val }) s.dev)) := by
  unfold onHead
  dsimp only
  rw [hl]
  dsimp only
  rw [hc]
  exact whenDev_go (by rw [hpick, hturn]; exact beq_self_eq_true _)

/-- What a grant makes of the requests, the leases, the reply record and the slots. -/
theorem grantLease_facts (o : OpenReq) (e w fs : Nat) (load : Bool) (d : Dev) :
    (grantLease o e w fs load d).felt.opens = d.felt.opens.filter (fun x => x.slotKey != o.slotKey) ∧
    (∃ l, leaseAt (grantLease o e w fs load d) (leaseKey e w) = some l ∧ l.slotKey = o.slotKey ∧ l.phase = .opened ∧ l.cmds = [] ∧ l.famSlot = fs) ∧
    (∀ j, j ≠ leaseKey e w → leaseAt (grantLease o e w fs load d) j = leaseAt d j) ∧
    rdMem (grantLease o e w fs load d) (dispatchReply + 32 * o.slotKey) 32 =
      leBytes 4 (0x00 + e * 256 + w * 4096 + (tget 0 d.felt.grants o.slotKey + 1) % 65536 * 65536) ++ leBytes 4 0 ++
        leBytes 8 (feltWindow e w) ++ leBytes 16 0 ∧
    (grantLease o e w fs load d).core.slots = d.core.slots := by
  unfold grantLease
  extract_lets n g d1 d2 l d3
  have hd2 : d2.felt.opens = d1.felt.opens ∧ d2.felt.leases = d.felt.leases ∧ d2.core.slots = d.core.slots := by
    simp only [d2]
    split
    · exact ⟨rfl, rfl, rfl⟩
    · exact ⟨rfl, rfl, rfl⟩
  obtain ⟨hopens, hleases, hslots⟩ := hd2
  unfold replyRecord
  refine ⟨?_, ⟨l, ?_, rfl, rfl, rfl, rfl⟩, fun j hj => ?_, ?_, ?_⟩
  · rw [semPost_felt, wrMem_felt, setF_felt, setLease_opens, hopens]
  · rw [leaseAt_semPost, leaseAt_wrMem, leaseAt_setF, leaseAt_setLease_same]
  · rw [leaseAt_semPost, leaseAt_wrMem, leaseAt_setF]
    exact (leaseAt_setLease_other l d2 hj).trans (leaseAt_of_felt hleases j)
  · rw [rdMem_semPost, rdMem_wrMem_length (by simp [length_leBytes])]
    simp only [stSuccess, n]
  · rw [semPost_slots, wrMem_core, setF_core, setLease_core, hslots]

/-! Units of a decode frame. -/

/-- The head unit of a session is handled. -/
theorem onUnit_go {i : BitVec 16} {type : Nat} {ok : Sess → List Byte → Bool} {f : Sess → List Byte → Dev → Dev} {x : Sess} {u b : List Byte}
    (hu : headUnit s.dev i.toNat = some (x, u)) (hb : unitBody u = some b) (hne : u ≠ []) (ht : unitType u = type) (hok : ok x b = true) :
    onUnit i type ok f s = s.goes (f x b (updFrame i.toNat (fun g => { g with units := g.units.tail }) s.dev)) := by
  unfold onUnit
  dsimp only
  rw [hu]
  dsimp only
  rw [hb]
  exact whenDev_go (by simp [hne, ht, hok])

theorem headUnit_sess {i : Nat} {x : Sess} {u : List Byte} (h : headUnit d i = some (x, u)) : sessAt d i = some x := by
  unfold headUnit at h
  cases hs : sessAt d i with
  | none => rw [hs] at h; cases h
  | some y =>
    rw [hs] at h
    dsimp only at h
    cases hf : y.frame with
    | none => rw [hf] at h; cases h
    | some g =>
      rw [hf] at h
      dsimp only at h
      split at h
      · obtain ⟨v, -, hv⟩ := Option.map_eq_some_iff.mp h
        rw [(Prod.mk.inj hv).1]
      · cases h

theorem decAt_updFrame {i : Nat} {x : Sess} (h : sessAt d i = some x) (f : Frame → Frame) : decAt (updFrame i f d) i = x.dec := by
  rw [updFrame, updSess, h]
  dsimp only
  rw [decAt, setSess, sessAt, tget_tset_same]

/-! Bundles. -/

/-- The bundles while a load begins. -/
theorem bundleAt_loading (uid a n : Nat) (t : Tbl (Option Bundle)) (d : Dev) (j : Nat) :
    bundleAt (beginDesc uid (allocRegion a n { d with sess.bundles := t })) j = tget none t j := rfl

end Sys2Proof.Machine

namespace Sys2Proof.Proofs

open Sys2Proof Sys2Proof.Machine

/-- Settles O30: a grant is `grantLease`, the head command runs by `onHead_go`, and a completion is `completeCmd_facts`. -/
theorem feltLeases : Obligations.FeltLeases := by
  unfold Obligations.FeltLeases
  refine ⟨?_, ?_, ?_, ?_, ?_, ?_⟩
  · intro s o e w fs load hnext
    have hexec : exec .leaseGrant s = s.goes (grantLease o e w fs load s.dev) := by
      change execLeaseGrant s = _
      unfold execLeaseGrant
      dsimp only
      rw [hnext]
      exact whenDev_go rfl
    exact ⟨_, hexec, rfl, grantLease_facts o e w fs load s.dev⟩
  · intro e fs bs s f b img hfam hready hb himg hclean
    change execFamilyCopy e fs (.ok bs) s = _
    unfold execFamilyCopy
    dsimp only
    rw [hfam]
    dsimp only
    rw [hb]
    dsimp only
    rw [himg]
    exact whenDev_go (by rw [hready, hclean]; rfl)
  · intro e fs a s f b img hfam hready hb himg hlo hhi
    change execFamilyCopy e fs (.failed 0x41 a) s = _
    unfold execFamilyCopy
    dsimp only
    rw [hfam]
    dsimp only
    rw [hb]
    dsimp only
    rw [himg]
    refine whenDev_go ?_
    rw [hready, inside, decide_eq_true hlo, decide_eq_true hhi]
    rfl
  · intro e w s l cs hl hturn
    refine ⟨fun ok st last param count base hc => ?_, fun ok n off len hc => ?_, fun ok n hc => ?_, fun hc => ?_, fun hc => ?_⟩
    · change execStep e w s = _
      unfold execStep
      exact onHead_go hl hc rfl hturn
    · change execLoad e w s = _
      unfold execLoad
      exact onHead_go hl hc rfl hturn
    · change execClose e w s = _
      unfold execClose
      exact onHead_go hl hc rfl hturn
    · have hexec : exec (.release e w) s = s.goes (freeWindow e.val w.val (completeCmd e.val w.val 0x00 { l with cmds := cs }
          (updEngSt e.val (fun x => if l.live then { x with servedLive := w.val } else { x with served := w.val }) s.dev))) := by
        change execRelease e w s = _
        unfold execRelease
        exact onHead_go hl hc rfl hturn
      exact ⟨_, hexec, leaseAt_freeWindow_same _ _ _, rfl⟩
    · change execRelease e w s = _
      unfold execRelease
      exact onHead_go hl hc rfl hturn
  · intro e w st l d hdrop hcount
    exact completeCmd_facts hdrop hcount
  · intro e w s l hl hdrop
    change execLeaseForceRelease e w s = _
    unfold execLeaseForceRelease
    dsimp only
    rw [hl]
    exact whenDev_go hdrop

/-- Settles O31: each type of unit is `onUnit_go` with what the decoder does for it. -/
theorem decoderUnits : Obligations.DecoderUnits := by
  unfold Obligations.DecoderUnits
  intro i s x u hu d
  have hdec : decAt d i.toNat = x.dec := decAt_updFrame (headUnit_sess hu) _
  refine ⟨fun b hb hne => ⟨fun ht => ?_, fun ht => ⟨fun hph => ?_, fun hph => ?_⟩, fun ht => ⟨fun hbad => ?_, fun e w r f hok hl hopen => ?_⟩,
    fun ht => ⟨fun hbad => ?_, fun e w r hok hl => ?_⟩, fun ht => ⟨fun hbad => ?_, fun hlen hcrc hbits hph hanchor hopen => ?_⟩,
    fun ht => ?_, fun ht => ⟨fun hbody => ?_, fun hbody hph => ?_, fun hbody hph => ?_, fun hbody hph => ?_⟩, fun ht => ?_⟩, fun hbad => ?_⟩
  · change execSequenceHeader i s = _
    unfold execSequenceHeader
    refine (onUnit_go hu hb hne ht rfl).trans (congrArg s.goes ?_)
    exact ite_of_iff beq_iff_eq rfl rfl
  · change execFrameHeader i s = _
    unfold execFrameHeader
    refine (onUnit_go hu hb hne ht rfl).trans (congrArg s.goes ?_)
    rcases hph with h | h
    · rw [h]
    · rw [h]
  · change execFrameHeader i s = _
    unfold execFrameHeader
    refine (onUnit_go hu hb hne ht rfl).trans (congrArg s.goes ?_)
    rcases hph with h | h
    · rw [h]
    · rw [h]
  · change execSlice i none s = _
    unfold execSlice
    refine (onUnit_go hu hb hne ht (by rw [if_neg (by simp [hbad])]; rfl)).trans (congrArg s.goes ?_)
    rfl
  · change execSlice i (some (e, w)) s = _
    unfold execSlice
    refine (onUnit_go hu hb hne ht (by rw [if_pos hok, hl]; rfl)).trans (congrArg s.goes ?_)
    dsimp only
    rw [hl, hopen]
    dsimp only
    exact ite_of_iff beq_iff_eq rfl rfl
  · change execAudioFrame i none s = _
    unfold execAudioFrame
    exact (onUnit_go hu hb hne ht (by rw [if_neg (by simp [hbad])]; rfl)).trans rfl
  · change execAudioFrame i (some (e, w)) s = _
    unfold execAudioFrame
    refine (onUnit_go hu hb hne ht (by rw [if_pos hok, hl]; rfl)).trans (congrArg s.goes ?_)
    rw [hl]
  · change execTimeAnchor i s = _
    unfold execTimeAnchor
    refine (onUnit_go hu hb hne ht rfl).trans (congrArg s.goes ?_)
    dsimp only
    split
    case h_3 => rfl
    case h_1 hph hok =>
      simp only [Bool.and_eq_true, beq_iff_eq] at hok
      simp_all
    case h_2 hph hok =>
      simp only [Bool.and_eq_true, beq_iff_eq] at hok
      simp_all
  · change execTimeAnchor i s = _
    unfold execTimeAnchor
    refine (onUnit_go hu hb hne ht rfl).trans (congrArg s.goes ?_)
    have hok : (b.length == 17 && crcOk b && beAt b 12 1 % 128 == 0) = true := by simp [hlen, hcrc, hbits]
    dsimp only
    rw [hph, hok, hopen]
    dsimp only
    rw [if_neg]
    change ¬ (decAt d i.toNat).anchor.isSome = true
    rw [hdec, hanchor]
    exact Bool.false_ne_true
  · change execPadding i s = _
    unfold execPadding
    exact onUnit_go hu hb hne ht rfl
  · change execEndOfSequence i s = _
    unfold execEndOfSequence
    refine (onUnit_go hu hb hne ht rfl).trans (congrArg s.goes ?_)
    exact if_pos (by simp [hbody])
  · change execEndOfSequence i s = _
    unfold execEndOfSequence
    refine (onUnit_go hu hb hne ht rfl).trans (congrArg s.goes ?_)
    dsimp only
    rw [if_neg (by simp [hbody]), hph]
  · change execEndOfSequence i s = _
    unfold execEndOfSequence
    refine (onUnit_go hu hb hne ht rfl).trans (congrArg s.goes ?_)
    dsimp only
    rw [if_neg (by simp [hbody]), hph]
  · change execEndOfSequence i s = _
    unfold execEndOfSequence
    refine (onUnit_go hu hb hne ht rfl).trans (congrArg s.goes ?_)
    dsimp only
    rw [if_neg (by simp [hbody])]
    rcases hph with h | h
    · rw [h]
    · rw [h]
  · change execUserData i s = _
    unfold execUserData
    exact onUnit_go hu hb hne ht rfl
  · change execDiscardedUnit i s = _
    unfold execDiscardedUnit
    dsimp only
    rw [hu]
    refine whenDev_go ?_
    rcases hbad with h | h | h | h
    · rw [h]
      rfl
    · rw [h, Option.isNone_none, Bool.or_true, Bool.true_or]
    · rw [h]
      exact Bool.or_true _
    · rw [within, decide_eq_false (p := unitType u ≤ 8) (by omega), Bool.and_false]
      exact Bool.or_true _

/-- Settles O32: each command of a bundle is one equation over the state before it. -/
theorem bundles : Obligations.Bundles := by
  unfold Obligations.Bundles
  refine ⟨?_, ?_, ?_, ?_, ?_, ?_⟩
  · intro uid region s x h hx hready hfind hroom hfree
    have hexec : exec (.bundleLoad uid region) s = s.goes (beginDesc uid (allocRegion region (x.w64 6)
        { s.dev with sess.bundles := tset none s.dev.sess.bundles h (some { lo := region, len := x.w64 6, loading := some uid, fp := [] }) })) := by
      change execBundleLoad uid region s = _
      unfold execBundleLoad
      dsimp only
      rw [hx]
      dsimp only
      rw [if_neg (by simp [hready]), hfind]
      dsimp only
      rw [if_neg (by simp [hroom])]
      exact whenDev_go hfree
    refine ⟨_, hexec, ?_, fun j hj => ?_, rfl, rfl⟩
    · rw [bundleAt_loading, tget_tset_same]
    · rw [bundleAt_loading, tget_tset_other _ _ _ hj]
      rfl
  · intro uid region s x hx hready
    change execBundleLoad uid region s = _
    unfold execBundleLoad
    dsimp only
    rw [hx]
    dsimp only
    rw [if_pos (by simp [hready])]
    exact whenDev_go rfl
  · intro uid region s x hx hready hnone
    change execBundleLoad uid region s = _
    unfold execBundleLoad
    dsimp only
    rw [hx]
    dsimp only
    rw [if_neg (by simp [hready])]
    split
    case h_1 => exact whenDev_go rfl
    case h_2 h hfind =>
      rcases hnone with hn | hn
      · rw [hn] at hfind
        cases hfind
      · rw [if_pos (by simp [hn])]
        exact whenDev_go rfl
  · intro h bs s b uid hb hload hlen hpaged hup
    change execBundleCopyComplete h (.ok bs) s = _
    unfold execBundleCopyComplete
    dsimp only
    rw [hb]
    dsimp only
    rw [hload]
    exact whenDev_go (by simp [hlen, hpaged, hup])
  · intro h st a s b uid hb hload hst hpaged hup
    change execBundleCopyComplete h (.failed st a) s = _
    unfold execBundleCopyComplete
    dsimp only
    rw [hb]
    dsimp only
    rw [hload]
    exact whenDev_go (by simp [hst, hpaged, hup, stMemUnc, stBadAddr])
  · intro uid s x hx
    change execBundleUnload uid s = _
    unfold execBundleUnload
    exact onDesc_go hx

end Sys2Proof.Proofs
end

section
/-! SUPPORT. The session commands that place something (R218, R280, R281, R289, R391, R422), and the flow of frames and jobs (R285, R287,
R288, R295). -/

namespace Sys2Proof.Machine

variable {s : State} {d : Dev}

theorem wrongState_some {x : Desc} {y : Sess} (h : sessAt d x.ident = some y) : wrongState x d = finishDesc x 0x20 [] d := by
  rw [wrongState, h]
  rfl

theorem sessAt_of_sess {b : Dev} (h : d.sess = b.sess) (i : Nat) : sessAt d i = sessAt b i := by
  rw [sessAt, sessAt, h]

@[simp] theorem sessAt_setSess_same (i : Nat) (x : Sess) (d : Dev) : sessAt (setSess i x d) i = some x := by
  rw [setSess, sessAt, tget_tset_same]

theorem sessAt_setSess_other {i j : Nat} (x : Sess) (d : Dev) (h : j ≠ i) : sessAt (setSess i x d) j = sessAt d j := by
  rw [setSess, sessAt, tget_tset_other _ _ _ h]
  rfl

theorem updSess_some {i : Nat} {x : Sess} (h : sessAt d i = some x) (f : Sess → Sess) : updSess i f d = setSess i (f x) d := by
  rw [updSess, h]

/-- A command that acts where the session is in one of the states that give it an effect. -/
theorem sessCmd_go {uid op : Nat} {ok : SessPhase → Bool} {f : Desc → Sess → Dev → Dev} {x : Desc} {y : Sess}
    (hx : cmdDesc s.dev uid 1 op = some x) (hy : sessAt s.dev x.ident = some y) (hok : ok y.phase = true) :
    sessCmd uid op ok f s = s.goes (f x y s.dev) := by
  unfold sessCmd
  refine (onDesc_go hx).trans (congrArg s.goes ?_)
  rw [hy]
  exact if_pos hok

/-! SESS_OPEN. -/

/-- The context's region is another part of the state than what the session table, the cores, the memory and the ports hold. -/
theorem allocCtx_frame (i : Nat) (y : Sess) (d : Dev) : (allocCtx i y d).sess.sess = d.sess.sess ∧ (allocCtx i y d).mem = d.mem ∧
    (allocCtx i y d).core = d.core ∧ (allocCtx i y d).live = d.live := by
  unfold allocCtx
  split
  · exact ⟨rfl, rfl, rfl, rfl⟩
  · exact ⟨rfl, rfl, rfl, rfl⟩

/-- The step of SESS_OPEN where the context's place matters only if the session opens. -/
theorem exec_sessOpen {uid ctx : Nat} {x : Desc} (hx : cmdDesc s.dev uid 1 0x10 = some x)
    (hplace : (!(s.dev.ddr.trained && (sessAt s.dev x.ident).isNone && openOk s.dev (openedSess s.dev x ctx) &&
        regionExists s.dev ((openedSess s.dev x ctx).cls == 0) (openedSess s.dev x ctx).ctxLen) ||
      regionFree s.dev ((openedSess s.dev x ctx).cls == 0) ctx (openedSess s.dev x ctx).ctxLen) = true) :
    exec (.sessOpen uid ctx) s = s.goes (runSessOpen x ctx s.dev) := by
  change execSessOpen uid ctx s = _
  unfold execSessOpen
  dsimp only
  rw [hx]
  exact whenDev_go hplace

/-- The session that SESS_OPEN makes. -/
theorem sessOpen_placed (x : Desc) (y : Sess) (d : Dev) (st : Nat) (res : List Nat) :
    let e := finishDesc x st res (setSess x.ident y (allocCtx x.ident y d))
    sessAt e x.ident = some y ∧ (∀ j, j ≠ x.ident → sessAt e j = sessAt d j) ∧ e.mem = d.mem ∧ e.core = d.core ∧ e.live = d.live := by
  obtain ⟨hsess, hmem, hcore, hlive⟩ := allocCtx_frame x.ident y d
  intro e
  have hhost : HostOnly (setSess x.ident y (allocCtx x.ident y d)) e := hostOnly_finishDesc _ _ _ _
  refine ⟨?_, fun j hj => ?_, hhost.mem.trans hmem, hhost.core.trans hcore, hhost.live.trans hlive⟩
  · rw [sessAt_of_sess hhost.sess, sessAt_setSess_same]
  · rw [sessAt_of_sess hhost.sess, sessAt_setSess_other _ _ hj, sessAt, hsess]
    rfl

/-! PORT_BIND. -/

/-- PORT_BIND of a session that may be bound. -/
theorem exec_portBind {uid port : Nat} {r : ReqEnd} {plan : BindPlan} {x : Desc} {y : Sess} (hx : cmdDesc s.dev uid 1 0x11 = some x)
    (hy : sessAt s.dev x.ident = some y) (hopen : y.phase = .opened) (hcls : y.cls = 0) (hport : y.port = none)
    (hplan : bindPlanOk s.dev y port r plan = true) :
    exec (.portBind uid port r plan) s = s.goes (runPortBind x y port r plan s.dev) := by
  change execPortBind uid port r plan s = _
  unfold execPortBind
  dsimp only
  rw [hx]
  dsimp only
  rw [hy]
  dsimp only
  rw [if_pos (by simp [hopen, hcls, hport])]
  exact whenDev_go hplan

/-- PORT_BIND with a good record goes on to admission. -/
theorem runPortBind_ok {x : Desc} {y : Sess} {port : Nat} {bs : List Byte} {plan : BindPlan} (hrec : recOk d y bs = true) (hport : port < 24) :
    runPortBind x y port (.ok bs) plan d =
      match allow d y port (recOf bs) with
      | .refused row => finishDesc x stRefused [row] d
      | .fits die dck mse cores =>
        finishDesc x stSuccess [die + dck * 16 + mse * 256, plan.area % 2 ^ 32, plan.area / 2 ^ 32]
          (bindPort x.ident port y (recOf bs) die dck mse cores plan d) := by
  rw [runPortBind]
  refine if_neg ?_
  rw [hrec, decide_eq_false (Nat.not_le.mpr hport)]
  exact Bool.false_ne_true

/-! Dispatch. -/

/-- A dispatched decode frame: its units wait in its session, which is ACTIVE. -/
theorem startDecode_facts {i : Nat} {x : Sess} {r : FrameReq} {rest : List FrameReq} (img : HostImg) (hx : sessAt d i = some x)
    (hq : x.queue = r :: rest) :
    sessAt (startDecode i r img d) i = some { x with
      phase := .active
      queue := rest
      frame := some { req := r, num := 0, intra := false, units := splitUnits (imgBytes d img r.addr r.len) } } ∧
    (∀ j, j ≠ i → sessAt (startDecode i r img d) j = sessAt d j) ∧ (startDecode i r img d).mem = d.mem ∧
    (startDecode i r img d).core = d.core := by
  have hx' : sessAt { d with free := d.free + 1 } i = some x := hx
  unfold startDecode
  dsimp only
  rw [updSess_some hx', hq, List.tail_cons]
  exact ⟨sessAt_setSess_same _ _ _, fun j hj => sessAt_setSess_other _ _ hj, rfl, rfl⟩

/-- The turn of the work that is dispatched next. -/
theorem dispatchTurn {w : WorkId} (hup : schedulerUp d = true) (hnext : (nextWork d).map (·.id) = some w) :
    (schedulerUp d && (nextWork d).map (·.id) == some w) = true := by
  rw [hup, hnext]
  exact beq_self_eq_true _

/-- A queued frame of a session whose turn has come. -/
theorem exec_frameDispatch {i : BitVec 16} {intra : Bool} {img : HostImg} {x : Sess} {r : FrameReq} {rest : List FrameReq}
    (hup : schedulerUp s.dev = true) (hnext : (nextWork s.dev).map (·.id) = some (.frame i)) (hx : sessAt s.dev i.toNat = some x)
    (hlive : liveFrame s.dev x = none) (hq : x.queue = r :: rest) :
    exec (.frameDispatch (.frame i) intra img) s = s.goes
      (if x.decode then startDecode i.toNat r img s.dev else startEncode i.toNat x r (nextNum x) intra s.dev) := by
  change execFrameDispatch (.frame i) intra img s = _
  unfold execFrameDispatch
  dsimp only
  rw [hx]
  dsimp only
  rw [hlive]
  dsimp only
  rw [hq]
  exact whenDev_go (dispatchTurn hup hnext)

end Sys2Proof.Machine

namespace Sys2Proof.Proofs

open Sys2Proof Sys2Proof.Machine

/-- Settles O34: each command is the first of its checks that decides it. -/
theorem sessionPlaces : Obligations.SessionPlaces := by
  unfold Obligations.SessionPlaces
  refine ⟨?_, ?_, ?_, ?_, ?_, ?_⟩
  · intro uid ctx s x hx hready hnew hok hroom hfree
    have hexec : exec (.sessOpen uid ctx) s = s.goes (finishDesc x stSuccess []
        (setSess x.ident (openedSess s.dev x ctx) (allocCtx x.ident (openedSess s.dev x ctx) s.dev))) := by
      refine (exec_sessOpen hx (by rw [hfree, Bool.or_true])).trans (congrArg s.goes ?_)
      rw [runSessOpen, if_neg (by simp [hready]), if_neg (by simp [hnew]), if_neg (by simp [hok]), if_neg (by simp [hroom])]
    obtain ⟨hsame, hother, hmem, hcore, hlive⟩ := sessOpen_placed x (openedSess s.dev x ctx) s.dev stSuccess []
    exact ⟨_, hexec, hsame, rfl, hother, hmem, hcore, hlive⟩
  · intro uid ctx s x hx
    refine ⟨fun hready => ?_, fun hready hold => ?_, fun hready hnew hbad => ?_⟩
    · refine (exec_sessOpen hx (by rw [hready]; rfl)).trans (congrArg s.goes ?_)
      rw [runSessOpen, if_pos (by simp [hready])]
      rfl
    · have hsome : (sessAt s.dev x.ident).isSome = true := Option.isSome_iff_ne_none.mpr hold
      refine (exec_sessOpen hx ?_).trans (congrArg s.goes ?_)
      · rw [Option.isNone_eq_false_iff.mpr hsome, Bool.and_false]
        rfl
      · rw [runSessOpen, if_neg (by simp [hready]), if_pos hsome]
        rfl
    · refine (exec_sessOpen hx ?_).trans (congrArg s.goes ?_)
      · rw [hbad, Bool.and_false]
        rfl
      · rw [runSessOpen, if_neg (by simp [hready]), if_neg (by simp [hnew]), if_pos (by simp [hbad])]
        rfl
  · intro uid port r plan s x y hx hy
    refine ⟨fun hbad => ?_, fun hopen hcls hport hplan => ⟨exec_portBind hx hy hopen hcls hport hplan, ?_, ?_⟩⟩
    · change execPortBind uid port r plan s = _
      unfold execPortBind
      dsimp only
      rw [hx]
      dsimp only
      rw [hy]
      dsimp only
      have hno : ¬(y.phase == .opened && y.cls == 0 && y.port.isNone) = true := by
        rw [Bool.and_eq_true, Bool.and_eq_true, beq_iff_eq, beq_iff_eq, Option.isNone_iff_eq_none]
        rintro ⟨⟨hp, hc⟩, hn⟩
        exact hbad.elim (· hp) (fun h => h.elim (· hc) (· hn))
      rw [if_neg hno]
      exact (whenDev_go rfl).trans (congrArg s.goes (wrongState_some hy))
    · intro bs die dck mse cores hr hrec hlt hfits
      subst hr
      refine (exec_portBind hx hy hopen hcls hport hplan).trans (congrArg s.goes ?_)
      rw [runPortBind_ok hrec hlt, hfits]
      rfl
    · intro bs row hr hrec hlt hrefused
      subst hr
      refine (exec_portBind hx hy hopen hcls hport hplan).trans (congrArg s.goes ?_)
      rw [runPortBind_ok hrec hlt, hrefused]
      rfl
  · intro uid s x y hx hy
    refine ⟨fun hphase hport => ?_, fun hbad => ?_⟩
    · change execPortUnbind uid s = _
      unfold execPortUnbind
      refine (onDesc_go hx).trans (congrArg s.goes ?_)
      rw [hy]
      exact if_pos (by simp [hphase, Option.isSome_iff_ne_none, hport])
    · change execPortUnbind uid s = _
      unfold execPortUnbind
      refine (onDesc_go hx).trans (congrArg s.goes ?_)
      rw [hy]
      refine (if_neg ?_).trans (wrongState_some hy)
      simp only [Bool.and_eq_true, Bool.or_eq_true, beq_iff_eq, Option.isSome_iff_ne_none]
      rintro ⟨hphase, hport⟩
      rcases hbad with ⟨ho, hf⟩ | hnone
      · exact hphase.elim ho hf
      · exact hport hnone
  · intro uid addr len s x y hx hy hdec hcls
    have hok : ¬ (y.decode || y.cls == 0) = true := by simp [hdec, hcls]
    refine ⟨fun hphase => ?_, fun hphase => ?_⟩
    · change execSessCheckpoint uid addr len s = _
      unfold execSessCheckpoint
      refine (sessCmd_go hx hy (by rw [hphase]; rfl)).trans (congrArg s.goes ?_)
      rw [if_neg hok, if_pos (by simp [hphase])]
    · change execSessCheckpoint uid addr len s = _
      unfold execSessCheckpoint
      refine (sessCmd_go hx hy (by rw [hphase]; rfl)).trans (congrArg s.goes ?_)
      rw [if_neg hok, if_neg (by simp [hphase]), updSess_some hy]
  · intro uid bundle ctx bs s x hx hready
    refine ⟨fun hnew hplace => ?_, fun hold => ?_, fun hnew => ?_⟩
    · change execSessRestore uid bundle ctx (.ok bs) s = _
      unfold execSessRestore
      dsimp only
      rw [hx]
      dsimp only
      rw [if_neg (by simp [hready]), if_neg (by simp [hnew])]
      exact whenDev_go hplace
    · change execSessRestore uid bundle ctx (.ok bs) s = _
      unfold execSessRestore
      dsimp only
      rw [hx]
      dsimp only
      rw [if_neg (by simp [hready]), if_pos (Option.isSome_iff_ne_none.mpr hold)]
      exact whenDev_go rfl
    · change execSessRestore uid bundle ctx (.failed 0x12 0) s = _
      unfold execSessRestore
      dsimp only
      rw [hx]
      dsimp only
      rw [if_neg (by simp [hready]), if_neg (by simp [hnew])]
      exact whenDev_go rfl

/-- Settles O35: a job begins to run, a frame is started for its direction, and an ended frame or drain is one equation. -/
theorem frameFlow : Obligations.FrameFlow := by
  unfold Obligations.FrameFlow
  refine ⟨?_, ?_, ?_, ?_, ?_⟩
  · intro uid intra img s hup hnext
    have hexec : exec (.frameDispatch (.job uid) intra img) s = s.goes (updJob uid (fun j => { j with running := true }) s.dev) :=
      whenDev_go (dispatchTurn hup hnext)
    exact ⟨_, hexec, rfl⟩
  · intro i intra img s x r rest hup hnext hx hlive hq
    have hexec := exec_frameDispatch (intra := intra) (img := img) hup hnext hx hlive hq
    refine ⟨fun hdec => ?_, fun hdec => ?_⟩
    · rw [if_pos hdec] at hexec
      obtain ⟨hsame, hother, hmem, hcore⟩ := startDecode_facts img hx hq
      exact ⟨_, hexec, rfl, hsame, hother, hmem, hcore⟩
    · rwa [if_neg (by simp [hdec])] at hexec
  · intro i intra img s x n hup hgo hx hlive
    change execFrameDispatch (.frame i) intra img s = _
    unfold execFrameDispatch
    dsimp only
    rw [hx]
    dsimp only
    rw [hlive]
    exact whenDev_go (by rw [hup, hgo]; rfl)
  · intro i s x f hx hf hdone
    change execFrameBoundary i s = _
    unfold execFrameBoundary
    dsimp only
    rw [hx]
    dsimp only
    rw [hf]
    exact whenDev_go hdone
  · intro i s x hx hphase hframe
    change execSessionDrainEnd i s = _
    unfold execSessionDrainEnd
    dsimp only
    rw [hx]
    exact whenDev_go (by rw [hphase, hframe]; rfl)

end Sys2Proof.Proofs
end

section
/-! SUPPORT. Power levels, shedding, thermal limits and the supplies (R295, R460 to R462, R472). -/

namespace Sys2Proof.Machine

variable {s : State} {d : Dev}

/-! What a reset drives. -/

theorem driveGpio_eq (before d : Dev) : ∃ o, driveGpio before d = { d with out := o } := by
  unfold driveGpio
  generalize (upFrom 0 16).filter (fun n => gpioLevel before n != gpioLevel d n) = l
  suffices h : ∀ e : Dev, (∃ o, e = { d with out := o }) →
      ∃ o, forEach l (fun n e => emit (.pin n (gpioLevel d n)) e) e = { d with out := o } from h d ⟨d.out, rfl⟩
  induction l with
  | nil => exact fun e he => he
  | cons n l ih =>
    rintro e ⟨o, rfl⟩
    exact ih _ ⟨_, rfl⟩

/-- The pins add to what the device has emitted, and change nothing else. -/
theorem drivePins_eq (before d : Dev) : ∃ o, drivePins before d = { d with out := o } := by
  obtain ⟨o, ho⟩ := driveGpio_eq before d
  unfold drivePins
  rw [ho]
  dsimp only
  split
  · split
    · exact ⟨_, rfl⟩
    · exact ⟨_, rfl⟩
  · split
    · exact ⟨_, rfl⟩
    · exact ⟨_, rfl⟩

/-- A cold reset but for its pins. -/
theorem coldState_eq (d : Dev) : ∃ o, coldState d = { coldBase d with out := o } := drivePins_eq d (coldBase d)

/-! Shedding. -/

theorem hostOnly_raiseLimit (step sensor : Nat) (d : Dev) : HostOnly d (raiseLimit step sensor d) := by
  unfold raiseLimit
  exact hostOnly_raiseEvent _ _ _ _ _

/-- A step of shedding: its report, and what the power state then holds. -/
theorem enterStep_eq (n sensor : Nat) (d : Dev) : ∃ e : Dev, HostOnly d e ∧ enterStep n sensor d = { e with
    pwr.stepAt := e.aclk
    pwr.bgStop := true
    pwr.stdStop := e.pwr.stdStop || decide (2 ≤ n) } :=
  ⟨raiseLimit n sensor (setF kPwrStat 28 2 n d),
    (hostOnly_setF kPwrStat 28 2 n d).trans (hostOnly_raiseLimit n sensor (setF kPwrStat 28 2 n d)), rfl⟩

/-- It stops work, and cores, memory and sessions stay. -/
theorem enterStep_facts (n sensor : Nat) (d : Dev) : (enterStep n sensor d).pwr.stdStop = (d.pwr.stdStop || decide (2 ≤ n)) ∧
    (enterStep n sensor d).pwr.bgStop = true ∧ (enterStep n sensor d).core = d.core ∧ (enterStep n sensor d).mem = d.mem ∧
    (enterStep n sensor d).sess = d.sess := by
  obtain ⟨e, hhost, heq⟩ := enterStep_eq n sensor d
  rw [heq]
  dsimp only
  rw [hhost.pwr]
  exact ⟨rfl, rfl, hhost.core, hhost.mem, hhost.sess⟩

/-- The first reading is due. -/
theorem sampleDue (n aclk : Nat) : ∀ {t : Option Nat} {hold : Bool}, t = none → hold = false →
    ((match t with | some t => decide (t + n ≤ aclk) | none => true) && !hold) = true
  | _, _, rfl, rfl => rfl

end Sys2Proof.Machine

namespace Sys2Proof.Proofs

open Sys2Proof Sys2Proof.Machine

/-- Settles O36: each event is one equation; a thermal trip and a lost supply leave `coldState`. -/
theorem powerAndShedding : Obligations.PowerAndShedding := by
  unfold Obligations.PowerAndShedding
  refine ⟨?_, ?_, ?_, ?_, ?_, ?_, ?_, ?_, ?_, ?_, ?_, ?_⟩
  · intro v s hdone
    exact whenDev_go hdone
  · intro c s hchosen hidle
    exact whenDev_go (by rw [List.contains_iff_mem.mpr hchosen, hidle]; rfl)
  · intro c s hgated hfree
    refine ⟨_, whenDev_go (by simp [hgated, hfree]), fun j => ?_, rfl⟩
    exact mem_zeroMem (0x1000000 * c.val) 0x1000000 { s.dev with pwr.gated := s.dev.pwr.gated.filter (· != c.val) } j
  · intro s hstep hover hold
    have hexec : exec .shedStandardPause s = s.goes (enterStep 2 limitSensor s.dev) :=
      whenDev_go (by rw [hstep, hover, decide_eq_true hold]; rfl)
    obtain ⟨hstd, hbg, hcore, hmem, hsess⟩ := enterStep_facts 2 limitSensor s.dev
    exact ⟨_, hexec, rfl, hstd.trans (Bool.or_true _), hbg, hcore, hmem, hsess⟩
  · intro s hstep hshed hover hold
    exact whenDev_go (by rw [decide_eq_true hstep, decide_eq_true hshed, hover, decide_eq_true hold]; rfl)
  · intro s t hstep hcalm hold hunder
    change execShedUndoStep s = _
    unfold execShedUndoStep
    dsimp only
    rw [hcalm]
    refine whenDev_go ?_
    dsimp only
    rw [bne_iff_ne.mpr hstep, decide_eq_true hold, hunder]
    rfl
  · intro a b c s hdue hhold hmax
    change execTemperatureSample a b c s = _
    unfold execTemperatureSample
    dsimp only
    refine (whenDev_go (sampleDue _ _ hdue hhold)).trans (congrArg s.goes ?_)
    exact if_neg (Nat.not_le.mpr hmax)
  · intro a b c s hdue hhold hmax
    have hexec : ∃ e : Dev, exec (.temperatureSample a b c) s = s.goes (emit (.pin pinThermtrip 0) (coldState { e with pwr.tripped := true })) := by
      change ∃ e : Dev, execTemperatureSample a b c s = _
      unfold execTemperatureSample
      exact ⟨_, (whenDev_go (sampleDue _ _ hdue hhold)).trans (congrArg s.goes (if_pos hmax))⟩
    obtain ⟨e, he⟩ := hexec
    obtain ⟨o, ho⟩ := coldState_eq { e with pwr.tripped := true }
    refine ⟨_, he, ?_⟩
    rw [ho]
    exact ⟨rfl, rfl, rfl, List.getLast?_concat⟩
  · intro w s hdue hhold
    exact whenDev_go (sampleDue _ _ hdue hhold)
  · intro up s hrom hdue hroom
    refine whenDev_go ?_
    rw [hrom, hdue]
    cases up with
    | true => exact decide_eq_true hroom
    | false => exact decide_eq_true hroom
  · intro s hoff
    exact ⟨whenDev_go hoff, whenDev_go hoff⟩
  · intro s hon
    have hexec : ∃ e : Dev, exec .vddAuxRemoved s = s.goes (coldState { e with pwr.auxOff := true, pwr.tripped := false }) := by
      change ∃ e : Dev, execVddAuxRemoved s = _
      unfold execVddAuxRemoved
      exact ⟨_, whenDev_go (by rw [hon]; rfl)⟩
    obtain ⟨e, he⟩ := hexec
    obtain ⟨o, ho⟩ := coldState_eq { e with pwr.auxOff := true, pwr.tripped := false }
    refine ⟨_, he, ?_⟩
    rw [ho]
    exact ⟨rfl, rfl, rfl, rfl, rfl⟩

end Sys2Proof.Proofs
end

section
/-! SUPPORT. Rings: enabling, doorbells and moderated interrupts (R365, R366, R372, R373, R381). -/

namespace Sys2Proof.Machine

variable {β : Type}

/-! What of a ring's state no interrupt touches. -/

/-- A part of every ring's state that an update of one ring leaves. -/
theorem ringPart_updRing (g : RingSt → β) (fn r : Nat) (f : RingSt → RingSt) (hf : ∀ x, g (f x) = g x) (d : Dev) (gn q : Nat) :
    g (ringAt (updRing fn r f d) gn q) = g (ringAt d gn q) := by
  by_cases h : ringKey gn q = ringKey fn r
  · unfold ringAt
    rw [h]
    exact (congrArg g (tget_tmod_same _ _ _ _)).trans (hf _)
  · exact congrArg g (tget_tmod_other _ _ _ h)

/-- A part of a ring's state that is not its count of entries without an interrupt. -/
def ApartFromCount (g : RingSt → β) : Prop := ∀ (x : RingSt) (u o : Nat), g { x with unsignalled := u, oldest := o } = g x

theorem ringPart_sendMsix {g : RingSt → β} (hg : ApartFromCount g) (fn r : Nat) (d : Dev) (gn q : Nat) :
    g (ringAt (sendMsix fn r d) gn q) = g (ringAt d gn q) := by
  unfold sendMsix
  dsimp only
  split
  · rfl
  · exact forEach_inv (fun e => g (ringAt e gn q)) _ _ (fun r' e => ringPart_updRing g fn r' _ (fun x => hg x 0 0) e gn q) _

theorem ringPart_signalEntry {g : RingSt → β} (hg : ApartFromCount g) (fn r : Nat) (irq : Bool) (d : Dev) (gn q : Nat) :
    g (ringAt (signalEntry fn r irq d) gn q) = g (ringAt d gn q) := by
  unfold signalEntry
  dsimp only
  split
  · rw [ringPart_sendMsix hg]
    exact ringPart_updRing g fn r _ (fun x => hg x _ _) d gn q
  · exact ringPart_updRing g fn r _ (fun x => hg x _ _) d gn q

theorem ringPart_writeEntry {g : RingSt → β} (hg : ApartFromCount g) (fn r w0 : Nat) (rest : List Nat) (irq : Bool) (d : Dev) (gn q : Nat) :
    g (ringAt (writeEntry fn r w0 rest irq d) gn q) = g (ringAt d gn q) := by
  unfold writeEntry
  dsimp only
  rw [ringPart_signalEntry hg]
  split
  · rw [ringAt_setF, ringAt_setF]
    rfl
  · rw [ringAt_setF]
    rfl

/-- An event leaves the indices of every ring. -/
theorem ringPart_raiseEvent {g : RingSt → β} (hg : ApartFromCount g) (code kind index : Nat) (p : List Nat) (d : Dev) (gn q : Nat) :
    g (ringAt (raiseEvent code kind index p d) gn q) = g (ringAt d gn q) := by
  unfold raiseEvent
  dsimp only
  split
  · rw [ringAt_bumpF, ringAt_setF]
  · split
    · rw [ringAt_bumpF, ringAt_bumpF, ringAt_setF]
    · rw [ringPart_writeEntry hg, ringAt_bumpF, ringAt_setF]

theorem sqTail_apart : ApartFromCount RingSt.sqTail := fun _ _ _ => rfl
theorem cqHead_apart : ApartFromCount RingSt.cqHead := fun _ _ _ => rfl

/-- The rings of a vector whose message goes out have no entry without an interrupt. -/
def clearCount (fn r : Nat) (d : Dev) : Dev := updRing fn r (fun rs => { rs with unsignalled := 0, oldest := 0 }) d

/-- This touches the rings alone. -/
theorem forEach_clearCount (fn : Nat) (l : List Nat) (d : Dev) : ∃ m, forEach l (clearCount fn) d = { d with host.rings := m } := by
  induction l generalizing d with
  | nil => exact ⟨_, rfl⟩
  | cons r l ih =>
    obtain ⟨m, hm⟩ := ih (clearCount fn r d)
    exact ⟨m, hm⟩

/-- A vector that is unmasked sends its pending message. -/
def unmasked (fn v : Nat) (d : Dev) : Dev := emit (.msix fn v) { d with
  host.msixOpen := tset false d.host.msixOpen (4096 * fn + v) true
  host.msixPend := tset false d.host.msixPend (4096 * fn + v) false }

theorem regs_sendMsix (fn r : Nat) (d : Dev) : (sendMsix fn r d).regs = d.regs := by
  unfold sendMsix
  dsimp only
  split
  · rfl
  · obtain ⟨m, hm⟩ := forEach_clearCount fn (ringsOnVector (emit (.msix fn (getF d (kRing fn r 0x10) 16 11)) d) fn
      (getF d (kRing fn r 0x10) 16 11)) (emit (.msix fn (getF d (kRing fn r 0x10) 16 11)) d)
    have hregs := congrArg Dev.regs hm
    exact hregs

/-! Ring configuration. -/

/-- Enabling an aligned ring: the register takes its writable fields, and the ring runs empty with phase 1. -/
theorem ringCfgWrite_enable {fn r v : Nat} {d : Dev} (hoff : getF d (kRing fn r 0x10) 31 1 = 0) (hon : bitAt v 31 = true)
    (hboot : bootDone d = true) (hbase : basesAligned d fn r = true) (hvec : fld v 16 11 < msixCount fn) :
    ∃ new, ringCfgWrite fn r v d = updRing fn r (fun _ => {}) (setF (kRing fn r 0x1C) 29 1 1 (setF (kRing fn r 0x1C) 30 2 1
      (regPut (kRing fn r 0x18) 0 (regPut (kRing fn r 0x10) new d)))) := by
  unfold ringCfgWrite
  dsimp only
  rw [if_neg (by rw [hoff]; decide), if_neg (by rw [hon]; decide),
    if_neg (by rw [hboot, hbase, decide_eq_false (Nat.not_le.mpr hvec)]; decide)]
  exact ⟨_, rfl⟩

/-- Disabling a ring that nothing names: state 0. -/
theorem ringCfgWrite_disable {fn r v : Nat} {d : Dev} (hon : getF d (kRing fn r 0x10) 31 1 = 1) (hoff : bitAt v 31 = false)
    (hidle : (d.host.descs.any (fun x => x.fn == fn && x.ring == r) || namedAsCplRing d fn r) = false) :
    ringCfgWrite fn r v d = updRing fn r (fun _ => {}) (setF (kRing fn r 0x1C) 30 2 0 (setF (kRing fn r 0x10) 31 1 0
      (setF (kRing fn r 0x10) 15 1 (fld v 15 1) d))) := by
  unfold ringCfgWrite
  dsimp only
  rw [if_pos (by rw [hon]; decide), if_neg (by rw [hoff]; decide), if_neg (by rw [hidle]; decide)]

/-- A ring in use stays enabled, and the write is an error of the ring. -/
theorem ringCfgWrite_disable_used {fn r v : Nat} {d : Dev} (hon : getF d (kRing fn r 0x10) 31 1 = 1) (hoff : bitAt v 31 = false)
    (hused : (d.host.descs.any (fun x => x.fn == fn && x.ring == r) || namedAsCplRing d fn r) = true) :
    ringCfgWrite fn r v d = setF (kRing fn r 0x1C) 1 1 1 (bumpF (kRing fn r 0x20) 8 8 1 (setF (kRing fn r 0x10) 15 1 (fld v 15 1) d)) := by
  unfold ringCfgWrite
  dsimp only
  rw [if_pos (by rw [hon]; decide), if_neg (by rw [hoff]; decide), if_pos hused]

theorem ringRunning_iff (d : Dev) (fn r : Nat) : ringRunning d fn r = true ↔ r < ringCount fn ∧ getF d (kRing fn r 0x1C) 30 2 = 1 := by
  unfold ringRunning
  rw [Bool.and_eq_true, decide_eq_true_iff, beq_iff_eq]

theorem ringRunning_of_state {d : Dev} {fn r n : Nat} (h : getF d (kRing fn r 0x1C) 30 2 = n) (hn : n ≠ 1) : ringRunning d fn r = false := by
  unfold ringRunning
  rw [h, beq_eq_false_iff_ne.mpr hn, Bool.and_false]

end Sys2Proof.Machine

namespace Sys2Proof.Proofs

open Sys2Proof Sys2Proof.Machine

/-- Settles O38: the configuration write by its three cases, a doorbell by its checks, and the message of a vector by its mask. -/
theorem ringCommands : Obligations.RingCommands := by
  unfold Obligations.RingCommands
  refine ⟨?_, ?_, ?_, ?_, ?_, ?_, ?_, ?_⟩
  · intro fn r v s hr hon hoff hboot hbase hvec
    obtain ⟨new, hnew⟩ := ringCfgWrite_enable hoff hon hboot hbase hvec
    have hexec : exec (.ringEnable fn r v) s = s.goes (ringCfgWrite fn.val r v.toNat s.dev) :=
      whenDev_go (by rw [decide_eq_true hr, hon, hoff]; rfl)
    have h1810 : kRing fn.val r 0x18 ≠ kRing fn.val r 0x1C := kRing_ne _ _ _ _ (by decide)
    refine ⟨_, hexec, rfl, ?_⟩
    change ringRunning (ringCfgWrite fn.val r v.toNat s.dev) fn.val r = true ∧ _
    dsimp only [State.goes]
    rw [hnew]
    refine ⟨(ringRunning_iff _ _ _).mpr ⟨hr, ?_⟩, ?_, ?_, ringAt_updRing_same _ _ _ _, fun k h10 h18 h1C => ?_, ?_⟩
    · rw [getF_updRing, getF_setF_above _ _ _ _ _ _ _ (by omega) (by omega), getF_setF_same _ _ _ _ _ (by omega)] <;> rfl
    · rw [getF_updRing, getF_setF_same _ _ _ _ _ (by omega)] <;> rfl
    · rw [regVal_updRing, regVal_setF_other _ _ _ _ h1810, regVal_setF_other _ _ _ _ h1810, regVal_regPut_same] <;> rfl
    · rw [regVal_updRing, regVal_setF_other _ _ _ _ h1C, regVal_setF_other _ _ _ _ h1C, regVal_regPut_other _ _ h18,
        regVal_regPut_other _ _ h10]
    · exact hostOnly_updRing_of (hostOnly_setF_of (hostOnly_setF_of (hostOnly_regPut_of (hostOnly_regPut _ _ _))))
  · intro fn r v s hr hoff hon hidle
    have hexec : exec (.ringDisable fn r v) s = s.goes (ringCfgWrite fn.val r v.toNat s.dev) :=
      whenDev_go (by rw [decide_eq_true hr, hoff, hon]; rfl)
    rw [ringCfgWrite_disable hon hoff hidle] at hexec
    refine ⟨_, hexec, ?_, ringRunning_of_state (n := 0) ?_ (by decide), ringAt_updRing_same _ _ _ _, ?_, ?_, ?_⟩
    · change getF (updRing _ _ _ _) _ _ _ = _
      rw [getF_updRing, getF_setF_otherReg _ _ _ _ _ _ (kRing_ne _ _ _ _ (by decide)), getF_setF_same _ _ _ _ _ (by omega)] <;> rfl
    · change getF (updRing _ _ _ _) _ _ _ = _
      rw [getF_updRing, getF_setF_same _ _ _ _ _ (by omega)] <;> rfl
    · dsimp only [State.goes]
      rw [descs_updRing, setF_host, setF_host, setF_host]
    · dsimp only [State.goes]
      rw [updRing_out, setF_out, setF_out, setF_out]
    · exact hostOnly_updRing_of (hostOnly_setF_of (hostOnly_setF_of (hostOnly_setF _ _ _ _ _)))
  · intro fn r v s hr hoff hon hused
    have hexec : exec (.ringDisable fn r v) s = s.goes (ringCfgWrite fn.val r v.toNat s.dev) :=
      whenDev_go (by rw [decide_eq_true hr, hoff, hon]; rfl)
    rw [ringCfgWrite_disable_used hon hoff hused] at hexec
    refine ⟨_, hexec, ?_, getF_setF_same _ _ _ _ _ (by omega), ?_, hostOnly_setF_of (hostOnly_bumpF_of (hostOnly_setF _ _ _ _ _))⟩
    · change getF (setF _ _ _ _ (bumpF _ _ _ _ _)) _ _ _ = 1
      unfold bumpF
      rw [getF_setF_otherReg _ _ _ _ _ _ (kRing_ne _ _ _ _ (by decide)), getF_setF_otherReg _ _ _ _ _ _ (kRing_ne _ _ _ _ (by decide)),
        getF_setF_above _ _ _ _ _ _ _ (by omega) (by omega), hon]
    · dsimp only [State.goes]
      rw [setF_host, bumpF_host, setF_host]
  · intro fn r v s hplace hrun hevent hv
    have hdiv : 16 * r / 16 = r := by omega
    change execSqTailDoorbell fn (16 * r) 8 v s = _
    unfold execSqTailDoorbell
    dsimp only
    rw [hdiv]
    refine (whenDev_go ?_).trans (congrArg s.goes (if_neg ?_))
    · rw [hplace]
      exact decide_eq_true (by omega)
    · rw [hrun, decide_eq_false (Nat.not_le.mpr hv)]
      simp
      omega
  · intro fn off size v s hplace hlow hbad
    have hexec : exec (.sqTailDoorbell fn off size v) s = s.goes (badDoorbell fn.val (off / 16) off v.toNat s.dev) := by
      refine (whenDev_go ?_).trans (congrArg s.goes (if_pos ?_))
      · rw [hplace]
        exact decide_eq_true hlow
      · rcases hbad with h | h | h | h <;> simp [h]
    refine ⟨_, hexec, ?_⟩
    dsimp only [State.goes]
    unfold badDoorbell
    extract_lets d1
    have hhost : HostOnly s.dev d1 := HostOnly.ite (hostOnly_setF_of (hostOnly_bumpF _ _ _ _ _)) (HostOnly.refl _)
    have hring (q : Nat) : ringAt d1 fn.val q = ringAt s.dev fn.val q := by
      simp only [d1]
      split
      · rw [ringAt_setF, ringAt_bumpF]
      · rfl
    refine ⟨hhost.trans (hostOnly_raiseEvent _ _ _ _ _), getF_raiseEvent_pending _ _ _ _ _ (by omega), fun q => ?_, fun q => ?_⟩
    · rw [ringPart_raiseEvent sqTail_apart, hring]
    · rw [ringPart_raiseEvent cqHead_apart, hring]
  · intro fn r v s hplace hrun hv hroom
    have hdiv : (16 * r + 8) / 16 = r := by omega
    have hexec : exec (.cqHeadDoorbell fn (16 * r + 8) 8 v) s = s.goes (flushHeld fn.val r (ringAt s.dev fn.val r).held
        (updRing fn.val r (fun rs => { rs with cqHead := v.toNat }) s.dev)) := by
      change execCqHeadDoorbell fn (16 * r + 8) 8 v s = _
      unfold execCqHeadDoorbell
      dsimp only
      rw [hdiv]
      refine (whenDev_go ?_).trans (congrArg s.goes ((if_neg ?_).trans ?_))
      · rw [hplace]
        exact decide_eq_true (by omega)
      · rw [hrun, decide_eq_false (Nat.not_le.mpr hv), decide_eq_false (Nat.not_lt.mpr hroom)]
        simp
        omega
      · rw [ringAt_updRing_same]
    refine ⟨hexec, fun hnone => ?_⟩
    rw [hnone] at hexec
    refine ⟨_, hexec, ?_, rfl, rfl⟩
    dsimp only [State.goes, flushHeld]
    rw [ringAt_updRing_same, ringAt_updRing_same]
    exact congrArg (fun l => { ringAt s.dev fn.val r with cqHead := v.toNat, held := l }) hnone.symm
  · intro fn r s hrun hirq hus hcount hdue
    obtain ⟨hout, hpend⟩ := out_sendMsix fn.val r s.dev
    have hexec : exec (.msixModerationTimeout fn r) s = s.goes (sendMsix fn.val r s.dev) :=
      whenDev_go (by rw [hrun, hirq, bne_iff_ne.mpr hus, bne_iff_ne.mpr hcount, decide_eq_true hdue]; rfl)
    refine ⟨_, hexec, hostOnly_sendMsix _ _ _, regs_sendMsix _ _ _, fun hopen => ?_, fun hmask => ⟨?_, hpend hmask⟩⟩
    · exact hout.trans (by rw [if_pos hopen])
    · exact hout.trans (by rw [hmask]; exact List.append_nil _)
  · intro fn v s hv
    refine ⟨_, whenDev_go (decide_eq_true hv), ?_⟩
    dsimp only [State.goes]
    cases hp : tget false s.dev.host.msixPend (4096 * fn.val + v) with
    | false =>
      rw [if_neg Bool.false_ne_true]
      exact ⟨rfl, tget_tset_same false _ _ true, hp, (List.append_nil _).symm⟩
    | true =>
      rw [if_pos rfl]
      obtain ⟨m, hm⟩ := forEach_clearCount fn.val (ringsOnVector (unmasked fn.val v s.dev) fn.val v) (unmasked fn.val v s.dev)
      refine hm.symm ▸ ⟨rfl, tget_tset_same false _ _ true, tget_tset_same false _ _ false, rfl⟩

end Sys2Proof.Proofs
end

section
/-! SUPPORT. Submission entries and the commands of every function (R369, R371, R375, R376, R455, R457). -/

namespace Sys2Proof.Machine

variable {d e : Dev} {x : Desc} {uid : Nat}

/-! Taking an entry. -/

/-- The checks at taking read the time, the live ports and the slots alone. -/
theorem takeCheck_congr (htime : e.time = d.time) (hlive : e.live = d.live) (hcore : e.core = d.core) : takeCheck e x = takeCheck d x := by
  have hnow : nowNs e = nowNs d := congrArg (fun t : TimeGrp => t.ft / 65536) htime
  have hslot (k : Nat) : slotAt e k = slotAt d k := congrArg (fun c : CoreGrp => tget ({} : SlotSt) c.slots k) hcore
  have hport : atLinePort e x = atLinePort d x := by
    unfold atLinePort
    rw [hlive]
  have hsem : afterSemOk e x = afterSemOk d x := by
    unfold afterSemOk runsIdent isRunning
    simp only [hslot]
  have hheader : headerOk e x = headerOk d x := by
    unfold headerOk
    rw [hnow, hport, hsem]
  have hoperands : operandsOk e x = operandsOk d x := by
    unfold operandsOk
    rw [hnow]
  unfold takeCheck
  rw [hheader, hoperands]

/-- The entry that is copied becomes the last descriptor. -/
def takenDev (fn r : Nat) (y : Desc) (d : Dev) : Dev :=
  { setF (kRing fn r 0x18) 16 16 ((sqHead d fn r + 1) % sqDepth d fn r) d with
    nextId := d.nextId + 1
    host.lastFn := fn
    host.lastRing := tset 2047 d.host.lastRing fn r
    host.descs := d.host.descs ++ [y] }

/-- The descriptors that a just taken AFTER_TAG entry waits for. -/
def afterUids (fn : Nat) (x : Desc) (d : Dev) : List Nat :=
  if x.launch = 3 then
    (d.host.descs.filter (fun y => y.fn == fn && y.ring == fld (x.w 3) 0 16 && y.tag == fld (x.w 2) 0 16)).map (·.uid)
  else []

/-- The entry as it stands among the descriptors. -/
def takenDesc (fn : Nat) (x : Desc) (d : Dev) : Desc :=
  { x with after := afterUids fn x d, phase := if x.launch = 1 then .armed else .waiting }

/-- Taking an entry while the launch gate has room. -/
theorem takeEntry_eq (fn r : Nat) (words : List Nat) (hgate : armedCount d < 4096) :
    let x : Desc := { uid := d.nextId, fn := fn, ring := r, words := words, phase := .waiting, after := [] }
    takeEntry fn r words d =
      if takeCheck d x ≠ 0 then finishDesc x (takeCheck d x) [] (takenDev fn r (takenDesc fn x d) d)
      else if x.launch = 0 ∨ x.launch = 3 ∧ afterUids fn x d = [] then makeEligible x.uid (takenDev fn r (takenDesc fn x d) d)
      else takenDev fn r (takenDesc fn x d) d := by
  unfold takeEntry
  extract_lets x d1 h1 d2 st tagged after h2 d3
  have hst : st = takeCheck d x := takeCheck_congr rfl rfl rfl
  have hafter : after = afterUids fn x d := ite_of_iff beq_iff_eq rfl rfl
  have hd3 : d3 = takenDev fn r (takenDesc fn x d) d := by
    have hphase : (if (x.launch == 1) = true then DescPhase.armed else DescPhase.waiting) = if x.launch = 1 then .armed else .waiting :=
      ite_of_iff beq_iff_eq rfl rfl
    simp only [d3, h2, hafter]
    rw [hphase]
    rfl
  rw [if_neg (by rw [decide_eq_false (Nat.not_le.mpr hgate), Bool.and_false]; decide), hst, hafter, hd3]
  refine ite_of_iff bne_iff_ne rfl (ite_of_iff ?_ rfl rfl)
  rw [Bool.or_eq_true, Bool.and_eq_true, beq_iff_eq, beq_iff_eq, List.isEmpty_iff]

/-! Completing a descriptor. -/

/-- A held ring goes on. -/
def gateGoes (e : Nat × RingSt) (d : Dev) : Dev := updRing (e.1 / 2048) (e.1 % 2048) (fun r => { r with gateHeld := false }) d

theorem descs_freeGate (d : Dev) : (freeGate d).host.descs = d.host.descs := by
  unfold freeGate
  split
  · exact forEach_inv (fun e => e.host.descs) _ gateGoes (fun _ _ => descs_updRing _ _ _ _) d
  · rfl

theorem descs_sendMsix (fn r : Nat) (d : Dev) : (sendMsix fn r d).host.descs = d.host.descs := by
  unfold sendMsix
  dsimp only
  split
  · rfl
  · exact forEach_inv (fun e => e.host.descs) _ (clearCount fn) (fun _ _ => descs_updRing _ _ _ _) _

theorem descs_signalEntry (fn r : Nat) (irq : Bool) (d : Dev) : (signalEntry fn r irq d).host.descs = d.host.descs := by
  unfold signalEntry
  dsimp only
  split
  · rw [descs_sendMsix, descs_updRing]
  · rw [descs_updRing]

theorem descs_writeEntry (fn r w0 : Nat) (rest : List Nat) (irq : Bool) (d : Dev) : (writeEntry fn r w0 rest irq d).host.descs = d.host.descs := by
  unfold writeEntry
  dsimp only
  rw [descs_signalEntry]
  split
  · rw [setF_host, setF_host]
    rfl
  · rw [setF_host]
    rfl

theorem descs_postCpl (fn r : Nat) (c : Cpl) (d : Dev) : (postCpl fn r c d).host.descs = d.host.descs := by
  unfold postCpl
  dsimp only
  split
  · rfl
  · split
    · rw [descs_updRing]
      split
      · unfold noteCqWait
        rw [bumpF_host, setF_host]
      · rfl
    · exact descs_writeEntry _ _ _ _ _ _

/-- A descriptor that completes is no longer outstanding. -/
theorem descs_finishDesc (x : Desc) (st : Nat) (res : List Nat) (d : Dev) :
    (finishDesc x st res d).host.descs = d.host.descs.filter (fun y => !(y.uid == x.uid)) := by
  unfold finishDesc
  rw [descs_postCpl]
  exact descs_freeGate _

theorem findDesc_finishDesc (x : Desc) (st : Nat) (res : List Nat) (d : Dev) : findDesc (finishDesc x st res d) x.uid = none := by
  unfold findDesc
  rw [descs_finishDesc, List.find?_eq_none]
  intro y hy
  have hne := (List.mem_filter.mp hy).2
  rw [Bool.not_eq_true'] at hne
  rw [hne]
  exact Bool.false_ne_true

theorem descFn_of {d : Dev} {uid : Nat} {x : Desc} (h : findDesc d uid = some x) : descFn d uid = x.fn := by
  unfold descFn
  rw [h]

/-! JOB_RUN. -/

theorem jobTargetOk_unloaded (h : bundleAt d (fld (x.w 4) 0 8) = none) : jobTargetOk d x = false := by
  unfold jobTargetOk loadedBundle
  rw [h]
  rfl

theorem jobTargetOk_used {j : Job} (hid : fld (x.w 4) 16 16 ≠ 0) (hmem : j ∈ d.host.jobs) (hj : j.fabric = fld (x.w 4) 16 16) :
    jobTargetOk d x = false := by
  unfold jobTargetOk
  have hany : d.host.jobs.any (fun y => y.fabric == fld (x.w 4) 16 16) = true := List.any_eq_true.mpr ⟨j, hmem, beq_iff_eq.mpr hj⟩
  rw [bne_iff_ne.mpr hid, hany, Bool.and_true, Bool.not_true, Bool.and_false]

end Sys2Proof.Machine

namespace Sys2Proof.Proofs

open Sys2Proof Sys2Proof.Machine

/-- Settles O39: taking an entry by `takeEntry_eq`; each command acts on its eligible descriptor. -/
theorem descriptorCommands : Obligations.DescriptorCommands := by
  unfold Obligations.DescriptorCommands
  refine ⟨?_, ?_, ?_, ?_, ?_, ?_, ?_, ?_, ?_, ?_, ?_, ?_, ?_⟩
  · intro fn r bs s hup hturn hlen hgate x named after y d e
    have hexec : exec (.sqEntryTake fn r (.ok bs)) s = s.goes (takeEntry fn.val r (leWords 16 bs) s.dev) :=
      whenDev_go (by rw [hup, beq_iff_eq.mpr hturn, beq_iff_eq.mpr hlen]; rfl)
    refine ⟨_, hexec, ?_⟩
    rw [takeEntry_eq fn.val r (leWords 16 bs) hgate]
    refine ⟨fun hop => ?_, fun hop hcheck hnow => ?_, fun hop hcheck hlater => ?_, fun hcheck => ?_⟩
    · have hcheck : takeCheck s.dev x = stUnsupported := if_pos (by rw [hop]; rfl)
      refine (if_pos (by rw [hcheck]; decide)).trans ?_
      exact congrArg (fun st => finishDesc x st [] e) hcheck
    · exact (if_neg (not_not_intro hcheck)).trans (if_pos hnow)
    · exact (if_neg (not_not_intro hcheck)).trans (if_neg hlater)
    · exact if_pos hcheck
  · intro fn r st info s hup hturn
    have hexec : exec (.sqEntryTake fn r (.failed st info)) s = s.goes (stopRing fn.val r s.dev) :=
      whenDev_go (by rw [hup, beq_iff_eq.mpr hturn]; rfl)
    refine ⟨_, hexec, ?_⟩
    dsimp only [State.goes]
    unfold stopRing
    dsimp only
    refine ⟨?_, ringRunning_of_state (n := 2) ?_ (by decide), ?_, ?_, ?_, ?_⟩
    · exact hostOnly_updRing_of (hostOnly_setF_of (hostOnly_setF_of (hostOnly_bumpF _ _ _ _ _)))
    · rw [getF_updRing, getF_setF_same _ _ _ _ _ (by omega)] <;> rfl
    · rw [getF_updRing, getF_setF_below _ _ _ _ _ _ _ (by omega) (by omega), getF_setF_same _ _ _ _ _ (by omega)] <;> rfl
    · rw [ringAt_updRing_same]
    · rw [descs_updRing, setF_host, setF_host, bumpF_host]
    · rw [updRing_out, setF_out, setF_out, bumpF_out]
  · intro uid s x hx hphase hcond
    refine ⟨_, ?_, rfl⟩
    change execDescriptorEligible uid s = _
    unfold execDescriptorEligible
    dsimp only
    rw [hx]
    exact whenDev_go (by rw [hphase, hcond]; rfl)
  · intro uid s x hx hfires
    change execLaunchFire uid s = _
    unfold execLaunchFire
    dsimp only
    rw [hx]
    exact whenDev_go hfires
  · intro uid s x hcmd hx
    rw [← descFn_of hx] at hcmd
    have hexec : exec (.nopCmd uid) s = s.goes (finishDesc x stSuccess [] s.dev) := by
      change execNopCmd uid s = _
      unfold execNopCmd
      exact onDesc_go hcmd
    exact ⟨_, hexec, rfl, hostOnly_finishDesc _ _ _ _, findDesc_finishDesc _ _ _ _⟩
  · intro uid s x hcmd hx
    rw [← descFn_of hx] at hcmd
    change execCancel uid s = _
    unfold execCancel
    exact onDesc_go hcmd
  · intro uid s x hcmd hwarm
    have hboot : (finishDesc x stSuccess [] s.dev).boot = s.dev.boot := (hostOnly_finishDesc _ _ _ _).boot
    have hexec : exec (.deviceReset uid) s = s.goes (dueWarm 2 (s.dev.aclk + 200000) (finishDesc x stSuccess [] s.dev)) := by
      change execDeviceReset uid s = _
      unfold execDeviceReset
      exact onDesc_go hcmd
    refine ⟨_, hexec, ?_⟩
    dsimp only [State.goes]
    unfold dueWarm
    rw [hboot, hwarm]
    exact ⟨rfl, rfl⟩
  · intro uid s x hcmd id t
    change execFabricReset uid s = _
    unfold execFabricReset
    exact onDesc_go hcmd
  · intro rid t u s hfind ht
    change execFabricResetAct rid s = _
    unfold execFabricResetAct
    dsimp only
    rw [hfind]
    exact whenDev_go (decide_eq_true ht)
  · intro uid bs s x j hcmd htrained hlen hjob htarget
    refine ⟨_, ?_, rfl⟩
    change execJobRun uid (.ok bs) s = _
    unfold execJobRun
    dsimp only
    rw [hcmd]
    dsimp only
    rw [htrained, htarget]
    refine (whenDev_go (beq_iff_eq.mpr hlen)).trans (congrArg s.goes ?_)
    unfold runJob
    rw [hjob]
    rfl
  · intro uid bs s x hcmd htrained hlen hjob htarget
    change execJobRun uid (.ok bs) s = _
    unfold execJobRun
    dsimp only
    rw [hcmd]
    dsimp only
    rw [htrained, htarget]
    refine (whenDev_go (beq_iff_eq.mpr hlen)).trans (congrArg s.goes ?_)
    unfold runJob
    rw [hjob]
  · intro uid r s x hcmd htrained hconflict
    have htarget : jobTargetOk s.dev x = false := by
      rcases hconflict with hnone | ⟨hid, j, hmem, hj⟩
      · exact jobTargetOk_unloaded hnone
      · exact jobTargetOk_used hid hmem hj
    change execJobRun uid r s = _
    unfold execJobRun
    dsimp only
    rw [hcmd]
    dsimp only
    rw [htrained, htarget]
    exact whenDev_go (w := "") rfl
  · intro uid s x hcmd
    have hexec : exec (.jobAbort uid) s = s.goes (match jobByTag s.dev x.ring (fld (x.w 4) 0 16) with
        | some j => finishDesc x stSuccess [] (completeJob j.uid stCancelled s.dev)
        | none => finishDesc x stConflict [] s.dev) := by
      change execJobAbort uid s = _
      unfold execJobAbort
      exact onDesc_go hcmd
    refine ⟨fun j hj => ?_, fun hnone => ?_⟩
    · rw [hexec, hj]
    · rw [hexec, hnone]

end Sys2Proof.Proofs
end

section
/-! SUPPORT. The Press (R407, R409, R410, R421, R424). -/

namespace Sys2Proof.Machine

variable {d : Dev} {c : PressCmd} {x : Desc}

/-! The least loaded engine. -/

theorem leastOf_lt (f : Nat → Nat) : leastOf f < 4 := by
  change (if f 3 < f (if f 2 < f (if f 1 < f 0 then 1 else 0) then 2 else if f 1 < f 0 then 1 else 0) then 3
    else if f 2 < f (if f 1 < f 0 then 1 else 0) then 2 else if f 1 < f 0 then 1 else 0) < 4
  repeat' split
  all_goals decide

theorem leastOf_le (f : Nat → Nat) {j : Nat} (hj : j < 4) : f (leastOf f) ≤ f j := by
  change f (if f 3 < f (if f 2 < f (if f 1 < f 0 then 1 else 0) then 2 else if f 1 < f 0 then 1 else 0) then 3
    else if f 2 < f (if f 1 < f 0 then 1 else 0) then 2 else if f 1 < f 0 then 1 else 0) ≤ f j
  have hcases : j = 0 ∨ j = 1 ∨ j = 2 ∨ j = 3 := by omega
  rcases hcases with rfl | rfl | rfl | rfl <;> grind

/-! The queue of an engine. -/

/-- The queue and the register that shows it. -/
theorem setPressQueue_eq (e : Nat) (q : List PressCmd) (d : Dev) :
    ∃ v, setPressQueue e q d = regPut (kPrs e 0) v { d with press.engs := tset [] d.press.engs e q } := ⟨_, rfl⟩

theorem setPressQueue_press (e : Nat) (q : List PressCmd) (d : Dev) :
    (setPressQueue e q d).press = { d.press with engs := tset [] d.press.engs e q } := by
  obtain ⟨v, hv⟩ := setPressQueue_eq e q d
  rw [hv, regPut_press]

theorem setPressQueue_host (e : Nat) (q : List PressCmd) (d : Dev) : (setPressQueue e q d).host = d.host := by
  obtain ⟨v, hv⟩ := setPressQueue_eq e q d
  rw [hv, regPut_host]

theorem setPressQueue_mem (e : Nat) (q : List PressCmd) (d : Dev) : (setPressQueue e q d).mem = d.mem := by
  obtain ⟨v, hv⟩ := setPressQueue_eq e q d
  rw [hv, regPut_mem]

theorem setPressQueue_core (e : Nat) (q : List PressCmd) (d : Dev) : (setPressQueue e q d).core = d.core := by
  obtain ⟨v, hv⟩ := setPressQueue_eq e q d
  rw [hv, regPut_core]

theorem setPressQueue_out (e : Nat) (q : List PressCmd) (d : Dev) : (setPressQueue e q d).out = d.out := by
  obtain ⟨v, hv⟩ := setPressQueue_eq e q d
  rw [hv, regPut_out]

theorem pressQueue_of_press {e : Dev} (h : e.press.engs = d.press.engs) (j : Nat) : pressQueue e j = pressQueue d j :=
  congrArg (fun t : Tbl (List PressCmd) => tget [] t j) h

theorem pressQueue_setPressQueue_same (e : Nat) (q : List PressCmd) (d : Dev) : pressQueue (setPressQueue e q d) e = q := by
  unfold pressQueue
  rw [setPressQueue_press]
  exact tget_tset_same _ _ _ _

theorem pressQueue_setPressQueue_other {j e : Nat} (q : List PressCmd) (d : Dev) (h : j ≠ e) :
    pressQueue (setPressQueue e q d) j = pressQueue d j := by
  unfold pressQueue
  rw [setPressQueue_press]
  exact tget_tset_other _ _ _ h

/-! Completing a command. -/

theorem hostOnly_countPress (e n : Nat) (d : Dev) : HostOnly d (countPress e n d) := by
  unfold countPress
  exact hostOnly_regPut_of (hostOnly_regPut _ _ _)

theorem out_countPress (e n : Nat) (d : Dev) : (countPress e n d).out = d.out := by
  unfold countPress
  rw [regPut_out, regPut_out]

theorem hostOnly_countPressErr (e st : Nat) (d : Dev) : HostOnly d (countPressErr e st d) := by
  unfold countPressErr
  exact HostOnly.ite (hostOnly_bumpF _ _ _ _ _) (HostOnly.ite (hostOnly_bumpF _ _ _ _ _) (hostOnly_bumpF _ _ _ _ _))

theorem hostOnly_endPress (c : PressCmd) (st : Nat) (res : List Nat) (d : Dev) : HostOnly d (endPress c st res d) := by
  unfold endPress
  split
  · exact hostOnly_finishDesc _ _ _ _
  · exact HostOnly.refl d

/-- A command that fails takes one of the free values and touches the host interface alone. -/
theorem hostOnly_failPress (e : Nat) (c : PressCmd) (st p : Nat) (d : Dev) : HostOnly { d with free := d.free + 1 } (failPress e c st p d) := by
  unfold failPress
  exact (hostOnly_countPress _ _ _).trans ((hostOnly_countPressErr _ _ _).trans (hostOnly_endPress _ _ _ _))

/-- The running command of an engine with host input and output: its end is what it computes. -/
theorem pressEnd_host {bs : List Byte} (hsrc : c.srcDdr = false) :
    pressEnd d c bs = match runPress c (pressStart c (pressCtx d c.stream)) bs with
      | .good x out n m => if (c.dstDdr && (poisonPartial d c.dst out.length).isSome) = true then .bad stMemUnc 0 else .good x out n m
      | .bad st p => .bad st p := by
  unfold pressEnd pressInput
  rw [hsrc]
  rfl

/-- A command that ends well, with its output in host memory: what is written, and the context left. -/
def pressLeaves (c : PressCmd) (x : PressCtx) (out : List Byte) (d : Dev) : Dev :=
  setPressCtx c.stream (if c.ends && c.op != 0x32 then none else some x) (if out.isEmpty then d else emit (.hostWrite 3 c.dst out) d)

theorem pressLeaves_out (c : PressCmd) (x : PressCtx) (out : List Byte) (d : Dev) :
    (pressLeaves c x out d).out = d.out ++ if out = [] then [] else [.hostWrite 3 c.dst out] := by
  cases out with
  | nil => exact (List.append_nil _).symm
  | cons b bs => rfl

theorem pressLeaves_core (c : PressCmd) (x : PressCtx) (out : List Byte) (d : Dev) :
    (pressLeaves c x out d).mem = d.mem ∧ (pressLeaves c x out d).core = d.core ∧ (pressLeaves c x out d).press.engs = d.press.engs ∧
    (pressLeaves c x out d).press.ctxs = tset none d.press.ctxs c.stream (if c.ends && c.op != 0x32 then none else some x) := by
  cases out with
  | nil => exact ⟨rfl, rfl, rfl, rfl⟩
  | cons b bs => exact ⟨rfl, rfl, rfl, rfl⟩

theorem exec_pressComplete {s : State} {e : Fin 4} {bs : List Byte} {cs : List PressCmd} (hq : pressQueue s.dev e.val = c :: cs)
    (hsrc : c.srcDdr = false) (hlen : bs.length = c.srcLen) (hpage : descPaged s.dev c.uid = false) :
    exec (.pressCommandComplete e (.ok bs)) s = s.goes (endRunning e.val c (pressEnd s.dev c bs) (setPressQueue e.val cs s.dev)) := by
  change execPressCommandComplete e (.ok bs) s = _
  unfold execPressCommandComplete
  dsimp only
  rw [hq]
  dsimp only
  refine whenDev_go ?_
  rw [hsrc, hpage, beq_iff_eq.mpr (hlen.trans (if_neg Bool.false_ne_true).symm)]
  rfl

/-- The commands of PF3 are accepted alike. -/
theorem exec_press {s : State} {uid op : Nat} {i : Instr} (hi : (op, i) ∈ [(0x30, .pressDeflate uid), (0x31, .pressInflate uid), (0x32, .pressFlush uid)])
    (hx : cmdDesc s.dev uid 3 op = some x) : exec i s = s.goes (acceptPress x s.dev) := by
  simp only [List.mem_cons, Prod.mk.injEq, List.not_mem_nil, or_false] at hi
  obtain ⟨rfl, rfl⟩ | ⟨rfl, rfl⟩ | ⟨rfl, rfl⟩ := hi
  · change execPressDeflate uid s = _
    unfold execPressDeflate
    exact onDesc_go hx
  · change execPressInflate uid s = _
    unfold execPressInflate
    exact onDesc_go hx
  · change execPressFlush uid s = _
    unfold execPressFlush
    exact onDesc_go hx

/-- DDR4 operands need DDR4. -/
theorem pressDdr_ok (h : (c.srcDdr = false ∧ c.dstDdr = false) ∨ d.ddr.trained = true) : ((c.srcDdr || c.dstDdr) && !d.ddr.trained) = false := by
  rcases h with ⟨hsrc, hdst⟩ | htrained
  · rw [hsrc, hdst]
    rfl
  · rw [htrained, Bool.not_true, Bool.and_false]

end Sys2Proof.Machine

namespace Sys2Proof.Proofs

open Sys2Proof Sys2Proof.Machine

/-- Settles O40: acceptance by its first rule broken; an end touches its engine's queue, its stream's context and the host. -/
theorem pressCommands : Obligations.PressCommands := by
  unfold Obligations.PressCommands
  refine ⟨?_, ?_, ?_, ?_⟩
  · intro uid op s x i hi hx c
    have hexec := exec_press hi hx
    refine ⟨fun hddr hranges hstate => ⟨_, ?_, rfl⟩, fun hddr huntrained => ?_, fun hddr hranges => ?_, fun hddr hranges hbusy hstate => ?_⟩
    · refine hexec.trans (congrArg s.goes ?_)
      refine (if_neg ?_).trans ((if_neg ?_).trans (if_neg ?_))
      · rw [pressDdr_ok hddr]
        exact Bool.false_ne_true
      · rw [hranges]
        decide
      · rcases hstate with h | h <;> simp [c, h]
    · refine hexec.trans (congrArg s.goes (if_pos ?_))
      rw [huntrained]
      rcases hddr with h | h <;> simp [c, h]
    · refine hexec.trans (congrArg s.goes ((if_neg ?_).trans (if_pos ?_)))
      · rw [pressDdr_ok hddr]
        exact Bool.false_ne_true
      · rw [hranges]
        rfl
    · refine hexec.trans (congrArg s.goes ((if_neg ?_).trans ((if_neg ?_).trans (if_pos ?_))))
      · rw [pressDdr_ok hddr]
        exact Bool.false_ne_true
      · rw [hranges]
        decide
      · rw [hbusy, hstate]
        rfl
  · intro s c hup hnext hstate
    have hexec : exec .pressDispatch s = s.goes (setPressQueue (leastOf (pressLoad s.dev)) (pressQueue s.dev (leastOf (pressLoad s.dev)) ++ [c])
        { s.dev with press.waiting := s.dev.press.waiting.filter (fun y => y.uid != c.uid) }) := by
      change execPressDispatch s = _
      unfold execPressDispatch
      dsimp only
      rw [if_pos hup, hnext]
      exact (whenDev_go rfl).trans (congrArg s.goes (if_pos hstate))
    refine ⟨_, leastOf (pressLoad s.dev), hexec, leastOf_lt _, fun j hj => leastOf_le _ hj, ?_⟩
    dsimp only [State.goes]
    rw [pressQueue_setPressQueue_same, setPressQueue_press, setPressQueue_mem, setPressQueue_out, setPressQueue_host]
    exact ⟨rfl, fun j hj => pressQueue_setPressQueue_other _ _ hj, rfl, rfl, rfl, rfl, rfl⟩
  · intro e bs s c cs x out n m hq hsrc hdst hlen hpage hrun
    have hend : pressEnd s.dev c bs = .good x out n m := by
      rw [pressEnd_host hsrc, hrun]
      dsimp only
      rw [hdst]
      rfl
    have hexec := exec_pressComplete hq hsrc hlen hpage
    rw [hend] at hexec
    obtain ⟨hmem, hcore, hengs, hctxs⟩ := pressLeaves_core c x out (setPressQueue e.val cs s.dev)
    have hleaves : endRunning e.val c (.good x out n m) (setPressQueue e.val cs s.dev) =
        endPress c stSuccess [n, out.length] (countPress e.val m (pressLeaves c x out (setPressQueue e.val cs s.dev))) := by
      unfold endRunning pressLeaves
      dsimp only
      rw [hdst]
      rfl
    rw [hleaves] at hexec
    have hhost := (hostOnly_countPress e.val m (pressLeaves c x out (setPressQueue e.val cs s.dev))).trans
      (hostOnly_endPress c stSuccess [n, out.length] _)
    have hpress : (endPress c stSuccess [n, out.length] (countPress e.val m (pressLeaves c x out (setPressQueue e.val cs s.dev)))).press.engs =
        (setPressQueue e.val cs s.dev).press.engs := (congrArg PressGrp.engs hhost.press).trans hengs
    refine ⟨_, _, hexec, rfl, ?_, ?_, fun j hj => ?_, ?_, fun j hj => ?_, ?_, ?_⟩
    · rw [out_countPress, pressLeaves_out, setPressQueue_out]
    · exact (pressQueue_of_press hpress _).trans (pressQueue_setPressQueue_same _ _ _)
    · exact (pressQueue_of_press hpress _).trans (pressQueue_setPressQueue_other _ _ hj)
    · refine (congrArg (fun t => tget none t c.stream) ((congrArg PressGrp.ctxs hhost.press).trans hctxs)).trans ?_
      rw [tget_tset_same]
      exact ite_of_iff (by simp) rfl rfl
    · refine (congrArg (fun t => tget none t j) ((congrArg PressGrp.ctxs hhost.press).trans hctxs)).trans ?_
      rw [tget_tset_other _ _ _ hj, setPressQueue_press]
      rfl
    · exact hhost.mem.trans (hmem.trans (setPressQueue_mem _ _ _))
    · exact hhost.core.trans (hcore.trans (setPressQueue_core _ _ _))
  · intro e bs s c cs st p hq hsrc hlen hpage hrun
    have hend : pressEnd s.dev c bs = .bad st p := by
      rw [pressEnd_host hsrc, hrun]
    have hexec := exec_pressComplete hq hsrc hlen hpage
    rw [hend] at hexec
    have hhost := hostOnly_failPress e.val c st p (setPressQueue e.val cs s.dev)
    have hset := congrArg PressGrp.ctxs (setPressQueue_press e.val cs s.dev)
    have hctxs : (failPress e.val c st p (setPressQueue e.val cs s.dev)).press.ctxs = s.dev.press.ctxs :=
      (congrArg PressGrp.ctxs hhost.press).trans hset
    refine ⟨_, hexec, rfl, ?_, hctxs, hhost.mem.trans (setPressQueue_mem e.val cs s.dev), hhost.core.trans (setPressQueue_core e.val cs s.dev)⟩
    exact (pressQueue_of_press (congrArg PressGrp.engs hhost.press) _).trans (pressQueue_setPressQueue_same e.val cs s.dev)

end Sys2Proof.Proofs
end

section
/-! SUPPORT. DDR4 in service (R391, R397, R399 to R401, R403). -/

namespace Sys2Proof.Machine

variable {d : Dev}

/-- The first number of a run that satisfies a test. -/
theorem find?_upFrom_first {p : Nat → Bool} {c : Nat} (hc : p c = true) :
    ∀ {a n : Nat}, a ≤ c → c < a + n → (∀ j, a ≤ j → j < c → p j = false) → (upFrom a n).find? p = some c
  | a, 0, ha, hn, _ => absurd hn (Nat.not_lt.mpr ha)
  | a, n + 1, ha, hn, hfirst => by
    change (match p a with | true => some a | false => (upFrom (a + 1) n).find? p) = some c
    rcases Nat.eq_or_lt_of_le ha with rfl | hlt
    · rw [hc]
    · rw [hfirst a (Nat.le_refl a) hlt]
      exact find?_upFrom_first hc hlt (by omega) (fun j hj => hfirst j (by omega))

/-- A term of a sum of natural numbers is at most the sum. -/
theorem add_getD_le_foldl : ∀ (l : List Nat) (acc i : Nat), acc + l.getD i 0 ≤ l.foldl (· + ·) acc
  | [], _, _ => Nat.le_refl _
  | x :: l, acc, 0 => by
    have h := add_getD_le_foldl l (acc + x) l.length
    rw [List.foldl_cons]
    exact Nat.le_trans (Nat.le_add_right _ _) h
  | x :: l, acc, i + 1 => by
    have h := add_getD_le_foldl l (acc + x) i
    rw [List.foldl_cons, List.getD_cons_succ]
    exact Nat.le_trans (Nat.add_le_add_right (Nat.le_add_right acc x) _) h

/-- The top four bits of a register value. -/
theorem fld_top4 {c m : Nat} (hc : c < 16) (hm : m < 2 ^ 28) : fld ((c * 2 ^ 28 + m) % 2 ^ 32) 28 4 = c := by
  unfold fld
  rw [Nat.shiftRight_eq_div_pow]
  omega

/-! Retirement. -/

theorem hostOnly_showRetired (d : Dev) : HostOnly d (showRetired d) := by
  unfold showRetired
  exact hostOnly_regPut_of (hostOnly_regPut _ _ _)

/-- The retired-page list with one page more, where it has room. -/
def retiredWith (page : Nat) (l : List Nat) : List Nat := if l.length < 4096 then l ++ [page] else l

/-- A page that is not listed is retired where the list has room, and its loss is an event. -/
theorem retirePage_facts {page : Nat} (hnew : d.ddr.retired.contains page = false) :
    HostOnly { d with ddr.retired := retiredWith page d.ddr.retired } (retirePage page d) ∧ getF (retirePage page d) kEvtPending 0x0C 1 = 1 := by
  have hlisted : ¬ d.ddr.retired.contains page = true := by
    rw [hnew]
    exact Bool.false_ne_true
  unfold retirePage
  dsimp only
  rw [if_neg hlisted]
  by_cases hroom : d.ddr.retired.length < 4096
  · have hlist : retiredWith page d.ddr.retired = d.ddr.retired ++ [page] := if_pos hroom
    rw [hlist, if_pos hroom]
    exact ⟨((hostOnly_setF _ _ _ _ _).trans (hostOnly_showRetired _)).trans (hostOnly_raiseEvent _ _ _ _ _),
      getF_raiseEvent_pending _ _ _ _ _ (by omega)⟩
  · have hlist : retiredWith page d.ddr.retired = d.ddr.retired := if_neg hroom
    rw [hlist, if_neg hroom]
    exact ⟨(hostOnly_setF _ _ _ _ d).trans (hostOnly_raiseEvent _ _ _ _ _), getF_raiseEvent_pending _ _ _ _ _ (by omega)⟩

theorem HostOnly.retired {b e : Dev} (h : HostOnly b e) (l : List Nat) : HostOnly { b with ddr.retired := l } { e with ddr.retired := l } := by
  have heq := congrArg (fun x : Dev => { x with ddr.retired := l }) h
  exact heq

/-- An uncorrectable line reads 0 and is marked. -/
def lostLine (a : Nat) (d : Dev) : Dev := { zeroMem a 64 d with ddr.poison := tset false d.ddr.poison (a / 64) true }

/-- Its page is retired. -/
theorem ddrUncorrectable_facts {a : Nat} (halign : a / 64 * 64 = a) (hnew : d.ddr.retired.contains (a / 4096 * 4096) = false) :
    HostOnly { lostLine a d with ddr.retired := retiredWith (a / 4096 * 4096) d.ddr.retired } (ddrUncorrectable a d) ∧
    getF (ddrUncorrectable a d) kEvtPending 0x0C 1 = 1 := by
  obtain ⟨b, hhost, hb⟩ : ∃ b, HostOnly (lostLine a d) b ∧ ddrUncorrectable a d = retirePage (a / 4096 * 4096) b := by
    refine ⟨bumpF kMemErrCnt 16 16 1 (setF kMemErr 2 1 1 (lostLine a d)), hostOnly_bumpF_of (hostOnly_setF _ _ _ _ _), ?_⟩
    unfold ddrUncorrectable lostLine
    dsimp only
    rw [halign]
    rfl
  have hret : b.ddr.retired = d.ddr.retired := by
    rw [hhost.ddr]
    rfl
  obtain ⟨hpage, hevent⟩ := retirePage_facts (d := b) (page := a / 4096 * 4096) (hret ▸ hnew)
  rw [hb]
  rw [hret] at hpage
  exact ⟨(hhost.retired _).trans hpage, hevent⟩

/-! The scrub report. -/

/-- A report raises its event and starts the count again. -/
theorem scrubSend_eq (ch : Nat) (d : Dev) : ∃ e : Dev, HostOnly d e ∧ getF e kEvtPending 0x0B 1 = 1 ∧ scrubSend ch d = { e with
    ddr.scrubCorr := tset 0 e.ddr.scrubCorr ch 0
    ddr.scrubTime := tset none e.ddr.scrubTime ch (some e.aclk) } :=
  ⟨raiseEvent 0x0B 2 ch [tget 0 d.ddr.scrubCorr ch % 2 ^ 32] d, hostOnly_raiseEvent _ _ _ _ _,
    getF_raiseEvent_pending _ _ _ _ _ (by omega), rfl⟩

/-- A corrected line is counted, and the first correction of a channel is reported at once. -/
def scrubCounted (ch : Nat) (d : Dev) : Dev :=
  let e : Dev := { bumpF (kChStat ch) 0 16 1 d with ddr.scrubCorr := tmod 0 d.ddr.scrubCorr ch (· + 1) }
  if (tget none d.ddr.scrubTime ch).isNone then scrubSend ch e else e

/-- What a count of corrections leaves. -/
structure CountsOnly (b d : Dev) : Prop where
  mem : d.mem = b.mem
  poison : d.ddr.poison = b.ddr.poison
  retired : d.ddr.retired = b.ddr.retired
  core : d.core = b.core

theorem scrubCounted_first {ch : Nat} (h : (tget none d.ddr.scrubTime ch).isNone = true) :
    CountsOnly d (scrubCounted ch d) ∧ tget 0 (scrubCounted ch d).ddr.scrubCorr ch = 0 := by
  obtain ⟨b, hcount, hb⟩ : ∃ b, HostOnly d b ∧ scrubCounted ch d = scrubSend ch { b with ddr.scrubCorr := tmod 0 d.ddr.scrubCorr ch (· + 1) } :=
    ⟨bumpF (kChStat ch) 0 16 1 d, hostOnly_bumpF _ _ _ _ _, if_pos h⟩
  obtain ⟨e, hhost, _, he⟩ := scrubSend_eq ch { b with ddr.scrubCorr := tmod 0 d.ddr.scrubCorr ch (· + 1) }
  have hddr := hhost.ddr
  rw [hb, he]
  refine ⟨⟨hhost.mem.trans hcount.mem, ?_, ?_, hhost.core.trans hcount.core⟩, tget_tset_same 0 e.ddr.scrubCorr ch 0⟩
  · dsimp only
    rw [hddr, hcount.ddr]
  · dsimp only
    rw [hddr, hcount.ddr]

theorem scrubCounted_later {ch : Nat} (h : ¬ (tget none d.ddr.scrubTime ch).isNone = true) :
    CountsOnly d (scrubCounted ch d) ∧ tget 0 (scrubCounted ch d).ddr.scrubCorr ch = tget 0 d.ddr.scrubCorr ch + 1 := by
  obtain ⟨b, hcount, hb⟩ : ∃ b, HostOnly d b ∧ scrubCounted ch d = { b with ddr.scrubCorr := tmod 0 d.ddr.scrubCorr ch (· + 1) } :=
    ⟨bumpF (kChStat ch) 0 16 1 d, hostOnly_bumpF _ _ _ _ _, if_neg h⟩
  have hddr := hcount.ddr
  rw [hb]
  refine ⟨⟨hcount.mem, ?_, ?_, hcount.core⟩, tget_tmod_same 0 d.ddr.scrubCorr ch (· + 1)⟩
  · dsimp only
    rw [hddr]
  · dsimp only
    rw [hddr]

/-! The refresh rate. -/

/-- The refresh rate of a channel follows its modules' temperature. -/
def refreshRate (ch : Nat) (hottest : Int) (d : Dev) : Dev :=
  if 85 < hottest then setF (kChStat ch) 29 1 1 d else if hottest < 83 then setF (kChStat ch) 29 1 0 d else d

theorem refreshRate_facts (ch : Nat) (h : Int) (d : Dev) :
    getF (refreshRate ch h d) (kChStat ch) 29 1 = (if 85 < h then 1 else if h < 83 then 0 else getF d (kChStat ch) 29 1) ∧
    ∀ k, k ≠ kChStat ch → regVal (refreshRate ch h d) k = regVal d k := by
  unfold refreshRate
  split
  · exact ⟨getF_setF_same _ _ _ _ _ (by omega), fun k hk => regVal_setF_other _ _ _ _ hk⟩
  · split
    · exact ⟨getF_setF_same _ _ _ _ _ (by omega), fun k hk => regVal_setF_other _ _ _ _ hk⟩
    · exact ⟨rfl, fun _ _ => rfl⟩

theorem regPut_eq (k v : Nat) (d : Dev) : regPut k v d = { d with regs := (regPut k v d).regs } := by
  unfold regPut
  rfl

theorem refreshRate_eq (ch : Nat) (h : Int) (d : Dev) : refreshRate ch h d = { d with regs := (refreshRate ch h d).regs } := by
  unfold refreshRate
  split
  · exact regPut_eq _ _ d
  · split
    · exact regPut_eq _ _ d
    · rfl

end Sys2Proof.Machine

namespace Sys2Proof.Proofs

open Sys2Proof Sys2Proof.Machine

/-- Settles O41: a window by its first channel over the limit, a scrubbed line by what was read, a module by its temperature. -/
theorem memoryReliability : Obligations.MemoryReliability := by
  unfold Obligations.MemoryReliability
  refine ⟨?_, ?_, ?_, ?_, ?_⟩
  · intro c s htrained
    exact whenDev_go htrained
  · intro sums s hlen htrained
    refine ⟨fun hunder => ?_, fun c hc hover hfirst => ?_⟩
    · have hnone : (upFrom 0 16).find? (fun c => sums.foldl (· + ·) 0 != 0 && decide (4 * sums.foldl (· + ·) 0 < 16 * sums.getD c 0)) = none := by
        rw [List.find?_eq_none]
        intro c hc
        have hlt : c < 0 + 16 := (mem_upFrom hc).2
        rw [decide_eq_false (Nat.not_lt.mpr (hunder c (by omega))), Bool.and_false]
        exact Bool.false_ne_true
      change execSkewWindow sums s = _
      unfold execSkewWindow
      dsimp only
      rw [hnone]
      exact whenDev_go (by rw [hlen, htrained]; rfl)
    · have hsome : (upFrom 0 16).find? (fun c => sums.foldl (· + ·) 0 != 0 && decide (4 * sums.foldl (· + ·) 0 < 16 * sums.getD c 0)) = some c := by
        refine find?_upFrom_first ?_ (Nat.zero_le c) (by omega) (fun j _ hj => ?_)
        · have hle := add_getD_le_foldl sums 0 c
          rw [decide_eq_true hover, Bool.and_true, bne_iff_ne]
          omega
        · rw [decide_eq_false (Nat.not_lt.mpr (hfirst j hj)), Bool.and_false]
      have hexec : ∃ m p, m < 2 ^ 28 ∧ exec (.skewWindow sums) s = s.goes (raiseEvent 0x03 2 c p
          (regPut kMemSkew (c * 2 ^ 28 + m) (bumpF kMemErrCnt 8 8 1 (setF kMemErr 1 1 1 s.dev)))) := by
        refine ⟨min 0xFFFF (sums.getD c 0 * 4096 / sums.foldl (· + ·) 0), [sums.getD c 0 % 2 ^ 32, sums.foldl (· + ·) 0 % 2 ^ 32],
          Nat.lt_of_le_of_lt (Nat.min_le_left _ _) (by decide), ?_⟩
        change execSkewWindow sums s = _
        unfold execSkewWindow
        dsimp only
        rw [hsome]
        exact whenDev_go (by rw [hlen, htrained]; rfl)
      obtain ⟨m, p, hm, hexec⟩ := hexec
      refine ⟨_, hexec, ?_, ?_, getF_raiseEvent_pending _ _ _ _ _ (by omega), ?_⟩
      · exact (hostOnly_regPut_of (hostOnly_bumpF_of (hostOnly_setF _ _ _ _ _))).trans (hostOnly_raiseEvent _ _ _ _ _)
      · dsimp only [State.goes]
        rw [getF_raiseEvent_other _ _ _ _ _ _ _ _ (by decide) (by decide) (by decide) (by decide) (by decide),
          getF_regPut_otherReg _ _ _ _ (by decide)]
        unfold bumpF
        rw [getF_setF_otherReg _ _ _ _ _ _ (by decide), getF_setF_same _ _ _ _ _ (by omega)] <;> rfl
      · dsimp only [State.goes]
        rw [getF_raiseEvent_other _ _ _ _ _ _ _ _ (by decide) (by decide) (by decide) (by decide) (by decide)]
        unfold getF
        rw [regVal_regPut_same]
        exact fld_top4 hc hm
  · intro off r s htrained hoff hpage a page ch
    have hready : (s.dev.ddr.trained && decide (off.toNat < ddrSize s.dev) && !s.dev.ddr.retired.contains page) = true := by
      rw [htrained, decide_eq_true hoff, hpage]
      rfl
    cases r with
    | good => exact whenDev_go hready
    | corrected =>
      have hexec : exec (.scrubRead off .corrected) s = s.goes (scrubCounted ch s.dev) := whenDev_go hready
      by_cases hfirst : (tget none s.dev.ddr.scrubTime ch).isNone = true
      · obtain ⟨⟨hmem, hpoison, hretired, hcore⟩, hcount⟩ := scrubCounted_first (d := s.dev) hfirst
        exact ⟨_, hexec, hmem, hpoison, hretired, hcore, hcount.trans (if_pos hfirst).symm⟩
      · obtain ⟨⟨hmem, hpoison, hretired, hcore⟩, hcount⟩ := scrubCounted_later (d := s.dev) hfirst
        exact ⟨_, hexec, hmem, hpoison, hretired, hcore, hcount.trans (if_neg hfirst).symm⟩
    | uncorrectable =>
      have hexec : exec (.scrubRead off .uncorrectable) s = s.goes (ddrUncorrectable a s.dev) := whenDev_go hready
      have halign : a / 64 * 64 = a := by
        simp only [a, ddrBase]
        omega
      obtain ⟨hhost, hevent⟩ := ddrUncorrectable_facts (d := s.dev) halign hpage
      refine ⟨_, hexec, fun j => ?_, ?_, fun l hl => ?_, hevent, ?_, ?_⟩
      · dsimp only [State.goes]
        rw [hhost.mem]
        exact mem_zeroMem a 64 s.dev j
      · dsimp only [State.goes]
        rw [hhost.ddr]
        exact tget_tset_same false s.dev.ddr.poison (a / 64) true
      · dsimp only [State.goes]
        rw [hhost.ddr]
        exact tget_tset_other false s.dev.ddr.poison true hl
      · exact congrArg DdrGrp.retired hhost.ddr
      · exact hhost.core
  · intro c s hdue
    have hexec : exec (.scrubReport c) s = s.goes (scrubSend c.val s.dev) := whenDev_go hdue
    obtain ⟨e, hhost, hevent, heq⟩ := scrubSend_eq c.val s.dev
    rw [heq] at hexec
    have hretired := congrArg DdrGrp.retired hhost.ddr
    refine ⟨_, hexec, hevent, tget_tset_same 0 e.ddr.scrubCorr c.val 0, ?_, hretired, hhost.mem⟩
    · exact (tget_tset_same none e.ddr.scrubTime c.val (some e.aclk)).trans (congrArg some hhost.aclk)
  · intro c h s htrained
    obtain ⟨hfield, hothers⟩ := refreshRate_facts c.val h s.dev
    refine ⟨_, (whenDev_go htrained : exec (.dimmThermalRead c h) s = s.goes (refreshRate c.val h s.dev)), hfield, hothers, ?_⟩
    exact congrArg (fun e => { s with dev := e }) (refreshRate_eq c.val h s.dev)

end Sys2Proof.Proofs
end

section
/-! SUPPORT. The DDR4 window of PF2, the management buses, debug access, the link and bridge errors (R24, R25, R355, R360, R438, R483). -/

namespace Sys2Proof.Machine

variable {s : State} {d : Dev}

/-! The window of PF2. -/

theorem upFrom_add (a : Nat) : ∀ (x n : Nat), upFrom (a + x) n = (upFrom x n).map (a + ·)
  | _, 0 => rfl
  | x, n + 1 => congrArg (List.cons (a + x)) (upFrom_add a (x + 1) n)

/-- Without marked lines a write of bytes that the host may write is one of the device map. -/
theorem barWrite_eq {x : Nat} {bs : List Byte} (hbytes : ∀ i ∈ upFrom x bs.length, barWrites d i = true) (hclean : d.ddr.poison = []) :
    barWrite x bs d = wrMem (ddrBase + x) bs d := by
  have hwhole : poisonPartial d (ddrBase + x) bs.length = none := by
    unfold poisonPartial
    rw [hclean]
    rfl
  unfold barWrite devWrite
  rw [List.all_eq_true.mpr hbytes, hwhole, hclean]
  rfl

/-- A read of bytes that exist for the host, none of them lost. -/
theorem barRead_eq {x n : Nat} (hbytes : ∀ i ∈ upFrom x n, barByte d i = true) (hclean : ∀ i ∈ upFrom x n, poisonIn d (ddrBase + i) 1 = none) :
    barRead x n d = emit (.barRead (rdMem d (ddrBase + x) n)) d := by
  have hnone : (upFrom x n).any (fun i => barByte d i && (poisonIn d (ddrBase + i) 1).isSome) = false := by
    rw [List.any_eq_false]
    intro i hi
    rw [hclean i hi, Option.isSome_none, Bool.and_false]
    exact Bool.false_ne_true
  have hread : (upFrom x n).map (fun i => if barByte d i then tget 0 d.mem (ddrBase + i) else 0) = rdMem d (ddrBase + x) n := by
    unfold rdMem tgetRun
    rw [upFrom_add, List.map_map]
    exact List.map_congr_left (fun i hi => if_pos (hbytes i hi))
  unfold barRead
  rw [hnone, hread]
  rfl

/-! The debugger. -/

theorem mem_halted_haltCore (k : Nat) (d : Dev) : k ∈ (haltCore k d).boot.halted := by
  unfold haltCore
  split
  · rename_i h
    exact List.contains_iff_mem.mp h
  · exact List.mem_append_right _ (List.mem_singleton.mpr rfl)

theorem haltCore_core (k : Nat) (d : Dev) : (haltCore k d).core = d.core := by
  unfold haltCore
  split
  · rfl
  · rfl

theorem not_mem_halted_resumeCore (k : Nat) (d : Dev) : k ∉ (resumeCore k d).boot.halted := by
  intro h
  have hne := (List.mem_filter.mp h).2
  exact bne_iff_ne.mp hne rfl

/-- A halted core issues nothing. -/
theorem canIssue_of_halted {k : Nat} (h : k ∈ d.boot.halted) : canIssue d k = false := by
  unfold canIssue
  rw [List.contains_iff_mem.mpr h, Bool.not_true, Bool.and_false, Bool.false_and]

/-- While a management core is halted, no ring entry is taken. -/
theorem schedulerUp_of_halted {k : Nat} (hk : 64 ≤ k) (h : k ∈ d.boot.halted) : schedulerUp d = false := by
  have hany : d.boot.halted.any (fun k => decide (64 ≤ k)) = true := List.any_eq_true.mpr ⟨k, h, decide_eq_true hk⟩
  unfold schedulerUp
  rw [hany, Bool.not_true, Bool.and_false]

theorem exec_debug (op : DebugOp) (hhold : s.dev.boot.hold = false) : exec (.jtagDebugAccess op) s = s.goes (debugAccess op s.dev) :=
  whenDev_go (by rw [hhold]; rfl)

/-! Registers alone. -/

theorem setF_eq (k lo w v : Nat) (d : Dev) : setF k lo w v d = { d with regs := (setF k lo w v d).regs } := by
  unfold setF
  exact regPut_eq _ _ d

theorem bumpF_eq (k lo w n : Nat) (d : Dev) : bumpF k lo w n d = { d with regs := (bumpF k lo w n d).regs } := by
  unfold bumpF
  exact setF_eq _ _ _ _ d

/-- A lost transfer is counted with its bridge. -/
def bridgeLost (b : Nat) (d : Dev) : Dev := setF kBridgeErr 30 2 b (bumpF kBridgeErr 16 8 1 d)

theorem bridgeLost_eq (b : Nat) (d : Dev) : bridgeLost b d = { d with regs := (bridgeLost b d).regs } := by
  unfold bridgeLost
  rw [setF_eq kBridgeErr 30 2 b, bumpF_eq kBridgeErr 16 8 1 d]

theorem linkStat_lt {flit : Bool} {width speed : Nat} (hwidth : width ∈ [1, 2, 4, 8]) (hspeed : speed ≤ 6) :
    512 + flit.toNat * 256 + width * 16 + speed < 2 ^ 32 := by
  have hflit := Bool.toNat_le flit
  simp only [List.mem_cons, List.not_mem_nil, or_false] at hwidth
  omega

end Sys2Proof.Machine

namespace Sys2Proof.Proofs

open Sys2Proof Sys2Proof.Machine

/-- Settles O44: each way in is one equation of its command. -/
theorem managementAndDebug : Obligations.ManagementAndDebug := by
  unfold Obligations.ManagementAndDebug
  refine ⟨?_, ?_, ?_, ?_, ?_, ?_, ?_, ?_, ?_, ?_⟩
  · intro off len bs s hhold hbytes hclean
    have hexec : exec (.bar4WindowAccess off len (some bs)) s = s.goes (barWrite off bs s.dev) := whenDev_go (by rw [hhold]; rfl)
    rw [barWrite_eq hbytes hclean] at hexec
    refine ⟨_, hexec, rdMem_wrMem _ _ _, fun j hj => ?_, rfl⟩
    exact (mem_wrMem _ _ _ j).trans (if_neg (by omega))
  · intro off len s hhold hbytes hclean
    have hexec : exec (.bar4WindowAccess off len none) s = s.goes (barRead off len s.dev) := whenDev_go (by rw [hhold]; rfl)
    rw [hexec, barRead_eq hbytes hclean]
  · intro s hhold
    have hexec : exec .mgmtStatusRead s = s.goes (emit (.mgmtRead (statusBytes s.dev)) s.dev) := whenDev_go (by rw [hhold]; rfl)
    have hbytes : statusBytes s.dev = leBytes 4 (regVal s.dev kBootStat) ++ leBytes 4 (regVal s.dev kPwrStat) ++
        leBytes 4 (regVal s.dev kPwrTemp) ++ leBytes 4 (regVal s.dev kTimStatus) := by
      unfold statusBytes
      simp only [List.flatMap_cons, List.flatMap_nil, List.append_nil, List.append_assoc]
    rw [hexec, hbytes]
  · intro m s hhold
    have hexec : exec (.mctpMessage m) s = s.goes (emit (.mctpResponse (mctpAnswer s.dev m)) s.dev) := whenDev_go (by rw [hhold]; rfl)
    refine ⟨_, hexec, ?_⟩
    rintro rfl
    rfl
  · intro s hhold
    exact exec_debug _ hhold
  · intro op s hhold hop hoff
    refine (exec_debug op hhold).trans (congrArg (fun d => Host.Outcome.next { s with dev := d }) (?_ : debugAccess op s.dev = s.dev))
    cases op with
    | idcode => exact absurd rfl hop
    | haltSlot x => exact if_neg (by rw [hoff]; exact Bool.false_ne_true)
    | resumeSlot x => exact if_neg (by rw [hoff]; exact Bool.false_ne_true)
    | inspectSlot x => exact if_neg (by rw [hoff]; exact Bool.false_ne_true)
    | haltMgmt c => exact if_neg (by rw [hoff]; exact Bool.false_ne_true)
    | resumeMgmt c => exact if_neg (by rw [hoff]; exact Bool.false_ne_true)
  · intro x s hhold hon
    refine ⟨?_, ?_, ?_⟩
    · have hexec := (exec_debug (.haltSlot x) hhold).trans (congrArg s.goes (if_pos hon))
      exact ⟨_, hexec, canIssue_of_halted (mem_halted_haltCore _ _), haltCore_core _ _⟩
    · have hexec := (exec_debug (.resumeSlot x) hhold).trans (congrArg s.goes (if_pos hon))
      exact ⟨_, hexec, not_mem_halted_resumeCore _ _, rfl⟩
    · exact (exec_debug (.inspectSlot x) hhold).trans (congrArg s.goes (if_pos hon))
  · intro c s hhold hon
    refine ⟨?_, ?_⟩
    · have hexec := (exec_debug (.haltMgmt c) hhold).trans (congrArg s.goes (if_pos hon))
      exact ⟨_, hexec, schedulerUp_of_halted (Nat.le_add_right 64 c.val) (mem_halted_haltCore _ _)⟩
    · have hexec := (exec_debug (.resumeMgmt c) hhold).trans (congrArg s.goes (if_pos hon))
      exact ⟨_, hexec, not_mem_halted_resumeCore _ _⟩
  · intro speed width flit s hhold hlow hhigh hwidth hflit
    have hok : ((within 1 6 speed && [1, 2, 4, 8].contains width && (speed != 6 || flit)) && !s.dev.boot.hold) = true := by
      have hmode : (speed != 6 || flit) = true := by
        by_cases h : speed = 6
        · rw [hflit h, Bool.or_true]
        · rw [bne_iff_ne.mpr h, Bool.true_or]
      rw [hmode, hhold, List.contains_iff_mem.mpr hwidth]
      unfold within
      rw [decide_eq_true hlow, decide_eq_true hhigh]
      rfl
    have hexec : exec (.pcieLinkTraining speed width flit) s = s.goes (regPut kLinkStat (512 + flit.toNat * 256 + width * 16 + speed) s.dev) :=
      whenDev_go hok
    refine ⟨_, hexec, ?_, fun k hk => regVal_regPut_other _ _ hk, congrArg (fun e => { s with dev := e }) (regPut_eq _ _ s.dev)⟩
    exact (regVal_regPut_same _ _ _).trans (Nat.mod_eq_of_lt (linkStat_lt hwidth hhigh))
  · intro b s hhold
    refine ⟨?_, ?_, fun uid j hj => ?_⟩
    · have hexec : exec (.bridgeTransferError b .corrected) s = s.goes (bumpF kBridgeErr 0 16 1 s.dev) := whenDev_go (by rw [hhold]; rfl)
      exact ⟨_, hexec, getF_bumpF_same _ _ _ _ _ (by omega), congrArg (fun e => { s with dev := e }) (bumpF_eq _ _ _ _ s.dev)⟩
    · have hexec : exec (.bridgeTransferError b .lost) s = s.goes (bridgeLost b.val s.dev) := whenDev_go (by rw [hhold]; rfl)
      refine ⟨_, hexec, ?_, ?_, congrArg (fun e => { s with dev := e }) (bridgeLost_eq _ s.dev)⟩
      · exact (getF_setF_below _ _ _ _ _ _ _ (by omega) (by omega)).trans (getF_bumpF_same _ _ _ _ _ (by omega))
      · exact (getF_setF_same _ _ _ _ _ (by omega)).trans (Nat.mod_eq_of_lt (by omega))
    · have hvictim : victimOk s.dev (.lostJob uid) = true := congrArg Option.isSome hj
      exact whenDev_go (by rw [hhold, hvictim]; rfl)

end Sys2Proof.Proofs
end

section
/-! SUPPORT. Resets (R385, R451, R453 to R455, R458, R459, R462, R478). -/

namespace Sys2Proof.Machine

variable {s : State} {d : Dev}

/-! Function Level Reset. -/

theorem regVal_regResetIf (p : Nat → Bool) (d : Dev) (k : Nat) : regVal (regResetIf p d) k = if p k then regReset k else regVal d k := by
  unfold regVal regResetIf
  dsimp only
  rw [tget_tclear]
  cases p k with
  | true => rfl
  | false => rfl

theorem regs_freeGate (d : Dev) : (freeGate d).regs = d.regs := by
  unfold freeGate
  split
  · exact forEach_inv Dev.regs _ gateGoes (fun _ _ => updRing_regs _ _ _ _) d
  · rfl

theorem out_freeGate (d : Dev) : (freeGate d).out = d.out := by
  unfold freeGate
  split
  · exact forEach_inv Dev.out _ gateGoes (fun _ _ => updRing_out _ _ _ _) d
  · rfl

/-- Freeing held rings leaves a ring that is none of them. -/
theorem ringAt_forEach_gateGoes (fn r : Nat) : ∀ (l : List (Nat × RingSt)) (d : Dev), (∀ a ∈ l, a.1 ≠ ringKey fn r) →
    ringAt (forEach l gateGoes d) fn r = ringAt d fn r
  | [], _, _ => rfl
  | a :: l, d, h => by
    have hne : ringKey fn r ≠ ringKey (a.1 / 2048) (a.1 % 2048) := by
      have := h a (List.mem_cons_self ..)
      unfold ringKey at this ⊢
      omega
    exact (ringAt_forEach_gateGoes fn r l (gateGoes a d) (fun b hb => h b (List.mem_cons_of_mem _ hb))).trans
      (tget_tmod_other ({} : RingSt) d.host.rings (fun r => { r with gateHeld := false }) hne)

/-- Without a ring of a function, freeing held rings makes none. -/
theorem ringAt_freeGate_clear {fn r : Nat} (h : ∀ a ∈ d.host.rings, a.1 ≠ ringKey fn r) : ringAt (freeGate d) fn r = ringAt d fn r := by
  unfold freeGate
  split
  · exact ringAt_forEach_gateGoes fn r _ d (fun a ha => h a ((List.mem_filter.mp ha).1))
  · rfl

/-- The registers of a function's rings. -/
def ringRegs (fn k : Nat) : Bool := decide (ringBase fn ≤ k) && decide (k < ringBase fn + 0x40 * ringCount fn)

/-- A function with its rings, its vectors and its page requests as after reset. -/
theorem clearFn_eq (fn : Nat) (d : Dev) : ∃ e : Dev, clearFn fn d = dropDescs (fun x => x.fn == fn) e ∧ e.regs = (regResetIf (ringRegs fn) d).regs ∧
    e.host.rings = tclear d.host.rings (fun k => k / 2048 == fn) ∧ e.host.descs = d.host.descs ∧ e.mem = d.mem ∧ e.core = d.core ∧
    e.out = d.out := ⟨_, rfl, rfl, rfl, rfl, rfl, rfl, rfl⟩

/-- What a Function Level Reset clears before it ends the function's work. -/
structure FnCleared (fn : Nat) (b d : Dev) : Prop where
  descs : ∀ x ∈ d.host.descs, x.fn ≠ fn
  rings : ∀ r, r < 2048 → ringAt d fn r = {}
  reset : ∀ k, ringBase fn ≤ k → k < ringBase fn + 0x40 * ringCount fn → regVal d k = regReset k
  regs : ∀ k, k < ringBase fn ∨ ringBase fn + 0x40 * ringCount fn ≤ k → regVal d k = regVal b k
  mem : d.mem = b.mem
  core : d.core = b.core
  out : d.out = b.out
  others : ∀ x ∈ b.host.descs, x.fn ≠ fn → x ∈ d.host.descs

theorem fnCleared_clearFn (fn : Nat) (d : Dev) : FnCleared fn d (clearFn fn d) := by
  obtain ⟨e, he, hregs, hrings, hdescs, hmem, hcore, hout⟩ := clearFn_eq fn d
  have hleft : (clearFn fn d).host.descs = d.host.descs.filter (fun x => !(x.fn == fn)) := by
    rw [he, ← hdescs]
    exact descs_freeGate _
  have hreg (k : Nat) : regVal (clearFn fn d) k = if ringRegs fn k then regReset k else regVal d k := by
    rw [← regVal_regResetIf, he]
    unfold regVal dropDescs
    rw [regs_freeGate, hregs]
  have hhost := hostOnly_dropDescs (fun x => x.fn == fn) e
  refine ⟨fun x hx => ?_, fun r hr => ?_, fun k hlo hhi => ?_, fun k hk => ?_, ?_, ?_, ?_, fun x hx hfn => ?_⟩
  · rw [hleft, List.mem_filter] at hx
    exact beq_eq_false_iff_ne.mp ((Bool.not_eq_true' _).mp hx.2)
  · rw [he]
    refine (ringAt_freeGate_clear (d := { e with host.descs := e.host.descs.filter (fun x => !(x.fn == fn)) }) (fun a ha => ?_)).trans ?_
    · have hkeep := (List.mem_filter.mp (hrings ▸ ha : a ∈ tclear d.host.rings (fun k => k / 2048 == fn))).2
      have hne := beq_eq_false_iff_ne.mp ((Bool.not_eq_true' _).mp hkeep)
      unfold ringKey
      omega
    · change tget {} e.host.rings (ringKey fn r) = {}
      rw [hrings, tget_tclear, if_pos]
      rw [beq_iff_eq]
      unfold ringKey
      omega
  · rw [hreg, if_pos]
    unfold ringRegs
    rw [decide_eq_true hlo, decide_eq_true hhi]
    rfl
  · rw [hreg, if_neg]
    unfold ringRegs
    rw [Bool.and_eq_true, decide_eq_true_iff, decide_eq_true_iff]
    omega
  · rw [he]
    exact hhost.mem.trans hmem
  · rw [he]
    exact hhost.core.trans hcore
  · rw [he]
    exact (out_freeGate _).trans hout
  · rw [hleft, List.mem_filter]
    exact ⟨hx, congrArg Bool.not (beq_eq_false_iff_ne.mpr hfn)⟩

/-! Warm device reset. -/

theorem sendNotice_eq (p : Nat) (d : Dev) : ∃ n o, sendNotice p d = { d with free := n, out := o } := by
  unfold sendNotice
  split
  · exact ⟨_, _, rfl⟩
  · exact ⟨_, _, rfl⟩

/-- The notices take free values and leave the device. -/
theorem forEach_sendNotice_eq : ∀ (l : List Nat) (d : Dev), ∃ n o, forEach l sendNotice d = { d with free := n, out := o }
  | [], _ => ⟨_, _, rfl⟩
  | p :: l, d => by
    obtain ⟨n, o, h⟩ := sendNotice_eq p d
    obtain ⟨m, q, h'⟩ := forEach_sendNotice_eq l (sendNotice p d)
    rw [h] at h'
    refine ⟨m, q, ?_⟩
    change forEach l sendNotice (sendNotice p d) = _
    rw [h, h']

/-- What a warm device reset keeps of the register file and elsewhere, before its registers of cause and mode. -/
def warmKept (d : Dev) : Dev := { coldBase d with
  boot.hold := false
  time := d.time
  regs := d.regs.filter (fun r => warmKeeps r.1)
  latch := d.latch.filter (fun r => decide (kTimNowLo ≤ r.1 % 0x400000) && decide (r.1 % 0x400000 ≤ kTimNowFrac))
  strm.priFailed := d.strm.priFailed
  strm.priAlloc := d.strm.priAlloc }

theorem warmBase_eq (cause : Nat) (d : Dev) : warmBase cause d = setF kResetCause 0 3 cause (setF kResetCause 8 8
    (satAdd 0xFF (getF d kResetCause 8 8) 1) (setF kBootStat 30 2 (bootMode d) (setF kBootStat 8 8 (getF d kBootStat 8 8) (warmKept d)))) := rfl

theorem regVal_warmKept {k : Nat} (h : warmKeeps k = false) (d : Dev) : regVal (warmKept d) k = regReset k := by
  have hclear : d.regs.filter (fun r => warmKeeps r.1) = tclear d.regs (fun k => !warmKeeps k) :=
    List.filter_congr (fun _ _ => (Bool.not_not _).symm)
  unfold regVal warmKept
  dsimp only
  rw [hclear, tget_tclear, h]
  rfl

/-- Only registers are set after. -/
theorem warmBase_only (cause : Nat) (d : Dev) : ∃ r, warmBase cause d = { warmKept d with regs := r } := by
  refine ⟨(warmBase cause d).regs, ?_⟩
  rw [warmBase_eq, setF_eq kResetCause 0 3, setF_eq kResetCause 8 8, setF_eq kBootStat 30 2, setF_eq kBootStat 8 8]

theorem fld_lt (x lo w : Nat) : fld x lo w < 2 ^ w := Nat.mod_lt _ (Nat.two_pow_pos w)

theorem bootMode_warmBase (cause : Nat) (d : Dev) : bootMode (warmBase cause d) = bootMode d := by
  rw [warmBase_eq]
  unfold bootMode
  rw [getF_setF_otherReg _ _ _ _ _ _ (by decide), getF_setF_otherReg _ _ _ _ _ _ (by decide), getF_setF_same _ _ _ _ _ (by omega)]
  exact Nat.mod_eq_of_lt (fld_lt _ _ _)

theorem bootStage_warmBase (cause : Nat) (d : Dev) : bootStage (warmBase cause d) = 0 := by
  rw [warmBase_eq]
  unfold bootStage
  rw [getF_setF_otherReg _ _ _ _ _ _ (by decide), getF_setF_otherReg _ _ _ _ _ _ (by decide), getF_setF_below _ _ _ _ _ _ _ (by omega) (by omega),
    getF_setF_above _ _ _ _ _ _ _ (by omega) (by omega)]
  unfold getF
  rw [regVal_warmKept (by decide)]
  rfl

theorem getF_warmBase_count (cause : Nat) (d : Dev) : getF (warmBase cause d) kResetCause 8 8 = min 255 (getF d kResetCause 8 8 + 1) := by
  rw [warmBase_eq, getF_setF_above _ _ _ _ _ _ _ (by omega) (by omega), getF_setF_same _ _ _ _ _ (by omega)]
  unfold satAdd
  exact Nat.mod_eq_of_lt (by omega)

/-- A warm device reset is `warmBase` but for what has left the device and the free values. -/
theorem warmReset_eq (cause : Nat) (d : Dev) : ∃ n o q, warmReset cause d = { warmBase cause { d with free := n, out := o } with out := q } := by
  obtain ⟨n, o, h⟩ := forEach_sendNotice_eq (upFrom 0 8) d
  obtain ⟨q, hq⟩ := drivePins_eq { d with free := n, out := o } (warmBase cause { d with free := n, out := o })
  refine ⟨n, o, q, ?_⟩
  unfold warmReset
  dsimp only
  rw [h, hq]

/-! Cold reset. -/

/-- The device is released and Fabric Time starts. -/
def poweredUp (d : Dev) : Dev := { d with
  boot.hold := false
  time.ft := if d.time.calBad then 0 else calendarNs d.time.cal * 65536 }

/-- Power-up: a calendar clock that has lost its battery is told. -/
theorem powerUp_eq (mode : Nat) (d : Dev) :
    powerUp mode d = setF kBootStat 30 2 mode (if d.time.calBad then setF kTimStatus 31 1 1 (poweredUp d) else poweredUp d) := rfl

theorem poweredUp_told (d : Dev) : (if d.time.calBad then setF kTimStatus 31 1 1 (poweredUp d) else poweredUp d).boot = (poweredUp d).boot ∧
    (if d.time.calBad then setF kTimStatus 31 1 1 (poweredUp d) else poweredUp d).mem = (poweredUp d).mem ∧
    (if d.time.calBad then setF kTimStatus 31 1 1 (poweredUp d) else poweredUp d).time = (poweredUp d).time := by
  split
  · exact ⟨setF_boot _ _ _ _ _, setF_mem _ _ _ _ _, setF_time _ _ _ _ _⟩
  · exact ⟨rfl, rfl, rfl⟩

/-! Media-core reset. -/

/-- A core that is reset reads 0 and holds nothing. -/
structure CoreCleared (c : Nat) (d : Dev) : Prop where
  mem : ∀ a, 0x1000000 * c ≤ a → a < 0x1000000 * c + 0x1000000 → tget 0 d.mem a = 0
  slots : ∀ k, k / 2 = c → slotAt d k = {}
  sems : ∀ q, q < 64 → semGet d c q = 0
  looms : ∀ k, k / 2 = c → loomAt d k = {}
  units : ∀ k, k / 2 = c → unitAt d k = {}
  engs : ∀ e, e < 8 → engAt d (engKey c e) = {}
  quire : quireAt d c = {}

theorem tget_tclear_of {α : Type} {z : α} {t : Tbl α} {p : Nat → Bool} {j : Nat} (h : p j = true) : tget z (tclear t p) j = z :=
  (tget_tclear z t p j).trans (if_pos h)

theorem coreCleared_clearCore (c : Nat) (d : Dev) : CoreCleared c (clearCore c d) := by
  refine ⟨fun a hlo hhi => ?_, fun k hk => ?_, fun q hq => ?_, fun k hk => ?_, fun k hk => ?_, fun e he => ?_, ?_⟩
  · exact (mem_zeroMem _ _ _ a).trans (if_pos ⟨hlo, hhi⟩)
  · exact tget_tclear_of (z := ({} : SlotSt)) (p := fun k => k / 2 == c) (beq_iff_eq.mpr hk)
  · refine tget_tclear_of (z := (0 : Nat)) (p := fun k => k / 64 == c) (beq_iff_eq.mpr ?_)
    unfold semKey
    omega
  · exact tget_tclear_of (z := ({} : LoomSt)) (p := fun k => k / 2 == c) (beq_iff_eq.mpr hk)
  · exact tget_tclear_of (z := ({} : UnitSt)) (p := fun k => k / 2 == c) (beq_iff_eq.mpr hk)
  · refine tget_tclear_of (z := ({} : StrmSt)) (p := fun k => k / 8 == c) (beq_iff_eq.mpr ?_)
    unfold engKey
    omega
  · exact tget_tset_same ({} : QuireSt) _ c {}

/-! Press engine reset. -/

/-- A reset of an engine that runs a command: the command fails, and the counts are 0. -/
theorem resetPrs_eq {e : Nat} {c : PressCmd} {cs : List PressCmd} (hq : pressQueue d e = c :: cs) :
    ∃ v, resetPrs e d = regPut (kPrs e 0) v (regPut (kPrs e 4) 0 (regPut (kPrs e 8) 0 (failPress e c stEngine 0 (setPressQueue e cs d)))) := by
  unfold resetPrs
  dsimp only
  rw [hq]
  exact ⟨_, rfl⟩

/-- The completion of a command that fails at offset 0. -/
theorem failPress_eq (e st : Nat) (c : PressCmd) (d : Dev) : ∃ b, failPress e c st 0 d = endPress c st [0, 0, 0, 0] b ∧ b.out = d.out := by
  refine ⟨_, rfl, ?_⟩
  unfold countPressErr
  split
  · rw [bumpF_out, out_countPress]
  · split
    · rw [bumpF_out, out_countPress]
    · rw [bumpF_out, out_countPress]

end Sys2Proof.Machine

namespace Sys2Proof.Proofs

open Sys2Proof Sys2Proof.Machine

/-- Settles O45: each reset through what it clears (`FnCleared`, `coldBase`, `warmBase`, `CoreCleared`) and what it drives. -/
theorem resets : Obligations.Resets := by
  unfold Obligations.Resets
  refine ⟨?_, ?_, ?_, ?_, ?_, ?_, ?_, ?_, ?_, ?_⟩
  · intro fn s hhold
    obtain ⟨hdescs, hrings, hreset, hregs, hmem, hcore, hout, hothers⟩ := fnCleared_clearFn fn.val s.dev
    have hexec : exec (.flr fn) s = s.goes (endFn fn.val (clearFn fn.val s.dev)) :=
      (whenDev_go (w := "") rfl).trans (congrArg s.goes (if_neg (by rw [hhold]; exact Bool.false_ne_true)))
    exact ⟨_, hexec, hdescs, hrings, hreset, hregs, hmem, hcore, hout, hothers⟩
  · intro fn s hhold
    exact ⟨(whenDev_go (w := "") rfl).trans (congrArg s.goes (if_pos hhold)), (whenDev_go (w := "") rfl).trans (congrArg s.goes (if_pos hhold))⟩
  · intro s hhold
    have hexec : exec .pcieHotReset s = s.goes (setF kLinkStat 9 1 0 (flr 3 (flr 2 (flr 1 (flr 0 s.dev))))) :=
      (whenDev_go (w := "") rfl).trans (congrArg s.goes (if_neg (by rw [hhold]; exact Bool.false_ne_true)))
    exact ⟨_, hexec, getF_setF_same _ _ _ _ _ (by omega), setF_mem _ _ _ _ _, setF_out _ _ _ _ _⟩
  · intro s
    have hexec : exec .rstNAssert s = s.goes (coldState s.dev) := whenDev_go (w := "") rfl
    have hkept := (kept_exec .rstNAssert s).next _ hexec
    obtain ⟨o, ho⟩ := coldState_eq s.dev
    refine ⟨_, hexec, ?_⟩
    have hout : s.dev.out <+: (coldState s.dev).out := hkept.out
    rw [ho] at hout
    dsimp only [State.goes]
    rw [ho]
    refine ⟨rfl, rfl, rfl, rfl, rfl, rfl, rfl, rfl, rfl, rfl, rfl, hout, fun hmbox => ?_⟩
    change tornFlash s.dev = _
    unfold tornFlash
    rw [hmbox]
  · intro m s hhold htrip haux
    have hexec : exec (.coldReset m) s = s.goes (powerUp m.val s.dev) := whenDev_go (by rw [hhold, htrip, haux]; rfl)
    obtain ⟨hboot, hmem, htime⟩ := poweredUp_told s.dev
    rw [powerUp_eq] at hexec
    refine ⟨_, hexec, ?_, ?_, ?_, ?_, fun hcal => ?_⟩
    · dsimp only [State.goes]
      rw [setF_boot, hboot]
      rfl
    · exact (getF_setF_same _ _ _ _ _ (by omega)).trans (Nat.mod_eq_of_lt m.isLt)
    · dsimp only [State.goes]
      rw [setF_mem, hmem]
      rfl
    · dsimp only [State.goes]
      rw [setF_time, htime]
      rfl
    · refine (getF_setF_otherReg _ _ _ _ _ _ (by decide)).trans ?_
      rw [if_pos hcal]
      exact getF_setF_same _ _ _ _ _ (by omega)
  · intro c t s hwarm hdue hhold
    change execWarmDeviceReset s = _
    unfold execWarmDeviceReset
    dsimp only
    rw [hwarm]
    exact whenDev_go (by rw [decide_eq_true hdue, hhold]; rfl)
  · intro cause d hcause
    obtain ⟨n, o, q, h⟩ := warmReset_eq cause d
    obtain ⟨r, hr⟩ := warmBase_only cause { d with free := n, out := o }
    have hcount := getF_warmBase_count cause { d with free := n, out := o }
    have hstage := bootStage_warmBase cause { d with free := n, out := o }
    have hmode := bootMode_warmBase cause { d with free := n, out := o }
    have hrecord := getF_warmReset_cause hcause d
    have hregs (k lo w : Nat) : getF (warmReset cause d) k lo w = getF (warmBase cause { d with free := n, out := o }) k lo w :=
      h ▸ getF_out _ _ _ _ _
    have hkeep : ∃ r, warmReset cause d = { warmKept { d with free := n, out := o } with regs := r, out := q } := ⟨r, by rw [h, hr]⟩
    obtain ⟨r', hr'⟩ := hkeep
    refine ⟨?_, ?_, ?_, ?_, ?_, ?_, ?_, ?_, ?_, hrecord, (hregs _ _ _).trans hcount, (hregs _ _ _).trans hstage, (hregs _ _ _).trans hmode⟩
    all_goals rw [hr']; rfl
  · intro c s hdue hup
    have hexec : exec (.mediaCoreReset c) s = s.goes (resetCore c.val s.dev) := whenDev_go (by rw [hdue, hup]; rfl)
    obtain ⟨hmem, hslots, hsems, hlooms, hunits, hengs, hquire⟩ :=
      coreCleared_clearCore c.val (resetSlot (2 * c.val + 1) (resetSlot (2 * c.val) s.dev))
    exact ⟨_, hexec, hmem, hslots _ (by omega), hslots _ (by omega), hsems,
      fun l hl => ⟨hlooms _ (by omega), hunits _ (by omega)⟩, hengs, hquire⟩
  · intro x s hup
    exact whenDev_go hup
  · intro e s c cs hup hq
    obtain ⟨v, hv⟩ := resetPrs_eq hq
    obtain ⟨b, hb, hout⟩ := failPress_eq e.val stEngine c (setPressQueue e.val cs s.dev)
    have hhost := hostOnly_failPress e.val c stEngine 0 (setPressQueue e.val cs s.dev)
    have hexec : exec (.engineReset (.prs e)) s = s.goes (resetPrs e.val s.dev) := whenDev_go hup
    rw [hv, hb] at hexec
    rw [hb] at hhost
    have hset := setPressQueue_press e.val cs s.dev
    have hengs := congrArg PressGrp.engs hhost.press
    have hctxs := congrArg PressGrp.ctxs hhost.press
    have h48 : kPrs e.val 4 ≠ kPrs e.val 0 := by unfold kPrs; omega
    have h80 : kPrs e.val 8 ≠ kPrs e.val 0 := by unfold kPrs; omega
    have h84 : kPrs e.val 8 ≠ kPrs e.val 4 := by unfold kPrs; omega
    refine ⟨_, b, hexec, ?_, ?_, ?_, ?_, ?_, hout.trans (setPressQueue_out _ _ _), ?_⟩
    · refine (pressQueue_of_press ?_ _).trans (pressQueue_setPressQueue_same e.val cs s.dev)
      dsimp only [State.goes]
      rw [regPut_press, regPut_press, regPut_press]
      exact hengs
    · dsimp only [State.goes]
      rw [regPut_press, regPut_press, regPut_press, hctxs]
      dsimp only
      rw [hset]
    · exact (regVal_regPut_other _ _ h48).trans (regVal_regPut_same _ _ _)
    · exact (regVal_regPut_other _ _ h80).trans ((regVal_regPut_other _ _ h84).trans (regVal_regPut_same _ _ _))
    · dsimp only [State.goes]
      rw [regPut_out, regPut_out, regPut_out]
    · dsimp only [State.goes]
      rw [regPut_mem, regPut_mem, regPut_mem]
      exact hhost.mem.trans (setPressQueue_mem e.val cs s.dev)

end Sys2Proof.Proofs
end

section
/-! SUPPORT. The boot chain and the scheduler firmware (R390, R391, R427, R433 to R441, R447 to R449). -/

namespace Sys2Proof.Machine

variable {s : State} {d : Dev}

/-! Boot status. -/

theorem bootStage_setStage {n : Nat} (hn : n < 16) (d : Dev) : bootStage (setStage n d) = n :=
  (getF_setF_same _ _ _ _ _ (by omega)).trans (Nat.mod_eq_of_lt hn)

theorem setStage_boot (n : Nat) (d : Dev) : (setStage n d).boot = d.boot := setF_boot _ _ _ _ _

/-- A field of another register of the boot status' block. -/
theorem getF_showCounter (n : Nat) (d : Dev) (lo w : Nat) : getF (showCounter n d) kBootStat lo w = getF d kBootStat lo w := by
  unfold showCounter
  exact getF_regPut_otherReg _ _ _ _ (by unfold kBootStat kSvn; omega)

/-- The device waits for an object, with the reason. -/
theorem awaitObj_facts {w : Nat} (hw : w < 16) (reason : Nat) (d : Dev) : bootStage (awaitObj w reason d) = w ∧
    (awaitObj w reason d).boot.wait = w ∧ getF (awaitObj w reason d) kBootStat 0 8 = reason % 256 := by
  unfold awaitObj
  refine ⟨?_, ?_, getF_setF_same _ _ _ _ _ (by omega)⟩
  · unfold bootStage
    rw [getF_setF_above _ _ _ _ _ _ _ (by omega) (by omega)]
    exact bootStage_setStage hw _
  · rw [setF_boot, setStage_boot]

theorem atStage_iff {n : Nat} : atStage d n = true ↔ bootStage d = n ∧ d.boot.wait = 0 ∧ d.boot.hold = false := by
  unfold atStage
  rw [Bool.and_eq_true, Bool.and_eq_true, beq_iff_eq, beq_iff_eq, Bool.not_eq_true', and_assoc]

theorem not_bootDone_of_stage {n : Nat} (h : bootStage d = n) (hn : n ≠ 6) : bootDone d = false := by
  unfold bootDone
  rw [show getF d kBootStat 16 4 = n from h, beq_eq_false_iff_ne.mpr hn, Bool.false_and]

/-! Objects. -/

theorem flashObj_congr {e : Dev} (h : e.boot.flash = d.boot.flash) (kind copy : Nat) : flashObj e kind copy = flashObj d kind copy := by
  unfold flashObj flashRd
  rw [h]

theorem useCopy_boot (kind copy : Nat) (d : Dev) :
    (useCopy kind copy d).boot = { d.boot with objs := tset [] d.boot.objs kind (flashObj d kind copy) } := by
  unfold useCopy
  rw [setF_boot]

theorem useCopy_ddr (kind copy : Nat) (d : Dev) : (useCopy kind copy d).ddr = d.ddr := by
  unfold useCopy
  rw [setF_ddr]

theorem objAt_useCopy (kind copy : Nat) (d : Dev) : objAt (useCopy kind copy d) kind = flashObj d kind copy := by
  unfold objAt
  rw [useCopy_boot]
  exact tget_tset_same _ _ _ _

/-! Stage 0. -/

/-- The device once the ROM has K and has read C0. -/
def romReady (k : List Byte) (d : Dev) : Dev := showCounter 0 (setF kBootStat 25 1 1 { d with boot.secret := k })

theorem romReady_boot (k : List Byte) (d : Dev) : (romReady k d).boot = { d.boot with secret := k } := by
  unfold romReady showCounter
  rw [regPut_boot, setF_boot]

theorem romReady_aclk (k : List Byte) (d : Dev) : (romReady k d).aclk = d.aclk := by
  unfold romReady showCounter
  rw [regPut_aclk, setF_aclk]

theorem bootMode_romReady (k : List Byte) (d : Dev) : bootMode (romReady k d) = bootMode d := by
  unfold bootMode romReady
  rw [getF_showCounter, getF_setF_above _ _ _ _ _ _ _ (by omega) (by omega)]
  rfl

theorem exec_romBoot {err : FlashErr} {k : List Byte} (hstage : atStage s.dev 0 = true) (hk : findSecret s.dev = some k) :
    exec (.romBoot err) s = s.goes (romRun k err s.dev) := by
  change execRomBoot err s = _
  unfold execRomBoot
  dsimp only
  rw [hk]
  exact whenDev_go hstage

/-- Where the ROM may select, the root firmware starts. -/
theorem romRun_ok {k : List Byte} {err : FlashErr} {c : Nat} (hmode : bootMode d < 2) (hc : selectCopy (romReady k d) 1 err = .ok c) :
    romRun k err d = setStage 1 (useCopy 1 c { romReady k d with boot.rootAt := (romReady k d).aclk }) := by
  have hlow : ¬ 2 ≤ bootMode (romReady k d) := by
    rw [bootMode_romReady]
    omega
  unfold romRun
  extract_lets g e h
  have he : e = romReady k d := rfl
  clear_value e
  subst he
  rw [if_neg hlow, hc]

theorem romRun_error {k : List Byte} {err : FlashErr} {r : Nat} (hmode : bootMode d < 2) (hr : selectCopy (romReady k d) 1 err = .error r) :
    romRun k err d = awaitObj 5 r (romReady k d) := by
  have hlow : ¬ 2 ≤ bootMode (romReady k d) := by
    rw [bootMode_romReady]
    omega
  unfold romRun
  extract_lets g e h
  have he : e = romReady k d := rfl
  clear_value e
  subst he
  rw [if_neg hlow, hr]

/-- Modes 2 and 3 wait for the mailbox. -/
theorem romRun_wait {k : List Byte} {err : FlashErr} (hmode : 2 ≤ bootMode d) :
    romRun k err d = setStage 5 { romReady k d with boot.wait := 5 } := by
  have hhigh : 2 ≤ bootMode (romReady k d) := by
    rw [bootMode_romReady]
    exact hmode
  unfold romRun
  extract_lets g e h
  have he : e = romReady k d := rfl
  clear_value e
  subst he
  rw [if_pos hhigh]

/-! Stage 2. -/

/-- A field of a register is a change of registers alone. -/
theorem setF_regs (k lo w v : Nat) (r : Tbl (Option W32)) (d : Dev) : ∃ r', setF k lo w v { d with regs := r } = { d with regs := r' } := by
  unfold setF regPut
  exact ⟨_, rfl⟩

/-- A loop of such changes is one. -/
theorem forEach_regs {α : Type} {d : Dev} (f : α → Dev → Dev) (hf : ∀ a r, ∃ r', f a { d with regs := r } = { d with regs := r' }) :
    ∀ (l : List α) (r : Tbl (Option W32)), ∃ r', forEach l f { d with regs := r } = { d with regs := r' }
  | [], r => ⟨r, rfl⟩
  | a :: l, r => by
    obtain ⟨r', h⟩ := hf a r
    obtain ⟨r'', h'⟩ := forEach_regs f hf l r'
    refine ⟨r'', ?_⟩
    change forEach l f (f a { d with regs := r }) = _
    rw [h, h']

theorem showTrain_eq (f : Nat → Nat) (d : Dev) : ∃ r, showTrain f d = { d with regs := r } := by
  unfold showTrain
  exact forEach_regs (d := d) (fun c e => setF (kChStat c) 30 2 (f c) e) (fun _ _ => setF_regs _ _ _ _ _ _) (upFrom 0 16) d.regs

/-- How training ends. -/
def trainedBy (d : Dev) (m : Modules) : Bool :=
  modulesOk d m && ((d.boot.tag == trainTag d m && m.fastFails.isEmpty) || m.fails.isEmpty)

/-- Training changes registers, the tag of the stored values and whether DDR4 is used. -/
structure TrainedBy (m : Modules) (b d : Dev) : Prop where
  trained : d.ddr.trained = trainedBy b m
  retired : d.ddr.retired = b.ddr.retired
  mem : d.mem = b.mem
  failed : trainedBy b m = false → getF d kMemErr 0 1 = 1

theorem train_facts (m : Modules) (d : Dev) : TrainedBy m d (train m d) := by
  obtain ⟨b, hb, hbreg⟩ : ∃ b : Dev, (∃ r, b = { d with regs := r }) ∧ train m d =
      if modulesOk d m && b.boot.tag == trainTag d m && m.fastFails.isEmpty then showTrain (fun _ => 2) { b with ddr.trained := true }
      else if modulesOk d m && m.fails.isEmpty then showTrain (fun _ => 1) { b with ddr.trained := true, boot.tag := trainTag d m }
      else setF kMemErr 0 1 1 (showTrain (fun c => if !modulesOk d m || m.fails.any (fun x => x.val == c) then 3 else 1)
        { b with ddr.trained := false }) := by
    unfold train
    extract_lets tag ok b
    refine ⟨b, ?_, rfl⟩
    simp only [b]
    split
    · exact ⟨_, regPut_eq _ _ d⟩
    · exact ⟨_, rfl⟩
  obtain ⟨r, rfl⟩ := hb
  rw [hbreg]
  dsimp only
  by_cases hfast : (modulesOk d m && d.boot.tag == trainTag d m && m.fastFails.isEmpty) = true
  · have hyes : trainedBy d m = true := by
      rw [Bool.and_eq_true, Bool.and_eq_true] at hfast
      obtain ⟨⟨hok, htag⟩, hnone⟩ := hfast
      unfold trainedBy
      rw [hok, htag, hnone]
      rfl
    rw [if_pos hfast]
    obtain ⟨r', hr'⟩ := showTrain_eq (fun _ => 2) { d with regs := r, ddr.trained := true }
    exact hr' ▸ ⟨hyes.symm, rfl, rfl, fun h => absurd (hyes.symm.trans h) (by decide)⟩
  · rw [if_neg hfast]
    by_cases hfull : (modulesOk d m && m.fails.isEmpty) = true
    · have hyes : trainedBy d m = true := by
        rw [Bool.and_eq_true] at hfull
        obtain ⟨hok, hnone⟩ := hfull
        unfold trainedBy
        rw [hok, hnone, Bool.or_true]
        rfl
      rw [if_pos hfull]
      obtain ⟨r', hr'⟩ := showTrain_eq (fun _ => 1) { d with regs := r, ddr.trained := true, boot.tag := trainTag d m }
      exact hr' ▸ ⟨hyes.symm, rfl, rfl, fun h => absurd (hyes.symm.trans h) (by decide)⟩
    · have hno : trainedBy d m = false := by
        rw [Bool.eq_false_iff]
        intro h
        unfold trainedBy at h
        rw [Bool.and_eq_true, Bool.or_eq_true, Bool.and_eq_true] at h
        obtain ⟨hok, ⟨htag, hnone⟩ | hnone⟩ := h
        · exact hfast (by rw [hok, htag, hnone]; rfl)
        · exact hfull (by rw [hok, hnone]; rfl)
      rw [if_neg hfull]
      obtain ⟨r', hr'⟩ := showTrain_eq (fun c => if !modulesOk d m || m.fails.any (fun x => x.val == c) then 3 else 1)
        { d with regs := r, ddr.trained := false }
      rw [hr']
      refine ⟨?_, ?_, ?_, fun _ => getF_setF_same _ _ _ _ _ (by omega)⟩
      · rw [setF_ddr, hno]
      · rw [setF_ddr]
      · rw [setF_mem]

/-! Stage 3. -/

/-- The scheduler firmware's body lies in its region, which is locked with the root firmware's own. -/
theorem startScheduler_eq (region area n c : Nat) (htrained : d.ddr.trained = true) (hclean : d.ddr.poison = []) :
    ∃ e : Dev, startScheduler region area n c d = setStage 4 e ∧ e.boot.live = d.aclk ∧
      e.boot.locked = [(region, (bodyOf (flashObj d 2 c)).length), (area, n)] ∧
      rdMem e region (bodyOf (flashObj d 2 c)).length = bodyOf (flashObj d 2 c) := by
  have hbody : bodyOf (objAt (useCopy 2 c d) 2) = bodyOf (flashObj d 2 c) := congrArg bodyOf (objAt_useCopy _ _ _)
  have haclk : (useCopy 2 c d).aclk = d.aclk := setF_aclk _ _ _ _ _
  have hwrite (body : List Byte) : devWrite region body (useCopy 2 c d) = wrMem region body (useCopy 2 c d) := by
    unfold devWrite
    rw [useCopy_ddr, hclean]
    rfl
  unfold startScheduler
  extract_lets e body w g b h
  have he : e = useCopy 2 c d := rfl
  have hbody' : body = bodyOf (flashObj d 2 c) := hbody
  have hw : w = wrMem region (bodyOf (flashObj d 2 c)) (useCopy 2 c d) := by
    simp only [w]
    rw [hbody', he, hwrite]
  have hb : b = { w with boot.locked := [(region, body.length), (area, n)] } :=
    if_pos (by rw [he, useCopy_ddr, htrained])
  have hread : rdMem w region (bodyOf (flashObj d 2 c)).length = bodyOf (flashObj d 2 c) := by
    rw [hw, rdMem_wrMem]
  have hwaclk : w.aclk = d.aclk := by
    rw [hw, wrMem_aclk, haclk]
  clear_value w
  refine ⟨_, rfl, ?_, ?_, ?_⟩
  · change b.aclk = d.aclk
    rw [hb]
    exact hwaclk
  · change b.boot.locked = _
    rw [hb, hbody']
  · change rdMem b region _ = _
    rw [hb]
    exact hread

/-! Stage 6. -/

theorem relevel_boot (d : Dev) : (relevel d).boot = d.boot := by
  unfold relevel
  dsimp only
  rw [setF_boot, setF_boot, setF_boot, setF_boot, setF_boot]

theorem getF_relevel (d : Dev) (lo w : Nat) : getF (relevel d) kBootStat lo w = getF d kBootStat lo w := by
  unfold relevel
  dsimp only
  rw [getF_setF_otherReg _ _ _ _ _ _ (by decide), getF_setF_otherReg _ _ _ _ _ _ (by decide), getF_setF_otherReg _ _ _ _ _ _ (by decide),
    getF_setF_otherReg _ _ _ _ _ _ (by decide), getF_setF_otherReg _ _ _ _ _ _ (by decide)]
  rfl

/-- A counter's next value. -/
def counterNext (d : Dev) (kind : Nat) : Nat := if objCommit (objAt d kind) then max (counterOf d kind) (objSvn (objAt d kind)) else counterOf d kind

theorem commitCounter_boot (kind : Nat) (d : Dev) :
    (commitCounter kind d).boot = { d.boot with rpmc := tset 0 d.boot.rpmc (kind - 1) (counterNext d kind) } := by
  unfold commitCounter showCounter
  dsimp only
  rw [regPut_boot]
  rfl

theorem getF_commitCounter (kind : Nat) (d : Dev) (lo w : Nat) : getF (commitCounter kind d) kBootStat lo w = getF d kBootStat lo w := by
  unfold commitCounter
  dsimp only
  rw [getF_showCounter]
  rfl

theorem tget_commitCounter_other {j k : Nat} (h : k - 1 ≠ j - 1) (d : Dev) :
    tget 0 (commitCounter j d).boot.rpmc (k - 1) = tget 0 d.boot.rpmc (k - 1) := by
  rw [commitCounter_boot]
  exact tget_tset_other _ _ _ h

theorem tget_commitCounter_same (k : Nat) (d : Dev) : tget 0 (commitCounter k d).boot.rpmc (k - 1) = counterNext d k := by
  rw [commitCounter_boot]
  exact tget_tset_same _ _ _ _

/-- A kind's commit leaves the next value of another's counter. -/
theorem counterNext_commitCounter {j k : Nat} (h : k - 1 ≠ j - 1) (d : Dev) : counterNext (commitCounter j d) k = counterNext d k := by
  have hobj : objAt (commitCounter j d) k = objAt d k := by
    unfold objAt
    rw [commitCounter_boot]
  have hcount : counterOf (commitCounter j d) k = counterOf d k := tget_commitCounter_other h d
  unfold counterNext
  rw [hobj, hcount]

/-- The counters of the booted objects are committed one after the other. -/
theorem enterService_facts (hwait : d.boot.wait = 0) : bootDone (enterService d) = true ∧
    ∀ k, k ∈ [1, 2, 3, 4] → tget 0 (enterService d).boot.rpmc (k - 1) = counterNext d k := by
  obtain ⟨e, hstage, hboot, he⟩ : ∃ e : Dev, getF e kBootStat 16 4 = 6 ∧ e.boot = { d.boot with live := d.aclk } ∧
      enterService d = relevel (commitCounter 4 (commitCounter 3 (commitCounter 2 (commitCounter 1 e)))) :=
    ⟨setStage 6 { d with boot.live := d.aclk }, bootStage_setStage (by decide) _, setStage_boot _ _, rfl⟩
  have hnext (k : Nat) : counterNext e k = counterNext d k := by
    unfold counterNext counterOf objAt
    rw [hboot]
  rw [he]
  refine ⟨?_, fun k hk => ?_⟩
  · unfold bootDone
    rw [getF_relevel, getF_commitCounter, getF_commitCounter, getF_commitCounter, getF_commitCounter, hstage, relevel_boot, commitCounter_boot,
      commitCounter_boot, commitCounter_boot, commitCounter_boot, hboot]
    dsimp only
    rw [hwait]
    rfl
  · rw [relevel_boot, ← hnext]
    simp only [List.mem_cons, List.not_mem_nil, or_false] at hk
    obtain rfl | rfl | rfl | rfl := hk
    · rw [tget_commitCounter_other (by decide), tget_commitCounter_other (by decide), tget_commitCounter_other (by decide),
        tget_commitCounter_same]
    · rw [tget_commitCounter_other (by decide), tget_commitCounter_other (by decide), tget_commitCounter_same,
        counterNext_commitCounter (by decide)]
    · rw [tget_commitCounter_other (by decide), tget_commitCounter_same, counterNext_commitCounter (by decide),
        counterNext_commitCounter (by decide)]
    · rw [tget_commitCounter_same, counterNext_commitCounter (by decide), counterNext_commitCounter (by decide),
        counterNext_commitCounter (by decide)]

/-! Restart. -/

/-- The third restart within 60 s leaves the cores stopped. -/
theorem restart_third {cause : Nat} (h : (d.boot.restarts.filter (fun t => decide (d.aclk < t + 12000000000))).length ≥ 2) :
    ∃ e : Dev, restart cause d = setStage 9 { e with boot.wait := 9 } := by
  unfold restart
  dsimp only
  rw [if_pos (decide_eq_true h)]
  exact ⟨_, rfl⟩

end Sys2Proof.Machine

namespace Sys2Proof.Proofs

open Sys2Proof Sys2Proof.Machine

/-- Settles O47: each stage by its selection; the boot status' fields and the counters through the lemmas above. -/
theorem bootChain : Obligations.BootChain := by
  unfold Obligations.BootChain
  refine ⟨?_, ?_, ?_, ?_, ?_, ?_, ?_, ?_, ?_, ?_, ?_⟩
  · intro err s hstage
    obtain ⟨_, hwait, _⟩ := atStage_iff.mp hstage
    refine ⟨fun hnone => ⟨_, ?_, rfl⟩, fun k hk hmode => ?_, fun k hk hmode => ?_⟩
    · change execRomBoot err s = _
      unfold execRomBoot
      dsimp only
      rw [hnone]
      exact whenDev_go hstage
    · have hexec := exec_romBoot (err := err) hstage hk
      rw [romRun_wait hmode] at hexec
      refine ⟨_, hexec, bootStage_setStage (by decide) _, ?_, ?_⟩
      · dsimp only [State.goes]
        rw [setStage_boot]
      · dsimp only [State.goes]
        rw [setStage_boot, romReady_boot]
    · have hexec := exec_romBoot (err := err) hstage hk
      refine ⟨fun c hc => ?_, fun r hr => ?_⟩
      · rw [romRun_ok hmode hc] at hexec
        refine ⟨_, hexec, bootStage_setStage (by decide) _, ?_, ?_, ?_⟩
        · dsimp only [State.goes]
          rw [setStage_boot, useCopy_boot, romReady_boot]
          exact hwait
        · dsimp only [State.goes]
          rw [setStage_boot, useCopy_boot, romReady_aclk]
        · dsimp only [State.goes]
          unfold objAt
          rw [setStage_boot, useCopy_boot]
          refine (tget_tset_same _ _ _ _).trans (flashObj_congr ?_ _ _)
          rw [romReady_boot]
      · rw [romRun_error hmode hr] at hexec
        obtain ⟨hst, hw, hreason⟩ := awaitObj_facts (w := 5) (by decide) r (romReady k s.dev)
        exact ⟨_, hexec, hst, hw, hreason⟩
  · intro m p s hstage d
    have hexec : exec (.rootStage1 m p) s = s.goes (stage1 m p s.dev) := whenDev_go hstage
    refine ⟨fun r hr => ?_, fun c hc => ?_⟩
    · have hwait : stage1 m p s.dev = awaitObj 6 r d := by
        unfold stage1
        dsimp only
        rw [hr]
      rw [hwait] at hexec
      obtain ⟨hst, hw, _⟩ := awaitObj_facts (w := 6) (by decide) r d
      exact ⟨_, hexec, hst, hw⟩
    · intro e
      have hplatform : stage1 m p s.dev = stage1Platform p e := by
        unfold stage1
        dsimp only
        rw [hc]
      rw [hplatform] at hexec
      refine ⟨fun r hr => ?_, fun c' hc' => ?_⟩
      · have hwait : stage1Platform p e = awaitObj 7 r e := by
          unfold stage1Platform
          rw [hr]
        rw [hwait] at hexec
        obtain ⟨hst, hw, _⟩ := awaitObj_facts (w := 7) (by decide) r e
        exact ⟨_, hexec, hst, hw⟩
      · have hgo : stage1Platform p e =
            setStage 2 (setF kBootStat 24 1 (identityOk (applyPlatform (useCopy 4 c' e))).toNat (applyPlatform (useCopy 4 c' e))) := by
          unfold stage1Platform
          rw [hc']
        rw [hgo] at hexec
        refine ⟨_, hexec, bootStage_setStage (by decide) _, ?_⟩
        refine (getF_setF_above _ _ _ _ _ _ _ (by omega) (by omega)).trans ((getF_setF_same _ _ _ _ _ (by omega)).trans (Nat.mod_eq_of_lt ?_))
        exact Nat.lt_succ_of_le (Bool.toNat_le _)
  · intro m s hstage
    obtain ⟨htrained, hretired, hmem, hfailed⟩ := train_facts m s.dev
    have hexec : exec (.ddrTraining m) s =
        s.goes (setStage 3 (showRetired (setF kRetIdx 0 13 (train m s.dev).ddr.retired.length (train m s.dev)))) := whenDev_go hstage
    have hhost : HostOnly (train m s.dev)
        (setStage 3 (showRetired (setF kRetIdx 0 13 (train m s.dev).ddr.retired.length (train m s.dev)))) :=
      hostOnly_setF_of ((hostOnly_setF _ _ _ _ _).trans (hostOnly_showRetired _))
    have hddr := hhost.ddr
    refine ⟨_, hexec, bootStage_setStage (by decide) _, ?_, ?_, hhost.mem.trans hmem, fun h => ?_⟩
    · dsimp only [State.goes]
      rw [hddr]
      exact htrained
    · dsimp only [State.goes]
      rw [hddr]
      exact hretired
    · dsimp only [State.goes] at h ⊢
      rw [hddr, htrained] at h
      unfold setStage showRetired
      dsimp only
      rw [getF_setF_otherReg _ _ _ _ _ _ (by decide), getF_regPut_otherReg _ _ _ _ (by decide), getF_regPut_otherReg _ _ _ _ (by decide),
        getF_setF_otherReg _ _ _ _ _ _ (by decide)]
      exact hfailed h
  · intro err region area n s hstage
    refine ⟨fun c hc htrained hclean hplan => ?_, fun r hr => ?_⟩
    · have hexec : exec (.schedulerStart err region area n) s = s.goes (startScheduler region area n c s.dev) := by
        change execSchedulerStart err region area n s = _
        unfold execSchedulerStart
        dsimp only
        rw [hc]
        exact whenDev_go (by rw [hstage, hplan]; rfl)
      obtain ⟨e, he, hlive, hlocked, hread⟩ := startScheduler_eq region area n c htrained hclean
      rw [he] at hexec
      refine ⟨_, hexec, bootStage_setStage (by decide) _, ?_, ?_, ?_⟩
      · dsimp only [State.goes]
        rw [setStage_boot, hlive]
      · dsimp only [State.goes]
        unfold rdMem setStage
        rw [setF_mem]
        exact hread
      · dsimp only [State.goes]
        rw [setStage_boot, hlocked]
    · have hexec : exec (.schedulerStart err region area n) s = s.goes (awaitObj 8 r s.dev) := by
        change execSchedulerStart err region area n s = _
        unfold execSchedulerStart
        dsimp only
        rw [hr]
        exact whenDev_go hstage
      obtain ⟨hst, hw, _⟩ := awaitObj_facts (w := 8) (by decide) r s.dev
      exact ⟨_, hexec, hst, hw⟩
  · intro s hstage
    obtain ⟨hst, hwait, _⟩ := atStage_iff.mp hstage
    have hexec : exec .schedulerReady s = s.goes (enterService s.dev) := by
      change execSchedulerReady s = _
      unfold execSchedulerReady
      dsimp only
      rw [if_neg (by rw [not_bootDone_of_stage hst (by decide)]; exact Bool.false_ne_true)]
      exact whenDev_go hstage
    obtain ⟨hdone, hcommit⟩ := enterService_facts hwait
    refine ⟨_, hexec, hdone, fun k hk h => ?_, fun k hk h => ?_⟩
    · refine (hcommit k hk).trans ?_
      unfold counterNext
      rw [if_pos h]
    · refine (hcommit k hk).trans ?_
      unfold counterNext
      rw [if_neg (by rw [h]; exact Bool.false_ne_true)]
  · intro s hdone hrestarting
    change execSchedulerReady s = _
    unfold execSchedulerReady
    dsimp only
    rw [if_pos hdone]
    exact whenDev_go hrestarting
  · intro s hruns
    exact whenDev_go hruns
  · intro s hstage hlate
    have hexec : exec .schedulerLivenessTimeout s = s.goes (setStage 9 { s.dev with boot.wait := 9 }) := by
      change execSchedulerLivenessTimeout s = _
      unfold execSchedulerLivenessTimeout
      dsimp only
      rw [if_pos hstage]
      exact whenDev_go (decide_eq_true hlate)
    refine ⟨_, hexec, bootStage_setStage (by decide) _, ?_⟩
    dsimp only [State.goes]
    rw [setStage_boot]
  · intro s hdone hhold hrestarting hlate
    have hstage : ¬ atStage s.dev 4 = true := by
      intro h
      rw [not_bootDone_of_stage (atStage_iff.mp h).1 (by decide)] at hdone
      exact Bool.false_ne_true hdone
    change execSchedulerLivenessTimeout s = _
    unfold execSchedulerLivenessTimeout
    dsimp only
    rw [if_neg hstage]
    exact whenDev_go (by rw [hdone, hrestarting, decide_eq_true hlate]; rfl)
  · intro s hruns
    exact whenDev_go hruns
  · intro cause d hthird
    obtain ⟨e, he⟩ := restart_third (cause := cause) hthird
    rw [he]
    refine ⟨bootStage_setStage (by decide) _, ?_, ?_⟩
    · rw [setStage_boot]
    · unfold schedulerUp
      rw [not_bootDone_of_stage (bootStage_setStage (by decide) _) (by decide), Bool.false_and, Bool.false_and]

end Sys2Proof.Proofs
end

section
/-! SUPPORT. The firmware mailbox, DOE and attestation (R363, R439, R442 to R446). -/

namespace Sys2Proof.Machine

variable {s : State} {d : Dev}

theorem exec_mboxStep {f : Dev → Dev} (hhold : s.dev.boot.hold = false) : mboxStep f s = s.goes (f s.dev) :=
  whenDev_go (by rw [hhold]; rfl)

theorem mboxState_setMbox {n : Nat} (hn : n < 16) (d : Dev) : mboxState (setMbox n d) = n :=
  (getF_setF_same _ _ _ _ _ (by omega)).trans (Nat.mod_eq_of_lt hn)

/-- The state after another register is written. -/
theorem mboxState_regPut {k : Nat} (h : kMboxStat ≠ k) (v : Nat) (d : Dev) : mboxState (regPut k v d) = mboxState d :=
  getF_regPut_otherReg _ _ _ _ h

theorem mboxFail_facts {r : Nat} (hr : r < 256) (d : Dev) : mboxState (mboxFail r d) = 5 ∧ getF (mboxFail r d) kMboxStat 8 8 = r := by
  unfold mboxFail
  refine ⟨?_, (getF_setF_same _ _ _ _ _ (by omega)).trans (Nat.mod_eq_of_lt hr)⟩
  exact (getF_setF_above _ _ _ _ _ _ _ (by omega) (by omega)).trans (mboxState_setMbox (by decide) d)

/-! Words. -/

/-- A word is counted and stored where the length has room for it. -/
theorem mboxWord_receiving {w : Nat} (h : mboxState d = 1) : ∃ b : Dev,
    mboxWord w d = regPut kMboxCount ((regVal d kMboxCount + 1) % 2 ^ 32) b ∧ mboxState b = 1 ∧
    (4 * regVal d kMboxCount + 4 ≤ regVal d kMboxLen → b = wrMem (stagePlace + 4 * regVal d kMboxCount) (leBytes 4 w) d) ∧
    (regVal d kMboxLen < 4 * regVal d kMboxCount + 4 → b = d) := by
  unfold mboxWord
  rw [if_pos (beq_iff_eq.mpr h)]
  dsimp only
  by_cases hroom : 4 * regVal d kMboxCount + 4 ≤ regVal d kMboxLen
  · exact ⟨wrMem (stagePlace + 4 * regVal d kMboxCount) (leBytes 4 w) d, by rw [if_pos hroom], h, fun _ => rfl, fun h => absurd hroom (Nat.not_le.mpr h)⟩
  · exact ⟨d, by rw [if_neg hroom], h, fun h => absurd h hroom, fun _ => rfl⟩

/-! The end of a transfer. -/

theorem verifyObj_congr {e : Dev} (h : e.boot = d.boot) (kind : Nat) (obj : List Byte) : verifyObj e kind obj = verifyObj d kind obj := by
  have hobj (k : Nat) : objAt e k = objAt d k := congrArg (fun b : BootGrp => tget [] b.objs k) h
  have hkeys : acceptedKeys e kind = acceptedKeys d kind := by
    unfold acceptedKeys
    rw [hobj, hobj]
  have hserial : ownSerial e = ownSerial d := by
    unfold ownSerial
    rw [hobj]
  have hcount : counterOf e kind = counterOf d kind := congrArg (fun b : BootGrp => tget 0 b.rpmc (kind - 1)) h
  unfold verifyObj
  rw [hkeys, hserial, hcount]

/-- The kind is shown while the object is verified. -/
def mboxShown (d : Dev) : Dev := setF kMboxStat 24 4 (objKind (stagedObj d)) d

theorem mboxShown_boot (d : Dev) : (mboxShown d).boot = d.boot := setF_boot _ _ _ _ _

theorem bootDone_mboxShown (d : Dev) : bootDone (mboxShown d) = bootDone d := by
  unfold bootDone
  rw [mboxShown_boot]
  unfold mboxShown
  rw [getF_setF_otherReg _ _ _ _ _ _ (by decide)]

theorem mboxKinds_mboxShown (d : Dev) : mboxKinds (mboxShown d) = mboxKinds d := by
  unfold mboxKinds
  rw [mboxShown_boot, bootDone_mboxShown]

theorem copyInUse_mboxShown (d : Dev) (kind : Nat) : copyInUse (mboxShown d) kind = copyInUse d kind :=
  getF_setF_otherReg _ _ _ _ _ _ (by decide)

theorem mboxFinish_count (h : mboxState d = 1) (hcount : 4 * regVal d kMboxCount ≠ regVal d kMboxLen) : mboxFinish d = mboxFail 8 d := by
  unfold mboxFinish
  rw [if_neg (by rw [h]; decide), if_pos (bne_iff_ne.mpr hcount)]

theorem mboxFinish_kind (h : mboxState d = 1) (hcount : 4 * regVal d kMboxCount = regVal d kMboxLen)
    (hkind : (mboxKinds d).contains (objKind (stagedObj d)) = false) : mboxFinish d = mboxFail 9 (mboxShown d) := by
  have hkind' : (mboxKinds (mboxShown d)).contains (objKind (stagedObj d)) = false := by
    rw [mboxKinds_mboxShown, hkind]
  unfold mboxShown at hkind' ⊢
  unfold mboxFinish
  dsimp only
  rw [if_neg (by rw [h]; decide), if_neg (by rw [hcount, bne_self_eq_false]; exact Bool.false_ne_true), if_pos (by rw [hkind']; rfl)]

theorem mboxFinish_write (h : mboxState d = 1) (hcount : 4 * regVal d kMboxCount = regVal d kMboxLen)
    (hkind : (mboxKinds d).contains (objKind (stagedObj d)) = true) (hgood : verifyObj d (objKind (stagedObj d)) (stagedObj d) = 0) :
    mboxFinish d = mboxWrite (objKind (stagedObj d)) (stagedObj d) (mboxShown d) := by
  have hkind' : (mboxKinds (mboxShown d)).contains (objKind (stagedObj d)) = true := by
    rw [mboxKinds_mboxShown, hkind]
  have hgood' : verifyObj (mboxShown d) (objKind (stagedObj d)) (stagedObj d) = 0 := by
    rw [verifyObj_congr (mboxShown_boot d), hgood]
  unfold mboxShown at hkind' hgood' ⊢
  unfold mboxFinish
  dsimp only
  rw [if_neg (by rw [h]; decide), if_neg (by rw [hcount, bne_self_eq_false]; exact Bool.false_ne_true), if_neg (by rw [hkind']; decide), hgood']
  rfl

/-- The flash write of the object begins. -/
theorem mboxWrite_boot (kind : Nat) (obj : List Byte) (d : Dev) :
    (mboxWrite kind obj d).boot = { d.boot with mbox := some { kind := kind, copy := mboxCopy d kind, bytes := obj } } := by
  unfold mboxWrite setMbox
  rw [setF_boot]

/-! The end of a flash write. -/

/-- Using an object touches the boot chain alone. -/
structure UsedObj (b d : Dev) : Prop where
  state : mboxState d = mboxState b
  mbox : d.boot.mbox = b.boot.mbox
  flash : d.boot.flash = b.boot.flash
  rpmc : d.boot.rpmc = b.boot.rpmc
  out : d.out = b.out
  mem : d.mem = b.mem

theorem mboxState_boot (n k lo w v : Nat) {b : Dev} (hk : k = kBootStat) (h : mboxState b = n) : mboxState (setF k lo w v b) = n :=
  (getF_setF_otherReg _ _ _ _ _ _ (by rw [hk]; decide)).trans h

theorem UsedObj.setStage {b d : Dev} (n : Nat) (h : UsedObj b d) : UsedObj b (setStage n d) := by
  unfold Machine.setStage
  obtain ⟨hstate, hmbox, hflash, hrpmc, hout, hmem⟩ := h
  refine ⟨mboxState_boot _ _ _ _ _ rfl hstate, ?_, ?_, ?_, ?_, ?_⟩
  · rw [setF_boot, hmbox]
  · rw [setF_boot, hflash]
  · rw [setF_boot, hrpmc]
  · rw [setF_out, hout]
  · rw [setF_mem, hmem]

theorem UsedObj.setF {b d : Dev} (lo w v : Nat) (h : UsedObj b d) : UsedObj b (setF kBootStat lo w v d) := by
  obtain ⟨hstate, hmbox, hflash, hrpmc, hout, hmem⟩ := h
  refine ⟨mboxState_boot _ _ _ _ _ rfl hstate, ?_, ?_, ?_, ?_, ?_⟩
  · rw [setF_boot, hmbox]
  · rw [setF_boot, hflash]
  · rw [setF_boot, hrpmc]
  · rw [setF_out, hout]
  · rw [setF_mem, hmem]

theorem usedObj_useObj (m : MboxObj) (d : Dev) : UsedObj d (useObj m d) := by
  unfold useObj
  split
  · exact (UsedObj.setF (b := d) (d := { d with boot.wait := 0, boot.rootAt := d.aclk, boot.objs := tset [] d.boot.objs 1 m.bytes }) 29 1 m.copy
      ⟨rfl, rfl, rfl, rfl, rfl, rfl⟩).setStage 1
  · exact UsedObj.setStage (b := d) (d := { d with boot.wait := 0 }) 1 ⟨rfl, rfl, rfl, rfl, rfl, rfl⟩
  · exact UsedObj.setStage (b := d) (d := { d with boot.wait := 0 }) 1 ⟨rfl, rfl, rfl, rfl, rfl, rfl⟩
  · exact UsedObj.setStage (b := d) (d := { d with boot.wait := 0 }) 3 ⟨rfl, rfl, rfl, rfl, rfl, rfl⟩
  · exact ⟨rfl, rfl, rfl, rfl, rfl, rfl⟩

/-- The object is in flash before it is used. -/
theorem endWrite_eq (m : MboxObj) (d : Dev) : ∃ b : Dev, endWrite m d = useObj m b ∧ mboxState b = 4 ∧
    b.boot = { d.boot with flash := tsetRun 0xFF d.boot.flash (copyBase m.kind m.copy) m.bytes, mbox := none } ∧
    b.out = d.out ++ [.flashWrite (copyBase m.kind m.copy) m.bytes] ∧ b.mem = d.mem := by
  refine ⟨setMbox 4 (emit (.flashWrite (copyBase m.kind m.copy) m.bytes) { d with
    boot.flash := tsetRun 0xFF d.boot.flash (copyBase m.kind m.copy) m.bytes, boot.mbox := none }), rfl, mboxState_setMbox (by decide) _, ?_, ?_, ?_⟩
  · unfold setMbox
    rw [setF_boot]
    rfl
  · unfold setMbox
    rw [setF_out]
    rfl
  · unfold setMbox
    rw [setF_mem]
    rfl

/-! DOE. -/

theorem exec_doeStep {f : Dev → Dev} (hrom : afterRom s.dev = true) (hhold : s.dev.boot.hold = false) : doeStep f s = s.goes (f s.dev) :=
  whenDev_go (by rw [hrom, hhold]; rfl)

end Sys2Proof.Machine

namespace Sys2Proof.Proofs

open Sys2Proof Sys2Proof.Machine

/-- Settles O48: a control write by the state of the mailbox; the end of a transfer by its three checks. -/
theorem mailboxAndEvidence : Obligations.MailboxAndEvidence := by
  unfold Obligations.MailboxAndEvidence
  refine ⟨?_, ?_, ?_, ?_, ?_, ?_, ?_, ?_⟩
  · intro s hhold hbusy hwait
    have hbegin : mboxBegin s.dev = regPut kMboxCount 0 (regPut kMboxStat (2 ^ 28) s.dev) :=
      if_neg (by rw [hbusy, beq_eq_false_iff_ne.mpr hwait]; decide)
    have hexec : exec .mboxBegin s = s.goes (mboxBegin s.dev) := exec_mboxStep hhold
    rw [hbegin] at hexec
    refine ⟨_, hexec, ?_, ?_, ?_⟩
    · refine (mboxState_regPut (by decide) _ _).trans ?_
      unfold mboxState getF
      rw [regVal_regPut_same]
      decide
    · exact regVal_regPut_same _ _ _
    · dsimp only [State.goes]
      rw [regPut_eq kMboxCount, regPut_eq kMboxStat]
  · intro s hhold hbusy
    have hexec : exec .mboxBegin s = s.goes (mboxBegin s.dev) := exec_mboxStep hhold
    exact hexec.trans (congrArg s.goes (if_pos (by rw [hbusy]; rfl)))
  · intro v s hhold hstate hcount
    obtain ⟨b, heq, hb, hstored, hfull⟩ := mboxWord_receiving (w := v.toNat) hstate
    have hexec : exec (.mboxData v) s = s.goes (mboxWord v.toNat s.dev) := exec_mboxStep hhold
    rw [heq] at hexec
    refine ⟨_, hexec, ?_, (mboxState_regPut (by decide) _ _).trans hb, fun hroom => ?_, fun hnone => ?_, fun a ha => ?_⟩
    · refine (regVal_regPut_same _ _ _).trans ?_
      omega
    · dsimp only [State.goes]
      rw [hstored hroom]
      exact rdMem_wrMem_length (length_leBytes 4 v.toNat) _ _
    · dsimp only [State.goes]
      rw [regPut_mem, hfull hnone]
    · dsimp only [State.goes]
      rw [regPut_mem]
      by_cases hroom : 4 * regVal s.dev kMboxCount + 4 ≤ regVal s.dev kMboxLen
      · rw [hstored hroom, mem_wrMem, length_leBytes, if_neg (by omega)]
      · rw [hfull (by omega)]
  · intro v s hhold hstate
    have hdata : exec (.mboxData v) s = s.goes (mboxWord v.toNat s.dev) := exec_mboxStep hhold
    have hend : exec .mboxEnd s = s.goes (mboxFinish s.dev) := exec_mboxStep hhold
    have habort : exec .mboxAbort s = s.goes (mboxStop s.dev) := exec_mboxStep hhold
    exact ⟨hdata.trans (congrArg s.goes (if_neg (by rw [beq_iff_eq]; exact hstate))),
      hend.trans (congrArg s.goes (if_pos (bne_iff_ne.mpr hstate))),
      habort.trans (congrArg s.goes (if_neg (by rw [beq_iff_eq]; exact hstate)))⟩
  · intro s hhold hstate
    have hend : exec .mboxEnd s = s.goes (mboxFinish s.dev) := exec_mboxStep hhold
    refine ⟨fun hcount => ?_, fun hcount hkind => ?_, fun hcount hkind hgood => ?_, ?_⟩
    · rw [mboxFinish_count hstate hcount] at hend
      obtain ⟨hfailed, hreason⟩ := mboxFail_facts (r := 8) (by decide) s.dev
      exact ⟨_, hend, hfailed, hreason⟩
    · rw [mboxFinish_kind hstate hcount hkind] at hend
      obtain ⟨hfailed, hreason⟩ := mboxFail_facts (r := 9) (by decide) (mboxShown s.dev)
      exact ⟨_, hend, hfailed, hreason⟩
    · rw [mboxFinish_write hstate hcount hkind hgood] at hend
      refine ⟨_, hend, mboxState_setMbox (by decide) _, ?_, fun hdone => ?_⟩
      · dsimp only [State.goes]
        rw [mboxWrite_boot]
        rfl
      · dsimp only [State.goes]
        rw [mboxWrite_boot]
        unfold mboxCopy
        rw [bootDone_mboxShown, if_pos hdone, copyInUse_mboxShown]
        rfl
    · have habort : exec .mboxAbort s = s.goes (mboxStop s.dev) := exec_mboxStep hhold
      have hstop : mboxStop s.dev = setMbox 0 s.dev := if_pos (beq_iff_eq.mpr hstate)
      rw [hstop] at habort
      exact ⟨_, habort, mboxState_setMbox (by decide) _, congrArg (fun e => { s with dev := e }) (setF_eq _ _ _ _ s.dev)⟩
  · intro s m hm
    have hexec : exec .mboxWriteDone s = s.goes (endWrite m s.dev) := by
      change execMboxWriteDone s = _
      unfold execMboxWriteDone
      rw [hm]
      exact whenDev_go rfl
    obtain ⟨b, hb, hstate, hboot, hout, hmem⟩ := endWrite_eq m s.dev
    obtain ⟨ustate, umbox, uflash, urpmc, uout, umem⟩ := usedObj_useObj m b
    rw [hb] at hexec
    rw [hboot] at umbox uflash urpmc
    exact ⟨_, hexec, ustate.trans hstate, umbox, uflash, uout.trans hout, urpmc, umem.trans hmem⟩
  · intro s hhold hwarm
    have hexec : exec .mboxWarmReset s = s.goes (dueWarm 3 s.dev.aclk s.dev) := exec_mboxStep hhold
    have hdue : dueWarm 3 s.dev.aclk s.dev = { s.dev with boot.warm := some (3, s.dev.aclk) } := by
      unfold dueWarm
      rw [hwarm]
    rw [hdue] at hexec
    exact ⟨_, hexec, rfl⟩
  · intro i b s hrom hhold
    refine ⟨?_, exec_doeStep hrom hhold, exec_doeStep hrom hhold, fun hok hid => ?_⟩
    · change ∃ r, execDoeDiscovery i s = s.goes (emit (.doeResponse (doeObject 0x0001 0 r)) s.dev)
      unfold execDoeDiscovery
      exact ⟨_, exec_doeStep hrom hhold⟩
    · unfold evidence
      dsimp only
      rw [if_neg (by rw [hok]; decide), if_pos (beq_iff_eq.mpr hid)]

end Sys2Proof.Proofs
end

section
/-! SUPPORT. Crebor ports: up, down, counts and Ethernet frames (R324, R325, R350, R351). -/

namespace Sys2Proof.Machine

variable {s : State} {d : Dev}

/-! The configuration of a port (Table 13-21). -/

/-- A write of a field that takes every value. -/
theorem writeFields_rw (lo w : Nat) (fs : List Fld) (x v : Nat) :
    writeFields (⟨lo, w, .rw, []⟩ :: fs) x v = writeFields fs (putFld x lo w (fld v lo w)) v := rfl

/-- A write of a field that takes the values of a range. -/
theorem writeFields_rwRange (lo w n : Nat) (fs : List Fld) (x v : Nat) : writeFields (⟨lo, w, .rw, [(0, n)]⟩ :: fs) x v =
    writeFields fs (if fld v lo w ≤ n then putFld x lo w (fld v lo w) else x) v := by
  have hok : Fld.ok ⟨lo, w, .rw, [(0, n)]⟩ (fld v lo w) = decide (fld v lo w ≤ n) := by
    unfold Fld.ok
    simp
  change writeFields fs (if Fld.ok ⟨lo, w, .rw, [(0, n)]⟩ (fld v lo w) then putFld x lo w (fld v lo w) else x) v = _
  rw [hok]
  exact congrArg (fun y => writeFields fs y v) (ite_of_iff decide_eq_true_iff rfl rfl)

/-- CRB_PORT_CFG after a write of `v`. -/
def portCfgAfter (x v : Nat) : Nat := writeFields (((crbPortSpec 0).map (·.fields)).getD []) x v

theorem portCfgAfter_eq (x v : Nat) : portCfgAfter x v =
    putFld (putFld (if fld v 28 2 ≤ 2 then putFld (putFld (putFld x 31 1 (fld v 31 1)) 30 1 (fld v 30 1)) 28 2 (fld v 28 2)
      else putFld (putFld x 31 1 (fld v 31 1)) 30 1 (fld v 30 1)) 27 1 (fld v 27 1)) 0 12 (fld v 0 12) := by
  change writeFields [⟨31, 1, .rw, []⟩, ⟨30, 1, .rw, []⟩, ⟨28, 2, .rw, [(0, 2)]⟩, ⟨27, 1, .rw, []⟩, ⟨0, 12, .rw, []⟩] x v = _
  rw [writeFields_rw, writeFields_rw, writeFields_rwRange, writeFields_rw, writeFields_rw]
  rfl

theorem portCfgAfter_enable (x v : Nat) : fld (portCfgAfter x v) 31 1 = fld v 31 1 := by
  rw [portCfgAfter_eq, fld_putFld_above _ _ _ _ _ _ (by omega), fld_putFld_above _ _ _ _ _ _ (by omega)]
  split
  · rw [fld_putFld_above _ _ _ _ _ _ (by omega), fld_putFld_above _ _ _ _ _ _ (by omega), fld_putFld_same]
    exact Nat.mod_eq_of_lt (fld_lt _ _ _)
  · rw [fld_putFld_above _ _ _ _ _ _ (by omega), fld_putFld_same]
    exact Nat.mod_eq_of_lt (fld_lt _ _ _)

theorem portCfgAfter_mode (x v : Nat) : fld (portCfgAfter x v) 30 1 = fld v 30 1 := by
  rw [portCfgAfter_eq, fld_putFld_above _ _ _ _ _ _ (by omega), fld_putFld_above _ _ _ _ _ _ (by omega)]
  split
  · rw [fld_putFld_above _ _ _ _ _ _ (by omega), fld_putFld_same]
    exact Nat.mod_eq_of_lt (fld_lt _ _ _)
  · rw [fld_putFld_same]
    exact Nat.mod_eq_of_lt (fld_lt _ _ _)

theorem portCfgAfter_media (x : Nat) {v : Nat} (h : fld v 28 2 ≤ 2) : fld (portCfgAfter x v) 28 2 = fld v 28 2 := by
  rw [portCfgAfter_eq, fld_putFld_above _ _ _ _ _ _ (by omega), fld_putFld_above _ _ _ _ _ _ (by omega), if_pos h, fld_putFld_same]
  exact Nat.mod_eq_of_lt (fld_lt _ _ _)

/-- The configuration is written. -/
def portCfgPut (p v : Nat) (d : Dev) : Dev := regPut (kCrbPort p 0) (portCfgAfter (regVal d (kCrbPort p 0)) v) d

theorem getF_portCfgPut (p v : Nat) (d : Dev) {lo w : Nat} (h : lo + w ≤ 32) :
    getF (portCfgPut p v d) (kCrbPort p 0) lo w = fld (portCfgAfter (regVal d (kCrbPort p 0)) v) lo w := by
  unfold getF portCfgPut
  rw [regVal_regPut_same, fld_mod32 _ _ _ h]

/-- Enabling a port starts training with the mode and media written. -/
theorem portCfgWrite_enable {p v : Nat} (hoff : getF d (kCrbPort p 0) 31 1 = 0) (hon : fld v 31 1 = 1) :
    portCfgWrite p v d = emit (.trainPort p) (setF (kCrbPort p 4) 29 3 1 (updLink p (fun s =>
      { mode := getF (portCfgPut p v d) (kCrbPort p 0) 30 1, media := getF (portCfgPut p v d) (kCrbPort p 0) 28 2, rx := s.rx, lastEvt := s.lastEvt })
      (portCfgPut p v d))) := by
  have hen : getF (portCfgPut p v d) (kCrbPort p 0) 31 1 = 1 := by
    rw [getF_portCfgPut _ _ _ (by omega), portCfgAfter_enable, hon]
  unfold portCfgWrite portCfgEffect
  dsimp only
  rw [hoff]
  exact if_pos (by rw [show getF (regPut (kCrbPort p 0) (writeFields (((crbPortSpec 0).map (·.fields)).getD []) (regVal d (kCrbPort p 0)) v) d)
    (kCrbPort p 0) 31 1 = 1 from hen]; rfl)

/-- What enabling a port sets. -/
theorem portTrain_eq (p : Nat) (f : LinkSt → LinkSt) (e : Dev) :
    emit (.trainPort p) (setF (kCrbPort p 4) 29 3 1 (updLink p f e)) =
      { e with regs := (setF (kCrbPort p 4) 29 3 1 (updLink p f e)).regs, out := e.out ++ [.trainPort p],
               crb := { e.crb with links := (updLink p f e).crb.links } } := by
  rw [setF_eq]
  rfl

/-- What starting training again sets. -/
theorem portRetrain_eq (p : Nat) (d : Dev) : emit (.trainPort p) (setF (kCrbPort p 4) 29 3 1 d) =
    { d with regs := (setF (kCrbPort p 4) 29 3 1 d).regs, out := d.out ++ [.trainPort p] } := by
  rw [setF_eq]
  rfl

theorem linkAt_portCfgPut (p v : Nat) (d : Dev) (l : Nat) : linkAt (portCfgPut p v d) l = linkAt d l := linkAt_regPut _ _ _ _

theorem portCfgPut_eq (p v : Nat) (d : Dev) : portCfgPut p v d = { d with regs := (portCfgPut p v d).regs } := regPut_eq _ _ d

theorem portCfgPut_out (p v : Nat) (d : Dev) : (portCfgPut p v d).out = d.out := regPut_out _ _ _

theorem portEnabled_eq (p v : Nat) (f : LinkSt → LinkSt) (d : Dev) : ∃ r o l,
    emit (.trainPort p) (setF (kCrbPort p 4) 29 3 1 (updLink p f (portCfgPut p v d))) =
      { d with regs := r, out := o, crb := { d.crb with links := l } } := by
  obtain ⟨r, hr⟩ : ∃ r, portCfgPut p v d = { d with regs := r } := ⟨_, portCfgPut_eq p v d⟩
  rw [hr, portTrain_eq]
  exact ⟨_, _, _, rfl⟩

theorem regVal_emit (o : Out) (d : Dev) (k : Nat) : regVal (emit o d) k = regVal d k := rfl

theorem linkUp_eq (p : Nat) (f : LinkSt → LinkSt) (d : Dev) : updLink p f (setF (kCrbPort p 4) 29 3 2 d) =
    { d with regs := (setF (kCrbPort p 4) 29 3 2 d).regs, crb := { d.crb with links := (updLink p f d).crb.links } } := by
  rw [setF_eq]
  rfl

/-- A port that comes up, in Crebor mode as a fresh link. -/
def portUp (p : Nat) (d : Dev) : Dev :=
  if (linkAt d p).mode == 0 then updLink p (freshLink d.aclk p) (setF (kCrbPort p 4) 29 3 2 d) else setF (kCrbPort p 4) 29 3 2 d

theorem portUp_crebor {p : Nat} (h : (linkAt d p).mode = 0) :
    portUp p d = updLink p (freshLink d.aclk p) (setF (kCrbPort p 4) 29 3 2 d) := if_pos (beq_iff_eq.mpr h)

theorem portUp_other {p : Nat} (h : (linkAt d p).mode ≠ 0) : portUp p d = setF (kCrbPort p 4) 29 3 2 d :=
  if_neg (fun hc => h (beq_iff_eq.mp hc))

theorem updLink_regs (l : Nat) (f : LinkSt → LinkSt) (d : Dev) : (updLink l f d).regs = d.regs := rfl

theorem regs_portUp (p : Nat) (d : Dev) : (portUp p d).regs = (setF (kCrbPort p 4) 29 3 2 d).regs := by
  unfold portUp
  split
  · rw [updLink_regs]
  · rfl

theorem portUp_eq (p : Nat) (d : Dev) : ∃ r l, portUp p d = { d with regs := r, crb := { d.crb with links := l } } := by
  unfold portUp
  split
  · exact ⟨_, _, linkUp_eq p _ d⟩
  · exact ⟨_, d.crb.links, setF_eq _ _ _ _ d⟩

theorem linkAt_portUp_other {p l : Nat} (d : Dev) (h : l ≠ p) : linkAt (portUp p d) l = linkAt d l := by
  unfold portUp
  split
  · rw [linkAt_updLink_other _ _ h, linkAt_setF]
  · rw [linkAt_setF]

/-- The registers of two devices that list the same ones. -/
theorem regVal_congr {b : Dev} (h : d.regs = b.regs) (k : Nat) : regVal d k = regVal b k := by
  unfold regVal
  rw [h]

/-! The stall window. -/

/-- What a stall window's end shows. -/
structure WindowShown (p vl frac : Nat) (hot : Bool) (b d : Dev) : Prop where
  frac : getF d (kCrbPort p 0x10) 16 16 = frac % 2 ^ 16
  lane : getF d (kCrbPort p 0x10) 8 3 = vl % 8
  count : hot = true → getF d (kCrbPort p 0x10) 0 8 = min 255 (getF b (kCrbPort p 0x10) 0 8 + 1)
  others : ∀ k, k ≠ kCrbPort p 0x10 → regVal d k = regVal b k
  links : ∀ l, linkAt d l = linkAt b l

/-- The register of a stall window. -/
def windowShow (p vl frac : Nat) (hot : Bool) (d : Dev) : Dev :=
  if hot then bumpF (kCrbPort p 0x10) 0 8 1 (setF (kCrbPort p 0x10) 16 16 frac (setF (kCrbPort p 0x10) 8 3 vl d))
  else setF (kCrbPort p 0x10) 16 16 frac (setF (kCrbPort p 0x10) 8 3 vl d)

theorem windowShown_windowShow (p vl frac : Nat) (hot : Bool) (d : Dev) : WindowShown p vl frac hot d (windowShow p vl frac hot d) := by
  unfold windowShow
  cases hot with
  | true =>
    rw [if_pos rfl]
    refine ⟨?_, ?_, fun _ => ?_, fun k hk => ?_, fun l => ?_⟩
    · unfold bumpF
      rw [getF_setF_above _ _ _ _ _ _ _ (by omega) (by omega), getF_setF_same _ _ _ _ _ (by omega)]
    · unfold bumpF
      rw [getF_setF_above _ _ _ _ _ _ _ (by omega) (by omega), getF_setF_below _ _ _ _ _ _ _ (by omega) (by omega),
        getF_setF_same _ _ _ _ _ (by omega)] <;> rfl
    · rw [getF_bumpF_same _ _ _ _ _ (by omega), getF_setF_below _ _ _ _ _ _ _ (by omega) (by omega),
        getF_setF_below _ _ _ _ _ _ _ (by omega) (by omega)] <;> rfl
    · unfold bumpF
      rw [regVal_setF_other _ _ _ _ hk, regVal_setF_other _ _ _ _ hk, regVal_setF_other _ _ _ _ hk]
    · rw [linkAt_bumpF, linkAt_setF, linkAt_setF]
  | false =>
    rw [if_neg Bool.false_ne_true]
    refine ⟨getF_setF_same _ _ _ _ _ (by omega), ?_, fun h => absurd h Bool.false_ne_true, fun k hk => ?_, fun l => ?_⟩
    · rw [getF_setF_below _ _ _ _ _ _ _ (by omega) (by omega), getF_setF_same _ _ _ _ _ (by omega)] <;> rfl
    · rw [regVal_setF_other _ _ _ _ hk, regVal_setF_other _ _ _ _ hk]
    · rw [linkAt_setF, linkAt_setF]

/-- A stall window ends: its counts begin again, it is shown, and a hot one raises its event where that is enabled. -/
def windowEnd (p vl frac : Nat) (hot : Bool) (d : Dev) : Dev :=
  let e := windowShow p vl frac hot (updLink p (fun s => { s with slots := 0, stalled := 0, stalls := [], winAt := d.aclk }) d)
  if hot && getF e kCrbHot 31 1 == 1 then raiseEvent 0x04 3 p [frac + vl * 65536] e else e

theorem kCrbHot_ne_port (p o : Nat) : kCrbHot ≠ kCrbPort p o := by unfold kCrbHot kCrbPort; omega

/-- What a stall window's end leaves to read. -/
structure WindowEnded (p vl frac : Nat) (hot : Bool) (b d : Dev) : Prop where
  frac : getF d (kCrbPort p 0x10) 16 16 = frac % 2 ^ 16
  lane : getF d (kCrbPort p 0x10) 8 3 = vl % 8
  count : hot = true → getF d (kCrbPort p 0x10) 0 8 = min 255 (getF b (kCrbPort p 0x10) 0 8 + 1)
  event : hot = true → getF b kCrbHot 31 1 = 1 → getF d kEvtPending 4 1 = 1
  others : ¬(hot = true ∧ getF b kCrbHot 31 1 = 1) → ∀ k, k ≠ kCrbPort p 0x10 → regVal d k = regVal b k
  link : linkAt d p = { linkAt b p with slots := 0, stalled := 0, stalls := [], winAt := b.aclk }
  links : ∀ l, l ≠ p → linkAt d l = linkAt b l

theorem windowEnded_windowEnd {p : Nat} (hp : p < 8) (vl frac : Nat) (hot : Bool) (d : Dev) :
    WindowEnded p vl frac hot d (windowEnd p vl frac hot d) := by
  unfold windowEnd
  extract_lets e
  have hkey := crbKey_port p 0x10 hp (by decide)
  obtain ⟨hfrac, hlane, hcount, hothers, hlinks⟩ : WindowShown p vl frac hot
    (updLink p (fun s => { s with slots := 0, stalled := 0, stalls := [], winAt := d.aclk }) d) e := windowShown_windowShow p vl frac hot _
  have hlink : linkAt e p = { linkAt d p with slots := 0, stalled := 0, stalls := [], winAt := d.aclk } := by
    rw [hlinks, linkAt_updLink_same]
  have hlinks' : ∀ l, l ≠ p → linkAt e l = linkAt d l := fun l hl => by rw [hlinks, linkAt_updLink_other _ _ hl]
  have hen : getF e kCrbHot 31 1 = getF d kCrbHot 31 1 := congrArg (fld · 31 1) (hothers _ (kCrbHot_ne_port _ _))
  clear_value e
  by_cases hraise : hot = true ∧ getF d kCrbHot 31 1 = 1
  · rw [if_pos (by rw [hen, hraise.1, hraise.2]; rfl)]
    refine ⟨?_, ?_, fun h => ?_, fun _ _ => getF_raiseEvent_pending _ _ _ _ _ (by decide), fun h => absurd hraise h, ?_, fun l hl => ?_⟩
    · rw [getF_raiseEvent_crb _ _ _ _ _ _ _ hkey, hfrac]
    · rw [getF_raiseEvent_crb _ _ _ _ _ _ _ hkey, hlane]
    · rw [getF_raiseEvent_crb _ _ _ _ _ _ _ hkey, hcount h, getF_updLink]
    · rw [linkAt_raiseEvent, hlink]
    · rw [linkAt_raiseEvent, hlinks' l hl]
  · rw [if_neg (by rw [hen, Bool.and_eq_true, beq_iff_eq]; exact hraise)]
    exact ⟨hfrac, hlane, hcount, fun h h' => absurd ⟨h, h'⟩ hraise, fun _ => hothers, hlink, hlinks'⟩

end Sys2Proof.Machine

namespace Sys2Proof.Proofs

open Sys2Proof Sys2Proof.Machine

/-- Settles O49: a port's command by the registers and the link that it sets; going down by `linkDown_facts` and `violate_facts`. -/
theorem fabricPorts : Obligations.FabricPorts := by
  unfold Obligations.FabricPorts
  refine ⟨?_, ?_, ?_, ?_, ?_, ?_, ?_, ?_⟩
  · intro p v s hdone hoff hon
    have hfld : fld v.toNat 31 1 = 1 := beq_iff_eq.mp hon
    have hexec : exec (.portEnable p v) s = s.goes (portCfgWrite p.val v.toNat s.dev) :=
      whenDev_go (by rw [hdone, hoff, hon]; rfl)
    rw [portCfgWrite_enable hoff hfld] at hexec
    have h04 : kCrbPort p.val 0 ≠ kCrbPort p.val 4 := kCrbPort_ne _ (by decide)
    refine ⟨_, hexec, ?_, ?_, ?_, fun hmedia => ?_, ?_, fun l hl => ?_, ?_⟩
    · exact (getF_emit _ _ _ _ _).trans (getF_setF_same _ _ _ _ _ (by omega))
    · dsimp only [State.goes]
      rw [getF_emit, getF_setF_otherReg _ _ _ _ _ _ h04, getF_updLink, getF_portCfgPut _ _ _ (by omega), portCfgAfter_enable, hfld]
    · dsimp only [State.goes]
      rw [linkAt_emit, linkAt_setF, linkAt_updLink_same]
      dsimp only
      rw [getF_portCfgPut _ _ _ (by omega), portCfgAfter_mode]
    · dsimp only [State.goes]
      rw [linkAt_emit, linkAt_setF, linkAt_updLink_same]
      dsimp only
      rw [getF_portCfgPut _ _ _ (by omega), portCfgAfter_media _ hmedia]
    · dsimp only [State.goes]
      rw [portTrain_eq, portCfgPut_out]
    · dsimp only [State.goes]
      rw [linkAt_emit, linkAt_setF, linkAt_updLink_other _ _ hl, linkAt_portCfgPut]
    · obtain ⟨r, o, l, h⟩ := portEnabled_eq p.val v.toNat _ s.dev
      dsimp only [State.goes]
      rw [h]
  · intro p s htrain
    have hexec : exec (.portLinkUp p) s = s.goes (portUp p.val s.dev) := whenDev_go (by rw [htrain]; rfl)
    have hregs := regVal_congr (regs_portUp p.val s.dev)
    refine ⟨_, hexec, ?_, fun hmode => ?_, fun hmode => ?_, fun l hl => linkAt_portUp_other _ hl, fun k hk => ?_, ?_⟩
    · dsimp only [State.goes]
      unfold getF
      rw [hregs]
      exact getF_setF_same (kCrbPort p.val 4) 29 3 2 s.dev (by omega)
    · dsimp only [State.goes]
      rw [portUp_crebor hmode, linkAt_updLink_same]
      exact ⟨rfl, rfl, rfl, rfl, rfl⟩
    · dsimp only [State.goes]
      rw [portUp_other hmode, setF_crb]
    · dsimp only [State.goes]
      rw [hregs, regVal_setF_other _ _ _ _ hk]
    · obtain ⟨r, l, h⟩ := portUp_eq p.val s.dev
      dsimp only [State.goes]
      rw [h]
  · intro p s hup
    have hexec : exec (.laneLockLoss p) s = s.goes (linkDown p.val 3 false s.dev) := whenDev_go hup
    obtain ⟨hstate, hevent, hraised, hlink, _, _⟩ := linkDown_facts p.val 3 false s.dev p.isLt (by decide) hup
    obtain ⟨hcore, hmem⟩ := Apart.linkDown p.val 3 false (Apart.refl s.dev)
    have hrx := rx_linkDown p.val 3 false s.dev p.isLt (by decide) p.val p.isLt
    refine ⟨_, hexec, hstate, hevent, hraised, ?_, ?_, ?_, hrx, hcore, hmem⟩
    · exact congrArg LinkSt.tx hlink
    · exact congrArg LinkSt.replay hlink
    · exact congrArg LinkSt.downAt hlink
  · intro p s hdown hwait
    have hexec : exec (.portRetrain p) s = s.goes (emit (.trainPort p.val) (setF (kCrbPort p.val 4) 29 3 1 s.dev)) :=
      whenDev_go (by rw [hdown, decide_eq_true hwait]; rfl)
    refine ⟨_, hexec, ?_, ?_, fun k hk => ?_, ?_⟩
    · exact (getF_emit _ _ _ _ _).trans (getF_setF_same _ _ _ _ _ (by omega))
    · exact congrArg Dev.out (portRetrain_eq p.val s.dev)
    · dsimp only [State.goes]
      rw [regVal_emit, regVal_setF_other _ _ _ _ hk]
    · dsimp only [State.goes]
      rw [portRetrain_eq]
  · intro p row d hp hup hmany
    obtain ⟨e, _, hdown, _, _, _, _, _, _⟩ := violate_facts p row d hp
    obtain ⟨heq, hup'⟩ := hdown hup hmany
    obtain ⟨hstate, hevent, _, hlink, _, _⟩ := linkDown_facts p 3 true e hp (by decide) hup'
    rw [heq]
    exact ⟨hstate, hevent, congrArg LinkSt.tx hlink, congrArg LinkSt.replay hlink⟩
  · intro p row d hp
    obtain ⟨e, hcases, _, hrow, hcount, _, _, _, _⟩ := violate_facts p row d hp
    have hkey := crbKey_port p 0xC hp (by decide)
    have hne : kCrbPort p 0xC ≠ kCrbPort p 4 := kCrbPort_ne p (by decide)
    rcases hcases with h | h
    · rw [h]
      cases hup : linkUp e p with
      | true =>
        have hregs := (linkDown_facts p 3 true e hp (by decide) hup).regs
        exact ⟨(hregs _ _ _ hkey hne).trans hrow, (hregs _ _ _ hkey hne).trans hcount⟩
      | false =>
        rw [linkDown_not _ _ _ _ hup]
        exact ⟨(getF_setF_otherReg _ _ _ _ _ _ hne).trans hrow, (getF_setF_otherReg _ _ _ _ _ _ hne).trans hcount⟩
    · rw [h]
      exact ⟨hrow, hcount⟩
  · intro p s hup hwin st hot
    have hhot : hot ↔ (st.slots != 0 && decide (getF s.dev kCrbHot 0 16 * st.slots < st.stalled * 65536)) = true := by
      rw [Bool.and_eq_true, bne_iff_ne, decide_eq_true_iff]
    have hexec : exec (.hotspotWindow p) s = s.goes (windowEnd p.val (hotLane st.stalls)
        (if st.slots == 0 then 0 else min 0xFFFF (st.stalled * 65536 / st.slots))
        (st.slots != 0 && decide (getF s.dev kCrbHot 0 16 * st.slots < st.stalled * 65536)) s.dev) :=
      whenDev_go (by rw [hup, decide_eq_true hwin]; rfl)
    obtain ⟨hfrac, hlane, hcount, hevent, hothers, hlink, hlinks⟩ := windowEnded_windowEnd p.isLt (hotLane st.stalls)
      (if st.slots == 0 then 0 else min 0xFFFF (st.stalled * 65536 / st.slots))
      (st.slots != 0 && decide (getF s.dev kCrbHot 0 16 * st.slots < st.stalled * 65536)) s.dev
    have hbound : (if st.slots == 0 then 0 else min 0xFFFF (st.stalled * 65536 / st.slots)) < 2 ^ 16 := by
      split <;> omega
    refine ⟨_, hexec, hlink, ?_, hlane, fun h => hevent (hhot.mp h), fun h => hcount (hhot.mp h), fun h => hothers (fun hc => h ⟨hhot.mpr hc.1, hc.2⟩), hlinks⟩
    exact (hfrac.trans (Nat.mod_eq_of_lt hbound)).trans (ite_of_iff beq_iff_eq rfl rfl)
  · intro p f s hup
    have hexec : exec (.ethFrameReceive p f) s =
        s.goes (if frameOk s.dev p.val f && frameKept s.dev p.val f then s.dev else bumpF (kCrbPort p.val 8) 0 8 1 s.dev) := whenDev_go hup
    refine ⟨fun hok hkept => ?_, fun hdrop => ?_⟩
    · rw [hexec, if_pos (by rw [hok, hkept]; rfl)]
    · rw [if_neg (by rcases hdrop with h | h <;> simp [h])] at hexec
      refine ⟨_, hexec, getF_bumpF_same _ _ _ _ _ (by omega), fun k hk => ?_, congrArg (fun e => { s with dev := e }) (bumpF_eq _ _ _ _ s.dev)⟩
      dsimp only [State.goes]
      unfold bumpF
      rw [regVal_setF_other _ _ _ _ hk]

end Sys2Proof.Proofs
end

section
/-! SUPPORT. The link layer: flits received, sent and kept (R326 to R328, R349). -/

namespace Sys2Proof.Machine

variable {s : State} {d : Dev}

/-! The head of a flit. -/

theorem linkUp_updLink (l : Nat) (f : LinkSt → LinkSt) (d : Dev) (j : Nat) : linkUp (updLink l f d) j = linkUp d j := by
  unfold linkUp
  rw [getF_updLink, getF_updLink]

theorem linkUp_of_nativeUp {p : Nat} (h : nativeUp d p = true) : linkUp d p = true := by
  unfold nativeUp at h
  rw [Bool.and_eq_true, Bool.and_eq_true] at h
  exact h.1.2

theorem linkPort_port {p : Nat} (d : Dev) (h : p < 8) : linkPort d p = p := if_pos h

/-- An ack changes the replay buffer and what is to be sent again. -/
theorem ackLink_eq (a : Nat) (s : LinkSt) : ∃ r n, ackLink a s = { s with replay := r, resend := n } := by
  unfold ackLink
  split
  · exact ⟨_, _, rfl⟩
  · exact ⟨s.replay, s.resend, rfl⟩

/-- A link after the head of a good flit whose ack names a number that was sent. -/
def headLink (f : List Byte) (s : LinkSt) : LinkSt :=
  { ackLink (fld (flitHead f) 24 12) s with
    credits := tmod 0 (ackLink (fld (flitHead f) 24 12) s).credits (fld (flitHead f) 21 3) (· + fld (flitHead f) 12 9) }

theorem headLink_eq (f : List Byte) (s : LinkSt) : ∃ r n c, headLink f s = { s with replay := r, resend := n, credits := c } := by
  obtain ⟨r, n, h⟩ := ackLink_eq (fld (flitHead f) 24 12) s
  unfold headLink
  rw [h]
  exact ⟨_, _, _, rfl⟩

theorem rxHead_sent {l : Nat} {f : List Byte} (h : ackUnsent (linkAt d l) (fld (flitHead f) 24 12) = false) :
    rxHead l f d = updLink l (headLink f) d := by
  unfold rxHead
  dsimp only
  rw [h]
  rfl

/-- The link of an in-order flit before its packet: no longer waiting for link-up, with the head applied. -/
theorem rxPlain_data {l : Nat} {f : List Byte} (hup : linkUp d l = true) (hgood : flitGood f = true) (hkind : flitKind f = 1)
    (hack : ackUnsent (linkAt d l) (fld (flitHead f) 24 12) = false) :
    rxPlain l f d = rxData l f (updLink l (headLink f) (updLink l (fun s => { s with initAt := none }) d)) := by
  have hack' : ackUnsent (linkAt (updLink l (fun s => { s with initAt := none }) d) l) (fld (flitHead f) 24 12) = false := by
    rw [linkAt_updLink_same]
    exact hack
  have hup' : linkUp (updLink l (headLink f) (updLink l (fun s => { s with initAt := none }) d)) l = true := by
    rw [linkUp_updLink, linkUp_updLink, hup]
  unfold rxPlain
  rw [hgood, hkind, rxHead_sent hack']
  exact if_pos hup'

theorem ctrlCode_none_of_kind {f : List Byte} (h : flitKind f = 1) : ctrlCode f = none := by
  unfold ctrlCode
  dsimp only
  rw [h]
  exact if_neg (by rw [Bool.and_eq_true, Bool.and_eq_true]; exact fun hc => absurd hc.1.2 (by decide))

theorem ctrlCode_none_of_bad {f : List Byte} (h : flitGood f = false) : ctrlCode f = none := by
  unfold ctrlCode
  dsimp only
  rw [h]
  rfl

theorem flitReceive_goes {p : Fin 8} {f : List Byte} (hup : nativeUp s.dev p.val = true) (hlen : f.length = 256) (hcode : ctrlCode f = none) :
    exec (.flitReceive p f) s = s.goes (rxPlain p.val f s.dev) := whenDev_go (by rw [hup, hlen, hcode]; rfl)

/-! A gap. -/

theorem askReplay_eq (l : Nat) (d : Dev) : ∃ g c, linkAt (askReplay l d) l = { linkAt d l with gap := g, ctrl := c } ∧
    c = if (linkAt d l).gap.map (·.1) = some (linkAt d l).expect then (linkAt d l).ctrl
      else (linkAt d l).ctrl ++ [leBytes 1 3 ++ leBytes 2 (linkAt d l).expect] := by
  unfold askReplay
  rw [linkAt_updLink_same]
  cases hgap : (linkAt d l).gap with
  | none => exact ⟨_, _, rfl, (if_neg nofun).symm⟩
  | some g =>
    obtain ⟨e, at_⟩ := g
    dsimp only
    by_cases h : e = (linkAt d l).expect
    · rw [if_pos (beq_iff_eq.mpr h)]
      exact ⟨(linkAt d l).gap, (linkAt d l).ctrl, rfl, (if_pos (congrArg some h)).symm⟩
    · rw [if_neg (fun hc => h (beq_iff_eq.mp hc))]
      exact ⟨_, _, rfl, (if_neg (fun hc => h (Option.some.inj hc))).symm⟩

theorem linkAt_askReplay_other {l j : Nat} (d : Dev) (h : j ≠ l) : linkAt (askReplay l d) j = linkAt d j := linkAt_updLink_other _ _ h

theorem rx_askReplay (l : Nat) (d : Dev) (j : Nat) : (linkAt (askReplay l d) j).rx = (linkAt d j).rx := by
  by_cases h : j = l
  · subst h
    obtain ⟨g, c, hl, _⟩ := askReplay_eq j d
    rw [hl]
  · rw [linkAt_askReplay_other _ h]

theorem getF_askReplay (l : Nat) (d : Dev) (k lo w : Nat) : getF (askReplay l d) k lo w = getF d k lo w := rfl

theorem Apart.askReplay {b : Dev} (l : Nat) (h : Apart b d) : Apart b (askReplay l d) := ⟨h.core, h.mem⟩

/-- A violation leaves every register of a port but its counter and its state. -/
theorem getF_violate_crb {p k : Nat} (row : Nat) (d : Dev) (lo w : Nat) (hp : p < 8) (hk : crbKey k) (h4 : k ≠ kCrbPort p 4) (hC : k ≠ kCrbPort p 0xC) :
    getF (violate p row d) k lo w = getF d k lo w := by
  obtain ⟨e, hcases, _, _, _, _, hregs, _, _⟩ := violate_facts p row d hp
  rcases hcases with h | h
  · rw [h]
    cases hup : linkUp e p with
    | true => rw [(linkDown_facts p 3 true e hp (by decide) hup).regs _ _ _ hk h4, hregs _ _ _ hk hC]
    | false => rw [linkDown_not _ _ _ _ hup, getF_setF_otherReg _ _ _ _ _ _ h4, hregs _ _ _ hk hC]
  · rw [h, hregs _ _ _ hk hC]

/-- A violation while few are remembered changes the link's count of them alone. -/
theorem linkAt_violate_few {p : Nat} (row : Nat) (hp : p < 8) (hfew : (linkAt d p).viol = []) :
    ∃ v x y, linkAt (violate p row d) p = { linkAt d p with viol := v, since := x, lastEvt := y } := by
  unfold violate
  rw [linkPort_port d hp]
  extract_lets p' e now e2 st due e3
  have hlink : linkAt e p = linkAt d p := by
    dsimp only [e]
    rw [linkAt_setF, linkAt_bumpF]
  have hst : st = { linkAt d p with viol := [now], since := (linkAt d p).since + 1 } := by
    dsimp only [st, e2]
    rw [linkAt_updLink_same, hlink, hfew]
    rfl
  have hlink2 : linkAt e2 p = st := rfl
  clear_value st e2 e
  have hlen : ¬16 ≤ st.viol.length := by
    rw [hst]
    exact Nat.not_le_of_lt (by decide : 1 < 16)
  rw [if_neg hlen]
  have hlink3 : ∃ x y, linkAt e3 p = { st with since := x, lastEvt := y } := by
    dsimp only [e3]
    split
    · refine ⟨0, some now, ?_⟩
      rw [linkAt_updLink_same, linkAt_raiseEvent, hlink2]
    · exact ⟨st.since, st.lastEvt, hlink2⟩
  obtain ⟨x, y, h⟩ := hlink3
  refine ⟨[now], x, y, ?_⟩
  rw [h, hst]

/-! An accepted flit. -/

/-- The link of an accepted DATA flit before its packet. -/
def takeLink (vl : Nat) (s : LinkSt) : LinkSt :=
  { s with expect := (s.expect + 1) % 4096, gap := none, sync := none, partner := tmod 0 s.partner vl (· - 1) }

theorem rxData_gap {l : Nat} {f : List Byte} (h : fld (flitHead f) 36 12 ≠ (linkAt d l).expect) : rxData l f d = violate l 2 (askReplay l d) := by
  unfold rxData
  dsimp only
  exact if_pos (bne_iff_ne.mpr h)

theorem rxData_taken {l : Nat} {f : List Byte} (hseq : fld (flitHead f) 36 12 = (linkAt d l).expect)
    (hcred : 0 < tget 0 (linkAt d l).partner (fld (flitHead f) 57 3)) :
    rxData l f d = assemble l (fld (flitHead f) 57 3) (fld (flitHead f) 56 1 == 1) (fld (flitHead f) 55 1 == 1) (flitPayload f)
      (updLink l (takeLink (fld (flitHead f) 57 3)) d) := by
  unfold rxData
  dsimp only
  rw [if_neg (by rw [bne_iff_ne]; exact fun h => h hseq), if_neg (by rw [beq_iff_eq]; omega)]
  rfl

/-- A flit that is a whole packet. -/
theorem assemble_single {l vl : Nat} {pl : List Byte} (hpart : tget [] (linkAt d l).part vl = []) (hrow : pktRow l vl 1 pl = none) :
    assemble l vl true true pl d = updLink l (fun s => { s with rx := s.rx ++ [{ vl := vl, flits := 1, bytes := pl.take (32 + (pktOf pl).data.length) }] })
      (updLink l (fun s => { s with part := tset [] s.part vl [] }) d) := by
  unfold assemble
  dsimp only
  rw [hpart]
  change rxWhole l vl [pl] _ = _
  unfold rxWhole
  have hflat : [pl].flatten = pl := List.append_nil pl
  dsimp only
  rw [hflat, show [pl].length = 1 from rfl, hrow]

/-! Control flits. -/

theorem ctrlStep_goes {p : Fin 8} {code : Nat} {f : List Byte} (hup : nativeUp s.dev p.val = true) (hcode : ctrlCode f = some code) :
    ctrlStep p code f s = s.goes (rxCtrl p.val code f s.dev) := by
  unfold ctrlStep
  exact whenDev_go (by rw [hup, hcode]; exact beq_self_eq_true _)

/-- What a control flit's code does, after the head. -/
def onCtrl (l code : Nat) (f : List Byte) (d : Dev) : Dev :=
  match code with
  | 1 => onCredInit l f d
  | 2 => onCredSync l f d
  | 3 => onReplayReq l f d
  | 4 => if l < 8 then onTimeProbe l f d else violate l 6 d
  | 5 => if l < 8 then onTimeProbeRsp l f d else violate l 6 d
  | _ => if l < 8 then linkDown l 3 false d else tunnelDown (l - 8) d

theorem onCtrl_credInit (l : Nat) (f : List Byte) (d : Dev) : onCtrl l 1 f d = onCredInit l f d := rfl

theorem onCtrl_credSync (l : Nat) (f : List Byte) (d : Dev) : onCtrl l 2 f d = onCredSync l f d := rfl

theorem onCtrl_replayReq (l : Nat) (f : List Byte) (d : Dev) : onCtrl l 3 f d = onReplayReq l f d := rfl

theorem rxCtrl_sent {l code : Nat} {f : List Byte} (hup : linkUp d l = true) (hack : ackUnsent (linkAt d l) (fld (flitHead f) 24 12) = false) :
    rxCtrl l code f d = onCtrl l code f (updLink l (headLink f) d) := by
  unfold rxCtrl
  rw [rxHead_sent hack]
  dsimp only
  rw [if_neg (by rw [linkUp_updLink, hup]; exact Bool.false_ne_true)]
  rfl

/-- What a flit of the replay buffer that is asked for makes the port send again. -/
theorem onReplayReq_found {l n : Nat} {f : List Byte} (hn : ctrlNat f 0 2 % 4096 = n) (hseq : n ≠ (linkAt d l).seq)
    (hany : (linkAt d l).replay.any (fun x => x.seq == n) = true) :
    ∃ i, onReplayReq l f d = countReplay l (updLink l (fun s => { s with resend := s.replay.length - i }) d) ∧
      i < (linkAt d l).replay.length ∧ ((linkAt d l).replay[i]?).map (·.seq) = some n := by
  obtain ⟨i, hi⟩ : ∃ i, (linkAt d l).replay.findIdx? (fun x => x.seq == n) = some i :=
    Option.isSome_iff_exists.mp ((List.findIdx?_isSome (xs := (linkAt d l).replay)).trans hany)
  obtain ⟨hlt, hfound, _⟩ := List.findIdx?_eq_some_iff_getElem.mp hi
  refine ⟨i, ?_, hlt, ?_⟩
  · unfold onReplayReq
    rw [hn]
    dsimp only
    rw [if_neg (by rw [beq_iff_eq]; exact hseq), hi]
  · rw [List.getElem?_eq_getElem hlt]
    exact congrArg some (beq_iff_eq.mp hfound)

theorem linkAt_countReplay (l : Nat) (d : Dev) (j : Nat) : linkAt (countReplay l d) j = linkAt d j := by
  unfold countReplay
  split
  · rw [linkAt_bumpF]
  · rfl

theorem getF_countReplay {l : Nat} (d : Dev) (h : l < 8) :
    getF (countReplay l d) (kCrbPort l 8) 8 8 = min 255 (getF d (kCrbPort l 8) 8 8 + 1) := by
  unfold countReplay
  rw [if_pos h]
  exact getF_bumpF_same _ _ _ _ _ (by omega)

theorem countReplay_tunnel {l : Nat} (d : Dev) (h : 8 ≤ l) : countReplay l d = d := if_neg (by omega)

theorem onTimeProbeRsp_delay {l q : Nat} {f : List Byte} (hclean : ctrlClean f 30 = true) (hsmall : q / 32768 < 2 ^ 24)
    (hq : ((d.time.ft : Int) - (timeNat f 0 : Int)) - ((timeNat f 20 : Int) - (timeNat f 10 : Int)) = (q : Int)) :
    onTimeProbeRsp l f d = regPut (kTimHop l) (2 ^ 31 + q / 32768) d := by
  have hv : ((q : Int) / 32768).toNat = q / 32768 := by omega
  unfold onTimeProbeRsp
  dsimp only
  rw [hq, hclean, decide_eq_true (by omega : (0 : Int) ≤ q), decide_eq_true (by omega : (q : Int) / 32768 < 16777216), hv]
  rfl

/-! Sending. -/

theorem returnCredits_eq (s : LinkSt) : ∃ o p, returnCredits s = { s with owed := o, partner := p } := ⟨_, _, rfl⟩

theorem countSlot_eq (b : Bool) (s : LinkSt) : ∃ n m t, countSlot b s = { s with slots := n, stalled := m, stalls := t } := by
  unfold countSlot
  dsimp only
  split
  · exact ⟨_, s.stalled, s.stalls, rfl⟩
  · exact ⟨_, _, _, rfl⟩

/-- What sending any flit changes beside what the flit is taken from. -/
theorem countSlot_returnCredits_eq (b : Bool) (s : LinkSt) : ∃ o p n m t,
    countSlot b (returnCredits s) = { s with owed := o, partner := p, slots := n, stalled := m, stalls := t } := by
  obtain ⟨o, p, h⟩ := returnCredits_eq s
  rw [h]
  obtain ⟨n, m, t, h'⟩ := countSlot_eq b { s with owed := o, partner := p }
  exact ⟨o, p, n, m, t, h'⟩

theorem nextFlit_ctrl {now ft l : Nat} {st : LinkSt} {c : List Byte} {cs : List (List Byte)} (h : st.ctrl = c :: cs) :
    (nextFlit now ft l st).2 = countSlot false (returnCredits { st with ctrl := cs }) := by
  unfold nextFlit
  rw [h]

theorem map_setNth {α β : Type} (g : α → β) {x y : α} {i : Nat} {xs : List α} (h : xs[i]? = some y) (hg : g x = g y) :
    (setNth i x xs).map g = xs.map g := by
  induction xs generalizing i with
  | nil => cases h
  | cons z zs ih =>
    unfold setNth
    cases i with
    | zero =>
      obtain rfl : z = y := Option.some.inj h
      rw [if_pos rfl, List.map_cons, List.map_cons, hg]
    | succ n =>
      rw [if_neg (Nat.succ_ne_zero n), List.map_cons, List.map_cons, Nat.add_sub_cancel, ih h]

theorem nextFlit_again {now ft l : Nat} {st : LinkSt} (hctrl : st.ctrl = []) (hpos : 0 < st.resend) (hle : st.resend ≤ st.replay.length) :
    ∃ f, st.replay[st.replay.length - st.resend]? = some f ∧ (nextFlit now ft l st).2 = countSlot true (returnCredits { st with
      replay := setNth (st.replay.length - st.resend) { f with sentAt := now } st.replay, resend := st.resend - 1 }) := by
  have hlt : st.replay.length - st.resend < st.replay.length := by omega
  refine ⟨_, List.getElem?_eq_getElem hlt, ?_⟩
  unfold nextFlit
  rw [hctrl]
  dsimp only
  rw [if_neg (by rw [beq_iff_eq]; omega), List.getElem?_eq_getElem hlt]

theorem nextFlit_new {now ft l : Nat} {st : LinkSt} {f : TxFlit} (hctrl : st.ctrl = []) (hresend : st.resend = 0) (hsend : sendable l st = some f) :
    (nextFlit now ft l st).2 = countSlot true (returnCredits { st with
      tx := dropFirst (stampData ft { f with seq := st.seq, sentAt := now }).vl st.tx
      replay := st.replay ++ [stampData ft { f with seq := st.seq, sentAt := now }]
      seq := (st.seq + 1) % 4096
      credits := tmod 0 st.credits (stampData ft { f with seq := st.seq, sentAt := now }).vl (· - 1) }) := by
  unfold nextFlit
  rw [hctrl]
  dsimp only
  rw [if_pos (beq_iff_eq.mpr hresend)]
  dsimp only
  rw [hsend]

theorem nextFlit_idle {now ft l : Nat} {st : LinkSt} (hctrl : st.ctrl = []) (hresend : st.resend = 0) (hsend : sendable l st = none) :
    (nextFlit now ft l st).2 = countSlot false (returnCredits st) := by
  unfold nextFlit
  rw [hctrl]
  dsimp only
  rw [if_pos (beq_iff_eq.mpr hresend)]
  dsimp only
  rw [hsend]

theorem stampData_facts (ft : Nat) (f : TxFlit) : (stampData ft f).seq = f.seq ∧ (stampData ft f).vl = f.vl ∧ (stampData ft f).sentAt = f.sentAt := by
  unfold stampData
  split
  · exact ⟨rfl, rfl, rfl⟩
  · exact ⟨rfl, rfl, rfl⟩

theorem sendable_full {l : Nat} {st : LinkSt} (h : replayMax l ≤ st.replay.length) : sendable l st = none := by
  unfold sendable
  exact if_pos (by rw [decide_eq_true h, Bool.or_true])

theorem sendable_noCredit {l : Nat} {st : LinkSt} (h : ∀ f ∈ st.tx, tget 0 st.credits f.vl = 0) : sendable l st = none := by
  unfold sendable
  split
  · rfl
  · refine List.find?_eq_none.mpr fun f hf => ?_
    rw [decide_eq_true_iff, h f hf]
    exact Nat.lt_irrefl 0

theorem sendable_head {l : Nat} {st : LinkSt} {f : TxFlit} {fs : List TxFlit} (hsizes : st.sizes = true) (hroom : st.replay.length < replayMax l)
    (htx : st.tx = f :: fs) (hcred : 0 < tget 0 st.credits f.vl) : sendable l st = some f := by
  unfold sendable
  rw [hsizes, decide_eq_false (by omega), htx]
  exact List.find?_cons_of_pos (p := fun f : TxFlit => decide (0 < tget 0 st.credits f.vl)) (decide_eq_true hcred)

/-- A flit leaves. -/
def sendFlit (l : Nat) (again : Bool) (f : List Byte) (st : LinkSt) (d : Dev) : Dev :=
  if l < 8 then emit (.flit l f) (updLink l (fun _ => st) d)
  else emit (.datagram (l - 8) f) (if again then bumpF (kCrbTunnel (l - 8)) 0 16 1 (updLink l (fun _ => st) d) else updLink l (fun _ => st) d)

theorem sendFlit_facts (l : Nat) (again : Bool) (f : List Byte) (st : LinkSt) (d : Dev) :
    (sendFlit l again f st d).out = d.out ++ [if l < 8 then .flit l f else .datagram (l - 8) f] ∧ linkAt (sendFlit l again f st d) l = st ∧
      ∀ j, j ≠ l → linkAt (sendFlit l again f st d) j = linkAt d j := by
  unfold sendFlit
  by_cases h : l < 8
  · rw [if_pos h, if_pos h]
    exact ⟨rfl, by rw [linkAt_emit, linkAt_updLink_same], fun j hj => by rw [linkAt_emit, linkAt_updLink_other _ _ hj]⟩
  · rw [if_neg h, if_neg h]
    cases again with
    | false => exact ⟨rfl, by rw [linkAt_emit]; exact linkAt_updLink_same _ _ _, fun j hj => by rw [linkAt_emit]; exact linkAt_updLink_other _ _ hj⟩
    | true => exact ⟨rfl, by rw [linkAt_emit, if_pos rfl, linkAt_bumpF, linkAt_updLink_same],
        fun j hj => by rw [linkAt_emit, if_pos rfl, linkAt_bumpF, linkAt_updLink_other _ _ hj]⟩

theorem flitTransmit_goes {l : Fin 24} (h : linkLive s.dev l.val = true) : exec (.flitTransmit l) s =
    s.goes (sendFlit l.val ((linkAt s.dev l.val).ctrl.isEmpty && (linkAt s.dev l.val).resend != 0)
      (nextFlit s.dev.aclk s.dev.time.ft l.val (linkAt s.dev l.val)).1 (nextFlit s.dev.aclk s.dev.time.ft l.val (linkAt s.dev l.val)).2 s.dev) :=
  whenDev_go h

end Sys2Proof.Machine
namespace Sys2Proof.Proofs

open Sys2Proof Sys2Proof.Machine

/-- Settles O50: a received flit by its head and `violate_facts`, a sent one by the cases of `nextFlit`, a control code by `onCtrl`. -/
theorem linkLayer : Obligations.LinkLayer := by
  unfold Obligations.LinkLayer
  refine ⟨?_, ?_, ?_, ?_, ?_, ?_, ?_, ?_⟩
  · intro p f s hup hlen hbad
    have hplain : rxPlain p.val f s.dev = violate p.val 1 (askReplay p.val (bumpF (kCrbPort p.val 8) 16 16 1 s.dev)) := by
      unfold rxPlain
      rw [hbad, linkPort_port _ p.isLt]
      rfl
    have hexec := flitReceive_goes hup hlen (ctrlCode_none_of_bad hbad)
    rw [hplain] at hexec
    obtain ⟨hcore, hmem⟩ := Apart.violate p.val 1 ((Apart.refl s.dev).bumpF (kCrbPort p.val 8) 16 16 1 |>.askReplay p.val)
    refine ⟨_, hexec, fun l hl => ?_, ?_, hcore, hmem⟩
    · dsimp only [State.goes]
      rw [rx_violate _ _ _ p.isLt _ hl, rx_askReplay, linkAt_bumpF]
    · dsimp only [State.goes]
      rw [getF_violate_crb _ _ _ _ p.isLt (crbKey_port _ _ p.isLt (by decide)) (kCrbPort_ne _ (by decide)) (kCrbPort_ne _ (by decide)),
        getF_askReplay, getF_bumpF_same _ _ _ _ _ (by omega)] <;> rfl
  · intro p f s hup hlen hgood hkind st h hack
    have hexec := flitReceive_goes hup hlen (ctrlCode_none_of_kind hkind)
    rw [rxPlain_data (linkUp_of_nativeUp hup) hgood hkind hack] at hexec
    have hlink : linkAt (updLink p.val (headLink f) (updLink p.val (fun s => { s with initAt := none }) s.dev)) p.val =
        headLink f { st with initAt := none } := by
      rw [linkAt_updLink_same, linkAt_updLink_same]
    have hothers : ∀ l, l ≠ p.val →
        linkAt (updLink p.val (headLink f) (updLink p.val (fun s => { s with initAt := none }) s.dev)) l = linkAt s.dev l := fun l hl => by
      rw [linkAt_updLink_other _ _ hl, linkAt_updLink_other _ _ hl]
    have hregs : (updLink p.val (headLink f) (updLink p.val (fun s => { s with initAt := none }) s.dev)).regs = s.dev.regs := rfl
    have hmem : (updLink p.val (headLink f) (updLink p.val (fun s => { s with initAt := none }) s.dev)).mem = s.dev.mem := rfl
    obtain ⟨r, n, c, hhead⟩ := headLink_eq f { st with initAt := none }
    rw [hhead] at hlink
    generalize updLink p.val (headLink f) (updLink p.val (fun s => { s with initAt := none }) s.dev) = d at hexec hlink hothers hregs hmem
    refine ⟨fun hgap => ?_, fun hseq hcred hpart hsop heop hrow => ?_⟩
    · rw [rxData_gap (by rw [hlink]; exact hgap)] at hexec
      refine ⟨_, hexec, fun l hl => ?_, ?_, fun hviol => ?_⟩
      · dsimp only [State.goes]
        rw [rx_violate _ _ _ p.isLt _ hl, rx_askReplay]
        by_cases hlp : l = p.val
        · rw [hlp, hlink]
        · rw [hothers l hlp]
      · exact ((Apart.refl d).askReplay p.val |>.violate p.val 2).mem.trans hmem
      · obtain ⟨g, c', hask, hctrl⟩ := askReplay_eq p.val d
        rw [hlink] at hask hctrl
        obtain ⟨v, x, y, hv⟩ := linkAt_violate_few (d := askReplay p.val d) 2 p.isLt (by rw [hask]; exact hviol)
        dsimp only [State.goes]
        rw [hv, hask]
        exact ⟨rfl, hctrl⟩
    · have htake : tget [] (linkAt (updLink p.val (takeLink (fld h 57 3)) d) p.val).part (fld h 57 3) = [] := by
        rw [linkAt_updLink_same, hlink]
        exact hpart
      rw [rxData_taken (by rw [hlink]; exact hseq) (by rw [hlink]; exact hcred), beq_iff_eq.mpr hsop, beq_iff_eq.mpr heop,
        assemble_single htake hrow] at hexec
      refine ⟨_, hexec, ?_, ?_, ?_, hregs, fun l hl => ?_⟩
      · dsimp only [State.goes]
        rw [linkAt_updLink_same, linkAt_updLink_same, linkAt_updLink_same, hlink]
        rfl
      · dsimp only [State.goes]
        rw [linkAt_updLink_same, linkAt_updLink_same, linkAt_updLink_same, hlink]
        rfl
      · dsimp only [State.goes]
        rw [linkAt_updLink_same, linkAt_updLink_same, linkAt_updLink_same, hlink]
        exact tget_tmod_same 0 st.partner (fld h 57 3) (· - 1)
      · dsimp only [State.goes]
        rw [linkAt_updLink_other _ _ hl, linkAt_updLink_other _ _ hl, linkAt_updLink_other _ _ hl, hothers l hl]
  · intro l s hlive st
    obtain ⟨hout, hlink, hothers⟩ := sendFlit_facts l.val (st.ctrl.isEmpty && st.resend != 0) (nextFlit s.dev.aclk s.dev.time.ft l.val st).1
      (nextFlit s.dev.aclk s.dev.time.ft l.val st).2 s.dev
    refine ⟨_, flitTransmit_goes hlive, hout, hothers, fun c cs hctrl => ?_, fun hctrl hpos hle => ?_, fun hctrl hres hfull => ?_,
      fun hctrl hres hnone => ?_, fun f fs hctrl hres hsizes hroom htx hcred => ?_⟩
    · obtain ⟨o, q, n, m, t, hc⟩ := countSlot_returnCredits_eq false { st with ctrl := cs }
      have hst := (hlink.trans (nextFlit_ctrl hctrl)).trans hc
      dsimp only [State.goes]
      rw [hst]
      exact ⟨rfl, rfl, rfl, rfl⟩
    · obtain ⟨f, hf, hnext⟩ := nextFlit_again (now := s.dev.aclk) (ft := s.dev.time.ft) (l := l.val) hctrl hpos hle
      obtain ⟨o, q, n, m, t, hc⟩ := countSlot_returnCredits_eq true { st with
        replay := setNth (st.replay.length - st.resend) { f with sentAt := s.dev.aclk } st.replay, resend := st.resend - 1 }
      have hst := (hlink.trans hnext).trans hc
      dsimp only [State.goes]
      rw [hst]
      exact ⟨rfl, map_setNth (x := { f with sentAt := s.dev.aclk }) (fun f => (f.seq, f.payload)) hf rfl, rfl, rfl⟩
    · obtain ⟨o, q, n, m, t, hc⟩ := countSlot_returnCredits_eq false st
      have hst := (hlink.trans (nextFlit_idle hctrl hres (sendable_full hfull))).trans hc
      dsimp only [State.goes]
      rw [hst]
      exact ⟨rfl, rfl, rfl⟩
    · obtain ⟨o, q, n, m, t, hc⟩ := countSlot_returnCredits_eq false st
      have hst := (hlink.trans (nextFlit_idle hctrl hres (sendable_noCredit hnone))).trans hc
      dsimp only [State.goes]
      rw [hst]
      exact ⟨rfl, rfl, rfl⟩
    · obtain ⟨hseq, hvl, hat⟩ := stampData_facts s.dev.time.ft { f with seq := st.seq, sentAt := s.dev.aclk }
      have hnext := nextFlit_new (now := s.dev.aclk) (ft := s.dev.time.ft) (l := l.val) hctrl hres (sendable_head hsizes hroom htx hcred)
      rw [hvl] at hnext
      obtain ⟨o, q, n, m, t, hc⟩ := countSlot_returnCredits_eq true { st with
        tx := dropFirst f.vl st.tx
        replay := st.replay ++ [stampData s.dev.time.ft { f with seq := st.seq, sentAt := s.dev.aclk }]
        seq := (st.seq + 1) % 4096
        credits := tmod 0 st.credits f.vl (· - 1) }
      have hst := (hlink.trans hnext).trans hc
      dsimp only [State.goes]
      rw [hst]
      refine ⟨?_, rfl, tget_tmod_same 0 st.credits f.vl (· - 1), _, rfl, hseq, hvl, hat⟩
      dsimp only
      rw [htx]
      exact if_pos (beq_self_eq_true _)
  · intro p f s hup st n hack
    have hlink : linkAt (updLink p.val (headLink f) s.dev) p.val = headLink f st := linkAt_updLink_same _ _ _
    have hctrl := fun code => rxCtrl_sent (code := code) (linkUp_of_nativeUp hup) hack
    obtain ⟨r, m, c, hhead⟩ := headLink_eq f st
    refine ⟨fun hc => ?_, fun hc => ?_, fun hc hseq hany => ?_, fun hc hclean => ?_, fun q hc hclean hsmall hq => ?_, fun hc => ?_⟩
    · have hexec : exec (.credInit p f) s = s.goes (rxCtrl p.val 1 f s.dev) := ctrlStep_goes hup hc
      rw [hctrl 1, onCtrl_credInit] at hexec
      refine ⟨_, hexec, ?_, rfl, fun hsizes => ?_⟩
      · dsimp only [State.goes]
        unfold onCredInit
        rw [linkAt_updLink_same]
        split
        · assumption
        · rfl
      · dsimp only [State.goes]
        unfold onCredInit
        rw [linkAt_updLink_same, hlink, hhead, if_neg (by dsimp only; rw [hsizes]; exact Bool.false_ne_true)]
    · have hexec : exec (.credSync p f) s = s.goes (rxCtrl p.val 2 f s.dev) := ctrlStep_goes hup hc
      rw [hctrl 2, onCtrl_credSync] at hexec
      refine ⟨_, hexec, ?_, rfl⟩
      dsimp only [State.goes]
      unfold onCredSync
      rw [linkAt_updLink_same]
    · have hexec : exec (.replayReq p f) s = s.goes (rxCtrl p.val 3 f s.dev) := ctrlStep_goes hup hc
      have hreplay : (linkAt (updLink p.val (headLink f) s.dev) p.val).replay = (ackLink (fld (flitHead f) 24 12) st).replay := by
        rw [hlink]
        rfl
      have hseq' : n ≠ (linkAt (updLink p.val (headLink f) s.dev) p.val).seq := by
        rw [hlink, hhead]
        exact hseq
      obtain ⟨i, hfound, hlt, hi⟩ := onReplayReq_found (d := updLink p.val (headLink f) s.dev) (n := n) rfl hseq' (by rw [hreplay]; exact hany)
      rw [hctrl 3, onCtrl_replayReq] at hexec
      refine ⟨_, hexec, ?_, ?_, ?_⟩
      · dsimp only [State.goes]
        rw [hfound, linkAt_countReplay, linkAt_updLink_same]
        exact hreplay
      · dsimp only [State.goes]
        rw [hfound, linkAt_countReplay, linkAt_updLink_same]
        dsimp only
        rw [Nat.sub_sub_self (Nat.le_of_lt hlt), List.head?_drop]
        exact hi
      · dsimp only [State.goes]
        rw [hfound, getF_countReplay _ p.isLt, getF_updLink, getF_updLink]
    · have hexec : exec (.timeProbe p f) s = s.goes (rxCtrl p.val 4 f s.dev) := ctrlStep_goes hup hc
      rw [hctrl 4] at hexec
      have hprobe : onCtrl p.val 4 f (updLink p.val (headLink f) s.dev) = updLink p.val
          (fun st => { st with ctrl := st.ctrl ++ [leBytes 1 5 ++ slice f 9 10 ++ timeBytes s.dev.time.ft] }) (updLink p.val (headLink f) s.dev) :=
        (if_pos p.isLt).trans (if_pos hclean)
      rw [hprobe] at hexec
      refine ⟨_, hexec, ?_, rfl⟩
      dsimp only [State.goes]
      rw [linkAt_updLink_same, hlink, hhead]
    · have hexec : exec (.timeProbeRsp p f) s = s.goes (rxCtrl p.val 5 f s.dev) := ctrlStep_goes hup hc
      have hrsp : onCtrl p.val 5 f (updLink p.val (headLink f) s.dev) = regPut (kTimHop p.val) (2 ^ 31 + q / 32768) (updLink p.val (headLink f) s.dev) :=
        (if_pos p.isLt).trans (onTimeProbeRsp_delay hclean hsmall hq)
      rw [hctrl 5, hrsp] at hexec
      refine ⟨_, hexec, ?_, fun k hk => ?_⟩
      · dsimp only [State.goes]
        rw [regVal_regPut_same]
        omega
      · dsimp only [State.goes]
        rw [regVal_regPut_other _ _ hk, regVal_updLink]
    · have hexec : exec (.downNotice p f) s = s.goes (rxCtrl p.val 6 f s.dev) := ctrlStep_goes hup hc
      have hdown : onCtrl p.val 6 f (updLink p.val (headLink f) s.dev) = linkDown p.val 3 false (updLink p.val (headLink f) s.dev) := if_pos p.isLt
      rw [hctrl 6, hdown] at hexec
      obtain ⟨hstate, hevent, _, hdead, _, _⟩ := linkDown_facts p.val 3 false (updLink p.val (headLink f) s.dev) p.isLt (by decide)
        ((linkUp_updLink _ _ _ _).trans (linkUp_of_nativeUp hup))
      exact ⟨_, hexec, hstate, hevent, congrArg LinkSt.replay hdead, congrArg LinkSt.tx hdead⟩
  · intro l s f fs hlive hreplay hlate hres
    have hexec : exec (.replayTimeout l) s =
        s.goes (countReplay l.val (updLink l.val (fun st => { st with resend := st.replay.length }) s.dev)) :=
      whenDev_go (by
        rw [hlive, hreplay]
        dsimp only [List.head?]
        rw [decide_eq_true hlate, List.length_cons, decide_eq_true (by omega)]
        rfl)
    refine ⟨_, hexec, ?_, fun j hj => ?_, fun hl => ?_, fun hl => ?_⟩
    · dsimp only [State.goes]
      rw [linkAt_countReplay, linkAt_updLink_same, hreplay]
      rfl
    · dsimp only [State.goes]
      rw [linkAt_countReplay, linkAt_updLink_other _ _ hj]
    · dsimp only [State.goes]
      rw [getF_countReplay _ hl, getF_updLink]
    · dsimp only [State.goes]
      rw [countReplay_tunnel _ hl, updLink_regs]
  · intro l s at_ hlive hinit hlate
    have hexec : exec (.credInitResend l) s = s.goes (updLink l.val
        (fun st => { st with initAt := some s.dev.aclk, ctrl := st.ctrl ++ [credPayload 1 (bufSizes l.val)] }) s.dev) :=
      whenDev_go (by
        rw [hlive, hinit]
        exact decide_eq_true hlate)
    exact ⟨_, hexec, linkAt_updLink_same _ _ _, rfl⟩
  · intro l s e at_ hlive hgap hlate hsync
    have hg : overdue s.dev.aclk ((linkAt s.dev l.val).gap.map (·.2)) = true := by
      rw [hgap]
      exact decide_eq_true hlate
    have hexec : exec (.ctrlResendTimeout l) s = s.goes (updLink l.val (fun st => { st with
        gap := some (st.expect, s.dev.aclk), ctrl := st.ctrl ++ [leBytes 1 3 ++ leBytes 2 st.expect] }) s.dev) := by
      change execCtrlResendTimeout l s = _
      unfold execCtrlResendTimeout
      dsimp only
      rw [hg, hsync]
      exact whenDev_go (by rw [hlive]; rfl)
    exact ⟨_, hexec, linkAt_updLink_same _ _ _, rfl⟩
  · intro l s at_ hlive hgap hsync hlate
    have hy : overdue s.dev.aclk (linkAt s.dev l.val).sync = true := by
      rw [hsync]
      exact decide_eq_true hlate
    have hexec : exec (.ctrlResendTimeout l) s = s.goes (updLink l.val (fun st => { st with
        sync := some s.dev.aclk, ctrl := st.ctrl ++ [credPayload 2 st.partner] }) s.dev) := by
      change execCtrlResendTimeout l s = _
      unfold execCtrlResendTimeout
      dsimp only
      rw [hy, hgap]
      exact whenDev_go (by rw [hlive]; rfl)
    exact ⟨_, hexec, linkAt_updLink_same _ _ _, rfl⟩

end Sys2Proof.Proofs
end

section
/-! SUPPORT. Time messages, probes and tunnels (R310, R347, R349, R352). -/

namespace Sys2Proof.Machine

variable {s : State} {b d : Dev}

/-! A TIME message leaves. -/

theorem length_pktBytes (p : Pkt) : (pktBytes p).length = 32 + p.data.length := by
  unfold pktBytes
  simp only [List.length_append, length_leBytes]

theorem length_timeMsg (d : Dev) : (timeMsg d).length = 32 := by
  unfold timeMsg timeBytes
  simp only [List.length_append, length_leBytes]

/-- The flit of a packet that fits in one. -/
def oneFlit (vl : Nat) (bs : List Byte) : TxFlit :=
  { vl := vl, sop := true, eop := true, payload := bs.take 244 ++ List.replicate (244 - (bs.take 244).length) 0 }

/-- A message of one flit on the lane of TIME messages. -/
theorem queuePkt_time {p : Pkt} (l cls : Nat) (d : Dev) (htype : p.type = 0x20) (hlen : p.data.length = 32) :
    ∃ f, queuePkt l cls p d = updLink l (fun st => { st with tx := st.tx ++ [f] }) d ∧ f.vl = 6 ∧ f.sop = true ∧ f.eop = true := by
  have hone : ceilDiv (pktBytes p).length 244 = 1 := by
    rw [length_pktBytes, hlen]
    rfl
  refine ⟨oneFlit 6 (pktBytes p), ?_, rfl, rfl, rfl⟩
  unfold queuePkt
  dsimp only
  rw [htype, hone]
  rfl

/-! A TIME message arrives. -/

/-- What the time sources and the servo leave alone. -/
structure TimeOnly (b d : Dev) : Prop where
  crb : d.crb = b.crb
  mem : d.mem = b.mem
  core : d.core = b.core
  adverts : d.time.adverts = b.time.adverts

theorem TimeOnly.refl (d : Dev) : TimeOnly d d := ⟨rfl, rfl, rfl, rfl⟩

theorem TimeOnly.trans {c : Dev} (h : TimeOnly b c) (g : TimeOnly c d) : TimeOnly b d :=
  ⟨g.crb.trans h.crb, g.mem.trans h.mem, g.core.trans h.core, g.adverts.trans h.adverts⟩

theorem TimeOnly.ofHost (h : HostOnly b d) : TimeOnly b d := ⟨h.crb, h.mem, h.core, congrArg TimeGrp.adverts h.time⟩

theorem timeOnly_setTimeState (v : Nat) (d : Dev) : TimeOnly d (setTimeState v d) := .ofHost (hostOnly_setF _ _ _ _ d)

theorem timeOnly_loseSource (d : Dev) : TimeOnly d (loseSource d) := by
  unfold loseSource
  extract_lets t e
  have he : TimeOnly d e := ⟨rfl, rfl, rfl, rfl⟩
  split
  · exact (he.trans (.ofHost (hostOnly_raiseEvent _ _ _ _ e))).trans (timeOnly_setTimeState _ _)
  · split
    · exact he.trans (timeOnly_setTimeState _ _)
    · exact he

theorem timeOnly_reselect (d : Dev) : TimeOnly d (reselect d) := by
  unfold reselect
  extract_lets c g cls moved e e2 e3 src
  have he : TimeOnly d e := by
    dsimp only [e]
    split
    · exact timeOnly_loseSource d
    · exact .refl d
  have he2 : TimeOnly e e2 := .ofHost ((hostOnly_setF _ _ _ _ e).trans (hostOnly_setF _ _ _ _ _))
  have he3 : TimeOnly e2 e3 := .ofHost (hostOnly_regPut _ _ e2)
  have h : TimeOnly d e3 := (he.trans he2).trans he3
  clear_value e3
  exact ⟨h.crb, h.mem, h.core, h.adverts⟩

theorem timeOnly_stepTime (off : Int) (d : Dev) : TimeOnly d (stepTime off d) := by
  unfold stepTime
  extract_lets e
  have h : TimeOnly d e := .ofHost ((hostOnly_bumpF _ _ _ _ d).trans (hostOnly_setF _ _ _ _ _))
  clear_value e
  exact ⟨h.crb, h.mem, h.core, h.adverts⟩

/-- The count of invalid samples. -/
theorem timeOnly_counted (bad run : Nat) (h : TimeOnly b d) : TimeOnly b { d with time.bad := bad, time.run := run } :=
  ⟨h.crb, h.mem, h.core, h.adverts⟩

theorem timeOnly_badSample (src : Nat) (off : Int) (only : Bool) (d : Dev) : TimeOnly d (badSample src off only d) := by
  have he : TimeOnly d (raiseEvent 0x07 6 0 [src, satInt32 off] (bumpF kTimAnomaly 16 16 1 d)) :=
    .ofHost ((hostOnly_bumpF _ _ _ _ d).trans (hostOnly_raiseEvent _ _ _ _ _))
  unfold badSample
  obtain ⟨e, h⟩ : ∃ e, raiseEvent 0x07 6 0 [src, satInt32 off] (bumpF kTimAnomaly 16 16 1 d) = e := ⟨_, rfl⟩
  rw [h] at he ⊢
  extract_lets n
  split
  · exact (timeOnly_counted 0 0 he).trans (timeOnly_stepTime off { e with time.bad := 0, time.run := 0 })
  · exact timeOnly_counted _ 0 he

theorem timeOnly_goodSample (off : Int) (within_ : Bool) (d : Dev) : TimeOnly d (goodSample off within_ d) := by
  unfold goodSample
  extract_lets near e run t e2 locked
  have he : TimeOnly d e := .ofHost (hostOnly_regPut _ _ d)
  have he2 : TimeOnly d e2 := he.trans ⟨rfl, rfl, rfl, rfl⟩
  clear_value e2
  split
  · split
    · have hl : TimeOnly d locked := he2.trans (timeOnly_setTimeState _ _)
      split
      · exact hl.trans (timeOnly_stepTime _ _)
      · exact hl
    · exact he2
  · exact he2
  · exact he2.trans ((⟨rfl, rfl, rfl, rfl⟩ : TimeOnly e2 { e2 with time.run := if near then 1 else 0 }).trans (timeOnly_setTimeState _ _))

theorem timeOnly_takeSample (src : Nat) (off : Int) (within_ : Bool) (d : Dev) : TimeOnly d (takeSample src off within_ d) := by
  unfold takeSample
  split
  · exact timeOnly_badSample _ _ _ d
  · exact timeOnly_goodSample _ _ d

/-- A good TIME message notes its advertisement. -/
theorem timeOnly_onTime (port : Nat) (within_ : Bool) (p : Pkt) (d : Dev) :
    TimeOnly { d with time.adverts := tset none d.time.adverts port (some (advertOf d.aclk p)) } (onTime port within_ p d) := by
  unfold onTime
  extract_lets e hop ft off
  have he := timeOnly_reselect { d with time.adverts := tset none d.time.adverts port (some (advertOf d.aclk p)) }
  split
  · exact he.trans (timeOnly_takeSample _ _ _ _)
  · exact he

/-! Taking a packet. -/

/-- A packet taken from a link leaves the others in its list, and nothing outside the links changes. -/
theorem popRx_facts {l : Nat} {r : RxPkt} {rs : List RxPkt} (h : (linkAt d l).rx = r :: rs) :
    ∃ L, popRx l d = { d with crb.links := L } ∧ (tget {} L l).rx = rs := by
  unfold popRx
  rw [rxHeadPkt_of_rx h]
  dsimp only
  have hrx : (linkAt (updLink l (fun s => { s with rx := s.rx.drop 1 }) d) l).rx = rs := by
    rw [linkAt_updLink_same, h]
    rfl
  split
  · refine ⟨_, rfl, ?_⟩
    exact (congrArg LinkSt.rx (tget_tmod_same _ _ _ _)).trans hrx
  · exact ⟨_, rfl, hrx⟩

/-! Tunnels. -/

/-- A tunnel takes a datagram of one flit. -/
def tunnelTake (l t : Nat) (b : List Byte) (d : Dev) : Dev :=
  let d := if linkUp d l then d else updLink l (freshLink d.aclk l) (setF (kCrbTunnel t) 30 1 1 d)
  forEach (cutFlits (b.length / 256) b) (rxTunnel l) (updLink l (fun s => { s with heard := d.aclk }) d)

/-- What a tunnel does with a datagram. -/
def tunnelGot (l t p : Nat) (good : Bool) (b : List Byte) (d : Dev) : Dev :=
  if good && (b.length % 256 == 0 && within 256 1024 b.length) then tunnelTake l t b d else bumpF (kCrbPort p 8) 0 8 1 d

theorem tunnelDatagram_goes {k : Fin 16} {good : Bool} {bs : List Byte} (hen : getF s.dev (kCrbTunnel k.val) 31 1 = 1)
    (hup : ethUp s.dev (linkPort s.dev (8 + k.val)) = true) :
    exec (.tunnelDatagram k good bs) s = s.goes (tunnelGot (8 + k.val) k.val (linkPort s.dev (8 + k.val)) good bs s.dev) :=
  whenDev_go (by rw [hen, hup]; rfl)

theorem tunnelGot_good {l t p : Nat} {bs : List Byte} (hlen : bs.length = 256) : tunnelGot l t p true bs d = tunnelTake l t bs d := by
  unfold tunnelGot
  rw [hlen]
  rfl

theorem tunnelTake_first {l t : Nat} {bs : List Byte} (hlen : bs.length = 256) (hdown : linkUp d l = false) : tunnelTake l t bs d =
    rxTunnel l (bs.take 256) (updLink l (fun s => { s with heard := d.aclk }) (updLink l (freshLink d.aclk l) (setF (kCrbTunnel t) 30 1 1 d))) := by
  unfold tunnelTake
  dsimp only
  rw [hlen, hdown, if_neg Bool.false_ne_true, updLink_aclk, setF_aclk]
  rfl

theorem tunnelTake_next {l t : Nat} {bs : List Byte} (hlen : bs.length = 256) (hup : linkUp d l = true) : tunnelTake l t bs d =
    rxTunnel l (bs.take 256) (updLink l (fun s => { s with heard := d.aclk }) d) := by
  unfold tunnelTake
  dsimp only
  rw [hlen, hup, if_pos rfl]
  rfl

/-- A tunnel that has gone down is not up. -/
theorem linkUp_tunnelDown (t : Nat) (d : Dev) : linkUp (tunnelDown t d) (8 + t) = false := by
  unfold linkUp tunnelDown
  rw [if_neg (by omega), Nat.add_sub_cancel_left, getF_updLink, getF_setF_same _ _ _ _ _ (by omega)]
  rfl

end Sys2Proof.Machine

namespace Sys2Proof.Proofs

open Sys2Proof Sys2Proof.Machine

/-- Settles O51: a TIME message's advertisement by `timeOnly_onTime`, a tunnel's datagram by `tunnelTake_first` and `tunnelTake_next`. -/
theorem timeMessagesAndTunnels : Obligations.TimeMessagesAndTunnels := by
  unfold Obligations.TimeMessagesAndTunnels
  refine ⟨?_, ?_, ?_, ?_, ?_⟩
  · intro p s hup hdue
    have hexec : exec (.timeProbeSend p) s = s.goes (updLink p.val
        (fun st => { st with probeAt := some s.dev.aclk, ctrl := st.ctrl ++ [leBytes 1 4 ++ timeBytes 0] }) s.dev) :=
      whenDev_go (by rw [hup, hdue]; rfl)
    exact ⟨_, hexec, linkAt_updLink_same _ _ _, rfl⟩
  · intro p s hup hdue
    have hexec : exec (.timeMessageSend p) s = s.goes (queuePkt p.val 0 (hopPkt s.dev 0x20 (timeMsg s.dev))
        (updLink p.val (fun st => { st with timeAt := some s.dev.aclk }) s.dev)) :=
      whenDev_go (by rw [hup, hdue]; rfl)
    obtain ⟨f, hq, hvl, hsop, heop⟩ := queuePkt_time (p := hopPkt s.dev 0x20 (timeMsg s.dev)) p.val 0
      (updLink p.val (fun st => { st with timeAt := some s.dev.aclk }) s.dev) rfl (length_timeMsg s.dev)
    rw [hq] at hexec
    refine ⟨_, f, hexec, ?_, hvl, hsop, heop, rfl⟩
    dsimp only [State.goes]
    rw [linkAt_updLink_same, linkAt_updLink_same]
  · intro p w s r rs hrx htype
    have hexec : exec (.time p w) s = s.goes (if timeMsgOk (pktOf r.bytes) then onTime p.val w (pktOf r.bytes) (popRx p.val s.dev)
        else violate p.val 10 (badSample 3 0 false (popRx p.val s.dev))) :=
      pktStep_go p.val 0x20 (fun _ q d => if timeMsgOk q then onTime p.val w q d else violate p.val 10 (badSample 3 0 false d)) s r rs hrx htype
    refine ⟨fun hbad => ?_, fun hok => ?_⟩
    · rw [hexec, hbad, if_neg Bool.false_ne_true]
    · rw [hok, if_pos rfl] at hexec
      obtain ⟨L, hpop, hrest⟩ := popRx_facts hrx
      rw [hpop] at hexec
      obtain ⟨hcrb, hmem, hcore, hadv⟩ := timeOnly_onTime p.val w (pktOf r.bytes) { s.dev with crb.links := L }
      refine ⟨_, hexec, ?_, ?_, fun q hq => ?_, hmem, hcore⟩
      · exact (congrArg LinkSt.rx (linkAt_crb hcrb p.val)).trans hrest
      · dsimp only [State.goes]
        rw [hadv, tget_tset_same]
      · dsimp only [State.goes]
        rw [hadv, tget_tset_other _ _ _ hq]
  · intro k good bs s hen hup
    have hexec := tunnelDatagram_goes (good := good) (bs := bs) hen hup
    refine ⟨fun hbad => ?_, fun hgood hlen hdown => ?_, fun hgood hlen hlive => ?_⟩
    · have hdrop : tunnelGot (8 + k.val) k.val (linkPort s.dev (8 + k.val)) good bs s.dev =
          bumpF (kCrbPort (linkPort s.dev (8 + k.val)) 8) 0 8 1 s.dev := by
        refine if_neg ?_
        rw [Bool.and_eq_true, Bool.and_eq_true, beq_iff_eq]
        rintro ⟨hg, hl, hw⟩
        unfold within at hw
        rw [Bool.and_eq_true, decide_eq_true_iff, decide_eq_true_iff] at hw
        rcases hbad with h | h | h
        · rw [h] at hg
          exact Bool.false_ne_true hg
        · exact h hl
        · exact absurd hw.2 (Nat.not_le_of_lt h)
      rw [hdrop] at hexec
      exact ⟨_, hexec, getF_bumpF_same _ _ _ _ _ (by omega), congrArg (fun e => { s with dev := e }) (bumpF_eq _ _ _ _ s.dev)⟩
    · rw [hexec, hgood, tunnelGot_good hlen, tunnelTake_first hlen hdown]
    · rw [hexec, hgood, tunnelGot_good hlen, tunnelTake_next hlen hlive]
  · intro k s hup hquiet
    have hexec : exec (.tunnelTimeout k) s = s.goes (tunnelDown k.val s.dev) := whenDev_go (by rw [hup, decide_eq_true hquiet]; rfl)
    refine ⟨_, hexec, ?_, ?_, fun j hj => ?_, fun x hx => ?_⟩
    · exact linkUp_tunnelDown k.val s.dev
    · dsimp only [State.goes]
      unfold tunnelDown
      rw [linkAt_updLink_same, linkAt_setF]
    · dsimp only [State.goes]
      unfold tunnelDown
      rw [linkAt_updLink_other _ _ hj, linkAt_setF]
    · dsimp only [State.goes]
      unfold tunnelDown
      rw [regVal_updLink, regVal_setF_other _ _ _ _ hx]

end Sys2Proof.Proofs
end

section
/-! SUPPORT. Transport requests and answers, multicast and snapshots (R319, R334, R335, R338, R339). -/

namespace Sys2Proof.Machine

variable {s : State} {b d : Dev}

/-! What sending a packet changes. -/

theorem selfPkt_eq (p : Pkt) (d : Dev) : ∃ L, selfPkt p d = { d with crb.links := L } := ⟨_, rfl⟩

theorem queuePkt_eq (l cls : Nat) (p : Pkt) (d : Dev) : ∃ L, queuePkt l cls p d = { d with crb.links := L } := ⟨_, rfl⟩

theorem sendPlain_eq (p : Pkt) (d : Dev) : ∃ r L, sendPlain p d = { d with regs := r, crb.links := L } := by
  unfold sendPlain
  split
  · exact ⟨d.regs, selfPkt_eq p d⟩
  · split
    · exact ⟨d.regs, queuePkt_eq _ 0 p d⟩
    · exact ⟨_, d.crb.links, bumpF_eq _ _ _ _ d⟩

theorem sendPkt_eq (cls : Nat) (p : Pkt) (d : Dev) : ∃ r L, sendPkt cls p d = { d with regs := r, crb.links := L } := by
  unfold sendPkt
  split
  · exact ⟨d.regs, selfPkt_eq p d⟩
  · split
    · exact ⟨d.regs, queuePkt_eq _ cls p d⟩
    · extract_lets e
      have he : e = { d with regs := e.regs } := bumpF_eq _ _ _ _ d
      clear_value e
      split
      · exact ⟨e.regs, d.crb.links, he⟩
      · obtain ⟨r, L, h⟩ := sendPlain_eq (nakOf e 0x03 p) e
        rw [h, he]
        exact ⟨r, L, rfl⟩

/-- An answer is remembered last. -/
theorem giveAnswer_eq (p a : Pkt) (d : Dev) : ∃ r L keep, giveAnswer p a d = { d with regs := r, crb := { d.crb with
    links := L, seen := keep ++ [{ src := p.src, tag := p.tag, at_ := nowNs d, answer := pktBytes a }] } } := by
  unfold giveAnswer
  obtain ⟨r, L, h⟩ := sendPlain_eq a { d with crb.seen := d.crb.seen.filter (fun x => decide (nowNs d < x.at_ + seenNs d) && !(x.src == p.src && x.tag == p.tag)) ++
    [{ src := p.src, tag := p.tag, at_ := nowNs d, answer := pktBytes a }] }
  exact ⟨r, L, _, h⟩

/-! What a request and an answer do. -/

theorem devWrite_core (a : Nat) (bs : List Byte) (d : Dev) : (devWrite a bs d).core = d.core := by
  unfold devWrite
  dsimp only
  split <;> rfl

theorem rdMem_devWrite {bs : List Byte} {n : Nat} (h : bs.length = n) (a : Nat) (d : Dev) : rdMem (devWrite a bs d) a n = bs := by
  unfold devWrite
  dsimp only
  exact rdMem_wrMem_length h a _

theorem mem_devWrite {a x : Nat} {bs : List Byte} (d : Dev) (h : x < a ∨ a + bs.length ≤ x) : tget 0 (devWrite a bs d).mem x = tget 0 d.mem x := by
  unfold devWrite
  dsimp only
  rw [mem_wrMem, if_neg (by omega)]
  split <;> rfl

/-- What a good PUT writes and posts. -/
def putEffect (p : Pkt) (d : Dev) : Dev :=
  if postEn p then semPost (postCore p) (postQ p) 1 (devWrite p.addr p.data d) else devWrite p.addr p.data d

theorem serve_put {p : Pkt} (h : p.type = 1) (d : Dev) : serve p d = giveAnswer p (answerPkt (putEffect p d) 8 [] p) (putEffect p d) := by
  unfold serve
  rw [h]
  rfl

theorem serve_get {p : Pkt} (h : p.type = 2) (d : Dev) :
    serve p d = giveAnswer p (answerPkt d 0x0A (unitBytes d p.addr p.len) p) (drawFree d) := by
  unfold serve
  rw [h]
  rfl

theorem serve_signal {p : Pkt} (h : p.type = 3) (d : Dev) :
    serve p d = giveAnswer p (answerPkt d 8 [] p) (semPost (postCore p) (postQ p) p.addr d) := by
  unfold serve
  rw [h]
  rfl

theorem mem_putEffect (p : Pkt) (d : Dev) : (putEffect p d).mem = (devWrite p.addr p.data d).mem := by
  unfold putEffect
  split
  · rw [semPost_mem]
  · rfl

theorem semGet_putEffect {p : Pkt} (h : postEn p = true) (d : Dev) :
    semGet (putEffect p d) (postCore p) (postQ p) = min 65535 (semGet d (postCore p) (postQ p) + 1) := by
  unfold putEffect
  rw [if_pos h, semGet_semPost_same]
  unfold semGet
  rw [devWrite_core]

theorem core_putEffect {p : Pkt} (h : postEn p = false) (d : Dev) : (putEffect p d).core = d.core := by
  unfold putEffect
  rw [if_neg (by rw [h]; exact Bool.false_ne_true), devWrite_core]

/-- A post leaves every other semaphore. -/
theorem sems_semPost_other {c q k : Nat} (n : Nat) (d : Dev) (h : k ≠ semKey c q) : tget 0 (semPost c q n d).core.sems k = tget 0 d.core.sems k := by
  unfold semPost
  dsimp only
  split
  · exact tget_tset_other 0 d.core.sems (min 65535 65535) h
  · exact tget_tset_other 0 d.core.sems (min 65535 (semGet d c q + n)) h

/-! Routing to this device. -/

theorem routed_here {f : Pkt → Dev → Dev} {r : RxPkt} {p : Pkt} (h : p.dst = ownId d) : routed f r p d = f p d := by
  unfold routed
  exact if_pos (beq_iff_eq.mpr h)

/-- A request for this device while no snapshot runs. -/
theorem takeReq_free {p : Pkt} (h : d.crb.snap = none) : takeReq p d = applyReq p d := by
  unfold takeReq
  rw [h]

theorem takeReq_held {p : Pkt} {n : Snap} (h : d.crb.snap = some n) (hjob : p.job = n.fabric) (hne : p.job ≠ 0) (ht : n.t ≤ p.time) :
    takeReq p d = { d with crb.heldPkts := d.crb.heldPkts ++ [{ vl := 0, flits := 0, bytes := pktBytes p }] } := by
  unfold takeReq
  rw [h]
  dsimp only
  rw [if_pos (by rw [Bool.and_eq_true, bne_iff_ne, beq_iff_eq]; exact ⟨hne, hjob⟩), if_neg (by omega)]

theorem applyReq_seen {p : Pkt} {a : List Byte} (h : seenAnswer d p = some a) : applyReq p d = sendPlain (pktOf a) d := by
  unfold applyReq
  rw [h]

theorem applyReq_good {p : Pkt} (h : seenAnswer d p = none) (hn : nakCode d p = 0) : applyReq p d = serve p d := by
  unfold applyReq
  rw [h]
  exact if_pos (beq_iff_eq.mpr hn)

theorem applyReq_bad {p : Pkt} (h : seenAnswer d p = none) (hn : nakCode d p ≠ 0) : applyReq p d = giveAnswer p (nakOf d (nakCode d p) p) d := by
  unfold applyReq
  rw [h]
  exact if_neg (fun hc => hn (beq_iff_eq.mp hc))

/-! Links do not bear on a request. -/

theorem nakCode_links (d : Dev) (L : Tbl LinkSt) (p : Pkt) : nakCode { d with crb.links := L } p = nakCode d p := rfl

theorem seenAnswer_links (d : Dev) (L : Tbl LinkSt) (p : Pkt) : seenAnswer { d with crb.links := L } p = seenAnswer d p := rfl

theorem unitBytes_links (d : Dev) (L : Tbl LinkSt) (a n : Nat) : unitBytes { d with crb.links := L } a n = unitBytes d a n := rfl

theorem answered_links (d : Dev) (L : Tbl LinkSt) (p : Pkt) : answered { d with crb.links := L } p = answered d p := rfl

theorem ownId_links (d : Dev) (L : Tbl LinkSt) : ownId { d with crb.links := L } = ownId d := rfl

/-! Answers. -/

theorem onAnswer_none {p : Pkt} (h : answered d p = none) : onAnswer p d = d := by
  unfold onAnswer
  rw [h]

theorem onAnswer_ack {p : Pkt} {q : XReq} (h : answered d p = some q) (ht : p.type = 8) (hq : (pktOf q.packet).type ≠ 2) :
    onAnswer p d = endOne q (.ok []) d := by
  unfold onAnswer
  rw [h]
  dsimp only
  rw [ht]
  exact if_neg (fun hc => hq (beq_iff_eq.mp hc))

theorem onAnswer_nak {p : Pkt} {q : XReq} (h : answered d p = some q) (ht : p.type = 9) :
    onAnswer p d = endOne q (.failed (nakStatus p.status) q.addr) d := by
  unfold onAnswer
  rw [h]
  dsimp only
  rw [ht]
  rfl

theorem onAnswer_getRsp {p : Pkt} {q : XReq} (h : answered d p = some q) (ht : p.type = 0x0A) (hq : (pktOf q.packet).type = 2)
    (hlen : p.len = (pktOf q.packet).len) : onAnswer p d = endOne q (.ok p.data) d := by
  unfold onAnswer
  rw [h]
  dsimp only
  rw [ht]
  exact if_pos (by rw [hq, hlen, beq_self_eq_true, beq_self_eq_true]; rfl)

/-! A request without an answer. -/

/-- A request is sent again. -/
def resendReq (dst tag now : Nat) (x : XReq) : XReq := if x.tag == tag && x.dst == dst then { x with sentAt := now, resent := x.resent + 1 } else x

theorem resendReq_key (dst tag now : Nat) (x : XReq) :
    (fun r : XReq => r.tag == tag && r.dst == dst) (resendReq dst tag now x) = (fun r : XReq => r.tag == tag && r.dst == dst) x := by
  unfold resendReq
  dsimp only
  split <;> rfl

/-- An element that a predicate finds is found after a change that keeps the predicate. -/
theorem find?_map_of_kept {α : Type} {p : α → Bool} {f : α → α} {xs : List α} {x : α} (hf : ∀ x, p (f x) = p x) (h : xs.find? p = some x) :
    (xs.map f).find? p = some (f x) := by
  rw [List.find?_map, show p ∘ f = p from funext hf, h]
  rfl

/-! Multicast. -/

theorem getF_mcastOn (l cls : Nat) (p : Pkt) (d : Dev) {k : Nat} (lo w : Nat) (h : k ≠ kCrbRouteErr) : getF (mcastOn l cls p d) k lo w = getF d k lo w := by
  unfold mcastOn
  refine forEach_inv (fun e => getF e k lo w) _ _ (fun q e => ?_) d
  split
  · obtain ⟨L, hq⟩ := queuePkt_eq q cls { p with hop := p.hop - 1 } e
    rw [hq]
    rfl
  · unfold bumpF
    rw [getF_setF_otherReg _ _ _ _ _ _ h]

theorem Apart.mcastOn (l cls : Nat) (p : Pkt) (h : Apart b d) : Apart b (mcastOn l cls p d) := by
  unfold Machine.mcastOn
  exact .forEach _ _ (fun q e he => .ite (.updLink _ _ he) (.bumpF _ _ _ _ he)) h

/-- What a multicast packet does here before the broadcasts that it completes end. -/
def mcastTaken (l cls : Nat) (p : Pkt) (d : Dev) : Dev :=
  let d := mcastOn l cls p d
  if getF d (kCrbMcast (p.dst % 256)) 0 1 == 1 then mcastHere p d else d

/-- A multicast packet. -/
def mcastStep (l cls : Nat) (p : Pkt) (d : Dev) : Dev :=
  let d := mcastTaken l cls p d
  settle (forEach (d.crb.colls.filter (fun c => c.downEnd)) (fun c d => finishMcast c.uid d) d)

theorem mcast_goes {l : Fin 25} {r : RxPkt} {rs : List RxPkt} (hrx : (linkAt s.dev l.val).rx = r :: rs) (htype : (pktOf r.bytes).type = 0x10) :
    exec (.mcast l) s = s.goes (mcastStep l.val (rxClass r) (pktOf r.bytes) (popRx l.val s.dev)) :=
  pktStep_go l.val 0x10 (fun r p d => mcastStep l.val (rxClass r) p d) s r rs hrx htype

theorem mcastTaken_eq (l cls : Nat) (p : Pkt) (d : Dev) (h : getF (mcastOn l cls p d) (kCrbMcast (p.dst % 256)) 0 1 = getF b (kCrbMcast (p.dst % 256)) 0 1) :
    mcastTaken l cls p d = if getF b (kCrbMcast (p.dst % 256)) 0 1 = 1 then mcastHere p (mcastOn l cls p d) else mcastOn l cls p d := by
  unfold mcastTaken
  dsimp only
  rw [h]
  exact ite_of_iff beq_iff_eq rfl rfl

theorem mcastHere_good {p : Pkt} {j : Job} (hj : fabricJob d p.job = some j) (hexp : exportHolds j p.addr p.len 1 = true)
    (hrange : rangeOk d (some j) p.addr p.len true = true) (hpoison : poisonPartial d p.addr p.len = none) :
    mcastHere p d = noteMcast p (devWrite p.addr p.data d) := by
  unfold mcastHere
  rw [hj]
  dsimp only
  rw [hexp, hrange, hpoison]
  rfl

theorem mcastHere_noJob {p : Pkt} (hj : fabricJob d p.job = none) : mcastHere p d = bumpF kCrbRouteErr 0 16 1 d := by
  unfold mcastHere
  rw [hj]

theorem mcastHere_noExport {p : Pkt} {j : Job} (hj : fabricJob d p.job = some j) (hexp : exportHolds j p.addr p.len 1 = false) :
    mcastHere p d = bumpF kCrbRouteErr 0 16 1 d := by
  unfold mcastHere
  rw [hj]
  dsimp only
  rw [hexp]
  exact if_neg Bool.false_ne_true

/-! Snapshots. -/

theorem length_upFrom (lo n : Nat) : (upFrom lo n).length = n := by
  induction n generalizing lo with
  | zero => rfl
  | succ n ih => exact congrArg (· + 1) (ih (lo + 1))

/-- A snapshot begins. -/
def snapBegun (p : Snap) (d : Dev) : Dev := { d with crb.snap := some p }

/-- The bytes of a capture region. -/
def captureBytes (p : Snap) (d : Dev) : List Byte := (upFrom 0 p.regionLen).map (fun i => Config.captureByte (captured d p) p.log i)

theorem endSnap_none {p : Snap} (h : d.crb.heldPkts = []) :
    endSnap p d = devWrite p.region (captureBytes p d) { d with crb.snap := none, crb.heldPkts := [] } := by
  unfold endSnap
  dsimp only
  rw [h]
  rfl

theorem length_captureBytes (p : Snap) (d : Dev) : (captureBytes p d).length = p.regionLen := by
  unfold captureBytes
  rw [List.length_map, length_upFrom]

theorem devWrite_crb (a : Nat) (bs : List Byte) (d : Dev) : (devWrite a bs d).crb = d.crb := by
  unfold devWrite
  dsimp only
  split <;> rfl

end Sys2Proof.Machine
namespace Sys2Proof.Proofs

open Sys2Proof Sys2Proof.Machine

/-- Settles O53: a request by `serve` and `giveAnswer_eq`, an answer by `onAnswer`, a snapshot by `takeReq_held` and `endSnap_none`. -/
theorem transportEffects : Obligations.TransportEffects := by
  unfold Obligations.TransportEffects
  refine ⟨?_, ?_, ?_, ?_, ?_, ?_, ?_, ?_, ?_, ?_, ?_⟩
  · intro l s r rs hrx hdst hsnap hseen p d
    obtain ⟨L, hpop, _⟩ := popRx_facts (d := s.dev) hrx
    have hd : d = { s.dev with crb.links := L } := hpop
    have hgo : ∀ i type, exec i s = pktStep l.val type (routed takeReq) s → p.type = type → exec i s = s.goes (applyReq p d) := by
      intro i type hi htype
      rw [hi, pktStep_go _ _ _ _ _ _ hrx htype, routed_here (by rw [hpop, ownId_links]; exact hdst),
        takeReq_free (by rw [hpop]; exact hsnap)]
    have hseen' : seenAnswer d p = none := by
      rw [hd, seenAnswer_links]
      exact hseen
    have hnak : nakCode d p = nakCode s.dev p := by
      rw [hd, nakCode_links]
    refine ⟨fun hgood => ⟨fun htype => ?_, fun htype => ?_, fun htype => ?_⟩, fun hbad htypes i hi hput hget hsignal => ?_⟩
    · have hexec := hgo (.put l) 1 rfl htype
      obtain ⟨g, M, keep, hgive⟩ := giveAnswer_eq p (answerPkt (putEffect p d) 8 [] p) (putEffect p d)
      rw [applyReq_good hseen' (hnak.trans hgood), serve_put htype, hgive] at hexec
      refine ⟨_, hexec, ?_, fun a ha => ?_, fun hpost => ?_, fun hpost => ?_⟩
      · have hmem : rdMem (putEffect p d) p.addr p.data.length = rdMem (devWrite p.addr p.data d) p.addr p.data.length :=
          congrArg (fun m => tgetRun 0 m p.addr p.data.length) (mem_putEffect p d)
        exact hmem.trans (rdMem_devWrite rfl _ _)
      · dsimp only [State.goes]
        rw [mem_putEffect, mem_devWrite _ ha, hd]
      · refine (semGet_putEffect hpost d).trans ?_
        rw [hd]
        rfl
      · dsimp only [State.goes]
        rw [core_putEffect hpost, hd]
    · have hexec := hgo (.get l) 2 rfl htype
      obtain ⟨n, hfree⟩ := drawFree_eq d
      obtain ⟨g, M, keep, hgive⟩ := giveAnswer_eq p (answerPkt d 0x0A (unitBytes d p.addr p.len) p) (drawFree d)
      rw [applyReq_good hseen' (hnak.trans hgood), serve_get htype, hgive] at hexec
      refine ⟨_, hexec, ?_, ?_, ?_⟩
      · dsimp only [State.goes]
        rw [hfree, hd]
      · dsimp only [State.goes]
        rw [hfree, hd]
      · dsimp only [State.goes]
        rw [List.getLast?_concat, hd, unitBytes_links]
        rfl
    · have hexec := hgo (.signal l) 3 rfl htype
      obtain ⟨g, M, keep, hgive⟩ := giveAnswer_eq p (answerPkt d 8 [] p) (semPost (postCore p) (postQ p) p.addr d)
      rw [applyReq_good hseen' (hnak.trans hgood), serve_signal htype, hgive] at hexec
      refine ⟨_, hexec, ?_, ?_, fun k hk => ?_⟩
      · dsimp only [State.goes]
        rw [semPost_mem, hd]
      · refine (semGet_semPost_same _ _ _ d).trans ?_
        rw [hd]
        rfl
      · dsimp only [State.goes]
        rw [sems_semPost_other _ _ hk, hd]
    · have hexec : exec i s = s.goes (applyReq p d) := by
        rcases List.mem_cons.mp hi with rfl | hi
        · exact hgo _ 1 rfl (hput rfl)
        rcases List.mem_cons.mp hi with rfl | hi
        · exact hgo _ 2 rfl (hget rfl)
        obtain rfl := List.mem_singleton.mp hi
        exact hgo _ 3 rfl (hsignal rfl)
      obtain ⟨g, M, keep, hgive⟩ := giveAnswer_eq p (nakOf d (nakCode d p) p) d
      rw [applyReq_bad hseen' (fun hc => hbad (hnak.symm.trans hc)), hgive, hnak] at hexec
      refine ⟨_, hexec, ?_, ?_, ?_⟩
      · dsimp only [State.goes]
        rw [hd]
      · dsimp only [State.goes]
        rw [hd]
      · dsimp only [State.goes]
        rw [List.getLast?_concat]
        rfl
  · intro l s r rs a hrx hdst hsnap hseen htype
    obtain ⟨L, hpop, _⟩ := popRx_facts (d := s.dev) hrx
    obtain ⟨g, M, hsend⟩ := sendPlain_eq (pktOf a) (popRx l.val s.dev)
    refine ⟨?_, ?_, ?_⟩
    · change pktStep l.val 1 (routed takeReq) s = _
      rw [pktStep_go _ _ _ _ _ _ hrx htype, routed_here (by rw [hpop, ownId_links]; exact hdst), takeReq_free (by rw [hpop]; exact hsnap),
        applyReq_seen (by rw [hpop, seenAnswer_links]; exact hseen)]
    · rw [hsend, hpop]
    · rw [hsend, hpop]
  · intro l s r rs n hrx hdst hsnap hjob hne ht htype
    obtain ⟨L, hpop, _⟩ := popRx_facts (d := s.dev) hrx
    have hexec : exec (.put l) s = s.goes (routed takeReq r (pktOf r.bytes) (popRx l.val s.dev)) :=
      pktStep_go l.val 1 (routed takeReq) s r rs hrx htype
    rw [routed_here (by rw [hpop, ownId_links]; exact hdst), takeReq_held (by rw [hpop]; exact hsnap) hjob hne ht, hpop] at hexec
    exact ⟨_, hexec, rfl, rfl, rfl⟩
  · intro l s r rs hrx hdst p d
    obtain ⟨L, hpop, _⟩ := popRx_facts (d := s.dev) hrx
    have hd : d = { s.dev with crb.links := L } := hpop
    have hgo : ∀ i type, exec i s = pktStep l.val type (routed onAnswer) s → p.type = type → exec i s = s.goes (onAnswer p d) := by
      intro i type hi htype
      rw [hi, pktStep_go _ _ _ _ _ _ hrx htype, routed_here (by rw [hpop, ownId_links]; exact hdst)]
    have hans : answered d p = answered s.dev p := by
      rw [hd, answered_links]
    refine ⟨fun q hq hqt htype => ?_, fun q hq htype => ?_, fun q hq hqt hlen htype => ?_, fun hnone => ⟨fun htype => ?_, fun htype => ?_, fun htype => ?_⟩⟩
    · rw [hgo (.ack l) 8 rfl htype, onAnswer_ack (hans.trans hq) htype hqt]
    · rw [hgo (.nak l) 9 rfl htype, onAnswer_nak (hans.trans hq) htype]
    · rw [hgo (.getRsp l) 0x0A rfl htype, onAnswer_getRsp (hans.trans hq) htype hqt hlen]
    · rw [hgo (.ack l) 8 rfl htype, onAnswer_none (hans.trans hnone)]
    · rw [hgo (.nak l) 9 rfl htype, onAnswer_none (hans.trans hnone)]
    · rw [hgo (.getRsp l) 0x0A rfl htype, onAnswer_none (hans.trans hnone)]
  · intro dst tag s r hfind hlate
    have hexec : exec (.xportTimeout dst tag) s = s.goes (if r.resent < getF s.dev kCrbXport 28 3 then
        sendPkt 0 (pktOf r.packet) { s.dev with crb.outstanding := s.dev.crb.outstanding.map (resendReq dst tag (nowNs s.dev)) }
       else endOne r (.failed stTimeout r.addr) s.dev) := by
      change execXportTimeout dst tag s = _
      unfold execXportTimeout
      dsimp only
      rw [hfind]
      exact whenDev_go (decide_eq_true hlate)
    refine ⟨fun hmore => ?_, fun hlast => ?_⟩
    · rw [if_pos hmore] at hexec
      obtain ⟨g, M, hsend⟩ := sendPkt_eq 0 (pktOf r.packet) { s.dev with crb.outstanding := s.dev.crb.outstanding.map (resendReq dst tag (nowNs s.dev)) }
      rw [hsend] at hexec
      have hagain : resendReq dst tag (nowNs s.dev) r = { r with sentAt := nowNs s.dev, resent := r.resent + 1 } := if_pos (List.find?_some hfind)
      refine ⟨_, hexec, rfl, rfl, _, find?_map_of_kept (resendReq_key dst tag (nowNs s.dev)) hfind, ?_, ?_⟩
      · rw [hagain]
      · rw [hagain]
    · rw [hexec, if_neg (Nat.not_lt_of_le hlast)]
  · intro code
    unfold nakStatus
    split
    · rfl
    · rfl
    · rfl
    · rename_i h2 h6 h5
      rw [if_neg (fun h => h.elim h2 h6), if_neg h5]
      rfl
  · intro l s r rs hrx htype p e d
    obtain ⟨L, hpop, _⟩ := popRx_facts (d := s.dev) hrx
    have happ : Apart s.dev e := .mcastOn _ _ _ (by rw [hpop]; exact ⟨rfl, rfl⟩)
    have hkey : getF e (kCrbMcast (p.dst % 256)) 0 1 = getF s.dev (kCrbMcast (p.dst % 256)) 0 1 := by
      refine (getF_mcastOn _ _ _ _ _ _ (by unfold kCrbMcast kCrbRouteErr; omega)).trans ?_
      rw [hpop]
      rfl
    refine ⟨?_, happ.mem, happ.core⟩
    rw [mcast_goes hrx htype]
    unfold mcastStep
    rw [mcastTaken_eq (b := s.dev) _ _ _ _ hkey]
  · intro p d hno
    rcases hno with hj | ⟨j, hj, hexp⟩
    · exact mcastHere_noJob hj
    · exact mcastHere_noExport hj hexp
  · intro p d j hj hexp hrange hpoison
    rw [mcastHere_good hj hexp hrange hpoison]
    exact rdMem_devWrite rfl _ _
  · intro tt uid rs a n s j hj hup hrun hsnap htime htrained hranges hin hlock
    have hexec : exec (.snapshotCapture tt uid rs a n) s = s.goes (snapBegun (.mk tt uid j.tag j.fabric rs a n []) s.dev) := by
      change execSnapshotCapture tt uid rs a n s = _
      unfold execSnapshotCapture
      dsimp only
      rw [hj]
      dsimp only
      have hall : rs.all (fun r => inside r.1 r.2 ddrBase (ddrSize s.dev) && s.dev.ddr.trained && !(false && lockedIn s.dev r.1 r.2)) = true :=
        List.all_eq_true.mpr fun r hr => by rw [hranges r hr, htrained]; rfl
      exact whenDev_go (by rw [hall, hup, hrun, hsnap, decide_eq_true htime, hin, htrained, hlock]; rfl)
    exact ⟨_, hexec, rfl, rfl⟩
  · intro s p hsnap hclear hheld
    have hexec : exec .snapshotCopyDone s = s.goes (endSnap p s.dev) := by
      change execSnapshotCopyDone s = _
      unfold execSnapshotCopyDone
      dsimp only
      rw [hsnap]
      exact whenDev_go (List.all_eq_true.mpr hclear)
    rw [endSnap_none hheld] at hexec
    refine ⟨_, hexec, ?_, rdMem_devWrite (length_captureBytes p s.dev) _ _, fun x hx => ?_, devWrite_core _ _ _⟩
    · exact congrArg CrbGrp.snap (devWrite_crb _ _ _)
    · exact mem_devWrite _ (by rw [length_captureBytes]; exact hx)

end Sys2Proof.Proofs
end

section
/-! SUPPORT. Receive windows, collectives and fabric resets (R337, R341 to R346, R348). -/

namespace Sys2Proof.Machine

variable {s : State} {d : Dev}

/-! The end of a transfer. -/

theorem keepStatus_crb (k st : Nat) (info : List Nat) (d : Dev) : (keepStatus k st info d).crb = d.crb := by
  unfold keepStatus
  split <;> rfl

theorem semPost_crb (c q n : Nat) (d : Dev) : (semPost c q n d).crb = d.crb := by
  unfold semPost
  dsimp only
  split <;> rfl

theorem postOpt_crb (c : Nat) (q : Option Nat) (d : Dev) : (postOpt c q d).crb = d.crb := by
  unfold postOpt
  split
  · exact semPost_crb _ _ _ d
  · rfl

theorem quireEnd_crb (k st addr : Nat) (o : QuireOp) (d : Dev) : (quireEnd k st addr o d).crb = d.crb := by
  unfold quireEnd
  dsimp only
  rw [postOpt_crb, keepStatus_crb]
  rfl

theorem quireEnd_mem (k st addr : Nat) (o : QuireOp) (d : Dev) : (quireEnd k st addr o d).mem = d.mem := by
  unfold quireEnd
  dsimp only
  rw [postOpt_mem, keepStatus_mem]
  rfl

/-! The COPY to a port. -/

/-- A COPY of core `c` that has come to its turn with the bytes of its source. -/
structure CopyReady (d : Dev) (c id : Nat) (r : ReqEnd) (o : QuireOp) (bs : List Byte) : Prop where
  found : (quireAt d c).ops.find? (fun o => o.id == id) = some o
  started : o.started = true
  page : o.page = none
  ordered : quireOrdered c (quireAt d c).ops o = true
  copy : o.blk.signal = false
  bytes : quireData d o r = some (.ok bs)
  sound : quireFault d (slotKey c o.slot) o = none
  noPost : o.blk.postEn = false

/-- How a port's COPY ends that posts nothing: with the status its effect gives. -/
def portEnd (k : Nat) (o : QuireOp) (x : Nat × Dev) : Dev :=
  if x.1 == stSuccess then quireEnd k x.1 0 o x.2 else quireEnd k x.1 o.blk.dst o x.2

theorem quirePost_none {k : Nat} {b : QuireBlk} (h : b.postEn = false) (d : Dev) : quirePost k b d = d := by
  unfold quirePost
  rw [h]
  rfl

theorem portStep_ready {core : Fin 32} {id : Nat} {r : ReqEnd} {o : QuireOp} {bs : List Byte} {isPort : QuireBlk → Bool} {mine : List Byte → Bool}
    {f : Nat → List Byte → Dev → Nat × Dev} (h : CopyReady s.dev core.val id r o bs) (hport : isPort o.blk = true) (hmine : mine bs = true) :
    portStep core id r isPort mine f s =
      s.goes (portEnd (slotKey core.val o.slot) o (f (slotKey core.val o.slot) bs s.dev)) := by
  obtain ⟨hfound, hstarted, hpage, hordered, hcopy, hbytes, hsound, hpost⟩ := h
  have hend : portCopy core.val o (f (slotKey core.val o.slot)) (.ok bs) s.dev =
      portEnd (slotKey core.val o.slot) o (f (slotKey core.val o.slot) bs s.dev) := by
    unfold portCopy
    dsimp only
    rw [hsound]
    dsimp only
    rw [quirePost_none hpost]
    rfl
  unfold portStep
  dsimp only
  rw [hfound]
  dsimp only
  rw [hbytes]
  dsimp only
  rw [hend]
  exact whenDev_go (by rw [hstarted, hpage, hordered, hcopy, hport, hmine]; rfl)

theorem portEnd_success (k : Nat) (o : QuireOp) (e : Dev) : portEnd k o (stSuccess, e) = quireEnd k stSuccess 0 o e := rfl

theorem portEnd_badAddr (k : Nat) (o : QuireOp) (e : Dev) : portEnd k o (stBadAddr, e) = quireEnd k stBadAddr o.blk.dst o e := rfl

theorem openWin_ok {k : Nat} {bs : List Byte} (h : winOpenOk d k (leWords 8 bs) = true) : openWin k bs d =
    (stSuccess, { d with crb.wins := tset none d.crb.wins (4 * k + (leWords 8 bs).getD 0 0 % 4) (some
      { lo := winBase d k + (leWords 8 bs).getD 1 0, len := (leWords 8 bs).getD 2 0,
        readable := bitAt ((leWords 8 bs).getD 3 0) 0, writable := bitAt ((leWords 8 bs).getD 3 0) 1 }) }) := by
  unfold openWin
  dsimp only
  exact if_pos h

theorem openWin_bad {k : Nat} {bs : List Byte} (h : winOpenOk d k (leWords 8 bs) = false) : openWin k bs d = (stBadAddr, d) := by
  unfold openWin
  dsimp only
  exact if_neg (by rw [h]; exact Bool.false_ne_true)

theorem closeWin_ok {k : Nat} {bs : List Byte} (hres : fld ((leWords 8 bs).getD 0 0) 2 22 = 0)
    (hzero : (((leWords 8 bs).drop 1).all (· == 0)) = true) :
    closeWin k bs d = (stSuccess, { d with crb.wins := tset none d.crb.wins (4 * k + (leWords 8 bs).getD 0 0 % 4) none }) := by
  unfold closeWin
  dsimp only
  exact if_pos (by rw [hres, hzero]; rfl)

theorem collStep_ready {core : Fin 32} {id : Nat} {r : ReqEnd} {o : QuireOp} {bs : List Byte} {mine : Nat → Bool}
    (h : CopyReady s.dev core.val id r o bs) (hport : isCollPort o.blk = true) (hmine : mine (copyOp bs) = true) :
    collStep core id r mine s =
      s.goes (quireEnd (slotKey core.val o.slot) stSuccess 0 o (requestColl (slotKey core.val o.slot) bs s.dev)) := by
  unfold collStep
  rw [portStep_ready h hport hmine, portEnd_success]

/-- An operation that Table 13-10 does not have is the barrier's to refuse. -/
theorem barrier_takes {op : Nat} (h : op = 1 ∨ op = 0 ∨ 7 < op) : (op == 1 || !within 1 7 op) = true := by
  unfold within
  rw [Bool.or_eq_true, beq_iff_eq, Bool.not_eq_true', Bool.and_eq_false_iff, decide_eq_false_iff_not, decide_eq_false_iff_not]
  omega

/-! Requests. -/

/-- A request for a group of a running job. -/
def requestOf (d : Dev) (j : Job) (c : Coll) : Dev :=
  if c.seq != (lastSeq d j.uid c.group + 1) % 2 ^ 32 then failColl c stInvalid d
  else
    match d.crb.aborted.find? (fun a => a.1 == j.uid && a.2.1 == c.group && a.2.2.1 == c.seq) with
    | some a => numberColl c a.2.2.2 d
    | none =>
      if !collAddrsOk d j c then numberColl c stBadAddr d
      else if collFull d c then failColl c stConflict d
      else if c.op == 2 && decide (c.guard_ < minGuard d) then numberColl c stInvalid d
      else if c.op == 2 && decide (c.t * 65536 < d.time.ft) then numberColl c stMissed (barrierLate c d)
      else acceptColl j c d

theorem requestColl_eq {k : Nat} {bs : List Byte} {j : Job} {g : List Byte} (hj : slotJob d k = some j)
    (hg : j.groups[fld ((leWords 16 bs).getD 0 0) 12 4]? = some g) (hok : collFieldsOk (leWords 16 bs) = true)
    (hsem : ∀ q, (collOf d k j g (leWords 16 bs)).replyQ = some q → (slotAt d k).semMask.getLsbD q = true) :
    requestColl k bs d = requestOf d j (collOf d k j g (leWords 16 bs)) := by
  unfold requestColl
  dsimp only
  rw [hj]
  dsimp only
  rw [hg]
  dsimp only
  rw [if_neg]
  · rfl
  · rw [hok]
    cases hq : (collOf d k j g (leWords 16 bs)).replyQ with
    | none => exact Bool.false_ne_true
    | some q =>
      dsimp only
      rw [hsem q hq]
      exact Bool.false_ne_true

theorem requestOf_wrongNumber {j : Job} {c : Coll} (h : c.seq ≠ (lastSeq d j.uid c.group + 1) % 2 ^ 32) :
    requestOf d j c = failColl c stInvalid d := by
  unfold requestOf
  exact if_pos (bne_iff_ne.mpr h)

/-- The next number of a group, of which no abort is known. -/
theorem requestOf_next {j : Job} {c : Coll} (h : c.seq = (lastSeq d j.uid c.group + 1) % 2 ^ 32)
    (hab : ∀ a ∈ d.crb.aborted, ¬(a.1 = j.uid ∧ a.2.1 = c.group ∧ a.2.2.1 = c.seq)) : requestOf d j c =
      if !collAddrsOk d j c then numberColl c stBadAddr d
      else if collFull d c then failColl c stConflict d
      else if c.op == 2 && decide (c.guard_ < minGuard d) then numberColl c stInvalid d
      else if c.op == 2 && decide (c.t * 65536 < d.time.ft) then numberColl c stMissed (barrierLate c d)
      else acceptColl j c d := by
  have hnone : d.crb.aborted.find? (fun a => a.1 == j.uid && a.2.1 == c.group && a.2.2.1 == c.seq) = none := by
    refine List.find?_eq_none.mpr fun a ha => ?_
    rw [Bool.and_eq_true, Bool.and_eq_true, beq_iff_eq, beq_iff_eq, beq_iff_eq, and_assoc]
    exact hab a ha
  unfold requestOf
  rw [if_neg (fun hc => bne_iff_ne.mp hc h), hnone]

/-! Messages. -/

theorem takeColl_unknown {p : Pkt} (hseen : seenAnswer d p = none) (hj : fabricJob d p.job = none) :
    takeColl p d = giveAnswer p (nakOf d 6 p) d := by
  unfold takeColl
  rw [hseen]
  dsimp only
  rw [hj]

theorem takeColl_job {p : Pkt} {j : Job} (hseen : seenAnswer d p = none) (hj : fabricJob d p.job = some j) :
    takeColl p d = settle (onColl j p (giveAnswer p (answerPkt d 8 [] p) d)) := by
  unfold takeColl
  rw [hseen]
  dsimp only
  rw [hj]

/-- A message from rank `n` of a collective that runs or waits here. -/
theorem onColl_ranked {j : Job} {p : Pkt} {c : Coll} {n : Nat} (hc : msgColl d j.uid (collHdr p.data) = some c) (hn : rankOf c.members p.src = some n) :
    onColl j p d =
      if p.type == 0x1A then finishColl c (collHdr p.data).status (collHdr p.data).first c.flags
        (spreadAbort c (collHdr p.data).status (collHdr p.data).first (some n) d)
      else if p.type == 0x19 then (if c.rank != 0 && n == collParent c.rank then applyDown c p d else d)
      else if (collChildren c).contains n then applyUp c n p d
      else d := by
  unfold onColl
  dsimp only
  rw [hc]
  dsimp only
  rw [hn]

/-! Fabric resets. -/

/-- A RESET with its reserved fields 0. -/
def resetGot (l : Nat) (b : List Byte) (d : Dev) : Dev :=
  if resetSeen d (bytesNat b 0 2) then d
  else planReset (bytesNat b 0 2) (if bytesNat b 2 1 == 1 then some (bytesNat b 8 8) else none) none
    (sendReset (bytesNat b 0 2) (if bytesNat b 2 1 == 1 then some (bytesNat b 8 8) else none) l (noteReset (bytesNat b 0 2) d))

/-- A RESET message. -/
def resetStep (l : Nat) (r : RxPkt) (p : Pkt) (d : Dev) : Dev :=
  if decide (1 < bytesNat p.data 2 1) || bytesNat p.data 3 5 != 0 then violate l 8 (nakBad 8 r.bytes d) else resetGot l p.data d

theorem reset_goes {l : Fin 25} {r : RxPkt} {rs : List RxPkt} (hrx : (linkAt s.dev l.val).rx = r :: rs) (htype : (pktOf r.bytes).type = 0x28)
    (htimed : bytesNat (pktOf r.bytes).data 2 1 ≤ 1) (hres : bytesNat (pktOf r.bytes).data 3 5 = 0) :
    exec (.reset l) s = s.goes (resetGot l.val (pktOf r.bytes).data (popRx l.val s.dev)) := by
  have hstep : exec (.reset l) s = s.goes (resetStep l.val r (pktOf r.bytes) (popRx l.val s.dev)) :=
    pktStep_go l.val 0x28 (fun r p d => resetStep l.val r p d) s r rs hrx htype
  rw [hstep]
  unfold resetStep
  rw [hres, decide_eq_false (Nat.not_lt_of_le htimed)]
  rfl

end Sys2Proof.Machine

namespace Sys2Proof.Proofs

open Sys2Proof Sys2Proof.Machine

/-- Settles O54: a COPY to a port by `portStep_ready`, a request by `requestOf`, a message by `onColl_ranked`, a RESET by `resetGot`. -/
theorem collectives : Obligations.Collectives := by
  unfold Obligations.Collectives
  refine ⟨?_, ?_, ?_, ?_, ?_, ?_, ?_⟩
  · intro c id r s o bs hfound hstarted hpage hordered hcopy hbytes hsound hpost k w
    have hready : CopyReady s.dev c.val id r o bs := ⟨hfound, hstarted, hpage, hordered, hcopy, hbytes, hsound, hpost⟩
    refine ⟨fun hport hop hok => ?_, fun hport hop hbad => ?_, fun hport hop hres hzero => ?_, fun hport => ?_⟩
    · have hexec : exec (.recvWindowOpen c id r) s = s.goes (portEnd k o (openWin k bs s.dev)) :=
        portStep_ready hready hport (bne_iff_ne.mpr hop)
      rw [openWin_ok hok, portEnd_success] at hexec
      refine ⟨_, hexec, ?_, fun j hj => ?_, quireEnd_mem _ _ _ _ _⟩
      · dsimp only [State.goes]
        rw [quireEnd_crb, tget_tset_same]
      · dsimp only [State.goes]
        rw [quireEnd_crb, tget_tset_other _ _ _ hj]
    · have hexec : exec (.recvWindowOpen c id r) s = s.goes (portEnd k o (openWin k bs s.dev)) :=
        portStep_ready hready hport (bne_iff_ne.mpr hop)
      rw [openWin_bad hbad, portEnd_badAddr] at hexec
      exact ⟨_, hexec, rfl, quireEnd_crb _ _ _ _ _⟩
    · have hexec : exec (.recvWindowClose c id r) s = s.goes (portEnd k o (closeWin k bs s.dev)) :=
        portStep_ready hready hport (beq_iff_eq.mpr hop)
      rw [closeWin_ok hres hzero, portEnd_success] at hexec
      refine ⟨_, hexec, ?_, fun j hj => ?_, quireEnd_mem _ _ _ _ _⟩
      · dsimp only [State.goes]
        rw [quireEnd_crb, tget_tset_same]
      · dsimp only [State.goes]
        rw [quireEnd_crb, tget_tset_other _ _ _ hj]
    · exact ⟨fun h => collStep_ready (mine := fun op => op == 1 || !within 1 7 op) hready hport (barrier_takes h),
        fun h => collStep_ready (mine := (· == 2)) hready hport (beq_iff_eq.mpr h),
        fun h => collStep_ready (mine := (· == 3)) hready hport (beq_iff_eq.mpr h),
        fun h => collStep_ready (mine := (· == 4)) hready hport (beq_iff_eq.mpr h),
        fun h => collStep_ready (mine := (· == 5)) hready hport (beq_iff_eq.mpr h),
        fun h => collStep_ready (mine := (· == 6)) hready hport (beq_iff_eq.mpr h),
        fun h => collStep_ready (mine := (· == 7)) hready hport (beq_iff_eq.mpr h)⟩
  · intro k bs d j g hj hg c hok hsem
    rw [requestColl_eq hj hg hok hsem]
    refine ⟨requestOf_wrongNumber, fun hseq hab => ?_⟩
    rw [requestOf_next hseq hab]
    refine ⟨fun haddr => ?_, fun haddr hfull => ?_, fun haddr hroom hop => ?_⟩
    · rw [if_pos (by rw [haddr]; rfl)]
    · rw [if_neg (by rw [haddr]; exact Bool.false_ne_true), if_pos hfull]
    · have hnot : (c.op == 2) = false := beq_eq_false_iff_ne.mpr hop
      rw [if_neg (by rw [haddr]; exact Bool.false_ne_true), if_neg (by rw [hroom]; exact Bool.false_ne_true),
        if_neg (by rw [hnot]; exact Bool.false_ne_true), if_neg (by rw [hnot]; exact Bool.false_ne_true)]
  · intro l s r rs hrx hdst p d now
    obtain ⟨L, hpop, _⟩ := popRx_facts (d := s.dev) hrx
    have hgo : ∀ i type, exec i s = pktStep l.val type (routed takeColl) s → p.type = type → exec i s = now := by
      intro i type hi htype
      rw [hi, pktStep_go _ _ _ _ _ _ hrx htype, routed_here (by rw [hpop, ownId_links]; exact hdst)]
    exact ⟨⟨hgo (.collUp l) 0x18 rfl, hgo (.collDown l) 0x19 rfl, hgo (.collAbort l) 0x1A rfl⟩, takeColl_unknown, fun j => takeColl_job⟩
  · intro j p d c n hc hn
    rw [onColl_ranked hc hn]
    refine ⟨fun htype => ?_, fun htype hrank hparent => ?_, fun htype hchild => ?_, fun htype hno => ?_⟩
    · rw [if_pos (beq_iff_eq.mpr htype)]
    · rw [if_neg (by rw [htype]; decide), if_pos (beq_iff_eq.mpr htype),
        if_pos (Bool.and_eq_true_iff.mpr ⟨bne_iff_ne.mpr hrank, beq_iff_eq.mpr hparent⟩)]
    · rw [if_neg (by rw [htype]; decide), if_neg (by rw [htype]; decide), if_pos (List.contains_iff_mem.mpr hchild)]
    · rw [if_neg (by rw [htype]; decide), if_neg (by rw [htype]; decide), if_neg (fun h => hno (List.contains_iff_mem.mp h))]
  · intro uid s c hc hwaits hlate
    have hexec : exec (.collectiveTimeout uid) s =
        s.goes (settle (if c.downEnd then finishColl c stTimeout c.rank c.flags s.dev else abortColl c stTimeout stTimeout c.rank s.dev)) := by
      change execCollectiveTimeout uid s = _
      unfold execCollectiveTimeout
      dsimp only
      rw [hc]
      exact whenDev_go (by rw [hwaits, decide_eq_true hlate]; rfl)
    refine ⟨fun h => ?_, fun h => ?_⟩
    · rw [hexec, h, if_neg Bool.false_ne_true]
    · rw [hexec, h, if_pos rfl]
  · intro uid s c hdesc hc hop hrun hdue
    have hexec : exec (.launchFire uid) s =
        s.goes (settle (if c.t + 10 ≤ nowNs s.dev then finishColl c stMissed c.rank c.flags s.dev else finishColl c stSuccess 0xFFFFFFFF c.flags s.dev)) := by
      change execLaunchFire uid s = _
      unfold execLaunchFire
      dsimp only
      rw [hdesc]
      dsimp only
      rw [hc]
      exact whenDev_go (by rw [hop, hrun, decide_eq_true hdue]; rfl)
    refine ⟨fun h => ?_, fun h => ?_⟩
    · rw [hexec, if_neg (Nat.not_le_of_lt h)]
    · rw [hexec, if_pos h]
  · intro l s r rs hrx htype b d htimed hres
    have htime : (if bytesNat b 2 1 == 1 then some (bytesNat b 8 8) else none) = if bytesNat b 2 1 = 1 then some (bytesNat b 8 8) else none :=
      ite_of_iff beq_iff_eq rfl rfl
    rw [reset_goes hrx htype htimed hres]
    unfold resetGot
    rw [htime]
    refine ⟨fun hseen => ?_, fun hseen => ?_⟩
    · rw [if_pos hseen]
    · rw [if_neg (by rw [hseen]; exact Bool.false_ne_true)]

end Sys2Proof.Proofs
end

section
/-! SUPPORT. Completion entries and events (R366, R376, R377, R379, R381, R465). -/

namespace Sys2Proof.Machine

variable {d : Dev}

/-- The phase goes into bit 0 of a word 0, which is even. -/
theorem putFld_phase {w ph : Nat} (heven : w % 2 = 0) (hph : ph < 2) : putFld w 0 1 ph = w + ph := by
  unfold putFld fld
  omega

theorem cplWord0_even (c : Cpl) : cplWord0 c % 2 = 0 := by
  unfold cplWord0
  omega

/-! A completion. -/

theorem postCpl_stopped {fn r : Nat} {c : Cpl} (h : ringRunning d fn r = false) : postCpl fn r c d = d := by
  unfold postCpl
  exact if_pos (by rw [h]; rfl)

theorem postCpl_full {fn r : Nat} {c : Cpl} (hrun : ringRunning d fn r = true) (hfull : cqFull d fn r = true) :
    postCpl fn r c d = updRing fn r (fun rs => { rs with held := rs.held ++ [c] }) (noteCqWait fn r d) := by
  unfold postCpl
  rw [if_neg (by rw [hrun]; exact Bool.false_ne_true)]
  dsimp only
  rw [if_pos (by rw [hfull, Bool.or_true]), if_pos hfull]

theorem postCpl_room {fn r : Nat} {c : Cpl} (hrun : ringRunning d fn r = true) (hroom : cqFull d fn r = false)
    (hpage : (ringAt d fn r).pageWait = false) (hheld : (ringAt d fn r).held = []) : postCpl fn r c d = writeCpl fn r c d := by
  unfold postCpl
  rw [if_neg (by rw [hrun]; exact Bool.false_ne_true)]
  dsimp only
  exact if_neg (by rw [hroom, hpage, hheld]; exact Bool.false_ne_true)

/-! An event. -/

/-- An event is noted before its entry. -/
def evtNoted (code : Nat) (d : Dev) : Dev := bumpF (kEvtCount code) 0 16 1 (setF kEvtPending code 1 1 d)

theorem evtNoted_out (code : Nat) (d : Dev) : (evtNoted code d).out = d.out := rfl

theorem ringAt_evtNoted (code : Nat) (d : Dev) (fn r : Nat) : ringAt (evtNoted code d) fn r = ringAt d fn r := rfl

theorem regVal_evtNoted {code k : Nat} (d : Dev) (hp : k ≠ kEvtPending) (hc : k ≠ kEvtCount code) : regVal (evtNoted code d) k = regVal d k := by
  unfold evtNoted bumpF
  rw [regVal_setF_other _ _ _ _ hc, regVal_setF_other _ _ _ _ hp]

theorem getF_evtNoted {code k : Nat} (d : Dev) (lo w : Nat) (hp : k ≠ kEvtPending) (hc : k ≠ kEvtCount code) :
    getF (evtNoted code d) k lo w = getF d k lo w := congrArg (fld · lo w) (regVal_evtNoted d hp hc)

/-- A register below the event block. -/
theorem regVal_evtNoted_low {code k : Nat} (d : Dev) (h : k < 0x70000) : regVal (evtNoted code d) k = regVal d k :=
  regVal_evtNoted d (by unfold kEvtPending; omega) (by unfold kEvtCount; omega)

theorem getF_evtNoted_low {code k : Nat} (d : Dev) (lo w : Nat) (h : k < 0x70000) : getF (evtNoted code d) k lo w = getF d k lo w :=
  congrArg (fld · lo w) (regVal_evtNoted_low d h)

theorem kRing_event_low {o : Nat} (h : o < 0x40) : kRing 0 8 o < 0x70000 := by
  have hbase : kRing 0 8 0 < 0x60000 := by decide
  have hadd : kRing 0 8 o = kRing 0 8 0 + o := rfl
  omega

theorem getF_evtNoted_ring {code o : Nat} (d : Dev) (lo w : Nat) (h : o < 0x40) : getF (evtNoted code d) (kRing 0 8 o) lo w = getF d (kRing 0 8 o) lo w :=
  getF_evtNoted_low d lo w (kRing_event_low h)

/-- What the entry of an event is written from. -/
structure SameEventRing (b d : Dev) : Prop where
  running : ringRunning d 0 8 = ringRunning b 0 8
  full : cqFull d 0 8 = cqFull b 0 8
  tail : cqTail d 0 8 = cqTail b 0 8
  base : cqBase d 0 8 = cqBase b 0 8

theorem sameEventRing_evtNoted (code : Nat) (d : Dev) : SameEventRing d (evtNoted code d) := by
  have htail : cqTail (evtNoted code d) 0 8 = cqTail d 0 8 := getF_evtNoted_ring d 0 16 (by decide)
  refine ⟨?_, ?_, htail, ?_⟩
  · unfold ringRunning
    rw [getF_evtNoted_ring d _ _ (by decide)]
  · unfold cqFull cqDepth
    rw [htail, getF_evtNoted_ring d _ _ (by decide), ringAt_evtNoted]
  · unfold cqBase
    rw [regVal_evtNoted_low d (kRing_event_low (by decide)), regVal_evtNoted_low d (kRing_event_low (by decide))]

/-- The entry of an event. -/
def evtEntry (code kind index : Nat) (p : List Nat) (d : Dev) : Dev :=
  writeEntry 0 8 (code * 2 ^ 24 + kind * 2 ^ 20 + index * 256) ([nowNs d % 2 ^ 32, nowNs d / 2 ^ 32 % 2 ^ 32] ++ (p ++ [0, 0, 0, 0, 0]).take 5) false d

theorem raiseEvent_eq (code kind index : Nat) (p : List Nat) (d : Dev) : raiseEvent code kind index p d =
    if getF (evtNoted code d) kEvtMask code 1 == 0 then evtNoted code d
    else if !ringRunning (evtNoted code d) 0 8 || cqFull (evtNoted code d) 0 8 || (ringAt (evtNoted code d) 0 8).pageWait then
      bumpF kEvtLost 0 32 1 (evtNoted code d)
    else evtEntry code kind index p (evtNoted code d) := rfl

theorem getF_evtMask (code : Nat) (d : Dev) : getF (evtNoted code d) kEvtMask code 1 = getF d kEvtMask code 1 :=
  getF_evtNoted d _ _ (by decide) (by unfold kEvtMask kEvtCount; omega)

theorem raiseEvent_masked {code : Nat} (kind index : Nat) (p : List Nat) (h : getF d kEvtMask code 1 = 0) :
    raiseEvent code kind index p d = evtNoted code d := by
  rw [raiseEvent_eq, getF_evtMask]
  exact if_pos (beq_iff_eq.mpr h)

theorem raiseEvent_lost {code : Nat} (kind index : Nat) (p : List Nat) (h : getF d kEvtMask code 1 = 1)
    (hno : ringRunning d 0 8 = false ∨ cqFull d 0 8 = true) : raiseEvent code kind index p d = bumpF kEvtLost 0 32 1 (evtNoted code d) := by
  obtain ⟨hrun, hfull, _, _⟩ := sameEventRing_evtNoted code d
  rw [raiseEvent_eq, getF_evtMask, h, hrun, hfull, if_neg (by decide), if_pos]
  rcases hno with hno | hno
  · rw [hno]
    rfl
  · rw [hno, Bool.or_true, Bool.true_or]

theorem raiseEvent_entry {code : Nat} (kind index : Nat) (p : List Nat) (h : getF d kEvtMask code 1 = 1)
    (hup : ringRunning d 0 8 = true) (hroom : cqFull d 0 8 = false) (hpage : (ringAt d 0 8).pageWait = false) :
    raiseEvent code kind index p d = evtEntry code kind index p (evtNoted code d) := by
  obtain ⟨hrun, hfull, _, _⟩ := sameEventRing_evtNoted code d
  rw [raiseEvent_eq, getF_evtMask, h, hrun, hfull, ringAt_evtNoted, hup, hroom, hpage, if_neg (by decide), if_neg (by decide)]

/-- The count of an event. -/
theorem getF_raiseEvent_count (code kind index : Nat) (p : List Nat) (d : Dev) :
    getF (raiseEvent code kind index p d) (kEvtCount code) 0 16 = min 65535 (getF d (kEvtCount code) 0 16 + 1) := by
  have hnoted : getF (evtNoted code d) (kEvtCount code) 0 16 = min 65535 (getF d (kEvtCount code) 0 16 + 1) := by
    unfold evtNoted
    rw [getF_bumpF_same _ _ _ _ _ (by omega), getF_setF_otherReg _ _ _ _ _ _ (by unfold kEvtCount kEvtPending; omega)] <;> rfl
  have hring : ∀ o, o < 0x40 → kEvtCount code ≠ kRing 0 8 o := fun o ho => by
    have h := kRing_event_low ho
    unfold kEvtCount
    omega
  rw [raiseEvent_eq]
  split
  · exact hnoted
  · split
    · unfold bumpF
      rw [getF_setF_otherReg _ _ _ _ _ _ (by unfold kEvtCount kEvtLost; omega), hnoted]
    · unfold evtEntry
      rw [getF_writeEntry _ _ _ _ _ _ _ _ _ (hring _ (by decide)) (hring _ (by decide)), hnoted]

theorem getF_lt (d : Dev) (k lo w : Nat) : getF d k lo w < 2 ^ w := fld_lt _ _ _

end Sys2Proof.Machine

namespace Sys2Proof.Proofs

open Sys2Proof Sys2Proof.Machine

/-- Settles O60: an entry by `entered_writeEntry`, an event by the cases of `raiseEvent_eq`. -/
theorem completionEntries : Obligations.CompletionEntries := by
  unfold Obligations.CompletionEntries
  refine ⟨?_, ?_⟩
  · intro d fn r c
    refine ⟨postCpl_stopped, fun hrun hfull hpage => ?_, fun hrun hroom hpage hheld hdepth => ?_⟩
    · have h18 : kRing fn r 0x18 ≠ kRing fn r 0x1C := kRing_ne _ _ _ _ (by decide)
      have h18' : kRing fn r 0x18 ≠ kRing fn r 0x20 := kRing_ne _ _ _ _ (by decide)
      have h1C : kRing fn r 0x1C ≠ kRing fn r 0x20 := kRing_ne _ _ _ _ (by decide)
      rw [postCpl_full hrun hfull]
      refine ⟨?_, ?_, ?_, ?_, ?_⟩
      · rw [out_updRing]
        unfold noteCqWait
        rw [out_bumpF, out_setF]
      · unfold noteCqWait
        exact ((hostOnly_setF _ _ _ _ d).trans (hostOnly_bumpF _ _ _ _ _)).trans (hostOnly_updRing _ _ _ _)
      · rw [ringAt_updRing_same]
        unfold noteCqWait
        rw [ringAt_bumpF, ringAt_setF]
      · rw [getF_updRing]
        unfold noteCqWait bumpF
        rw [getF_setF_otherReg _ _ _ _ _ _ h1C, getF_setF_same _ _ _ _ _ (by omega)] <;> rfl
      · unfold cqTail
        rw [getF_updRing]
        unfold noteCqWait bumpF
        rw [getF_setF_otherReg _ _ _ _ _ _ h18', getF_setF_otherReg _ _ _ _ _ _ h18]
    · rw [postCpl_room hrun hroom hpage hheld]
      unfold writeCpl
      obtain ⟨hout, hpend, htail, hhead, hphase, hheld', honly, hregs⟩ := entered_writeEntry fn r (cplWord0 c)
        [sqHead d fn r * 65536 + c.sqId % 65536, c.ident % 65536, c.w3, c.w4, c.w5, c.w6, c.w7] c.irq d
      have hph : getF d (kRing fn r 0x1C) 29 1 < 2 := getF_lt _ _ _ _
      have hsmall : (cqTail d fn r + 1) % cqDepth d fn r < 2 ^ 16 :=
        Nat.lt_of_lt_of_le (Nat.mod_lt _ (Nat.two_pow_pos _)) (Nat.pow_le_pow_right (by decide) hdepth)
      rw [putFld_phase (cplWord0_even c) hph] at hout
      refine ⟨hout, hpend, htail.trans (Nat.mod_eq_of_lt hsmall), hhead, ?_, hheld'.trans hheld, honly, hregs⟩
      rw [hphase]
      unfold cqDepth
      split
      · exact Nat.mod_eq_of_lt (by omega)
      · rfl
  · intro d code kind index p hlo hhi e
    refine ⟨getF_raiseEvent_pending _ _ _ _ _ (by omega), getF_raiseEvent_count _ _ _ _ _, hostOnly_raiseEvent _ _ _ _ _,
      fun hmask => ?_, fun hmask hno => ?_, fun hmask hup hroom hpage => ?_⟩
    · have he : e = evtNoted code d := raiseEvent_masked kind index p hmask
      rw [he]
      exact ⟨evtNoted_out code d, getF_evtNoted_low d _ _ (by decide)⟩
    · have he : e = bumpF kEvtLost 0 32 1 (evtNoted code d) := raiseEvent_lost kind index p hmask hno
      rw [he, getF_bumpF_same _ _ _ _ _ (by omega), getF_evtNoted_low d _ _ (by decide), out_bumpF]
      exact ⟨evtNoted_out code d, rfl⟩
    · have he : e = evtEntry code kind index p (evtNoted code d) := raiseEvent_entry kind index p hmask hup hroom hpage
      obtain ⟨_, _, htail, hbase⟩ := sameEventRing_evtNoted code d
      obtain ⟨hout, _, _, _, _, _, _, hregs⟩ := entered_writeEntry 0 8 (code * 2 ^ 24 + kind * 2 ^ 20 + index * 256)
        ([nowNs (evtNoted code d) % 2 ^ 32, nowNs (evtNoted code d) / 2 ^ 32 % 2 ^ 32] ++ (p ++ [0, 0, 0, 0, 0]).take 5) false (evtNoted code d)
      have hph : getF (evtNoted code d) (kRing 0 8 0x1C) 29 1 < 2 := getF_lt _ _ _ _
      rw [putFld_phase (by omega) hph, htail, hbase, evtNoted_out, getF_evtNoted_ring d _ _ (by decide), getF_evtNoted_ring d 16 11 (by decide)] at hout
      rw [he]
      refine ⟨_, hout, ?_, ?_⟩
      · split
        · exact .inr rfl
        · exact .inl rfl
      · exact (hregs _ _ _ (by decide) (by decide)).trans (getF_evtNoted_low d _ _ (by decide))

end Sys2Proof.Proofs
end

section
/-! SUPPORT. The state right after cold reset: every register at its reset value. -/

namespace Sys2Proof.Machine

/-- Where the register of a ring lies. -/
theorem regSpec_kRing {fn r o : Nat} (hfn : fn < 4) (hr : r < ringCount fn) (ho : o < 0x40) :
    regSpec (kRing fn r o) = ringSpec (fn == 0 && r == 8) o := by
  unfold ringCount at hr
  by_cases h0 : fn = 0
  · subst h0
    rw [if_pos (beq_self_eq_true 0)] at hr
    have hkey : kRing 0 r o = 0x21000 + 0x40 * r + o := rfl
    have hblock : kRing 0 r o / 0x100000 = 0 ∧ kRing 0 r o % 0x100000 / 0x10000 = 2 := by omega
    have hoff : kRing 0 r o % 0x100000 % 0x10000 = 0x1000 + 0x40 * r + o := by omega
    have hring : (0x1000 + 0x40 * r + o - 0x1000) / 0x40 = r ∧ (0x1000 + 0x40 * r + o - 0x1000) % 0x40 = o := by omega
    have hhif : hifSpec (0x1000 + 0x40 * r + o) = ringSpec (r == 8) o := by
      unfold hifSpec
      split
      · omega
      · omega
      · omega
      · rw [hring.1, hring.2, decide_eq_true (by omega), decide_eq_true (by omega)]
        rfl
    unfold regSpec regSpecAt
    rw [hblock.1]
    dsimp only
    rw [if_pos (beq_self_eq_true 0), hblock.2, hoff]
    exact hhif
  · have hr' : r < 1024 := by
      rw [if_neg (by rw [beq_iff_eq]; exact h0)] at hr
      split at hr <;> omega
    have hkey : kRing fn r o = fn * 0x100000 + 0x1000 + 0x40 * r + o := by
      unfold kRing ringBase regKey
      rw [if_neg (by rw [beq_iff_eq]; exact h0)]
    have hfn' : kRing fn r o / 0x100000 = fn := by omega
    have hoff : kRing fn r o % 0x100000 = 0x1000 + 0x40 * r + o := by omega
    have hring : (0x1000 + 0x40 * r + o - 0x1000) % 0x40 = o := by omega
    have hcount : r < ringCount fn := hr
    have hne : (fn == 0) = false := beq_eq_false_iff_ne.mpr h0
    unfold regSpec regSpecAt
    rw [hfn', hoff, hne, if_neg Bool.false_ne_true, if_neg (by rw [beq_iff_eq]; omega), hring,
      if_pos (by rw [decide_eq_true (by omega), decide_eq_true (by omega)]; rfl)]
    rfl

theorem regVal_reset (k : Nat) : regVal State.reset.dev k = regReset k := rfl

/-- A register of a ring after cold reset. -/
theorem regVal_reset_kRing {fn r o : Nat} (hfn : fn < 4) (hr : r < ringCount fn) (ho : o < 0x40) :
    regVal State.reset.dev (kRing fn r o) = ((ringSpec (fn == 0 && r == 8) o).map (·.reset)).getD 0 := by
  rw [regVal_reset]
  unfold regReset
  rw [regSpec_kRing hfn hr ho]

end Sys2Proof.Machine

namespace Sys2Proof.Proofs

open Sys2Proof Sys2Proof.Machine

/-- Settles O57: the tables by evaluation, the rings by where their registers lie. -/
theorem resetState : Obligations.ResetState := by
  unfold Obligations.ResetState
  refine ⟨rfl, ?_, ?_, fun fn hfn r hr => ?_, rfl, fun k => rfl, fun core q => rfl⟩
  · decide
  · decide
  · have hstate : regVal State.reset.dev (kRing fn r 0x1C) = 0x20000000 := regVal_reset_kRing hfn hr (by decide)
    refine ⟨?_, regVal_reset_kRing hfn hr (by decide), regVal_reset_kRing hfn hr (by decide), hstate, regVal_reset_kRing hfn hr (by decide), ?_⟩
    · rw [regVal_reset_kRing hfn hr (by decide)]
      change (if (fn == 0 && r == 8) = true then 0x400 else 0x404) = _
      exact ite_of_iff (by rw [Bool.and_eq_true, beq_iff_eq, beq_iff_eq]) rfl rfl
    · unfold ringRunning getF
      rw [hstate, Bool.and_eq_false_iff]
      exact .inr rfl

end Sys2Proof.Proofs
end
